-- ==== Sys2Proof/Word.lean ====
section
/-! DEFINITION. The words of Harkom: register words, lines of package memory, FP32 patterns. -/

namespace Sys2Proof

/-- A 32-bit register word (R10). -/
abbrev Word := BitVec 32

/-- A line of 128 bytes of package memory; byte `i` is bits `[8i+7:8i]` (R6, R175). -/
abbrev Line := BitVec 1024

/-- The bit pattern of an IEEE 754 binary32 value (R157). -/
abbrev F32 := BitVec 32

end Sys2Proof
end

