-- ==== Sys2Proof/Syntax.lean ====
section
/-! DEFINITION. The commands of Harkom: one constructor per row of spec/opcode_table.json.
Operands: `f` face, `m` module, `p` partition, `q` submission ring, `r` ring (0-15 submission, 16-31 completion,
32 fault, 33 event, as arg0 of RING_ERROR, R131), `b` bench, `o` order number of the model, `t` tile or tag,
`e` stack-map entry. A loop is 0 core, 1 control, 2 Kettle; a domain has the code of R376; a crystal is XB where true. -/

namespace Sys2Proof

inductive Instr where
  | pwrGoodHigh
  | pwrGoodLow
  | xaOscillation
  | xaWindow (count : Nat)
  | xaEdgeTimeout
  | xaFailTimeout
  | xtalStableCount (xb : Bool)
  | xtalAmplitudeLost (xb : Bool)
  | loopLock (loop : Nat)
  | switchForced (domain : Nat)
  | kettleTick
  | sensorSample (temps : List Int) (rails : List (Nat × Nat))
  | thermalClear
  | wearRecord (readings : List (List Nat))
  | migrateDecision (p map shard : Nat)
  | migrateCopyDone
  | migrateSwitch
  | migrateRelease
  | benchPowerGate (b : Nat)
  | benchPowerUpDone (b : Nat)
  | selftestStart
  | selftestDone (code row : Nat)
  | selftestAbort (b : Nat)
  | spareRemap (store b row : Nat)
  | benchSuspect (b cause : Nat)
  | drainDone
  | blueTimeout
  | dieResetError (code : Nat)
  | dieReset
  | contextEccError (p session : Nat)
  | attnPress
  | attnHold3s
  | attnHold10s (beganInDrain : Bool)
  | statusDisplayEnd
  | cablePresent
  | cableRemoved
  | yelirChar (c : Nat)
  | yelirBreak
  | yId
  | yPeek (addr words : Nat)
  | yPoke (addr value : Nat)
  | yCupboard (arg : Option (Nat × Nat))
  | yWear
  | yTemps
  | yClocks
  | yEvents (n : Option Nat)
  | yCutlist
  | ySelftest (b : Option Nat)
  | yDrainStatus
  | yDrainStart
  | yDrainCancel
  | yDrainReset
  | monUnlockExpire
  | flit (f m : Nat) (bytes : BitVec 2048)
  | linkDown (f m : Nat)
  | trainingDone (f m lowerIn upperIn farHalf lowerOut upperOut : Nat) (fast : Bool)
  | faceLostTimeout (f : Nat)
  | regRd (f m p offset tag : Nat)
  | regWr (f m p offset seq : Nat) (value : Word)
  | dataMsg (f m tag index status : Nat) (line : Line)
  | wack (f m tag status : Nat)
  | throttle (f m fraction addr : Nat)
  | credit (f m c0 c1 c2 c3 : Nat)
  | snp (f m addr tag : Nat)
  | ndata (f m tag status value : Nat)
  | nwack (f m tag status : Nat)
  | boundaryScan (op : Nat) (value : Nat)
  | registerWrite (f p offset : Nat) (value : Word)
  | latchedLoRead (f p offset : Nat)
  | txnBegin (p : Nat)
  | stage (p : Nat)
  | stageDone
  | commit (p : Nat)
  | validationDone
  | switchDone
  | epochRetire
  | rollback (p : Nat)
  | txnExpired
  | partDb (p q : Nat) (value : Word)
  | ringEnable (p r : Nat) (value : Word)
  | ringDisable (p r : Nat)
  | partCqHead (p r head : Nat)
  | irqHoldoff (p r : Nat)
  | partReset (p : Nat)
  | partResetDone (p : Nat)
  | chestInvalidate (p : Nat)
  | invalidateDone (p : Nat)
  | chestEnable (p : Nat)
  | chestDisable (p : Nat)
  | partInvalTag (p t : Nat)
  | partTagRootLo (p t : Nat) (value : Word)
  | invalDone (p : Nat)
  | faultResume (p id : Nat)
  | faultAbort (p id : Nat)
  | migPoolEnable (p : Nat) (value : Word)
  | partMigAccept (p map shard : Nat)
  | dieResetRequest
  | benchReset (mask : Nat)
  | benchResetDone (b : Nat)
  | retrain (f mask : Nat)
  | svcDrainCancel
  | svcDrainAck
  | monUnlock (value : Word)
  | monUart (rate : Nat)
  | orderFetch (p q : Nat)
  | orderProceed (o : Nat)
  | gatherPool (o t : Nat)
  | recallRows (o b : Nat)
  | score (o b : Nat)
  | scatterMerge (o t : Nat)
  | appendRows (o t : Nat)
  | prefetch (o t : Nat)
  | advise (o : Nat)
  | copyRows (o t : Nat)
  | park (o : Nat)
  | wake (o : Nat)
  | fence (o : Nat)
  | readStats (o : Nat)
  | tablePause (o : Nat)
  | tableResume (o : Nat)
  | accLoad (o : Nat)
  | accStore (o : Nat)
  | tileDeliver (o t : Nat)
  | tileConsumed (o t : Nat)
  | faultRecordWrite (o : Nat)
  | streamQuiesce (o : Nat)
  | mergePoint (o : Nat)
  | wcFlush (b : Nat)
  | sessionSteeping (p session : Nat)
  | sessionParked (p session : Nat)
  | sliceExpire (p : Nat)
  | hintIdle (p session : Nat)
  | orderComplete (o : Nat)
  | readLimiterInterval (e : Nat)
  | loopLockLost (loop : Nat)
  deriving DecidableEq, Repr

end Sys2Proof
end

