-- ==== Sys2Proof/Config.lean ====
section
/-! DEFINITION. What the spec leaves open: free values, with no body, so that no proof can see them. -/

namespace Sys2Proof

/-- What the exponent unit answers for an input pattern, before the bound of R182 is applied
(`Machine.expUnit` keeps the stated bound; log 9). DESIGN CHOICE: the spec leaves the value open within it. -/
opaque Config.expRaw : F32 → F32

/-- What PART_SCALE_LAST_KEY reads after an order, by its number, whose outputs take no scale table entry (R232 names none).
DESIGN CHOICE: a free value (log 22). -/
opaque Config.noScaleKey : Nat → Nat

/-- The arguments of Kettle log entries whose code the spec lists without arguments, by code, argument and powered second:
thermal trips and forced die resets (R410). DESIGN CHOICE: a free value (log 23). -/
opaque Config.klogArg : Nat → Nat → Nat → Nat

/-- W of a record that R400 asks for and the store does not hold: with 168k records exactly there is none 168k hours
before the newest. DESIGN CHOICE: a free value (log 24). -/
opaque Config.missingWear : Nat → Nat

/-- A word of an accumulator slot that an order names and nothing of its shape was put into, by order, slot and place (R122, R197).
DESIGN CHOICE: a free value (log 51). -/
opaque Config.accWord : Nat → Nat → Nat → Nat

/-- The level of a service signal that the spec does not fix at a moment (a lamp that blinks, the serial line), by the model's number of
the moment and the signal. DESIGN CHOICE: a free value (log 13). -/
opaque Config.level : Nat → Nat → Bool

/-- Whether ATTN is pressed at a tick of the Kettle, by the tick's number (R394). DESIGN CHOICE: a free value (log 32). -/
opaque Config.attnPin : Nat → Bool

/-- An error that strikes an on-die store (R326), named by the place it strikes: numbers of benches, orders, partitions and sessions,
and places in their lists. -/
inductive Strike where
  | corrected (row : Option (Nat × Nat))   -- a single-bit error of a SECDED structure; the store, as SPARE_REMAP numbers it, and the
                                           -- bench whose memory row yields it (R333), none where it lies in no such store
  | mergeCorrected (bench : Nat)           -- one of a merge buffer
  | chest (bench i : Nat)                  -- a parity error of a line
  | saucer (bench i : Nat)
  | input (i : Nat)                        -- tile buffers: input data held for a tile
  | output (write : Nat)                   -- tile buffers: output data that awaits its write
  | resident (bench i row : Nat)           -- operand memory
  | query (order bench : Nat)              -- operand memory: the stationary block of an order
  | scoreTile (order bench tile : Nat)     -- accumulator store, uncorrectable
  | selTile (order bench i : Nat)
  | keptTile (part session slot : Nat)
  | fragment (order bench lane row : Nat)  -- merge buffer, uncorrectable
  | sent (order bench key : Nat)           -- a partial on the die interconnect: its bench, and its bag or row
  | shadow (order : Nat)                   -- a descriptor shadow, uncorrectable
  | outEntry (part i : Nat)                -- an entry of the output log
  | sample (i : Nat)                       -- an entry of the hot-row sampler
  | region                                 -- a block of the configuration region
  deriving DecidableEq, Repr

/-- The errors that strike at a core-clock edge, by the model's number of the edge, each with the memory row of its store that yields it
(R333). DESIGN CHOICE: a free value; when and where errors strike the spec does not say (log 44). -/
opaque Config.strikes : Nat → List (Strike × Nat)

end Sys2Proof
end

