-- ==== Sys2Proof/Machine/Bits.lean ====
section
/-! DEFINITION. Bit fields, little-endian fields (R5, R6) and the CRC-32C of R37. -/

namespace Sys2Proof.Machine

/-- Bits `[hi:lo]` of a word (R5). -/
def fld (w hi lo : Nat) : Nat := (w >>> lo) % 2 ^ (hi + 1 - lo)

/-- Bit `i` of a word. -/
def bitOf (w i : Nat) : Bool := w.testBit i

/-- A flag as a bit of a word. -/
def b2n (b : Bool) : Nat := if b then 1 else 0

/-- The little-endian field of `n` bytes at byte `off` of a byte string held as a number (R6). -/
def leAt (v off n : Nat) : Nat := (v >>> (8 * off)) % 2 ^ (8 * n)

/-- Bytes `0` to `n - 1` of a byte string, first byte first. -/
def bytesOf (v : Nat) : Nat → List Nat
  | 0 => []
  | n + 1 => v % 256 :: bytesOf (v / 256) n

/-- A byte string from its bytes, first byte first. -/
def ofBytes : List Nat → Nat
  | [] => 0
  | b :: bs => b % 256 + 256 * ofBytes bs

/-- A byte string read most significant byte first (R56). -/
def beAt (v off n : Nat) : Nat := (bytesOf (v >>> (8 * off)) n).foldl (fun a b => a * 256 + b) 0

/-- Round-up division. -/
def ceilDiv (a b : Nat) : Nat := (a + b - 1) / b

/-- The least multiple of `b` not below `a`. -/
def roundUp (a b : Nat) : Nat := ceilDiv a b * b

/-- The numbers of the set bits among the low 16, ascending. -/
def setBits (m : Nat) : List Nat := (List.range 16).filter (fun i => m.testBit i)

/-- The number of set bits among the low 16. -/
def popcount (m : Nat) : Nat := (setBits m).length

/-- The `i`-th set bit counted from bit 0 (R53). -/
def nthSet (m i : Nat) : Nat := (setBits m).getD i 0

/-- The number of set bits of `m` below bit `b` (R53). -/
def rankOf (m b : Nat) : Nat := ((setBits m).filter (fun i => i < b)).length

/-- `a + b`, saturating at `mx`. -/
def satAdd (a b mx : Nat) : Nat := min mx (a + b)

/-- Element `i` of a list changed by `f`; a list without that element is unchanged. -/
def modAt {α : Type} (l : List α) (i : Nat) (f : α → α) : List α := l.modify i f

/-- The two's complement reading of the low `n` bits. -/
def signedOf (n v : Nat) : Int := if v % 2 ^ n ≥ 2 ^ (n - 1) then (v % 2 ^ n : Nat) - (2 ^ n : Nat) else (v % 2 ^ n : Nat)

/-- The low `n` bits of an integer in two's complement. -/
def toTwos (n : Nat) (v : Int) : Nat := (v % (2 ^ n : Nat)).toNat

/-- Put an element before the first of a list that it may stand before. -/
def insertBy {α : Type} (le : α → α → Bool) (x : α) : List α → List α
  | [] => [x]
  | y :: ys => if le x y then x :: y :: ys else y :: insertBy le x ys

/-- A list in order, equal elements as they stood. -/
def sortBy {α : Type} (le : α → α → Bool) : List α → List α
  | [] => []
  | x :: xs => insertBy le x (sortBy le xs)

/-- Numbers in ascending order. -/
def sortNat (l : List Nat) : List Nat := sortBy (fun a b => decide (a ≤ b)) l

def crcBits : Nat → Nat → Nat
  | 0, c => c
  | k + 1, c => crcBits k (if c % 2 = 1 then (c >>> 1) ^^^ 0x82F63B78 else c >>> 1)

def crcBytes : Nat → Nat → Nat → Nat
  | 0, _, c => c
  | n + 1, v, c => crcBytes n (v / 256) (crcBits 8 (c ^^^ (v % 256)))

/-- The CRC-32C of bytes `0` to `n - 1` of `v`: polynomial 0x1EDC_6F41 reflected, initial value and
final exclusive-or 0xFFFF_FFFF (R37). -/
def crc32c (v n : Nat) : Nat := crcBytes n v 0xFFFFFFFF ^^^ 0xFFFFFFFF

/-- The witness mark of a payload of `n` bytes under a 4-byte identifier (R160, R183). -/
def rowWitness (payload n tableId : Nat) : Nat :=
  crc32c (payload % 2 ^ (8 * n) + (tableId % 2 ^ 32) <<< (8 * n)) (n + 4)

/-- An engine address's tag, bits [63:56] (R291). -/
def eaTag (a : Nat) : Nat := fld a 63 56
/-- An engine address's virtual address, bits [47:0] (R291). -/
def eaVa (a : Nat) : Nat := a % 2 ^ 48
/-- Bits [55:48] of an engine address must be 0 (R291, R293). -/
def eaOk (a : Nat) : Bool := fld a 55 48 = 0
/-- An engine address moved by an offset, its tag unchanged (R138, R155). -/
def eaAdd (a off : Nat) : Nat := (fld a 63 48) <<< 48 + (eaVa a + off)

end Sys2Proof.Machine
end

