-- ==== Sys2Proof/Machine/Fp.lean ====
section
/-! DEFINITION. Element formats, FP32 arithmetic rounded to nearest with ties to even, narrow
conversions and the exponent unit (R157, R182, R217 to R224). -/

namespace Sys2Proof.Machine

/-- A decoded floating value: `fin s m e` is `m * 2^e` with sign `s`. -/
inductive FV where
  | nan
  | inf (s : Bool)
  | fin (s : Bool) (m : Nat) (e : Int)
  deriving DecidableEq, Repr

/-- The quiet NaN of R219. -/
def qnan : F32 := 0x7FC00000
def f32zero : F32 := 0
def f32one : F32 := 0x3F800000
def f32pinf : F32 := 0x7F800000
def f32ninf : F32 := 0xFF800000

/-- A value of `eb` exponent and `mb` fraction bits with IEEE special values. -/
def decodeIeee (eb mb v : Nat) : FV :=
  let s := v.testBit (eb + mb)
  let x := (v >>> mb) % 2 ^ eb
  let f := v % 2 ^ mb
  let bias : Int := 2 ^ (eb - 1) - 1
  if x = 2 ^ eb - 1 then (if f = 0 then .inf s else .nan)
  else if x = 0 then .fin s f (1 - bias - mb)
  else .fin s (2 ^ mb + f) ((x : Int) - bias - mb)

def decodeF32 (v : F32) : FV := decodeIeee 8 23 v.toNat

/-- E4M3: bias 7, no infinity, 0x7F and 0xFF are NaN (R218). -/
def decodeE4M3 (v : Nat) : FV :=
  let s := v.testBit 7
  let x := (v >>> 3) % 16
  let f := v % 8
  if x = 15 ∧ f = 7 then .nan
  else if x = 0 then .fin s f (-9) else .fin s (8 + f) ((x : Int) - 10)

/-- `m * 2^e` rounded to `p` bits, or to a multiple of `2^emin` below that: nearest, ties to even. -/
def roundDy (p : Nat) (emin : Int) (m : Nat) (e : Int) : Nat × Int :=
  if m = 0 then (0, emin) else
  let q : Int := max (e + (Nat.log2 m + 1 : Nat) - p) emin
  if q ≤ e then (m <<< (e - q).toNat, q) else
  let sh := (q - e).toNat
  let t := m >>> sh
  let r := m % 2 ^ sh
  let half := 2 ^ (sh - 1)
  let t' := if r > half ∨ (r = half ∧ t % 2 = 1) then t + 1 else t
  if t' = 2 ^ p then (2 ^ (p - 1), q + 1) else (t', q)

/-- The pattern of a rounded value in a format of `eb` and `mb` bits; none past the largest exponent. -/
def packIeee (eb mb : Nat) (topField : Nat) (s : Bool) (m : Nat) (q : Int) : Option Nat :=
  let sb := b2n s <<< (eb + mb)
  if m < 2 ^ mb then some (sb + m) else
  let field : Int := q + mb + (2 ^ (eb - 1) - 1)
  if field > topField then none else some (sb + (field.toNat <<< mb) + (m - 2 ^ mb))

/-- Round an exact value to FP32 (R219). -/
def roundF32 (s : Bool) (m : Nat) (e : Int) : F32 :=
  let (t, q) := roundDy 24 (-149) m e
  match packIeee 8 23 254 s t q with
  | some w => BitVec.ofNat 32 w
  | none => if s then f32ninf else f32pinf

def encodeFV : FV → F32
  | .nan => qnan
  | .inf s => if s then f32ninf else f32pinf
  | .fin s m e => roundF32 s m e

def isNan (v : F32) : Bool := decodeF32 v = .nan
def isInf (v : F32) : Bool := v = f32pinf ∨ v = f32ninf

/-- The exact sum of two finite values: sign, magnitude, exponent; an exact cancellation is +0. -/
def addDy (s1 : Bool) (m1 : Nat) (e1 : Int) (s2 : Bool) (m2 : Nat) (e2 : Int) : Bool × Nat × Int :=
  let e := min e1 e2
  let a := m1 <<< (e1 - e).toNat
  let b := m2 <<< (e2 - e).toNat
  if s1 = s2 then (s1, a + b, e)
  else if a > b then (s1, a - b, e) else if b > a then (s2, b - a, e) else (false, 0, e)

def addFV : FV → FV → FV
  | .nan, _ | _, .nan => .nan
  | .inf s, .inf t => if s = t then .inf s else .nan
  | .inf s, _ => .inf s
  | _, .inf t => .inf t
  | .fin s m e, .fin t n f => let (r, k, x) := addDy s m e t n f; .fin r k x

def mulFV : FV → FV → FV
  | .nan, _ | _, .nan => .nan
  | .inf s, .inf t => .inf (xor s t)
  | .inf s, .fin t n _ => if n = 0 then .nan else .inf (xor s t)
  | .fin s m _, .inf t => if m = 0 then .nan else .inf (xor s t)
  | .fin s m e, .fin t n f => .fin (xor s t) (m * n) (e + f)

def negFV : FV → FV
  | .nan => .nan
  | .inf s => .inf (!s)
  | .fin s m e => .fin (!s) m e

def fadd (a b : F32) : F32 := encodeFV (addFV (decodeF32 a) (decodeF32 b))
def fneg (a : F32) : F32 := if isNan a then qnan else a ^^^ 0x80000000
def fsub (a b : F32) : F32 := fadd a (fneg b)
def fmul (a b : F32) : F32 := encodeFV (mulFV (decodeF32 a) (decodeF32 b))
/-- `a * b + c` with one rounding. -/
def ffma (a b c : F32) : F32 := encodeFV (addFV (mulFV (decodeF32 a) (decodeF32 b)) (decodeF32 c))

/-- `m1 * 2^e1 / (m2 * 2^e2)` with enough bits and a sticky last bit. -/
def divDy (m1 : Nat) (e1 : Int) (m2 : Nat) (e2 : Int) : Nat × Int :=
  let k := 64 + Nat.log2 m2
  let n := m1 <<< k
  (2 * (n / m2) + b2n (n % m2 != 0), e1 - e2 - k - 1)

def fdiv (a b : F32) : F32 :=
  match decodeF32 a, decodeF32 b with
  | .nan, _ | _, .nan => qnan
  | .inf _, .inf _ => qnan
  | .inf s, .fin t _ _ => encodeFV (.inf (xor s t))
  | .fin s _ _, .inf t => roundF32 (xor s t) 0 0
  | .fin s m e, .fin t n f =>
    if n = 0 then (if m = 0 then qnan else encodeFV (.inf (xor s t)))
    else let (q, x) := divDy m e n f; roundF32 (xor s t) q x

/-- The integer square root by bits from `2^k` down. -/
def isqrtFrom : Nat → Nat → Nat → Nat
  | 0, _, r => r
  | k + 1, n, r => let c := r + 2 ^ k; isqrtFrom k n (if c * c ≤ n then c else r)

/-- Square root, correctly rounded (R256). -/
def fsqrt (a : F32) : F32 :=
  match decodeF32 a with
  | .nan => qnan
  | .inf s => if s then qnan else f32pinf
  | .fin s m e =>
    if m = 0 then a else if s then qnan else
    let k : Nat := if e % 2 = 0 then 80 else 81
    let n := m <<< k
    let r := isqrtFrom 56 n 0
    roundF32 false (2 * r + b2n (r * r != n)) ((e - k) / 2 - 1)

/-- A total order on patterns without NaN in which +0 is above −0 (R180). -/
def f32key (a : F32) : Int := if a.toNat < 2 ^ 31 then a.toNat else 2 ^ 31 - 1 - (a.toNat : Int)

/-- Numeric comparison `a < b`; false with a NaN; zeros are equal. -/
def fltB (a b : F32) : Bool :=
  if isNan a || isNan b then false
  else if a.toNat % 2 ^ 31 = 0 ∧ b.toNat % 2 ^ 31 = 0 then false else f32key a < f32key b

/-- Maximum with NaN infectious and +0 above −0 (R179, R180). -/
def fmaxv (a b : F32) : F32 := if isNan a || isNan b then qnan else if f32key a < f32key b then b else a

/-- An integer rounded to FP32. -/
def f32ofInt (v : Int) : F32 := roundF32 (v < 0) v.natAbs 0
def f32ofNat (v : Nat) : F32 := roundF32 false v 0

/-- The magnitude of a pattern. -/
def f32abs (a : F32) : F32 := if isNan a then qnan else a &&& 0x7FFFFFFF

/-- `fp_scale * 2^(-o)` (R227). -/
def fscale (a : F32) (o : Int) : F32 :=
  match decodeF32 a with
  | .fin s m e => roundF32 s m (e - o)
  | v => encodeFV v

/-! ### The exponent unit (R182) -/

def mulPow2 : Nat → (Nat → Nat) → Nat → Nat
  | 0, _, x => x
  | k + 1, f, x => mulPow2 k f (f x)

def expTerms : Nat → Nat → Nat → Nat → Nat → Nat × Nat
  | 0, _, _, t, a => (a, t)
  | k + 1, i, y, t, a => let t' := t * y / (2 ^ 256 * i) ; expTerms k (i + 1) y t' (a + t')

/-- A lower and an upper bound of `e^x * 2^256` for `x = n / 2^256`, `0 ≤ x ≤ 88`: the series at `x / 128`,
squared seven times, rounded outwards. -/
def expBounds (n : Nat) : Nat × Nat :=
  let y := n / 128
  let lo := (expTerms 60 1 y (2 ^ 256) (2 ^ 256)).1
  let hi := (expTerms 60 1 (y + 1) (2 ^ 256) (2 ^ 256)).1 + 64
  (mulPow2 7 (fun x => x * x / 2 ^ 256) lo, mulPow2 7 (fun x => x * x / 2 ^ 256 + 1) hi)

/-- The exponent unit's answer for `v ≤ 0`: 1 at 0, 0 below −87.3, and in between a value within a relative
2^-20 of `exp v` (R182). Which value is left open: `Config.expRaw`'s answer where it keeps the bound, and a
value inside the bound where it does not (log 9). -/
def expUnit (v : F32) : F32 :=
  match decodeF32 v with
  | .nan => qnan
  | .inf s => if s then f32zero else f32pinf
  | .fin s m e =>
    if m = 0 then f32one
    else if !s then f32pinf
    else
      let n := if e + 256 ≥ 0 then m <<< (e + 256).toNat else m >>> (-(e + 256)).toNat
      if 10 * n > 873 * 2 ^ 256 then f32zero else
      let (lo, hi) := expBounds n
      let l := 2 ^ 512 / (hi + 1)          -- bounds of e^v * 2^256
      let h := 2 ^ 512 / lo + 1
      let within (c : F32) : Bool :=
        match decodeF32 c with
        | .fin false k x =>
          let p := if x + 276 ≥ 0 then k <<< (x + 276).toNat else 0
          l * (2 ^ 20 - 1) ≤ p ∧ p ≤ h * (2 ^ 20 + 1)
        | _ => false
      let c := Config.expRaw v
      if within c then c else roundF32 false (l + h) (-257)

/-! ### Element formats (R157, R217, R218) -/

/-- Width of a format code in bits (R217). -/
def elemBits (fmt : Nat) : Nat :=
  match fmt with
  | 0 => 4
  | 1 => 8
  | 2 => 8
  | 3 => 8
  | 4 => 16
  | _ => 32

def isIntFmt (fmt : Nat) : Bool := fmt ≤ 1

/-- The code of element `i` of a payload (R157). -/
def elemCode (fmt payload i : Nat) : Nat := (payload >>> (i * elemBits fmt)) % 2 ^ elemBits fmt

/-- An integer element's value. -/
def elemInt (fmt code : Nat) : Int := signedOf (elemBits fmt) code

/-- An element decoded exactly to FP32 (R218). -/
def elemF32 (fmt code : Nat) : F32 :=
  match fmt with
  | 0 => f32ofInt (signedOf 4 code)
  | 1 => f32ofInt (signedOf 8 code)
  | 2 => encodeFV (decodeE4M3 code)
  | 3 => encodeFV (decodeIeee 5 2 code)
  | 4 => if decodeF32 (BitVec.ofNat 32 (code <<< 16)) = .nan then qnan else BitVec.ofNat 32 (code <<< 16)
  | _ => BitVec.ofNat 32 code

/-- What a narrow write did: the code, and the classes that R224, R229 and R328 count. -/
structure Narrow where
  code : Nat
  sat : Bool
  under : Bool
  infinity : Bool
  isNaN : Bool
  deriving DecidableEq, Repr

/-- Conversion from FP32 to a floating format (R220, R224). -/
def convertF (fmt : Nat) (v : F32) : Narrow :=
  match decodeF32 v with
  | .nan =>
    ⟨match fmt with | 2 => 0x7F | 3 => 0x7E | 4 => 0x7FC0 | _ => 0x7FC00000, false, false, false, true⟩
  | .inf s =>
    ⟨match fmt with
      | 2 => 0x7F
      | 3 => if s then 0xFC else 0x7C
      | 4 => if s then 0xFF80 else 0x7F80
      | _ => (if s then f32ninf else f32pinf).toNat, false, false, true, false⟩
  | .fin s m e =>
    let go (p : Nat) (emin : Int) (eb mb top maxc : Nat) (satur : Bool) : Narrow :=
      let (t, q) := roundDy p emin m e
      let sb := b2n s <<< (eb + mb)
      match packIeee eb mb top s t q with
      | some w =>
        if satur && w - sb > maxc then ⟨sb + maxc, true, false, false, false⟩
        else ⟨w, false, t = 0 && m != 0, false, false⟩
      | none =>
        if satur then ⟨sb + maxc, true, false, false, false⟩
        else ⟨sb + ((2 ^ eb - 1) <<< mb), false, false, true, false⟩
    match fmt with
    | 2 => go 4 (-9) 4 3 15 0x7E true
    | 3 => go 3 (-16) 5 2 30 0x7B true
    | 4 => go 8 (-133) 8 7 254 0x7F7F false
    | _ => ⟨v.toNat, false, false, false, false⟩

/-- `floor(log2 |v|)` of a finite nonzero FP32 value. -/
def flog2 (v : F32) : Option Int :=
  match decodeF32 v with
  | .fin _ m e => if m = 0 then none else some ((Nat.log2 m : Int) + e)
  | _ => none

/-- The histogram bin of a magnitude whose `floor(log2)` is given; none is 0 (R230). -/
def histBin (l : Option Int) : Nat :=
  match l with
  | none => 0
  | some k => if k < -31 then 0 else if k ≥ 31 then 63 else (k + 32).toNat

/-- `floor(log2 (a / b))` for positive integers. -/
def ratLog2 (a b : Nat) : Option Int :=
  if a = 0 ∨ b = 0 then none
  else
    let k : Int := (Nat.log2 a : Int) - Nat.log2 b
    let ge := if k ≥ 0 then a ≥ b <<< k.toNat else a <<< (-k).toNat ≥ b
    some (if ge then k else k - 1)

/-! ### INT32 accumulators (R221, R222): `none` is the infinity -/

abbrev IAcc := Option Int

def intLim : Int := 2147483647

def iaccOf (v : Int) : IAcc := if v.natAbs ≤ 2147483647 then some v else none

def iadd : IAcc → IAcc → IAcc
  | some a, some b => iaccOf (a + b)
  | _, _ => none

def imax : IAcc → IAcc → IAcc
  | some a, some b => some (max a b)
  | _, _ => none

/-- Conversion to FP32: infinity is +infinity (R222). -/
def iaccF32 : IAcc → F32
  | some v => f32ofInt v
  | none => f32pinf

/-- The INT32 code of an accumulator (R221). -/
def iaccCode : IAcc → Nat
  | some v => toTwos 32 v
  | none => 0x80000000

/-- An INT32 code read into an accumulator (R222). -/
def iaccRead (c : Nat) : IAcc := if c % 2 ^ 32 = 0x80000000 then none else some (signedOf 32 c)

end Sys2Proof.Machine
end

