-- ==== Sys2Proof/Machine/State.lean ====
section
/-! DEFINITION. Everything the spec gives Harkom to hold, as plain data, and the state after reset. Numbers are
natural numbers unless software sees the pattern; each docstring names the rule and the width. INVENTORY.md lists
the same state with its reset values. -/

namespace Sys2Proof.Machine

/-! ### Fuses, repair log, wear store -/

/-- The variant, HK_ID bits [11:8] (R1, R23). -/
inductive Variant where
  | t8
  | s8
  | l4
  deriving DecidableEq, Repr

/-- Fused and ROM values: R23, R57, R58, R366, R392, R394, R414, R438. -/
structure Fuses where
  variant : Variant := .t8
  major : Nat := 1
  minor : Nat := 0
  serial : Nat := 1
  fwMajor : Nat := 1
  fwMinor : Nat := 0
  fwGood : Bool := true
  secureLoad : Bool := false
  digestSet : Bool := false
  keyDigest : Nat := 0
  oscBase : List Nat := List.replicate 16 1000000
  trims : Nat × Nat := (0, 0)
  deriving DecidableEq, Repr

/-- The stores of R333. -/
inductive Store where
  | chest
  | saucer
  | tile
  | operand
  | acc
  | merge
  | cupboard
  deriving DecidableEq, Repr

/-- Entries of the repair log (R333 to R337). -/
inductive LogEnt where
  | remap (store : Store) (bench row : Nat)
  | retire (bench way : Nat)
  | suspectBench (bench cause : Nat)
  | suspectDie (cause : Nat)
  | replace
  | withdrawn (slot : Nat)
  deriving DecidableEq, Repr

/-- A wear record: powered hours, W and the four components in 1/65,536 (R398, R399); with the powered seconds and the
count of thermal cycles that power-on restores. -/
structure WearRec where
  hours : Nat
  index : Nat
  ageing : Nat
  spares : Nat
  lanes : Nat
  thermal : Nat
  seconds : Nat
  cycles : Nat
  deriving DecidableEq, Repr

/-- The wear store (R399) and the prediction of R400, R401. -/
structure Wear where
  records : List WearRec := []      -- newest first, at most 1,024
  seconds : Nat := 0                -- KTL_POWERED_S
  millis : Nat := 0                 -- milliseconds of the running second
  cycles : Nat := 0                 -- KTL_THERMAL_CYCLES
  ageing : Nat := 0                 -- the four components as last sampled (R394), in 1/65,536
  spares : Nat := 0
  lanes : Nat := 0
  thermal : Nat := 0
  life : Nat := 0xFFFFFFFF
  lower : Nat := 0xFFFFFFFF
  upper : Nat := 0xFFFFFFFF
  conf : Nat := 0
  deferred : List WearRec := []     -- records whose write waits for the rails (R424), oldest first
  deriving DecidableEq, Repr

/-! ### Clocks, bring-up, test access port -/

/-- Clock and bring-up state (R366 to R391). Source codes are those of R382, domain codes those of R376. -/
structure Clk where
  step : Nat := 0            -- bring-up step of R386 in progress: 0 off, 1 to 6; 7 complete
  halted : Bool := false     -- R392: firmware check failed
  xaOsc : Bool := false
  xaRun : Nat := 0           -- agreeing windows in a row (R368)
  xaStable : Bool := false
  xaLost : Bool := false
  xaFailed : Bool := false
  xbStable : Bool := false
  xbLost : Bool := false
  coreEn : Bool := false     -- loops enabled (R372)
  controlEn : Bool := false
  kettleEn : Bool := false
  coreLock : Bool := false
  controlLock : Bool := false
  kettleLock : Bool := false
  coreSrc : Nat := 0
  controlSrc : Nat := 0
  kfastSrc : Nat := 0
  kslowSrc : Nat := 2
  switching : List (Nat × Nat) := []   -- switches requested and hung: domain, new source (R381, R382)
  forced : Nat := 0
  heldDepth : Nat := 0       -- CLK_PLAN_HELD (R374)
  heldRate : Nat := 0
  heldFace : Nat := 0
  runFace : Nat := 0         -- the rates at which faces 1 to 3 train: those of the first image since the reset (R66)
  runDepth : Nat := 0        -- the spread the core loop runs
  runRate : Nat := 0
  count : BitVec 64 := 0     -- core-cycle count (R383)
  deriving DecidableEq, Repr

/-- The test access port (R419). -/
structure Tap where
  op : Nat := 0              -- 0 BYPASS, 1 SAMPLE, 2 PRELOAD, 3 EXTEST
  bypass : Bool := false
  boundary : Nat := 0
  driving : Bool := false
  deriving DecidableEq, Repr

/-! ### Kettle, panel, Yelir -/

structure Rail where
  mv : Nat := 0
  amps16 : Nat := 0
  lowLast : Bool := false
  highLast : Bool := false
  low : Bool := false
  high : Bool := false
  deriving DecidableEq, Repr

/-- One entry of the Kettle log (R410). -/
structure KLog where
  secs : Nat
  code : Nat
  arg0 : Nat
  arg1 : Nat
  deriving DecidableEq, Repr

structure Kettle where
  ms : Nat := 0
  samples : List (List Int) := []     -- the last 8 samples, newest first, each of 32 sensors in 1/16 degree
  power : Nat := 0                    -- W over the last tick
  powerSum : Nat := 0                 -- sum over the running tick, and number of samples
  powerN : Nat := 0
  cap : Nat := 850
  capReset : Nat := 850
  throttleC : Nat := 100
  level : List Nat := List.replicate 8 0
  trip : Bool := false
  beginHold : Bool := false           -- BEGIN refused with THERMAL (R397)
  cool : Nat := 0                     -- ticks in a row with every sensor below T
  rails : List Rail := List.replicate 7 {}
  log : List KLog := []               -- newest first, at most 256
  hotMax : Option Int := none         -- extremes of the hottest sensor since the last turn (R398)
  hotMin : Option Int := none
  falling : Bool := false
  idle : List Nat := List.replicate 8 0         -- ms of each bench's idleness (R331)
  tested : List Nat := List.replicate 8 0       -- powered seconds of each bench's last completed test
  testBench : Option Nat := none
  testFailed : Bool := false
  testCode : Nat := 0
  testAborts : Nat := 0
  testLast : Nat := 0
  bringTest : List Nat := []          -- benches whose bring-up self-test is to end (R386 step 6)
  hotLevel : Nat := 0                 -- ms for which n = 3 of R404 still holds
  failing : List (Store × Nat × Nat) := []      -- failing memory rows (R333): store, bench, row
  rowErrs : List ((Store × Nat × Nat) × Nat) := []   -- errors of memory rows within 24 powered hours, and the powered second of each
  senders : List (Nat × Nat) := []    -- on-die witness failures within 24 powered hours: the bench that sent, the powered second (R336)
  deriving DecidableEq, Repr

structure Drain where
  inForce : Bool := false
  cause : Nat := 0xF
  ack : Bool := false
  refused : Bool := false
  ms : Nat := 0               -- since DRAIN_STARTED
  blue : Bool := false
  forcedBlue : Bool := false
  done : Bool := false        -- DRAIN_DONE posted
  owed : Bool := false        -- DRAIN_STARTED to post after the next commit (R413)
  deriving DecidableEq, Repr

/-- What Yelir sends (R408 to R411); the text of a reply's values is not laid down (log 10). -/
inductive YOut where
  | banner
  | prompt
  | echo (c : Nat)
  | reply (command : Nat) (values : List Nat)
  | ok
  | err (code : Nat) (word : List Nat)   -- the word of R411, as ASCII codes
  deriving DecidableEq, Repr

structure Mon where
  unlocked : Bool := false
  minutes : Nat := 0
  minuteMs : Nat := 0
  rate : Nat := 0
  line : List Nat := []       -- the line being typed
  tooLong : Bool := false
  sawCr : Bool := false
  commands : Nat := 0
  writes : Nat := 0
  running : Bool := false     -- a command waits for the narrow path
  runCmd : Nat := 0           -- 2 peek, 3 poke
  runAddr : Nat := 0          -- the address of the access that waits
  runGot : List Nat := []
  runLeft : Nat := 0
  connected : Bool := false
  out : List YOut := []       -- oldest first
  deriving DecidableEq, Repr

structure Panel where
  pwrGood : Bool := false
  attn : Bool := false        -- ATTN pressed, debounced
  attnSame : Nat := 0         -- ticks in a row at which ATTN was sampled the other way (R394)
  cable : Bool := false
  statusDisplay : Bool := false
  tripN : Bool := false       -- THERM_TRIP_N driven low
  deriving DecidableEq, Repr

/-! ### Faces -/

/-- Messages Harkom sends (R355, R356); `req` names the request of the model behind RD, WR, NRD and NWR. -/
inductive Msg where
  | rd (line lines tag : Nat)
  | wr (line tag : Nat) (poison : Bool) (mask : BitVec 128) (bytes : Line)
  | regData (tag : Nat) (value : Word)
  | regAck (seq : Nat)
  | creditBack (c0 c1 c2 c3 : Nat)
  | snpRsp (tag : Nat)
  | intr (p vector : Nat) (error : Bool)
  | nrd (tag addr : Nat)
  | nwr (tag addr value : Nat)
  deriving DecidableEq, Repr

inductive ModState where
  | down
  | training
  | held
  | inService
  deriving DecidableEq, Repr

structure Modl where
  state : ModState := .down
  lanes : Nat := 0
  half : Nat := 0
  repaired : Nat × Nat := (0, 0)       -- redundant lanes used in the lower and the upper half (R342)
  retrains : Nat := 0
  txSeq : Nat := 0                     -- seq of the last normal flit sent, modulo 1,024
  txKept : List (Nat × List Nat) := [] -- replay buffer: seq and the 62 payload words, oldest first
  txWords : List Nat := []             -- words of a message begun in an earlier flit
  txMsgs : List Msg := []              -- messages waiting to be sent, oldest first
  txCtl : List (Nat × Msg) := []       -- INTR and SNP_RSP sent in flits not yet acknowledged, with the seq (R363)
  txLast : List Nat := []              -- the words of the flit last sent
  txAgain : List (Nat × List Nat) := [] -- kept flits still to be resent, in order (R353)
  rxSeq : Nat := 0                     -- seq last accepted
  rxNak : Bool := false                -- discarding until the expected seq
  rxWords : List Nat := []             -- words of a message not yet whole
  nakAck : Nat := 0                    -- ack of the last nak and how often in a row
  nakRun : Nat := 0
  credits : List Nat := [0, 0, 0, 0]   -- host's buffers Harkom may use
  owed : List Nat := [512, 32, 16, 16] -- credits to return: first the advertisement
  avail : List Nat := [0, 0, 0, 0]     -- credits the host holds of Harkom's buffers
  advertised : List Nat := [0, 0, 0, 0]            -- host's buffers advertised
  spent : List Bool := [false, false, false, false] -- a message has used credits of the channel
  trained : Bool := false              -- it has trained since die reset
  limit : Nat := 0                     -- the half at which it retrains, since the other end is narrower; 0 none (R347)
  deriving DecidableEq, Repr

structure Face where
  mods : List Modl := List.replicate 6 {}
  fast : Bool := false
  crcErrors : Nat := 0
  replays : Nat := 0
  decodeErrs : Nat := 0
  protoErrs : Nat := 0
  narrow : Nat := 0
  regSeq : Nat := 0
  lost : Bool := false                 -- the second after FACE_DOWN is over (R364)
  downPosted : Bool := false
  turn : Nat := 0                      -- the bench whose request was granted last (R16)
  walkTurn : Nat := 0                  -- the partition whose walk was granted last (R78)
  oldWrites : List Nat := []           -- writes of the previous slot table (R350)
  deriving DecidableEq, Repr

/-- Whose the data of a read is (R357: it goes to its consumer). -/
inductive Consumer where
  | ring (p q : Nat)                   -- order fetch
  | desc (o : Nat)                     -- descriptor at stage 2
  | order (o : Nat)                    -- query rows, save area and merge inputs of an order
  | tile (o t : Nat)                   -- elements and source rows of a tile (R145, R246)
  | bags (o n : Nat)                   -- bag lengths from bag n on (R144)
  | upd (o slot : Nat)                 -- what an order reads of a row slot it writes, under its tracker entry (R255, R261)
  | row (o b w slot : Nat)             -- lines of one row slot in window w, cached by the Chest of bench b (R165, R166)
  | stage
  | pool (p : Nat)
  | walk (w : Nat)
  | mig (slot : Nat)                   -- a row that migrates, under its tracker entry (R283)
  | save (p session : Nat)
  | prefetch (o b slot : Nat)          -- lines of a row slot that PREFETCH allocates (R316)
  deriving DecidableEq, Repr

/-- What an access was translated under: its tag, and how many invalidations the partition had written before (R312); of a row write
also the line of the engine address. -/
structure Space where
  tag : Nat
  gen : Nat
  line : Nat := 0
  deriving DecidableEq, Repr

/-- A row write that was sent while a read of the same line was outstanding (R171). -/
structure Passed where
  line : Nat
  mask : BitVec 128
  bytes : Line
  poison : Bool := false
  write : Nat
  deriving DecidableEq, Repr

/-- A read of one to four lines of a 512-byte block (R175, R357); `modl` is none while it waits. -/
structure ReadReq where
  id : Nat
  wants : List (Consumer × Nat)        -- who takes which of its lines, by index; none: data that no one uses any more (R311)
  face : Nat
  modl : Option Nat := none
  tag : Nat := 0
  line : Nat                           -- line address
  lines : Nat                          -- lines it reads
  left : List Nat                      -- indices of lines still to come
  bench : Option Nat := none           -- bench whose read slot it takes
  slot : Bool := false                 -- it holds its read slots (R148, R274)
  entry : Option Nat := none           -- STACK_MAP entry whose limiter it meets
  part : Nat
  space : Option Space := none         -- the translation it was issued under (R312)
  age : Nat := 0                       -- age of its tile: the lower the older (R148)
  group : Option (Nat × Nat) := none   -- the tile whose lines it groups (R175)
  since : List Passed := []            -- row writes to its lines sent after it, oldest first (R171)
  nth : Option Nat := none             -- its place among the requests sent: none before it is first sent (R362, R363)
  deriving DecidableEq, Repr

/-- Whose a write is: what waits for its WACK. -/
inductive WriteFor where
  | order (o : Nat)                    -- an output or row write of an order
  | rowOf (o bind row slot : Nat)      -- a row write: order, binding, row, slot address
  | record (p r : Nat)                 -- a record of a produced ring (ring number of R131)
  | save (p session : Nat)
  | mig (row : Nat)
  | desc (o : Nat)
  | restore (p : Nat)
  deriving DecidableEq, Repr

structure WriteReq where
  id : Nat
  own : WriteFor
  also : List WriteFor := []           -- further writes merged into it (R263)
  face : Nat
  modl : Option Nat := none
  tag : Nat := 0
  line : Nat
  mask : BitVec 128
  bytes : Line
  poison : Bool := false
  part : Nat
  bench : Option Nat := none           -- the bench it comes from (R16, R243)
  intr : Option (Nat × Bool) := none   -- vector to raise at the WACK, and its error bit
  space : Option Space := none         -- the translation it was issued under (R312)
  nth : Option Nat := none             -- its place among the requests sent: none before it is first sent (R362, R363)
  deriving DecidableEq, Repr

/-- A line that DATA returned and that its consumer has not used yet. -/
structure Held where
  cons : Consumer
  line : Nat
  bytes : Line
  poisoned : Bool := false
  bench : Option Nat := none           -- the bench whose buffers hold it (R13)
  deriving DecidableEq, Repr

structure NarrowReq where
  face : Nat
  modl : Option Nat := none
  tag : Nat
  addr : Nat
  write : Option Nat := none
  issued : Bool := false       -- sent at least once: a poke has then passed its commit point (R412)
  stale : Bool := false        -- its command has ended
  old : Bool := false          -- a write of the previous slot table (R350)
  nth : Nat := 0               -- its place among the requests sent, once it is issued (R363)
  deriving DecidableEq, Repr

/-! ### Cut list -/

structure PartEnt where
  enabled : Bool := false
  benchMask : Nat := 0
  hostFace : Nat := 0
  tagBase : Nat := 0
  tagCount : Nat := 0
  deriving DecidableEq, Repr

structure StackEnt where
  base : Nat
  length : Nat
  kind : Nat
  nearFace : Nat
  altFaces : Nat
  stackNo : Nat
  deriving DecidableEq, Repr

structure Binding where
  base : Nat
  rowCount : Nat
  rowBytes : Nat
  fmt : Nat
  layout : Nat := 0
  stride : Nat
  shardMap : Nat := 0xFFFF
  defaultRow : Nat := 0xFFFFFFFF
  reduction : Nat := 0
  orderClass : Nat := 0
  update : Nat := 0
  scaleMode : Nat := 0
  scaleTable : Nat := 0
  wayMask : Nat := 0
  stateBase : Nat := 0
  trailerBase : Nat := 0
  maxBatch : Nat := 0
  spill : Nat := 0xFFFF
  plaus : Nat := 0xFFFF
  learnRate : F32 := 0
  epsilon : F32 := 0
  tableId : Nat := 0
  deriving DecidableEq, Repr

structure Shard where
  primary : Nat
  replica : Nat := 0
  pStack : Nat
  rStack : Nat := 0xFF
  scaleIndex : Nat := 0
  deriving DecidableEq, Repr

structure Redirect where
  row : Nat
  stack : Nat
  addr : Nat
  deriving DecidableEq, Repr

structure ShardMap where
  shardRows : Nat
  shards : List Shard
  redirects : List Redirect
  deriving DecidableEq, Repr

structure Jig where
  kind : Nat
  benchMask : Nat
  lead : Nat
  tileOrder : Nat := 0
  splitLen : Nat := 0
  prefetch : Nat := 0
  laneRotate : Nat := 0
  mergeShare : Nat := 0
  qTile : Nat := 0
  kTile : Nat := 0
  dims : Nat := 0
  fmt : Nat := 0
  flags : Nat := 0
  accTiles : Nat := 0
  topK : Nat := 0
  spillSel : Nat := 0
  faces : List Nat := List.replicate 64 0
  deriving DecidableEq, Repr

structure ScaleEnt where
  m : Nat
  s : Nat
  bound : Nat := 0
  adapt : Bool := false
  fp : F32 := 0x3F800000
  deriving DecidableEq, Repr

structure Plaus where
  maxAbs : F32
  maxSumsq : F32
  maxInf : Nat
  deriving DecidableEq, Repr

structure Spill where
  base : Nat
  length : Nat
  deriving DecidableEq, Repr

structure Policy where
  idleTest : Bool := false
  bringTest : Bool := false
  auto : Nat := 0
  shift : Nat := 1
  hyst : Nat := 0
  hot : Nat := 0
  holdMs : Nat := 1
  rowsMax : Nat := 1
  deriving DecidableEq, Repr

structure Plan where
  depth : Nat := 0
  rate : Nat := 25
  faces : Nat := 0
  deriving DecidableEq, Repr

/-- The payload of a section (R39). -/
inductive Section where
  | partitions (es : List PartEnt)
  | ways (ms : List Nat)
  | stacks (es : List StackEnt)
  | binding (b : Binding)
  | shardMap (m : ShardMap)
  | jig (j : Jig)
  | scales (es : List ScaleEnt)
  | plaus (x : Plaus)
  | quotas (es : List (Nat × Nat))
  | policy (k : Policy)
  | plan (c : Plan)
  | spill (x : Spill)
  | deleted
  deriving DecidableEq, Repr

/-- A section under its key (R36). -/
structure Sec where
  type : Nat
  owner : Nat
  inst : Nat
  body : Section
  deriving DecidableEq, Repr

inductive TxnState where
  | idle
  | opened
  | staging
  | validating
  | switching
  deriving DecidableEq, Repr

/-- The configuration transaction (R62 to R68). An owner is a partition 0 to 7 or 0xFE, the Kettle. -/
structure Txn where
  state : TxnState := .idle
  owner : Nat := 0xFF
  fullStaged : Bool := false
  staged : List Sec := []
  imageId : Nat := 0
  addr : Nat := 0             -- of the image being read (R441)
  length : Nat := 0
  failed : Bool := false      -- the read met poison or a lost face (R63)
  index : List Nat := []      -- keys of the last staged image, in its order
  switched : Bool := false    -- in SWITCHING: the epoch has advanced
  deriving DecidableEq, Repr

structure Cfg where
  regionBase : Nat := 0
  regionValid : Bool := false
  regionLocked : Bool := false
  epoch : Nat := 0
  oldest : Nat := 0
  imageId : Nat := 0
  committed : Bool := false
  live : List Sec := []       -- in key order
  before : List StackEnt := []         -- STACK_MAP of the epoch before (R66)
  regionBad : Bool := false   -- a block of the configuration region fails its CRC, or reads poison, not yet found (R33)
  txn : Txn := {}
  deriving DecidableEq, Repr

/-! ### Rings, partitions -/

structure Sq where
  enabled : Bool := false
  base : Nat := 0             -- engine address with its tag
  cq : Nat := 0
  log2 : Nat := 0
  head : Nat := 0
  tail : Nat := 0
  error : Bool := false
  cause : Nat := 0
  deriving DecidableEq, Repr

/-- An update of an entry's shift offset (R234): session, entry, and what it then holds. -/
structure ScaleUpd where
  session : Nat
  table : Nat
  entry : Nat
  offset : Int
  sat : Bool
  clip : Bool
  deriving DecidableEq, Repr

/-- A record waiting for its ring: its bytes with the phase bit 0, and the vector it raises. -/
structure Rec where
  bytes : Nat
  now : Bool := false         -- irq_now (R104)
  scale : Option ScaleUpd := none      -- the update that its writing puts in force (R235)
  deriving DecidableEq, Repr

/-- A produced ring: completion, fault or event (R99, R102). -/
structure Pq where
  enabled : Bool := false
  base : Nat := 0
  log2 : Nat := 0
  head : Nat := 0
  tail : Nat := 0
  phase : Bool := false       -- set to 1 when the ring is enabled (R102)
  error : Bool := false
  cause : Nat := 0
  lost : Nat := 0
  threshold : Nat := 1
  thrNow : Nat := 1           -- the threshold taken at the last entry written (R441)
  holdoff : Nat := 16
  irqEn : Bool := false
  held : List Rec := []       -- records held, oldest first (R99, R102, R103)
  flying : List (Nat × Bool × Rec) := []   -- records written, from the oldest that no WACK has answered: write, answered, record (R103, R359)
  lostSince : Nat := 0        -- events dropped since the ring was last with space (EVENTS_LOST)
  deriving DecidableEq, Repr

structure ChestReg where
  enable : Bool := false
  invDone : Bool := false
  invBusy : Bool := false
  refused : Bool := false
  serving : List Nat := []    -- benches that serve and update lines
  lostLines : Nat := 0
  refetched : Nat := 0
  deriving DecidableEq, Repr

structure ScaleLast where
  entry : Nat := 0
  table : Nat := 0
  sats : Nat := 0
  flagged : Bool := false
  clipped : Bool := false
  offset : Int := 0
  seq : Nat := 0
  peak : Nat := 0
  unders : Nat := 0
  deriving DecidableEq, Repr

structure PoolEnt where
  base : Nat
  slots : Nat
  slotBytes : Nat
  valid : Bool
  next : Nat := 0
  deriving DecidableEq, Repr

structure MigReg where
  poolBase : Nat := 0
  enable : Bool := false
  reading : Bool := false     -- the pool table is being read
  pool : List PoolEnt := []
  used : Nat := 0
  skipped : Nat := 0
  acceptIgnored : Bool := false
  poolError : Bool := false
  proposals : List (Nat × Nat) := []  -- shard map, shard
  accepts : List (Nat × Nat × Bool) := []    -- accepted: shard map, shard, whether its millisecond has come
  deriving DecidableEq, Repr

/-- A pending fault of the partition (R129, R308). -/
structure PFault where
  id : Nat
  order : Option Nat
  stream : Nat := 0xFF
  tag : Nat := 0
  va : Nat := 0
  deriving DecidableEq, Repr

structure OutEnt where
  lo : Nat
  hi : Nat
  user : Nat
  deriving DecidableEq, Repr

/-- A wake that waits for a slot (R85): the session and the order that asks for it. -/
structure WaitWake where
  session : Nat
  order : Option Nat          -- the order whose stage 4 asks
  hint : Bool := false
  wake : Option Nat := none   -- the WAKE that asks
  deriving DecidableEq, Repr

/-- A descriptor whose write-back waits for its face (R142): its address is still protected by R141. -/
structure Orphan where
  order : Nat
  addr : Nat
  value : Nat
  sent : Bool := false
  deriving DecidableEq, Repr

/-- A write-tracker entry (R188, R255): a slot, who holds it, and the row it is a copy of. -/
structure Track where
  slot : Nat
  order : Nat
  bind : Nat
  row : Nat
  deriving DecidableEq, Repr

structure Part where
  slice : Nat := 0x07D0
  busy : Bool := false
  done : Bool := false
  badHints : Nat := 0
  stageAddr : Nat := 0
  stageLen : Nat := 0
  reason : Nat := 0
  sect : Nat := 0xFFF
  txnEpoch : Nat := 0
  sq : List Sq := (List.range 16).map (fun q => ({ cq := q } : Sq))
  cq : List Pq := List.replicate 16 {}
  fq : Pq := {}
  eq : Pq := {}
  turn : Nat := 0
  chest : ChestReg := {}
  scale : ScaleLast := {}
  spillLast : Nat := 0
  eccUnc : Nat := 0
  eccCor : Nat := 0
  mig : MigReg := {}
  invTags : List Space := []  -- tags being invalidated: inval_done waits for what was translated before (R312)
  invGen : Nat := 0           -- how many invalidations were written: the model's own number
  invStart : BitVec 64 := 0
  lastUs : Nat := 0
  badTag : Bool := false
  faults : List PFault := []
  badCmd : Bool := false
  misses : Nat := 0
  roots : List (Nat × Nat × Bool) := []   -- tag, physical address, valid
  scratch : Word := 0
  paused : List (Nat × Bool) := []        -- binding, drained
  waits : List WaitWake := []
  outLog : List OutEnt := []              -- newest first, at most 256
  bindCtrs : List (Nat × List Nat) := []  -- binding, 11 counters
  ctrs : List Nat := List.replicate 18 0
  shardCtrs : List (Nat × Nat × Nat) := [] -- shard map, shard, reads
  tracks : List Track := []
  orphans : List Orphan := []
  resetDue : Bool := false    -- a partition reset waits for the switch of the partition's transaction (R67)
  deriving DecidableEq, Repr

/-! ### Sessions -/

inductive SState where
  | parked
  | warming
  | steeping
  | leaving
  deriving DecidableEq, Repr

structure ScaleSt where
  table : Nat
  entry : Nat
  offset : Int := 0
  sat : Bool := false
  clip : Bool := false
  used : Nat := 0             -- order of use
  deriving DecidableEq, Repr

/-- An accumulator tile: rows of 256 accumulators (codes of INT32 or FP32) (R91, R122). -/
structure AccTile where
  slot : Nat
  rows : Nat
  fp : Bool
  vals : List Nat
  poisoned : Bool := false
  own : Option Nat := none         -- the SCORE with keep that put it there (R197)
  deriving DecidableEq, Repr

/-- A session context (R81); free contexts are not listed. `index` is its Cupboard slot. -/
structure Ctx where
  p : Nat
  session : Nat
  index : Nat := 0
  state : SState := .parked
  home : Nat := 0xFF
  accSaved : Bool := false
  haltedOrder : Bool := false
  poisoned : Bool := false
  tag : Nat := 0
  saveBase : Nat := 0
  saveLen : Nat := 0
  fetched : Nat := 0
  completed : Nat := 0
  lastChange : BitVec 64 := 0
  keyBind : Nat := 0xFFFF
  valBind : Nat := 0xFFFF
  keyRows : Nat := 0
  valRows : Nat := 0
  haltRing : Nat := 0
  haltSlot : Nat := 0
  haltJig : Nat := 0
  haltTile : Nat := 0
  haltBlock : Nat := 0
  scales : List ScaleSt := []
  ctrs : List Nat := List.replicate 13 0
  steepSince : Nat := 0       -- numbers in the order of events, for R85
  lastDone : Nat := 0
  wakeOrder : Option Nat := none   -- the order whose stage 4 caused the wake (R83)
  contextIn : Bool := false
  leave : Nat := 0            -- why it leaves: 0 PARK, 1 preemption, 2 eviction, 3 drain
  releasing : Bool := false
  hinted : Bool := false
  preemptOrder : Option Nat := none  -- its halted order
  tiles : List AccTile := []       -- kept tiles (R112, R122)
  cleared : List Nat := []         -- slots that an ACC_STORE has cleared (R122)
  headerDue : Bool := false        -- the save header is written after the tiles (R90)
  deriving DecidableEq, Repr

/-! ### Translation -/

/-- A range of translations (R300): pages of 4 KiB. -/
structure Range where
  tag : Nat
  page : Nat
  len : Nat
  phys : Nat                  -- physical page of its first page
  write : Bool
  hot : Bool := false
  part : Nat
  deriving DecidableEq, Repr

/-- A directory cache entry: level 4 or 3 entry that points to a table (R299). -/
structure Dir where
  tag : Nat
  level : Nat
  index : Nat                 -- va shifted down to the entry
  table : Nat
  part : Nat
  deriving DecidableEq, Repr

/-- A fault found (R129, R307). -/
structure FaultInfo where
  addr : Nat
  access : Nat
  stream : Nat := 0xFF
  perm : Bool := false
  outside : Bool := false
  tile : Nat := 0xFFFFFFFF
  page : Nat := 0             -- the engine address whose page faulted
  deriving DecidableEq, Repr

/-- What a walk is for. -/
inductive WalkFor where
  | order (o : Nat) (access stream tile : Nat)
  | ring (p r : Nat)
  | skip (o : Option Nat)     -- PREFETCH and ADVISE with their order, the Kettle without one: no record
  | back (o : Nat)            -- a descriptor write-back (R142, R306)
  deriving DecidableEq, Repr

structure Walk where
  id : Nat
  face : Nat
  part : Nat
  tag : Nat
  va : Nat
  write : Bool
  level : Nat                 -- level whose table is being read, 4 to 1
  for_ : WalkFor
  stale : Bool := false       -- reissued after an invalidation (R311)
  queued : Bool := false      -- it waits for one of its walker's 64 places (R78, R298)
  deriving DecidableEq, Repr

/-- A page found unmapped for a requester that writes no record: an order, or the Kettle (R316, R317). -/
structure Skip where
  part : Nat
  who : Option Nat
  tag : Nat
  page : Nat
  deriving DecidableEq, Repr

/-! ### Orders -/

/-- A pooling partial (R186). Accumulators are codes: INT32 where `fp` is false. -/
structure Partial where
  count : Nat := 0
  fp : Bool := true
  iacc : List (Option Int) := []
  acc : List F32 := []
  acc2 : List F32 := []
  weightSum : F32 := 0
  scoreMax : F32 := 0xFF800000
  poisoned : Bool := false
  deriving DecidableEq, Repr

/-- A stream of an order: its descriptor's shadow (R139, R140). -/
structure Stream where
  field : Nat                 -- byte offset of the descriptor field
  addr : Nat                  -- engine address of the descriptor
  base : Nat
  counts : Nat × Nat × Nat × Nat
  strides : Nat × Nat × Nat
  elem : Nat
  live : Bool := false
  faulted : Bool := false
  written : Bool := false     -- its state has been written back since it stopped (R142)
  ended : Bool := false       -- its last write-back is issued
  ranges : List Range := []   -- its shadow's ranges, at most 16 (R304)
  back : Option Nat := none   -- physical page of its write-back, translated with its ranges (R306)
  deriving DecidableEq, Repr

inductive Phase where
  | stage2                    -- fetched; descriptors being read
  | waiting                   -- passed stage 2 (R125)
  | stage3
  | running
  | halted                    -- preempted: resumes at the session's next wake (R89)
  | ending                    -- its status is decided; writes and checks finish (R126)
  deriving DecidableEq, Repr

/-- A row as a tile resolved it: slot and trailer addresses, face of its reads, shard (R53, R155). -/
structure RowAt where
  row : Nat
  slot : Nat
  trailer : Nat
  face : Option Nat := none
  stack : Option Nat := none    -- STACK_MAP entry it must lie in (R269)
  shard : Option Nat := none
  copies : List (Nat × Nat) := []  -- slots and stack entries of a sharded row's copies: primary and replica, or target
  aux : Bool := false              -- a row of the order's auxiliary table
  deriving DecidableEq, Repr

structure Tile where
  t : Nat
  bench : Nat
  epoch : Nat := 0
  delivered : Bool := false
  worked : Bool := false      -- its consumer has accepted every entry
  consumed : Bool := false
  elems : List Nat := []      -- its elements of the driving stream
  weights : List F32 := []
  addrs : List (Nat × Nat) := []   -- 2 × engine page + write, and physical page, of what it uses (R305)
  slots : List RowAt := []
  issued : Bool := false           -- its row reads are issued
  got : List Nat := []             -- slots it has read, found or taken held
  left : Nat := 0                  -- dimension blocks still to stream through the array (R195)
  born : Nat := 0                  -- its age on its bench: the lower the older (R148)
  space : Nat := 0                 -- lines of tile-buffer space it waits for (R148)
  gen : Nat := 0                   -- the invalidations written before its translations stood (R312)
  deriving DecidableEq, Repr

/-- A bag's partial from one part of it: bag, first position, bench. -/
structure PartEntry where
  bag : Nat
  first : Nat
  bench : Nat
  positions : Nat             -- positions covered
  val : Partial
  deriving DecidableEq, Repr

/-- A fragment of a SCATTER_MERGE (R244): resident, or spilled with its record number. -/
structure Frag where
  bench : Nat
  lane : Nat
  row : Nat
  count : Nat
  acc : List F32
  lastPos : Nat
  spilled : Option Nat := none
  poisoned : Bool := false
  deriving DecidableEq, Repr

/-- A score tile of a Strainer order (R195): candidate tile, and per query the 256 scores. -/
structure ScoreTile where
  bench : Nat
  t : Nat
  fp : Bool
  vals : List (List Nat)      -- codes
  poisoned : Bool := false    -- an uncorrectable error struck it (R216)
  deriving DecidableEq, Repr

/-- Counts of an output tile: for plausibility (R328), and its saturations and underflows (R229). -/
structure PTile where
  t : Nat
  sumsq : F32 := 0
  infs : Nat := 0
  magBad : Bool := false
  checked : Bool := false
  sats : Nat := 0             -- its saturations and underflows (R229)
  unders : Nat := 0
  deriving DecidableEq, Repr

/-- A fault that holds a stream of an order: found, and pending once its record has a number (R129, R151). -/
structure OFault where
  info : FaultInfo
  id : Option Nat := none
  deriving DecidableEq, Repr

structure Order where
  id : Nat
  p : Nat
  q : Nat
  slot : Nat
  cq : Nat
  bytes : BitVec 1024
  phase : Phase := .stage2
  acted : Bool := false       -- a control order has acted
  stopping : Bool := false    -- PARK mode 2 ends it at its next tile boundary (R89)
  epoch : Nat := 0
  binding : Option Binding := none
  bindNo : Nat := 0xFFFF
  aux : Option Binding := none
  auxNo : Nat := 0xFFFF
  jig : Option Jig := none
  smap : Option ShardMap := none
  auxSmap : Option ShardMap := none
  scales : List ScaleEnt := []
  plaus : Option Plaus := none
  spill : Option Spill := none
  pinned : Bool := false
  crowded : Bool := false     -- its records wait for space in the on-die part, or for face 0 (R32, R364)
  book : List Sec := []       -- its partition's records in the epoch of its fetch, until it passes stage 2 (R32)
  streams : List Stream := []
  shadow : List Range := []   -- ranges made at stage 3 for bases and the save area (R303)
  xfaults : List (Nat × Bool × Bool) := []  -- pages whose walks faulted: 2 × page + write, permission, outside
  badBag : Option Nat := none -- the bag that R109 refuses
  waitFor : List Nat := []    -- orders a FENCE or PARK waits for
  after : List Nat := []      -- earlier orders of the session (R132)
  tiles : List Tile := []
  watermark : Nat := 0        -- tile number
  faults : List OFault := []           -- at most one of each stream (R151)
  boundary : Bool := false             -- its home bench has passed a tile boundary since its stage 3 (R149)
  made : Nat := 0                      -- ranges that ADVISE has made (R317)
  walking : Option Nat := none         -- the page whose walk it waits for
  struck : List (Nat × Nat) := []      -- partials that the interconnect damaged: bench, and bag or row (R319)
  badSels : List (Nat × Nat) := []     -- selection tiles struck: bench, index (R216)
  offset : Option Int := none          -- shift offset it runs with (R235)
  bags : List (Nat × Nat) := []        -- first position and length of the bags read so far
  parts : List PartEntry := []
  bagsOut : Nat := 0          -- bags written, queries written
  outSent : List (Nat × List (Nat × Nat)) := []  -- outputs written: number, physical pieces
  outPa : List (Nat × Space × List (Nat × Nat)) := []  -- outputs translated and not written yet: number, translation, physical pieces (R305)
  scoreTiles : List ScoreTile := []
  steps : List (Nat × Nat) := []       -- bench, next step (R195)
  rooms : List Nat := []               -- benches whose accumulator store holds its tiles (R197)
  sels : List (Nat × List (List (Nat × Int × F32))) := []  -- bench: per query best first: row, key, score
  phase2 : Bool := false
  scoreOut : List (Nat × List (List Nat)) := []  -- SCORE modes 1 and 2: tile, and per row the codes written, for its mark
  saved : List (Nat × Nat × Nat) := []           -- tiles in the save area: record, tile_no, bench (R91, R93)
  outDone : List Nat := []                       -- queries whose rows RECALL has written
  keyRows : Nat := 0          -- candidates fixed at stage 3
  queries : List (Nat × List Nat) := []  -- the stationary blocks: bench, payload of each query row (R191, R203)
  headerOk : Bool := false    -- the save header has been read and is good (R93)
  frags : List Frag := []
  spills : List (Nat × Nat × Nat) := []  -- bench, lane, records written
  shares : List Nat := []     -- benches whose merge share it holds
  segment : Bool := false     -- it holds its spill segment
  merging : Bool := false
  mergeTiles : List (Nat × Tile) := []  -- translations of rows in a tracker entry: row, pages (R306, R315)
  mergeHeld : List (Nat × Nat) := []   -- rows at which their owners stopped, each on the fault of an address (R266)
  merged : List Nat := []     -- rows done
  ptiles : List PTile := []
  plausHits : List (Nat × Nat × Nat) := []  -- bound, first tile, last tile
  nonzero : Nat := 0
  hist : List Nat := List.replicate 64 0
  defaults : Nat := 0
  count : Nat := 0
  status : Option (Nat × Nat) := none  -- decided status other than OK, with its detail
  told : List Nat := []       -- stack entries it was told of (R275)
  dup : List (Nat × Nat × Nat × Nat) := []   -- held rows: bench, window, slot, last position naming it (R166)
  deriving DecidableEq, Repr

/-! ### Benches -/

structure CLine where
  set : Nat
  way : Nat
  line : Nat
  bytes : Line
  pending : Option Nat := none   -- write whose WACK it waits for
  bad : Bool := false            -- parity error not yet found
  binds : List Nat := []         -- bindings whose rows it was read for
  deriving DecidableEq, Repr

structure SLine where
  line : Nat
  bytes : Line
  pending : Option Nat := none
  bad : Bool := false
  binds : List Nat := []
  deriving DecidableEq, Repr

/-- A write-combining entry (R263). -/
structure WcEnt where
  line : Nat
  mask : BitVec 128
  bytes : Line
  owns : List WriteFor          -- whose bytes it holds, latest last
  part : Nat
  face : Nat                    -- the face of its write (R66, R268)
  space : Option Space := none
  deriving DecidableEq, Repr

/-- A resident set (R200): the payloads of key rows it holds. -/
structure Resident where
  p : Nat
  session : Nat
  bind : Nat
  rows : List (Nat × Nat)
  bytes : Nat := 0            -- bytes that a row takes (R60, R200)
  bad : List Nat := []        -- rows with a parity error not yet found (R202)
  used : Nat := 0
  deriving DecidableEq, Repr

/-- The stationary block that a forward SCORE has loaded into an array (R213): whose it is, query_addr, query_count, strainer_fmt, q_tile,
sketch_dims, and the query rows. -/
structure Loaded where
  p : Nat
  session : Nat
  addr : Nat
  count : Nat
  fmt : Nat
  qTile : Nat
  dims : Nat
  rows : List Nat
  deriving DecidableEq, Repr

/-- Power of a bench (R380): powered (running or clock-gated, as it has work), power-gated, or powering up. -/
inductive Power where
  | running
  | gated
  | powering
  deriving DecidableEq, Repr

structure Bench where
  power : Power := .running
  reset : Bool := false
  chest : List CLine := []
  plru : List (Nat × Nat) := []     -- set, 15 tree bits
  saucer : List SLine := []         -- oldest first
  cold : List Nat := []             -- lines that ADVISE made the next victims of their sets (R317)
  wc : List WcEnt := []             -- oldest first
  residents : List Resident := []
  offers : Nat := 0                 -- row reads since the last one offered to the sampler
  array : Option Nat := none        -- the order whose steps the array runs (R198)
  loaded : Option Loaded := none    -- the block in the array, where a forward SCORE loaded it (R213)
  deriving DecidableEq, Repr

/-! ### Stacks and migration -/

structure Window where
  v : Nat := 256
  peak : Nat := 0x0900
  peakNow : Nat := 0x0900           -- in effect since the interval began (R441)
  lines : Nat := 0                  -- 64 bits
  admitted : Nat := 0
  load : Int := 0                   -- filtered lines per ms
  lastLines : Nat := 0
  deriving DecidableEq, Repr

structure Sample where
  p : Nat
  bind : Nat
  row : Nat
  count : Nat
  deriving DecidableEq, Repr

structure Filter where
  p : Nat
  map : Nat
  shard : Nat
  f : Int := 0
  hot : Bool := false
  hotMs : Nat := 0
  last : Nat := 0
  deriving DecidableEq, Repr

structure MigRow where
  row : Nat
  old : Nat
  target : Nat
  stack : Nat
  copied : Bool := false      -- its copy's writes are issued
  acked : Bool := false       -- and acknowledged
  cleared : Bool := false     -- migrating is being cleared
  addrs : List (Nat × Nat) := []       -- its slots' translations, as a tile holds its own (R284, R306)
  deriving DecidableEq, Repr

/-- The migration in progress (R283 to R286); phase 0 none, 1 copy, 2 switch, 3 release. -/
structure Mig where
  phase : Nat := 0
  p : Nat := 0
  map : Nat := 0
  shard : Nat := 0
  bind : Nat := 0
  replica : Bool := false
  rows : List MigRow := []
  epoch : Nat := 0
  id : Nat := 0               -- its number in the write trackers
  abandoned : Bool := false   -- not switched: its rows keep their old slots (R285, R288)
  deriving DecidableEq, Repr

/-! ### Die-wide counters -/

structure Ints where
  lastCount : Nat := 0
  lastCode : Nat := 0
  ecc : Nat := 0
  uncorrected : Nat := 0
  foreign : Nat := 0
  witDie : Nat := 0
  witMem : Nat := 0
  poisonMade : Nat := 0
  poisonRead : Nat := 0
  throttleIgnored : Nat := 0
  deriving DecidableEq, Repr

/-- A latched HI word (R433): face, partition, offset of the HI word, value. -/
structure Latch where
  face : Nat
  part : Nat
  offset : Nat
  value : Nat
  deriving DecidableEq, Repr

/-- A die reset under way (R327, R385): structure code, and whether it was requested. -/
structure DieRst where
  code : Nat
  requested : Bool
  deriving DecidableEq, Repr

structure State where
  pending : List Instr := []
  fuses : Fuses := {}
  log : List LogEnt := []
  logDue : List LogEnt := []        -- repair-log writes deferred (R424)
  wear : Wear := {}
  clk : Clk := {}
  tap : Tap := {}
  kettle : Kettle := {}
  drain : Drain := {}
  mon : Mon := {}
  panel : Panel := {}
  rstLast : Nat := 0
  rstDie : Option DieRst := none
  faces : List Face := List.replicate 4 {}
  reads : List ReadReq := []
  writes : List WriteReq := []
  narrows : List NarrowReq := []
  held : List Held := []
  struck : List (Consumer × Nat) := []   -- lines that a tile-buffer error struck once: consumer, line (R326)
  cupTurn : Nat := 0                     -- the partition whose context moved last (R78)
  latches : List Latch := []
  cfg : Cfg := {}
  parts : List Part := List.replicate 8 {}
  ctxs : List Ctx := []
  orders : List Order := []
  benches : List Bench := List.replicate 8 {}
  ranges : List (Nat × Range) := []      -- face and range, least recently used first
  dirs : List (Nat × Dir) := []
  walks : List Walk := []
  skips : List Skip := []
  windows : List Window := List.replicate 16 {}
  sampler : List Sample := []
  sampleRead : List Sample := []    -- the sampler as the last tick read it
  filters : List Filter := []
  mig : Mig := {}
  ints : Ints := {}
  nextId : Nat := 0
  deriving DecidableEq, Repr

/-- Nothing stops the machine with a fault: every error the spec describes has an effect on the state. -/
inductive Fault where
  /-- Raised by no command. -/
  | unraised
  deriving DecidableEq, Repr

/-- A command without a meaning. -/
inductive Refusal where
  /-- Raised by an arm of `exec` that has no meaning yet; safe: nothing follows from it. No arm raises it. -/
  | notModelled (mnemonic : String)
  deriving DecidableEq, Repr

/-- Right after power-on reset, with PWR_GOOD low (R384, R435): every register at its Reset column of R436 and
R437; the fused, ROM, log and store values are those of log entries 1 to 3 (DESIGN CHOICE). -/
def State.reset : State := {}

end Sys2Proof.Machine
end

