-- ==== Sys2Proof/Machine/Ops.lean ====
section
/-! DEFINITION. The named operations over the state: look-ups, updates, requests on the faces, returned lines. -/

namespace Sys2Proof.Machine

/-! ### The variant (R1, R12, R24) -/

def Variant.benchCount : Variant → Nat
  | .l4 => 4
  | _ => 8

def Variant.faceCount : Variant → Nat
  | .l4 => 2
  | _ => 4

def Variant.moduleCount : Variant → Nat
  | .l4 => 4
  | _ => 6

def Variant.hasStrainer : Variant → Bool
  | .l4 => false
  | _ => true

def Variant.hasGlue : Variant → Bool
  | .s8 => false
  | _ => true

def Variant.code : Variant → Nat
  | .t8 => 1
  | .s8 => 2
  | .l4 => 3

/-- Thermal design power, the reset value of KTL_POWER.cap_w (R1, R414). -/
def Variant.tdp : Variant → Nat
  | .t8 => 850
  | .s8 => 820
  | .l4 => 280

def State.variant (s : State) : Variant := s.fuses.variant
/-- HK_CAP.max_partitions (R24, R432). -/
def State.maxParts (s : State) : Nat := s.variant.benchCount
def State.benchPresent (s : State) (b : Nat) : Bool := b < s.variant.benchCount
def State.facePresent (s : State) (f : Nat) : Bool := f < s.variant.faceCount
def State.modPresent (s : State) (f m : Nat) : Bool := s.facePresent f && m < s.variant.moduleCount

/-! ### Parts of the state -/

def State.part (s : State) (p : Nat) : Part := s.parts.getD p {}
def State.upPart (s : State) (p : Nat) (f : Part → Part) : State := { s with parts := s.parts.modify p f }
def State.bench (s : State) (b : Nat) : Bench := s.benches.getD b {}
def State.upBench (s : State) (b : Nat) (f : Bench → Bench) : State := { s with benches := s.benches.modify b f }
def State.face (s : State) (f : Nat) : Face := s.faces.getD f {}
def State.upFace (s : State) (f : Nat) (g : Face → Face) : State := { s with faces := s.faces.modify f g }
def State.modl (s : State) (f m : Nat) : Modl := (s.face f).mods.getD m {}
def State.upMod (s : State) (f m : Nat) (g : Modl → Modl) : State :=
  s.upFace f (fun x => { x with mods := x.mods.modify m g })
def State.window (s : State) (e : Nat) : Window := s.windows.getD e {}
def State.upWindow (s : State) (e : Nat) (f : Window → Window) : State := { s with windows := s.windows.modify e f }
def State.order? (s : State) (o : Nat) : Option Order := s.orders.find? (fun x => x.id == o)
def State.upOrder (s : State) (o : Nat) (f : Order → Order) : State :=
  { s with orders := s.orders.map (fun x => if x.id = o then f x else x) }
def State.ctx? (s : State) (p n : Nat) : Option Ctx := s.ctxs.find? (fun c => c.p == p && c.session == n)
def State.upCtx (s : State) (p n : Nat) (f : Ctx → Ctx) : State :=
  { s with ctxs := s.ctxs.map (fun c => if c.p = p ∧ c.session = n then f c else c) }
def State.upClk (s : State) (f : Clk → Clk) : State := { s with clk := f s.clk }
def State.upKettle (s : State) (f : Kettle → Kettle) : State := { s with kettle := f s.kettle }
def State.upDrain (s : State) (f : Drain → Drain) : State := { s with drain := f s.drain }
def State.upMon (s : State) (f : Mon → Mon) : State := { s with mon := f s.mon }
def State.upPanel (s : State) (f : Panel → Panel) : State := { s with panel := f s.panel }
def State.upCfg (s : State) (f : Cfg → Cfg) : State := { s with cfg := f s.cfg }
def State.upTxn (s : State) (f : Txn → Txn) : State := { s with cfg := { s.cfg with txn := f s.cfg.txn } }
/-- The translation of an engine address that a partition makes now (R312). -/
def State.spaceAt (s : State) (p ea : Nat) : Option Space := some { tag := eaTag ea, gen := (s.part p).invGen }
/-- The translation of an engine address that a tile holds. -/
def Tile.under (t : Tile) (ea : Nat) : Option Space := some { tag := eaTag ea, gen := t.gen }
def State.upInts (s : State) (f : Ints → Ints) : State := { s with ints := f s.ints }
def State.upMig (s : State) (f : Mig → Mig) : State := { s with mig := f s.mig }
/-- A new number of the model. -/
def State.fresh (s : State) : State := { s with nextId := s.nextId + 1 }
/-- The core-cycle stamp (R383). -/
def State.stamp (s : State) : Nat := s.clk.count.toNat

/-! ### The live configuration (R39) -/

def secOf (l : List Sec) (ty ow ins : Nat) : Option Section :=
  (l.find? (fun x => x.type == ty && x.owner == ow && x.inst == ins)).map Sec.body

def partEnt (l : List Sec) (p : Nat) : PartEnt :=
  match secOf l 1 0 0 with
  | some (.partitions es) => es.getD p {}
  | _ => {}

def wayMask (l : List Sec) (p : Nat) : Nat :=
  match secOf l 2 0 0 with
  | some (.ways ms) => ms.getD p 0
  | _ => 0

def stacksOf (l : List Sec) : List StackEnt :=
  match secOf l 3 0 0 with
  | some (.stacks es) => es
  | _ => []

def bindingOf (l : List Sec) (p i : Nat) : Option Binding :=
  match secOf l 4 p i with
  | some (.binding b) => some b
  | _ => none

def shardMapOf (l : List Sec) (p i : Nat) : Option ShardMap :=
  match secOf l 5 p i with
  | some (.shardMap m) => some m
  | _ => none

def jigOf (l : List Sec) (p i : Nat) : Option Jig :=
  match secOf l 6 p i with
  | some (.jig j) => some j
  | _ => none

def scalesOf (l : List Sec) (p i : Nat) : Option (List ScaleEnt) :=
  match secOf l 7 p i with
  | some (.scales es) => some es
  | _ => none

def plausOf (l : List Sec) (p i : Nat) : Option Plaus :=
  match secOf l 8 p i with
  | some (.plaus x) => some x
  | _ => none

/-- contexts and steeping_max (R48). -/
def quotaOf (l : List Sec) (p : Nat) : Nat × Nat :=
  match secOf l 9 0 0 with
  | some (.quotas es) => es.getD p (0, 0)
  | _ => (0, 0)

def policyOf (l : List Sec) : Policy :=
  match secOf l 0xA 0 0 with
  | some (.policy k) => k
  | _ => {}

def planOf (l : List Sec) : Plan :=
  match secOf l 0xB 0 0 with
  | some (.plan c) => c
  | _ => {}

def spillOf (l : List Sec) (p i : Nat) : Option Spill :=
  match secOf l 0xC p i with
  | some (.spill x) => some x
  | _ => none

def State.pe (s : State) (p : Nat) : PartEnt := partEnt s.cfg.live p
def State.enabled (s : State) (p : Nat) : Bool := (s.pe p).enabled
def State.hostFace (s : State) (p : Nat) : Nat := (s.pe p).hostFace
def State.stacks (s : State) : List StackEnt := stacksOf s.cfg.live
/-- The tag lies in the partition's range (R76). -/
def PartEnt.hasTag (e : PartEnt) (t : Nat) : Bool := e.enabled && e.tagBase ≤ t && t < e.tagBase + e.tagCount
/-- Enabled partitions, ascending. -/
def State.enabledParts (s : State) : List Nat := (List.range 8).filter s.enabled
/-- The partitions behind a face: those whose host_face it is (R348, R364). -/
def State.partsBehind (s : State) (f : Nat) : List Nat := s.enabledParts.filter (fun p => s.hostFace p == f)
/-- The partition that owns a bench (R14). -/
def State.ownerOf (s : State) (b : Nat) : Option Nat := s.enabledParts.find? (fun p => (s.pe p).benchMask.testBit b)
/-- A partition's lowest bench. -/
def State.lowBench (s : State) (p : Nat) : Nat := nthSet (s.pe p).benchMask 0

/-- The STACK_MAP entry whose range holds a physical address (R43). -/
def stackIx (es : List StackEnt) (pa : Nat) : Option Nat :=
  es.findIdx? (fun e => e.base ≤ pa && pa < e.base + e.length)

/-- The face of an access that no jig chooses: near_face of the entry that holds the address (R268); face 0
before the first commit. -/
def faceIn (es : List StackEnt) (pa : Nat) : Nat :=
  match stackIx es pa with
  | some i => ((es[i]?).map StackEnt.nearFace).getD 0
  | none => 0

def State.nearFace (s : State) (pa : Nat) : Nat := faceIn s.stacks pa

/-- The stack map of an epoch: a tile keeps that of the epoch it started under (R65, R66). -/
def State.stacksAt (s : State) (epoch : Nat) : List StackEnt := if epoch < s.cfg.epoch then s.cfg.before else s.stacks

/-! ### The repair log (R333 to R337) -/

def retiredMask (l : List LogEnt) (b : Nat) : Nat :=
  l.foldl (fun m e => match e with | .retire c w => if c = b then m ||| (1 <<< w) else m | _ => m) 0

def suspectMask (l : List LogEnt) : Nat :=
  l.foldl (fun m e => match e with | .suspectBench b _ => m ||| (1 <<< b) | _ => m) 0

def logReplace (l : List LogEnt) : Bool :=
  l.any (fun e => match e with | .replace => true | .suspectBench .. => true | .suspectDie _ => true | _ => false)

def logSuspect (l : List LogEnt) : Bool :=
  l.any (fun e => match e with | .suspectBench .. => true | .suspectDie _ => true | _ => false)

def remapCount (l : List LogEnt) (b : Nat) : Nat :=
  (l.filter (fun e => match e with | .remap st c _ => st != .cupboard && c == b | _ => false)).length

def storeRemaps (l : List LogEnt) (st : Store) (b : Nat) : Nat :=
  (l.filter (fun e => match e with | .remap t c _ => t == st && c == b | _ => false)).length

/-- All repairs in force: written entries and those whose write waits for the rails (R424). -/
def State.repairs (s : State) : List LogEnt := s.log ++ s.logDue
def State.suspect (s : State) (b : Nat) : Bool := (suspectMask s.repairs).testBit b
/-- A partition's effective Chest mask on a bench (R42, R169). -/
def State.effWays (s : State) (p b : Nat) : Nat :=
  wayMask s.cfg.live p &&& (0xFFFF ^^^ retiredMask s.repairs b)

/-- A rail reads outside its range (R424). -/
def State.railsBad (s : State) : Bool := s.kettle.rails.any (fun r => r.lowLast || r.highLast)

/-- Write to the repair log. The write waits while a rail is out of range (R424); what a full log cannot take is in force
until power-off (R333, R334). -/
def State.logRepair (s : State) (e : LogEnt) : State :=
  if s.railsBad || s.log.length ≥ 256 then { s with logDue := s.logDue ++ [e] } else { s with log := s.log ++ [e] }

/-- An entry of the Kettle log (R410). -/
def State.klog (s : State) (code a0 a1 : Nat) : State :=
  s.upKettle (fun k => { k with log := (⟨s.wear.seconds, code, a0, a1⟩ :: k.log).take 256 })

/-! ### Modules, slot tables (R349), messages -/

def Modl.slots (m : Modl) : Nat := if m.state = .inService then m.lanes / 32 else 0

def Face.slotTable (x : Face) : List Nat :=
  (x.mods.zipIdx).flatMap (fun (m, i) => List.replicate m.slots i)

/-- A face is down while none of its modules is in service (R364). -/
def Face.up (x : Face) : Bool := x.mods.any (fun m => m.slots != 0)

/-- The module of a request to a line: slot A[47:9] mod S (R349). -/
def Face.moduleFor (x : Face) (line : Nat) : Option Nat :=
  let t := x.slotTable
  t[(line / 4) % t.length]?

/-- The lowest module in service (R349). -/
def Face.lowest (x : Face) : Option Nat := x.mods.findIdx? (fun m => m.slots != 0)

def State.queueMsg (s : State) (f m : Nat) (x : Msg) : State :=
  s.upMod f m (fun y => { y with txMsgs := y.txMsgs ++ [x] })

/-- The face fraction φ of a face as lanes and their full number (R273). -/
def State.phi (s : State) (f : Nat) : Nat × Nat :=
  (((s.face f).mods.map (fun m => if m.state = .inService then m.lanes else 0)).foldl (· + ·) 0,
    64 * s.variant.moduleCount)

/-- The throttle level for min(v / 256, φ) (R54, R273): compared by cross-multiplication. -/
def levelOf (v num den : Nat) : Nat :=
  let atLeast (a b : Nat) : Bool := v * b ≥ 256 * a && num * b ≥ den * a
  if atLeast 1 1 then 0 else if atLeast 3 4 then 1 else if atLeast 1 2 then 2 else 3

/-- The throttle level of an entry of a stack map. -/
def State.levelIn (s : State) (es : List StackEnt) (e : Nat) : Nat :=
  match es[e]? with
  | some x => let (n, d) := s.phi x.nearFace; levelOf (s.window e).v n d
  | none => 0

def State.level (s : State) (e : Nat) : Nat := s.levelIn s.stacks e

/-! ### Requests -/

/-- The least number not used, from `k` up, within `fuel` tries. -/
def freeTag (used : List Nat) : Nat → Nat → Option Nat
  | 0, _ => none
  | n + 1, k => if used.contains k then freeTag used n (k + 1) else some k

/-- Lines admitted per interval to a window (R274). -/
def Window.limit (w : Window) : Nat := ceilDiv (w.v * w.peakNow) 256

/-- Read slots in use on a bench (R148). -/
def State.slotsUsed (s : State) (b : Nat) : Nat :=
  (s.reads.filter (fun r => r.bench == some b && r.slot)).foldl (fun a r => a + r.left.length) 0

/-- A read comes before another in the granting of read slots: its tile is older, or of the same age it was asked for
first (R148). -/
def ReadReq.before (x y : ReadReq) : Bool := x.age < y.age || (x.age == y.age && x.id < y.id)

/-- `n` read slots of a read's bench are free, and no read of an older tile waits for them (R148). -/
def State.slotRoom (s : State) (r : ReadReq) (n : Nat) : Bool :=
  match r.bench with
  | none => true
  | some b => s.slotsUsed b + n ≤ 8192 && s.reads.all (fun x => x.bench != some b || x.slot || !x.before r)

/-- A read takes its bench's read slots when they are free and no read of an older tile waits for them (R148). -/
def State.takeSlot (s : State) (r : ReadReq) : Bool := r.bench.isNone || r.slot || s.slotRoom r r.left.length

def State.setRead (s : State) (id : Nat) (f : ReadReq → ReadReq) : State :=
  { s with reads := s.reads.map (fun r => if r.id = id then f r else r) }
def State.setWrite (s : State) (id : Nat) (f : WriteReq → WriteReq) : State :=
  { s with writes := s.writes.map (fun w => if w.id = id then f w else w) }

/-- The lines of a read from index `k` on. -/
def ReadReq.rest (r : ReadReq) (k id : Nat) : ReadReq :=
  { r with id := id, modl := none, tag := 0, line := r.line + k, lines := r.lines - k, left := List.range (r.lines - k),
           wants := (r.wants.filter (fun w => k ≤ w.2)).map (fun w => (w.1, w.2 - k)) }
/-- Its first `k` lines. -/
def ReadReq.first (r : ReadReq) (k : Nat) : ReadReq :=
  { r with lines := k, left := List.range k, wants := r.wants.filter (fun w => w.2 < k) }

/-- A waiting read is cut: its first `k` lines keep its number, the others wait under a new one (R274). -/
def State.cutRead (s : State) (r : ReadReq) (k : Nat) : State :=
  { s.fresh with reads := s.reads ++ [r.rest k s.nextId] }.setRead r.id (fun x => x.first k)

/-- Writes issued under a face's previous slot table are not all acknowledged or reissued: no new request goes (R349, R350). -/
def State.oldTable (s : State) (f : Nat) : Bool := !(s.face f).oldWrites.isEmpty || s.narrows.any (fun n => n.face == f && n.old)

/-- A request of a 512-byte block that a module left unanswered waits to be sent again: no new request to the block goes before
it (R363). -/
def State.blockWaits (s : State) (f line : Nat) : Bool :=
  s.reads.any (fun r => r.face == f && r.modl.isNone && r.nth.isSome && r.line / 4 == line / 4) ||
  s.writes.any (fun w => w.face == f && w.modl.isNone && w.nth.isSome && w.line / 4 == line / 4)

/-- Send a waiting read, if its face is up, slots of its bench are free, its window's limiter admits it and a tag is free (R148, R274,
R350, R357). The limiter counts lines: of a read it admits in part, the rest waits. A read that it holds back keeps its slots. A read
that a module left unanswered was admitted before (R363). -/
def tryRead (s : State) (id : Nat) : State :=
  match s.reads.find? (fun r => r.id == id) with
  | none => s
  | some r =>
    let again := r.nth.isSome
    if r.modl.isSome || !(again || s.takeSlot r) then s else
    let s := s.setRead id (fun r => { r with slot := true })
    let x := s.face r.face
    let room := match r.entry with | some e => (s.window e).limit - (s.window e).admitted | none => r.lines
    if !again && (s.oldTable r.face || s.blockWaits r.face r.line || room = 0) then s else
    match x.moduleFor r.line with
    | none => s
    | some m =>
      match freeTag ((s.reads.filter (fun y => y.face == r.face && y.modl == some m)).map ReadReq.tag) 4096 0 with
      | none => s
      | some tag =>
        let n := if again then r.lines else min room r.lines
        let s0 := if n < r.lines then s.cutRead { r with slot := true } n else s
        let s1 := s0.fresh.setRead id (fun y => { y with modl := some m, tag := tag, nth := some (r.nth.getD s0.nextId) })
        let s2 := match (if again then none else r.entry) with
          | some e => s1.upWindow e (fun w => { w with lines := (w.lines + n) % 2 ^ 64, admitted := w.admitted + n })
          | none => s1
        s2.queueMsg r.face m (.rd r.line n tag)

/-- The code of DIE_RESET_PENDING (R131). -/
def pendingCode : Nat := 0x0015

/-- The write of a DIE_RESET_PENDING record (R327). -/
def WriteReq.isPending (w : WriteReq) : Bool :=
  let at_ := ((List.range 128).find? (fun i => w.mask.toNat.testBit i)).getD 0
  match w.own with
  | .record _ r => r == 33 && (w.bytes.toNat >>> (8 * at_)) % 2 ^ 16 == pendingCode
  | _ => false

/-- Send a waiting write, if its face is up and a tag is free (R350, R357, R363). After a die-reset error every memory write but those
of DIE_RESET_PENDING is blocked (R327). -/
def tryWrite (s : State) (id : Nat) : State :=
  match s.writes.find? (fun w => w.id == id) with
  | none => s
  | some w =>
    if w.modl.isSome || (s.rstDie.isSome && !w.isPending) then s else
    let x := s.face w.face
    if w.nth.isNone && (s.oldTable w.face || s.blockWaits w.face w.line) then s else
    match x.moduleFor w.line with
    | none => s
    | some m =>
      match freeTag ((s.writes.filter (fun y => y.face == w.face && y.modl == some m)).map WriteReq.tag) 4096 0 with
      | none => s
      | some tag =>
        (s.fresh.setWrite id (fun y => { y with modl := some m, tag := tag, nth := some (w.nth.getD s.nextId) })).queueMsg w.face m
          (.wr w.line tag w.poison w.mask w.bytes)

/-- The place of a bench in the turn of a face: the bench after the one granted last comes first; what comes from no bench (page
walks, ring and Kettle traffic) has a ninth place of its own, after the benches (R16). DESIGN CHOICE (log 52): the rule speaks of
benches only. -/
def turnOf (last : Nat) (b : Option Nat) : Nat := (b.getD 8 + 9 - (last + 1) % 9) % 9

/-- A request that waits at a face: write or read, its number, its bench, and its place among those sent if it is to be sent again. -/
structure Waiting where
  write : Bool
  id : Nat
  bench : Option Nat
  nth : Option Nat

/-- The requests that wait at a face: first those to be sent again, in their original order (R363), then the others in the order of
the turn among benches (R16); of one bench its writes before its reads, oldest first. DESIGN CHOICE (log 52): which of a bench's
requests takes its turn the spec does not say. -/
def State.waitingAt (s : State) (f : Nat) : List Waiting :=
  let l := (s.writes.filter (fun w => w.face == f && w.modl.isNone)).map (fun w => (⟨true, w.id, w.bench, w.nth⟩ : Waiting)) ++
    (s.reads.filter (fun r => r.face == f && r.modl.isNone)).map (fun r => ⟨false, r.id, r.bench, r.nth⟩)
  sortBy (fun x y => decide (x.nth.getD 0 ≤ y.nth.getD 0)) (l.filter (fun x => x.nth.isSome)) ++
    sortBy (fun x y => decide (turnOf (s.face f).turn x.bench ≤ turnOf (s.face f).turn y.bench)) (l.filter (fun x => x.nth.isNone))

/-- A request is on a module. -/
def State.sent (s : State) (x : Waiting) : Bool :=
  if x.write then s.writes.any (fun w => w.id == x.id && w.modl.isSome) else s.reads.any (fun r => r.id == x.id && r.modl.isSome)

/-- Try requests in order until one is granted; the turn passes to its bench (R16). -/
def grantOne (f : Nat) (s : State) : List Waiting → State × Bool
  | [] => (s, false)
  | x :: xs =>
    let s1 := if x.write then tryWrite s x.id else tryRead s x.id
    if s1.sent x then (s1.upFace f (fun y => { y with turn := x.bench.getD 8 }), true) else grantOne f s1 xs

/-- Grant what a face can send, one request of a bench at a turn (R16). -/
def pumpFace (f : Nat) (s : State) : Nat → State
  | 0 => s
  | n + 1 =>
    match grantOne f s (s.waitingAt f) with
    | (s1, true) => pumpFace f s1 n
    | (s1, false) => s1

/-- Send what can be sent: the faces grant at the end of each command what it and the commands before it have asked for. Read slots
are granted first, to the oldest tiles (R16, R148). -/
def pump (s : State) : State :=
  let s := (sortBy (fun (x y : ReadReq) => x.before y) (s.reads.filter (fun r => !r.slot))).foldl (fun s r =>
    match s.reads.find? (fun x => x.id == r.id) with
    | some x => if s.takeSlot x then s.setRead r.id (fun x => { x with slot := true }) else s
    | none => s) s
  (List.range 4).foldl (fun s f => pumpFace f s (s.waitingAt f).length) s

/-- A write of one line through a face (R175, R357). It waits for the face to grant it. -/
def State.postLine (s : State) (own : WriteFor) (p face line : Nat) (mask : BitVec 128) (bytes : Line) (poison : Bool)
    (intr : Option (Nat × Bool)) (space : Option Space) (also : List WriteFor := []) (bench : Option Nat := none) : State :=
  let w : WriteReq := { id := s.nextId, own := own, also := also, face := face, line := line, mask := mask, bytes := bytes,
                        poison := poison, part := p, bench := bench, intr := intr, space := space }
  { s.fresh with writes := s.writes ++ [w] }

/-- The lines that `n` bytes at a physical address touch, with byte masks and data. -/
def lineParts (pa n v : Nat) : List (Nat × BitVec 128 × Line) :=
  if n = 0 then [] else
  let l0 := pa / 128
  (List.range ((pa + n - 1) / 128 + 1 - l0)).map (fun i =>
    let line := l0 + i
    let lo := max pa (line * 128)
    let hi := min (pa + n) (line * 128 + 128)
    let k := hi - lo
    let at_ := lo - line * 128
    (line, BitVec.ofNat 128 ((2 ^ k - 1) <<< at_),
      BitVec.ofNat 1024 (((v >>> (8 * (lo - pa))) % 2 ^ (8 * k)) <<< (8 * at_))))

/-- A write of `n` bytes of a bench at a physical address, line by line, through the face R268 names. -/
def State.postBytes (s : State) (own : WriteFor) (p : Nat) (bench : Option Nat) (pa n v : Nat) (space : Option Space) : State :=
  (lineParts pa n v).foldl (fun s x => s.postLine own p (s.nearFace (x.1 * 128)) x.1 x.2.1 x.2.2 false none space [] bench) s

/-- Merge masked bytes into a line. -/
def maskBits (m : BitVec 128) : Line :=
  BitVec.ofNat 1024 ((List.range 128).foldl (fun a i => if m.toNat.testBit i then a + (255 <<< (8 * i)) else a) 0)

def mergeLine (old : Line) (m : BitVec 128) (new : Line) : Line :=
  (old &&& ~~~ (maskBits m)) ||| (new &&& maskBits m)

/-! ### Returned lines -/

def State.heldLine (s : State) (c : Consumer) (l : Nat) : Option Held :=
  s.held.find? (fun h => h.cons == c && h.line == l)

def State.asked (s : State) (c : Consumer) (l : Nat) : Bool :=
  s.reads.any (fun r => r.left.any (fun i => r.line + i == l && r.wants.contains (c, i)))

/-- The order that a consumer works for. -/
def Consumer.order? : Consumer → Option Nat
  | .desc o | .order o | .tile o _ | .bags o _ | .upd o _ | .row o .. | .prefetch o .. => some o
  | _ => none

/-- A read has a consumer that satisfies `f`. -/
def ReadReq.isFor (r : ReadReq) (f : Consumer → Bool) : Bool := r.wants.any (fun w => f w.1)

def State.dropHeld (s : State) (c : Consumer) : State := { s with held := s.held.filter (fun h => h.cons != c) }
def State.dropReads (s : State) (f : ReadReq → Bool) : State := { s with reads := s.reads.filter (fun r => !f r) }

/-- Consumers give up what they hold and are reading of the lines that satisfy `g`: a read that is not sent and that no one
wants any more goes; the data of one that is sent is used by no one. -/
def State.quitWhere (s : State) (f : Consumer → Bool) (g : Nat → Bool) : State :=
  let cut (r : ReadReq) : ReadReq := { r with wants := r.wants.filter (fun w => !(f w.1 && g (r.line + w.2))) }
  { s with held := s.held.filter (fun x => !(f x.cons && g x.line))
           reads := (s.reads.filter (fun (r : ReadReq) => !((cut r).wants.isEmpty && r.modl.isNone))).map cut }

/-- A consumer gives up its reads. -/
def State.quitReads (s : State) (c : Consumer) : State := s.quitWhere (· == c) (fun _ => true)

/-- Split ascending lines into runs within a 512-byte block (R175). -/
def runsOf : List Nat → List (Nat × Nat)
  | [] => []
  | l :: ls =>
    match runsOf ls with
    | (k, n) :: rest => if k = l + 1 ∧ k / 4 = l / 4 then (l, n + 1) :: rest else (l, 1) :: (k, n) :: rest
    | [] => [(l, 1)]

/-- Two waiting reads of a tile, through one bench, face and window, of lines of one 512-byte block that touch: one burst (R175). -/
def ReadReq.joins (r x : ReadReq) : Bool :=
  r.modl.isNone && r.nth.isNone && x.group.isSome && r.group == x.group && r.bench == x.bench && r.face == x.face && r.entry == x.entry &&
    r.space == x.space && x.line / 4 == r.line / 4 && x.line ≤ r.line + r.lines && r.line ≤ x.line + x.lines

/-- The burst of two reads: it keeps the number, and the read slots, of the first. -/
def ReadReq.join (r x : ReadReq) : ReadReq :=
  let lo := min r.line x.line
  let n := max (r.line + r.lines) (x.line + x.lines) - lo
  { r with line := lo, lines := n, left := List.range n,
           wants := r.wants.map (fun w => (w.1, w.2 + (r.line - lo))) ++ x.wants.map (fun w => (w.1, w.2 + (x.line - lo))) }

/-- The read slots that the burst of two reads holds: those of the one that holds its own, if there are slots for the other (R274). -/
def State.joinSlots (s : State) (r x : ReadReq) : Bool :=
  r.slot == x.slot || s.slotRoom r (if r.slot then x.lines else r.lines)

/-- Queue a read: as part of a waiting read that it joins, else as a read of its own. The burst may join a further one. -/
def State.queueRead (s : State) (x : ReadReq) : Nat → State
  | 0 => { s with reads := s.reads ++ [x] }
  | n + 1 =>
    match s.reads.find? (fun r => r.joins x && s.joinSlots r x) with
    | some r =>
      State.queueRead { s with reads := s.reads.filter (fun z => z.id != r.id) } { r.join x with slot := r.slot || x.slot } n
    | none => { s with reads := s.reads ++ [x] }

/-- Queue reads of the lines of a consumer that are neither held nor asked for, through a face, in bursts of a 512-byte block
(R175, R268). -/
def State.queueReads (s : State) (c : Consumer) (p : Nat) (bench : Option Nat) (face : Nat) (ls : List Nat) (space : Option Space)
    (age : Nat) (group : Nat × Nat) : State :=
  (sortNat (ls.filter (fun l => (s.heldLine c l).isNone && !s.asked c l))).foldl (fun s l =>
    s.fresh.queueRead { id := s.nextId, wants := [(c, 0)], face := face, line := l, lines := 1, left := [0], bench := bench, entry := stackIx s.stacks (l * 128), part := p, space := space, age := age, group := some group } 4) s

/-- Ask for the lines of a consumer that are neither held nor asked for, through a face (R175, R268). -/
def State.ask (s : State) (c : Consumer) (p : Nat) (bench : Option Nat) (face : Nat) (ls : List Nat)
    (space : Option Space) (age : Nat := 0) : State :=
  let want := sortNat (ls.filter (fun l => (s.heldLine c l).isNone && !s.asked c l))
  (runsOf want).foldl (fun s r =>
    { s.fresh with reads := s.reads ++ [{ id := s.nextId, wants := (List.range r.2).map (fun i => (c, i)), face := face, line := r.1, lines := r.2, left := List.range r.2, bench := bench, entry := stackIx s.stacks (r.1 * 128), part := p, space := space, age := age }] }) s

/-- The lines of `n` bytes at a physical address. -/
def linesOf (pa n : Nat) : List Nat :=
  if n = 0 then [] else (List.range ((pa + n - 1) / 128 + 1 - pa / 128)).map (fun i => pa / 128 + i)

/-- `n` bytes at a physical address from a consumer's held lines: the bytes, and whether a line is poisoned; none
while a line is missing. -/
def State.getBytes (s : State) (c : Consumer) (pa n : Nat) : Option (Nat × Bool) :=
  let rec go : List Nat → Nat → Option (Nat × Bool)
    | [], _ => some (0, false)
    | l :: ls, i =>
      match s.heldLine c l, go ls (i + 1) with
      | some h, some (v, b) => some (v + (h.bytes.toNat <<< (1024 * i)), b || h.poisoned)
      | _, _ => none
  match go (linesOf pa n) 0 with
  | some (v, b) => some (leAt v (pa % 128) n, b)
  | none => none

/-! ### Interrupts (R78, R104, R359) -/

/-- An interrupt of a partition on its host face: on the lowest module in service, or waiting on module 0. -/
def State.interrupt (s : State) (p vector : Nat) (error : Bool) : State :=
  let f := s.hostFace p
  s.queueMsg f (((s.face f).lowest).getD 0) (.intr p vector error)

/-! ### Counters (R81, R121) -/

def bump (l : List Nat) (i n : Nat) : List Nat := l.modify i (fun x => (x + n) % 2 ^ 64)

/-- Partition counter `i`, numbered from 1 as in R121. -/
def State.countPart (s : State) (p i n : Nat) : State := s.upPart p (fun x => { x with ctrs := bump x.ctrs (i - 1) n })

/-- Binding counter `i`, numbered from 1. -/
def State.countBind (s : State) (p bind i n : Nat) : State :=
  s.upPart p (fun x =>
    if x.bindCtrs.any (fun y => y.1 == bind) then
      { x with bindCtrs := x.bindCtrs.map (fun y => if y.1 = bind then (y.1, bump y.2 (i - 1) n) else y) }
    else { x with bindCtrs := x.bindCtrs ++ [(bind, bump (List.replicate 11 0) (i - 1) n)] })

/-- Session counter `i`, numbered from 1. -/
def State.countSess (s : State) (p n i k : Nat) : State := s.upCtx p n (fun c => { c with ctrs := bump c.ctrs (i - 1) k })

/-- Parity and uncorrectable errors of bench stores are counted (R341). -/
def Ints.parity (i : Ints) (n : Nat) : Ints := { i with uncorrected := satAdd i.uncorrected n 0xFFFFFFFF }

/-- A shard's cumulative reads (R276). -/
def State.countShard (s : State) (p map shard n : Nat) : State :=
  s.upPart p (fun x =>
    if x.shardCtrs.any (fun y => y.1 == map && y.2.1 == shard) then
      { x with shardCtrs := x.shardCtrs.map (fun y => if y.1 = map ∧ y.2.1 = shard then (map, shard, (y.2.2 + n) % 2 ^ 64) else y) }
    else { x with shardCtrs := x.shardCtrs ++ [(map, shard, n)] })

/-- Work that a bench has: sessions on it, tiles on it, merge shares or tiles held (R331). -/
def State.benchBusy (s : State) (b : Nat) : Bool :=
  s.ctxs.any (fun c => c.home == b && (c.state != .parked || !c.tiles.isEmpty)) ||
  s.orders.any (fun o => o.tiles.any (fun t => t.bench == b && !t.consumed) || o.shares.contains b ||
    o.scoreTiles.any (fun t => t.bench == b) || o.sels.any (fun x => x.1 == b) || o.steps.any (fun x => x.1 == b))

/-- Orders live of a partition (R64). -/
def State.liveOf (s : State) (p : Nat) : List Order := s.orders.filter (fun o => o.p == p)

/-- Work arrives for a bench: a power-gated one powers up (R380), and it is idle no more (R331). -/
def State.powerUp (s : State) (b : Nat) : State :=
  (s.upBench b (fun x => if x.power = .gated then { x with power := .powering } else x)).upKettle (fun k => { k with idle := k.idle.set b 0 })

/-- Seconds of the 24 powered hours over which failures add up (R333, R336). -/
def dayOf : Nat := 24 * 3600

/-- A partition reset is acting: tiles under way go on to their end, and nothing else of the partition does (R94). One that waits
for the switch of the partition's transaction does not act yet (R67). -/
def State.resetting (s : State) (p : Nat) : Bool := (s.part p).busy && !(s.part p).resetDue

/-- A drain is in force (R338). -/
def State.draining (s : State) : Bool := s.drain.inForce

end Sys2Proof.Machine
end

