-- ==== Sys2Proof/Machine/Translate.lean ====
section
/-! DEFINITION. Translation of engine addresses: roots, range and directory caches, walks, invalidation
(R291 to R318 of 11_translation.md). -/

namespace Sys2Proof.Machine

/-! ### Roots and shares -/

/-- The root of a tag in a partition's window: physical address and valid bit (R294). -/
def State.root (s : State) (p t : Nat) : Nat × Bool :=
  match (s.part p).roots.find? (fun r => r.1 == t) with
  | some r => r.2
  | none => (0, false)

def State.setRoot (s : State) (p t pa : Nat) (v : Bool) : State :=
  s.upPart p (fun x => { x with roots := (x.roots.filter (fun r => r.1 != t)) ++ [(t, pa, v)] })

/-- The range cache share of a partition behind a face with `k` enabled partitions (R301). -/
def rangeShare (k : Nat) : Nat := if k = 0 then 0 else 4096 / k / 64 * 64
/-- The directory cache share. -/
def dirShare (k : Nat) : Nat := if k = 0 then 0 else 2048 / k / 32 * 32

def State.rangeShareOf (s : State) (p : Nat) : Nat :=
  if s.enabled p then rangeShare (s.partsBehind (s.hostFace p)).length else 0
def State.dirShareOf (s : State) (p : Nat) : Nat :=
  if s.enabled p then dirShare (s.partsBehind (s.hostFace p)).length else 0

/-! ### Ranges -/

def Range.covers (r : Range) (tag page : Nat) : Bool := r.tag == tag && r.page ≤ page && page < r.page + r.len
def Range.pa (r : Range) (va : Nat) : Nat := (r.phys + (va / 4096 - r.page)) * 4096 + va % 4096

/-- What a translation answers: a physical address, a fault, poison met by the walk, or nothing yet. -/
inductive Xl where
  | ok (pa : Nat) (w : Bool)
  | fault (perm outside : Bool)
  | wait
  deriving DecidableEq, Repr

/-- Judge a range found: writability (R297) and the stack map (R298); a fault says of each whether it fails (R307). -/
def judge (s : State) (r : Range) (va : Nat) (write : Bool) : Xl :=
  let outside := (stackIx s.stacks (r.pa va)).isNone
  let perm := write && !r.write
  if outside || perm then .fault perm outside else .ok (r.pa va) r.write

/-- Look up the range cache of a partition's host face; a hit becomes the most recently used. -/
def State.lookRange (s : State) (p tag page : Nat) : Option Range × State :=
  let f := s.hostFace p
  match s.ranges.find? (fun x => x.1 == f && x.2.part == p && x.2.covers tag page) with
  | some x => (some x.2, { s with ranges := s.ranges.filter (fun y => y != x) ++ [x] })
  | none => (none, s)

/-- Drop every range of the tag that covers a page (R302). -/
def State.dropPage (s : State) (tag page : Nat) : State :=
  { s with ranges := s.ranges.filter (fun x => !x.2.covers tag page) }

/-- Insert a range within its partition's share, replacing the least recently used; a hot range only when every
other range of the share is hot; a range inserted again stays hot (R301, R317). -/
def State.addRange (s : State) (r : Range) : State :=
  let f := s.hostFace r.part
  let mine (x : Nat × Range) : Bool := x.1 == f && x.2.part == r.part
  let share := s.rangeShareOf r.part
  let same (x : Nat × Range) : Bool := mine x && x.2.tag == r.tag && x.2.page == r.page && x.2.len == r.len
  let rest := s.ranges.filter (fun x => !same x)
  let r := { r with hot := r.hot || s.ranges.any (fun x => same x && x.2.hot) }
  if share = 0 then s
  else if (rest.filter mine).length < share then { s with ranges := rest ++ [(f, r)] }
  else
    let victim := ((rest.find? (fun x => mine x && !x.2.hot)).orElse (fun _ => rest.find? mine))
    { s with ranges := (match victim with | some v => rest.erase v | none => rest) ++ [(f, r)] }

/-- Drop from a list the first of the elements counted until at most `n` of them are left. -/
def trimTo {α : Type} (f : α → Bool) (n : Nat) (l : List α) : List α :=
  let rec go : Nat → List α → List α
    | 0, l => l
    | _, [] => []
    | k + 1, x :: xs => if f x then go k xs else x :: go (k + 1) xs
  go ((l.filter f).length - n) l

/-- The caches of the faces are cut to the shares, least recently used first: after a commit that changes them. A partition has a
share at its host face alone (R301). -/
def State.trimShares (s : State) : State :=
  (List.range 8).foldl (fun s p => (List.range 4).foldl (fun s f =>
    let n (share : Nat) : Nat := if s.hostFace p = f then share else 0
    { s with ranges := trimTo (fun x => x.2.part == p && x.1 == f) (n (s.rangeShareOf p)) s.ranges, dirs := trimTo (fun x => x.2.part == p && x.1 == f) (n (s.dirShareOf p)) s.dirs }) s) s

/-- Insert a directory entry within its partition's share (R299, R301). -/
def State.addDir (s : State) (d : Dir) : State :=
  let f := s.hostFace d.part
  let mine (x : Nat × Dir) : Bool := x.1 == f && x.2.part == d.part
  let share := s.dirShareOf d.part
  let rest := s.dirs.filter (fun x => !(mine x && x.2.tag == d.tag && x.2.level == d.level && x.2.index == d.index))
  if share = 0 then s
  else if (rest.filter mine).length < share then { s with dirs := rest ++ [(f, d)] }
  else { s with dirs := (match rest.find? mine with | some v => rest.erase v | none => rest) ++ [(f, d)] }

/-! ### Walks -/

/-- The bits of a virtual address that index a level (R296). -/
def levelIx (va level : Nat) : Nat := (va / 2 ^ (12 + 9 * (level - 1))) % 512
/-- The address of the entry of a level's table. -/
def entryPa (table va level : Nat) : Nat := table + 8 * levelIx va level

/-- Where a walk starts: the lowest level whose table the directory cache names (R299), else the root. The entry used becomes the
most recently used (R301). -/
def State.walkStart (s : State) (p tag va : Nat) : State × Nat × Nat :=
  let f := s.hostFace p
  let find (l : Nat) : Option (Nat × Dir) :=
    s.dirs.find? (fun x => x.1 == f && x.2.part == p && x.2.tag == tag && x.2.level == l && x.2.index == va / 2 ^ (12 + 9 * (l - 1)))
  let used (x : Nat × Dir) : State := { s with dirs := s.dirs.filter (fun y => y != x) ++ [x] }
  match find 3, find 4 with
  | some x, _ => (used x, 2, x.2.table)
  | none, some x => (used x, 3, x.2.table)
  | none, none => (s, 4, (s.root p tag).1)

/-- Ask for the table line of a walk at its level. The table lies outside every stack: answers none (R298). -/
def State.askWalk (s : State) (id p va level table : Nat) : Option State :=
  let pa := entryPa table va level
  if (stackIx s.stacks pa).isNone then none
  else some (s.ask (.walk id) p none (s.nearFace pa) [pa / 128] none)

/-- Walks of a face that hold one of its walker's places. -/
def State.walksOf (s : State) (f : Nat) : Nat := (s.walks.filter (fun w => w.face == f && !w.queued)).length

def State.setWalk (s : State) (id : Nat) (g : Walk → Walk) : State :=
  { s with walks := s.walks.map (fun (x : Walk) => if x.id = id then g x else x) }

/-- A walk with a place begins; none where its table lies outside every stack (R298). -/
def State.beginWalk (s : State) (w : Walk) : Option State :=
  let (s1, level, table) := s.walkStart w.part w.tag w.va
  (s1.setWalk w.id (fun x => { x with level := level, queued := false, stale := false })).askWalk w.id w.part w.va level table

/-- Start a walk: a miss (R318). The walk waits for one of the face's 64 places, which its walker gives to the partitions in turn
(R78, R298). -/
def State.startWalk (s : State) (p addr : Nat) (write : Bool) (why : WalkFor) : State × Xl :=
  let tag := eaTag addr
  let va := eaVa addr
  let f := s.hostFace p
  if s.walks.any (fun w => w.part == p && w.tag == tag && w.va / 4096 == va / 4096 && w.for_ == why) then (s, .wait)
  else
    let w : Walk := { id := s.nextId, face := f, part := p, tag := tag, va := va, write := write, level := 4, for_ := why, queued := true }
    let s1 := { s.fresh with walks := s.walks ++ [w] }
    let s2 := s1.upPart p (fun x => { x with misses := satAdd x.misses 1 0xFFFFFFFF })
    if s.walksOf f ≥ 64 || s.walks.any (fun x => x.face == f && x.queued) then (s2, .wait)
    else match s2.beginWalk w with
      | some s3 => (s3.upFace f (fun x => { x with walkTurn := p }), .wait)
      | none => ({ s2 with walks := s2.walks.filter (fun x => x.id != w.id) }, .fault false true)

/-- Translate an engine address for a partition (R294, R301, R302): a hit, a fault, or a walk under way. A page
that an earlier skipping walk of the same requester found unmapped is not walked again (R316, R317). -/
def State.xlate (s : State) (p addr : Nat) (write : Bool) (why : WalkFor) : State × Xl :=
  let tag := eaTag addr
  let va := eaVa addr
  let (_, valid) := s.root p tag
  if !(s.pe p).hasTag tag || !valid then (s, .fault false false) else
  match s.lookRange p tag (va / 4096) with
  | (some r, s1) =>
    match judge s1 r va write with
    | .fault true b => (s1.dropPage tag (va / 4096), .fault true b)
    | x => (s1, x)
  | (none, s1) =>
    match why with
    | .skip o => if s1.skips.contains ⟨p, o, tag, va / 4096⟩ then (s1, .fault false false) else s1.startWalk p addr write why
    | _ => s1.startWalk p addr write why

/-- Pages found unmapped are forgotten once their finder has gone on: a later one walks again. -/
def State.clearSkips (s : State) (p : Nat) (who : Option Nat) : State :=
  { s with skips := s.skips.filter (fun k => !(k.part == p && k.who == who)) }

/-- A decoded page-table entry (R296, R297). -/
inductive Pte where
  | none
  | bad (leaf writable : Bool)           -- bits [55:48] nonzero
  | table (pa : Nat)
  | page (pa : Nat) (writable : Bool)
  deriving DecidableEq, Repr

/-- Read an entry at a level (R296). -/
def pte (level e : Nat) : Pte :=
  let w := e.testBit 2 && e.testBit 3
  let leaf := level = 1 || (level ≠ 4 && e.testBit 1)
  if !e.testBit 0 then .none
  else if fld e 55 48 ≠ 0 then .bad leaf w
  else
    let pa := fld e 47 12 * 4096
    if level = 4 then (if e.testBit 1 then .none else .table pa)
    else if leaf then (if pa % 2 ^ (12 + 9 * (level - 1)) = 0 then .page pa w else .none)
    else .table pa

/-- The range formed from a leaf line: 16 aligned entries (R300). -/
def leafRange (level tag va p : Nat) (line : Nat) : Option Range :=
  let i := levelIx va level % 16
  let size := 512 ^ (level - 1)                 -- 4 KiB pages of a page of this level
  match pte level (leAt line (8 * i) 8) with
  | .page pa w =>
    let fits (k : Nat) : Bool :=                -- entry k continues the run of entry i
      match pte level (leAt line (8 * k) 8) with
      | .page q v => v == w && (q + i * size * 4096 == pa + k * size * 4096)
      | _ => false
    let rec down : Nat → Nat
      | 0 => 0
      | k + 1 => if fits k then down k else k + 1
    let rec up : Nat → Nat → Nat
      | 0, k => k
      | n + 1, k => if k + 1 < 16 && fits (k + 1) then up n (k + 1) else k
    let lo := down i
    let hi := up 16 i
    let page0 := va / 4096 / size * size        -- first 4 KiB page of the entry sought
    some ⟨tag, page0 - (i - lo) * size, (hi - lo + 1) * size, pa / 4096 - (i - lo) * size, w, false, p⟩
  | _ => none

/-- How a table line ends a step of its walk. -/
inductive WalkEnd where
  | going
  | done
  | fault (perm outside : Bool)
  deriving DecidableEq, Repr

def State.endWalk (s : State) (id : Nat) : State := { s with walks := s.walks.filter (fun w => w.id != id) }

/-- A table line returned good to its walk: a directory entry and the next level, or the leaf (R296 to R301). -/
def State.walkLine (s : State) (w : Walk) (line : Nat) : State × WalkEnd :=
  let e := leAt line (8 * (levelIx w.va w.level % 16)) 8
  match pte w.level e with
  | .none => (s.endWalk w.id, .fault false false)
  | .bad leaf ok => (s.endWalk w.id, .fault (leaf && w.write && !ok) true)
  | .table pa =>
    let s1 := if w.level ≥ 3 then s.addDir ⟨w.tag, w.level, w.va / 2 ^ (12 + 9 * (w.level - 1)), pa, w.part⟩ else s
    let s2 := s1.setWalk w.id (fun x => { x with level := w.level - 1 })
    match s2.askWalk w.id w.part w.va (w.level - 1) pa with
    | some s3 => (s3, .going)
    | none => (s2.endWalk w.id, .fault false true)
  | .page _ _ =>
    match leafRange w.level w.tag w.va w.part line with
    | none => (s.endWalk w.id, .fault false false)
    | some r =>
      match judge s r w.va w.write with
      -- a permission fault drops every range of the page (R302)
      | .fault a b => ((if a then s.dropPage w.tag (w.va / 4096) else s).endWalk w.id, .fault a b)
      | _ => ((s.addRange r).endWalk w.id, .done)

/-- Issue a stale walk again: its line is discarded (R311). -/
def State.rewalk (s : State) (w : Walk) : State × WalkEnd :=
  if !(s.root w.part w.tag).2 then (s.endWalk w.id, .fault false false)
  else match s.beginWalk w with
    | some s2 => (s2, .going)
    | none => (s.endWalk w.id, .fault false true)

/-- The walk that a face's walker grants next: the oldest of the partition whose turn it is (R78). -/
def State.nextWalk? (s : State) (f : Nat) : Option Walk :=
  let l := s.walks.filter (fun w => w.face == f && w.queued)
  let after (p : Nat) : Nat := (p + 8 - (s.face f).walkTurn - 1) % 8
  if s.walksOf f ≥ 64 then none else (sortBy (fun (x y : Walk) => decide (after x.part ≤ after y.part)) l).head?

/-! ### Invalidation (R311 to R315) -/

/-- A delivered tile whose transfers an invalidation waits for. -/
def Tile.inUse (x : Tile) : Bool := x.delivered && (!x.consumed || x.left != 0)

/-- A tile's translations include one under a tag. -/
def Tile.onTag (x : Tile) (t : Nat) : Bool := x.addrs.any (fun a => eaTag (a.1 / 2 * 4096) == t)

/-- The tiles of a partition's orders that a drop of a tag sets back: not delivered, with translations or elements of it. -/
def State.setBack (s : State) (p t : Nat) : List (Nat × Nat) :=
  (s.orders.filter (fun o => o.p == p)).flatMap (fun o => (o.tiles.filter (fun x => !x.delivered && x.onTag t)).map (fun x => (o.id, x.t)))

/-- Drop every translation of a partition's tag. Tiles not delivered are translated, and their elements fetched, again (R311). -/
def State.dropTag (s : State) (p t : Nat) : State :=
  let again := s.setBack p t
  { s with
    ranges := s.ranges.filter (fun x => !(x.2.part == p && x.2.tag == t))
    dirs := s.dirs.filter (fun x => !(x.2.part == p && x.2.tag == t))
    walks := s.walks.map (fun (w : Walk) => if w.part = p ∧ w.tag = t then { w with stale := !w.queued } else w)
    skips := s.skips.filter (fun k => !(k.part == p && k.tag == t))
    mig := if s.mig.p != p then s.mig else { s.mig with rows := s.mig.rows.map (fun (r : MigRow) =>
      if r.addrs.any (fun a => eaTag (a.1 / 2 * 4096) == t) then { r with addrs := [] } else r) }
    orders := s.orders.map (fun (o : Order) =>
      if o.p != p then o else
      { o with
        shadow := o.shadow.filter (fun r => r.tag != t)
        streams := o.streams.map (fun (x : Stream) => { x with ranges := x.ranges.filter (fun r => r.tag != t), back := if eaTag x.addr = t then none else x.back })
        xfaults := []
        tiles := o.tiles.map (fun (x : Tile) =>
          if again.contains (o.id, x.t) then { x with addrs := [], elems := [], weights := [], slots := [] } else x) }) }.quitWhere
    (fun c => match c with
      | .tile o k => again.contains (o, k)
      | .bags o _ => s.orders.any (fun x => x.id == o && x.p == p)
      | _ => false) (fun _ => true)

/-- Drop every translation of a partition (R94, R295). -/
def State.dropPartTranslations (s : State) (p : Nat) : State :=
  { s with ranges := s.ranges.filter (fun x => x.2.part != p), dirs := s.dirs.filter (fun x => x.2.part != p),
           walks := s.walks.filter (fun w => w.part != p), skips := s.skips.filter (fun k => k.part != p) }.quitWhere
    (fun c => match c with | .walk w => s.walks.any (fun x => x.id == w && x.part == p) | _ => false) (fun _ => true)

/-- Owners of a write. -/
def WriteReq.owners (w : WriteReq) : List WriteFor := w.own :: w.also

def WriteFor.ofOrder (o : Nat) : WriteFor → Bool
  | .order i => i == o
  | .rowOf i .. => i == o
  | .desc i => i == o
  | _ => false

/-- The effect of PART_INVAL_TAG (R311, R313); a tag outside the range sets bad_tag. -/
def State.invalTag (s : State) (p t : Nat) : State :=
  if !(s.pe p).hasTag t then s.upPart p (fun x => { x with badTag := true })
  else
    (s.dropTag p t).upPart p (fun x =>
      { x with invGen := x.invGen + 1
               invTags := x.invTags.filter (fun y => y.tag != t) ++ [{ tag := t, gen := x.invGen + 1 }]
               invStart := if x.invTags.isEmpty then s.clk.count else x.invStart })

/-- An access was translated under a tag before its invalidation. -/
def Space.before (x y : Space) : Bool := x.tag == y.tag && x.gen < y.gen

/-- A tile holds translations that an invalidation drops. -/
def Tile.under? (x : Tile) (y : Space) : Bool := x.onTag y.tag && x.gen < y.gen

/-- What an order does under a translation that an invalidation drops: delivered tiles (one that waits on a fault has no transfer under
way), rows of a merge in a tracker entry, and outputs not yet written (R305, R312, R315). -/
def Order.usesOld (o : Order) (y : Space) : Bool :=
  o.tiles.any (fun x => x.inUse && x.under? y && !(o.faults.any (fun f => f.info.tile == x.t))) ||
  o.mergeTiles.any (fun x => x.2.under? y) || o.outPa.any (fun x => x.2.1.before y)

/-- A transfer of a partition issued under a translation that an invalidation drops: a read, a write, or one that waits in a
write-combining buffer (R312). -/
def State.movesOld (s : State) (p : Nat) (y : Space) : Bool :=
  s.reads.any (fun r => r.part == p && r.space.any (fun x => x.before y)) ||
  s.writes.any (fun w => w.part == p && w.space.any (fun x => x.before y)) ||
  s.benches.any (fun b => b.wc.any (fun e => e.part == p && e.space.any (fun x => x.before y)))

/-- Whether the transfers an invalidation waits for are over (R312). -/
def State.invalReady (s : State) (p : Nat) : Bool :=
  let l := (s.part p).invTags
  !l.isEmpty && l.all (fun y => !s.movesOld p y && !(s.liveOf p).any (fun o => o.usesOld y))

/-- inval_done sets; last_us is the time from the write, in µs of the core-cycle count, rounded up (R313, R318). -/
def State.invalDone (s : State) (p : Nat) : State :=
  if !s.invalReady p then s
  else
    let us := ceilDiv (s.clk.count - (s.part p).invStart).toNat 2400
    s.upPart p (fun x => { x with invTags := [], lastUs := min us 0xFFFF })

/-- Set the root's low word: it acts as PART_INVAL_TAG (R294, R311). A tag outside the range is ignored (R318). -/
def State.setRootLo (s : State) (p t v : Nat) : State :=
  if !(s.pe p).hasTag t then s
  else
    let (pa, _) := s.root p t
    (s.setRoot p t (pa / 2 ^ 32 * 2 ^ 32 + fld v 31 12 * 4096) (v.testBit 0)).invalTag p t

def State.setRootHi (s : State) (p t v : Nat) : State :=
  if !(s.pe p).hasTag t then s
  else
    let (pa, ok) := s.root p t
    s.setRoot p t (pa % 2 ^ 32 + fld v 15 0 * 2 ^ 32) ok

/-- Tags that leave a partition's range at a commit: their roots are cleared and translations dropped (R295). -/
def State.clearTags (s : State) (p : Nat) (keep : Nat → Bool) : State :=
  let gone := (List.range 256).filter (fun t => !keep t)
  gone.foldl (fun s t =>
    (s.dropTag p t).upPart p (fun x => { x with roots := x.roots.filter (fun r => r.1 != t) })) s

end Sys2Proof.Machine
end

