-- ==== Sys2Proof/Machine/Rings.lean ====
section
/-! DEFINITION. Rings, records, events and interrupts (R97 to R104, R126, R129 to R131 of 04_work_orders.md). A ring
is numbered as in arg0 of RING_ERROR: 0 to 15 submission, 16 to 31 completion, 32 fault, 33 event (R131). -/

namespace Sys2Proof.Machine

def Part.sqOf (x : Part) (q : Nat) : Sq := x.sq.getD q {}
def Part.pq (x : Part) (r : Nat) : Pq := if r = 32 then x.fq else if r = 33 then x.eq else x.cq.getD (r - 16) {}
def Part.upSq (x : Part) (q : Nat) (f : Sq → Sq) : Part := { x with sq := x.sq.modify q f }
def Part.upPq (x : Part) (r : Nat) (f : Pq → Pq) : Part :=
  if r = 32 then { x with fq := f x.fq } else if r = 33 then { x with eq := f x.eq }
  else { x with cq := x.cq.modify (r - 16) f }

def State.sq (s : State) (p q : Nat) : Sq := (s.part p).sqOf q
def State.upSq (s : State) (p q : Nat) (f : Sq → Sq) : State := s.upPart p (fun x => x.upSq q f)
def State.pq (s : State) (p r : Nat) : Pq := (s.part p).pq r
def State.upPq (s : State) (p r : Nat) (f : Pq → Pq) : State := s.upPart p (fun x => x.upPq r f)

def Sq.size (q : Sq) : Nat := 2 ^ q.log2
def Pq.size (q : Pq) : Nat := 2 ^ q.log2
/-- Entries beyond the head (R104). -/
def Pq.used (q : Pq) : Nat := (q.tail + q.size - q.head % q.size) % q.size
/-- Entries beyond the head whose writes, and those of all before them, are acknowledged: what an interrupt may announce (R359). -/
def Pq.announced (q : Pq) : Nat := q.used - q.flying.length
/-- Free entries (R100); a ring that is disabled has none. -/
def Pq.free (q : Pq) : Nat := if q.enabled then q.size - 1 - q.used else 0
/-- The vector of a produced ring (R104). -/
def ringVector (r : Nat) : Nat := r - 16

/-- A 32-byte record (R126, R129, R130) from its fields: offset, size and value. -/
def recordOf (fs : List (Nat × Nat × Nat)) : Nat :=
  fs.foldl (fun a f => a + ((f.2.2 % 2 ^ (8 * f.2.1)) <<< (8 * f.1))) 0

/-- Where the phase bit of a produced ring's records lies (R99). -/
def phaseBit (r : Nat) : Nat := if r = 32 then 88 else 16

/-! ### Writing records -/

/-- Store an entry: the one of its key, else a new one, replacing the least recently used of 32 (R233). -/
def storeScale (l : List ScaleSt) (x : ScaleSt) : List ScaleSt :=
  if l.any (fun y => y.table == x.table && y.entry == x.entry) then
    l.map (fun y => if y.table = x.table ∧ y.entry = x.entry then x else y)
  else if l.length < 32 then l ++ [x]
  else
    let oldest := l.foldl (fun m y => min m y.used) ((l.headD x).used)
    match l.find? (fun y => y.used == oldest) with
    | some v => l.map (fun y => if y = v then x else y)
    | none => l ++ [x]

/-- A completion is written: the update of its order's scale is in force (R235). -/
def State.scaleWritten (s : State) (p : Nat) : Option ScaleUpd → State
  | none => s
  | some u =>
    s.fresh.upCtx p u.session (fun c =>
      { c with scales := storeScale c.scales { table := u.table, entry := u.entry, offset := u.offset, sat := u.sat, clip := u.clip, used := s.nextId } })


/-- Write the oldest record held by a produced ring at its tail, with the phase bit and the stamp (R99, R126).
Answers the cause of an error, if one was met (R103). -/
def State.pumpOne (s : State) (p r : Nat) : State × Option Nat :=
  let q := s.pq p r
  match q.held with
  | [] => (s, none)
  | rec :: rest =>
    if !q.enabled || q.free = 0 || (s.rstDie.isSome && r ≠ 33) then (s, none) else
    match s.xlate p (eaAdd q.base (32 * q.tail)) true (.ring p r) with
    | (s1, .wait) => (s1, none)
    | (s1, .fault ..) => (s1, some 1)
    | (s1, .ok pa _) =>
      let bytes := rec.bytes % 2 ^ 192 + (s.stamp <<< 192) + (if q.phase then 2 ^ phaseBit r else 0)
      let at_ := pa % 128
      let intr := if rec.now then some (ringVector r, false) else none
      let s2 := s1.upPq p r (fun q =>
        { q with held := rest, flying := q.flying ++ [(s1.nextId, false, { rec with scale := none })], thrNow := q.threshold, tail := (q.tail + 1) % q.size,
                 phase := if q.tail + 1 = q.size then !q.phase else q.phase })
      ((s2.postLine (.record p r) p (s.hostFace p) (pa / 128) (BitVec.ofNat 128 ((2 ^ 32 - 1) <<< at_))
        (BitVec.ofNat 1024 (bytes <<< (8 * at_))) false intr (s1.spaceAt p q.base)).scaleWritten p rec.scale, none)

/-- The event ring fails: it is disabled, its held records are dropped and counted, and its interrupt is raised with
error set (R103). -/
def State.failEvents (s : State) (p cause : Nat) : State :=
  let n := (s.pq p 33).held.length
  ((s.upPq p 33 (fun q => { q with enabled := false, error := true, cause := cause, held := [], lost := satAdd q.lost n 0xFFFF })).countPart
    p 15 n).interrupt p 17 true

/-- Write what the event ring holds. -/
def State.pumpEvents (s : State) (p : Nat) : Nat → State
  | 0 => s
  | n + 1 =>
    if (s.pq p 33).held.isEmpty then s else
    match s.pumpOne p 33 with
    | (s1, none) => if (s1.pq p 33).held.length < (s.pq p 33).held.length then State.pumpEvents s1 p n else s1
    | (s1, some c) => s1.failEvents p c

/-- An event record of 24 bytes (R130). -/
def eventBytes (code sq session slot a0 a1 : Nat) : Nat :=
  recordOf [(0, 2, code), (3, 1, sq), (4, 2, session), (6, 2, slot), (8, 8, a0), (16, 8, a1)]

/-- Queue an event for a partition's event ring; it is dropped and counted when the ring is disabled or full
(R102, R130, R134). -/
def State.queueEvent (s : State) (p bytes : Nat) (now : Bool) : State :=
  let q := s.pq p 33
  if q.enabled && q.held.length < q.free then
    (s.upPq p 33 (fun q => { q with held := q.held ++ [{ bytes := bytes, now := now }] })).pumpEvents p (q.held.length + 1)
  else
    (s.upPq p 33 (fun q => { q with lost := satAdd q.lost 1 0xFFFF,
                                    lostSince := if q.enabled then q.lostSince + 1 else q.lostSince })).countPart p 15 1

/-- An event that concerns no order (R130). -/
def State.event (s : State) (p code a0 a1 : Nat) : State :=
  s.queueEvent p (eventBytes code 0xFF 0xFFFF 0xFFFF a0 a1) false

/-- An event that concerns an order (R130). -/
def State.eventOf (s : State) (p sq session slot code a0 a1 : Nat) : State :=
  s.queueEvent p (eventBytes code sq session slot a0 a1) false

/-- An event to several partitions. -/
def State.eventAll (s : State) (ps : List Nat) (code a0 a1 : Nat) : State := ps.foldl (fun s p => s.event p code a0 a1) s

/-- An event that the Kettle log takes in its die-wide form (R410). -/
def State.dieEvent (s : State) (ps : List Nat) (code a0 a1 : Nat) : State := (s.eventAll ps code a0 a1).klog code a0 a1

/-- The primary, where it is enabled. -/
def State.primary (s : State) : List Nat := if s.enabled 0 then [0] else []

/-- EVENTS_LOST when space returns to an event ring (R131, R134). -/
def State.eventsLost (s : State) (p : Nat) : State :=
  let q := s.pq p 33
  if q.enabled && q.lostSince ≠ 0 && q.held.length < q.free then
    (s.upPq p 33 (fun q => { q with lostSince := 0 })).event p 0x0007 q.lostSince 0
  else s

/-- An error on a ring: its cause, disabling under causes 1, 2, 5 and 8, and RING_ERROR (R103). -/
def State.ringError (s : State) (p r cause : Nat) : State :=
  let off := cause == 1 || cause == 2 || cause == 5 || cause == 8
  if r = 33 then
    if off then s.failEvents p cause
    else (s.upPq p 33 (fun q => { q with error := true, cause := cause })).interrupt p 17 true
  else
    let s1 :=
      if r < 16 then
        let s2 := s.upSq p r (fun q => { q with error := true, cause := cause, enabled := q.enabled && !off })
        if off then s2.quitReads (.ring p r) else s2
      else s.upPq p r (fun q => { q with error := true, cause := cause, enabled := q.enabled && !off })
    s1.event p 0x0006 r cause

/-- Write what a produced ring holds, oldest first. -/
def State.pumpN (s : State) (p r : Nat) : Nat → State
  | 0 => s
  | n + 1 =>
    if (s.pq p r).held.isEmpty then s else
    match s.pumpOne p r with
    | (s1, none) => if (s1.pq p r).held.length < (s.pq p r).held.length then State.pumpN s1 p r n else s1
    | (s1, some c) => s1.ringError p r c

def State.pumpRing (s : State) (p r : Nat) : State :=
  if r = 33 then (s.pumpEvents p (s.pq p 33).held.length).eventsLost p else s.pumpN p r (s.pq p r).held.length

/-- Queue a completion or a fault record (R126, R129). -/
def State.queueRecord (s : State) (p r bytes : Nat) (now : Bool) (scale : Option ScaleUpd := none) : State :=
  (s.upPq p r (fun q => { q with held := q.held ++ [{ bytes := bytes, now := now, scale := scale }] })).pumpRing p r

/-- Updates of shift offsets that held completions carry, and that no longer have an entry to act on, are dropped (R236). -/
def State.dropScales (s : State) (p : Nat) (f : ScaleUpd → Bool) : State :=
  s.upPart p (fun x => { x with cq := x.cq.map (fun (q : Pq) =>
    { q with held := q.held.map (fun (r : Rec) => if r.scale.any f then { r with scale := none } else r) }) })

/-! ### Doorbells and registers of rings -/

/-- A doorbell's tail (R101); ignored before fetching starts and during a partition reset (R95, R388). -/
def State.doorbell (s : State) (p q tail : Nat) : State :=
  if !s.cfg.committed || !s.kettle.bringTest.isEmpty || (s.part p).busy then s else
  let x := s.sq p q
  if !x.enabled then s.ringError p q 4
  else if tail ≥ x.size then s.ringError p q 3
  else if (tail + x.size - x.head) % x.size < (x.tail + x.size - x.head) % x.size then s.ringError p q 7
  else s.upSq p q (fun y => { y with tail := tail })

/-- Live orders that feed a completion ring. -/
def State.feeding (s : State) (p c : Nat) : Nat := ((s.liveOf p).filter (fun o => o.cq == c)).length
/-- Entries of a completion ring that are spoken for: those of live orders, and of completions not written yet (R100). -/
def State.reserved (s : State) (p c : Nat) : Nat := s.feeding p c + ((s.part p).pq (16 + c)).held.length
/-- Live orders fetched from a submission ring. -/
def State.liveOn (s : State) (p q : Nat) : Nat := ((s.liveOf p).filter (fun o => o.q == q)).length

/-- A write of BASE_LO of a submission ring (R102). -/
def State.sqBaseLo (s : State) (p q v : Nat) : State :=
  let x := s.sq p q
  if v.testBit 0 then
    if x.enabled then s
    else if x.log2 < 6 || x.log2 > 16 then s.ringError p q 6
    else s.upSq p q (fun y => { y with base := y.base / 2 ^ 32 * 2 ^ 32 + fld v 31 12 * 4096, enabled := true,
                                       head := 0, tail := 0 })
  else
    (s.upSq p q (fun y => { y with enabled := false, base := y.base / 2 ^ 32 * 2 ^ 32 + fld v 31 12 * 4096 })).quitReads (.ring p q)

/-- A write of BASE_LO of a produced ring (R102). Clearing enable of a completion ring that a live order feeds is
ignored. -/
def State.pqBaseLo (s : State) (p r v : Nat) : State :=
  let x := s.pq p r
  if v.testBit 0 then
    if x.enabled then s
    else if x.log2 < 6 || x.log2 > 16 then s.ringError p r 6
    else (s.upPq p r (fun y => { y with base := y.base / 2 ^ 32 * 2 ^ 32 + fld v 31 12 * 4096, enabled := true,
                                        head := 0, tail := 0, phase := true, lost := 0, lostSince := 0 })).pumpRing p r
  else if r < 32 && x.enabled && s.feeding p (r - 16) ≠ 0 then s
  else s.upPq p r (fun y => { y with enabled := false, base := y.base / 2 ^ 32 * 2 ^ 32 + fld v 31 12 * 4096 })

/-- A write of BASE_HI: tag and base bits [47:32]; ignored while the ring is enabled (R102, R293). -/
def hiBase (base v : Nat) : Nat := (fld v 31 24) <<< 56 + (fld v 15 0) <<< 32 + base % 2 ^ 32

def State.ringBaseHi (s : State) (p r v : Nat) : State :=
  if r < 16 then s.upSq p r (fun y => if y.enabled then y else { y with base := hiBase y.base v })
  else s.upPq p r (fun y => if y.enabled then y else { y with base := hiBase y.base v })

def State.sqCfg (s : State) (p q v : Nat) : State :=
  s.upSq p q (fun y => if y.enabled then y else { y with cq := fld v 11 8, log2 := fld v 4 0 })

def State.pqSize (s : State) (p r v : Nat) : State :=
  s.upPq p r (fun y => if y.enabled then y else { y with log2 := fld v 4 0 })

/-- The host's HEAD write (R99): the records held may now go. A value outside head to tail is ignored (R440). -/
def State.pqHead (s : State) (p r h : Nat) : State :=
  let x := s.pq p r
  if h ≥ x.size || (h + x.size - x.head % x.size) % x.size > x.used then s
  else (s.upPq p r (fun y => { y with head := h % 2 ^ 16 })).pumpRing p r

def State.pqIrq (s : State) (p r v : Nat) : State :=
  s.upPq p r (fun y => { y with holdoff := fld v 31 16, threshold := fld v 15 8, irqEn := v.testBit 0 })

/-- Enable or disable a ring by its BASE_LO. -/
def State.baseLo (s : State) (p r v : Nat) : State := if r < 16 then s.sqBaseLo p r v else s.pqBaseLo p r v

/-- Write-one-to-clear of a ring's error bit. -/
def State.ringStatus (s : State) (p r v : Nat) : State :=
  if !v.testBit 1 then s
  else if r < 16 then s.upSq p r (fun y => { y with error := false }) else s.upPq p r (fun y => { y with error := false })

/-! ### Acknowledged records -/

/-- The records of a ring with the WACK of one more write: those that it leaves unanswered, or behind an unanswered one. -/
def answerRec (l : List (Nat × Bool × Rec)) (id : Nat) : List (Nat × Bool × Rec) :=
  (l.map (fun x => if x.1 = id then (x.1, true, x.2.2) else x)).dropWhile (fun x => x.2.1)

/-- A record's write is acknowledged: the interrupt of R104, which announces no record whose write is still to be acknowledged
(R359). -/
def State.recordAcked (s : State) (p r id : Nat) (forced : Option (Nat × Bool)) : State :=
  let old := (s.pq p r).flying.length
  let s := s.upPq p r (fun q => { q with flying := answerRec q.flying id })
  let q := s.pq p r
  if r = 32 then (if q.irqEn then s.interrupt p 16 false else s)
  else if r = 33 && forced.isSome then s.interrupt p 17 false
  else if q.irqEn && (forced.isSome || (q.flying.length < old && q.announced ≥ max 1 q.thrNow)) then s.interrupt p (ringVector r) false
  else s

/-- A record's write is lost (WACK status 2): cause 0x8. A completion or fault record is held with the records after it, those
already acknowledged among them, and they are written first, in their order; the writes of those after it that are under way count for
nothing. An event record is dropped and counted (R103). -/
def State.recordLost (s : State) (p r : Nat) (w : WriteReq) : State :=
  if r = 33 then
    ((s.upPq p 33 (fun q => { q with lost := satAdd q.lost 1 0xFFFF, flying := answerRec q.flying w.id })).countPart p 15 1).ringError p 33 8
  else
    let again := (s.pq p r).flying.dropWhile (fun x => x.1 != w.id)
    let ids := again.map Prod.fst
    let left := s.writes.filter (fun (x : WriteReq) => !(ids.contains x.id && x.modl.isNone && x.nth.isNone))
    let s1 := { s with writes := left.map (fun (x : WriteReq) => if ids.contains x.id then { x with own := .restore p, intr := none } else x) }
    (s1.upPq p r (fun q => { q with flying := q.flying.takeWhile (fun x => x.1 != w.id), held := again.map (fun x => x.2.2) ++ q.held })).ringError p r 8

/-- IRQ_HOLDOFF: the oldest entry beyond the head has waited holdoff_us (R104); it is one whose write is acknowledged (R359). -/
def State.irqHoldoff (s : State) (p r : Nat) : State :=
  let q := s.pq p r
  if 16 ≤ r && r ≤ 33 && r ≠ 32 && q.enabled && q.irqEn && q.announced ≠ 0 then s.interrupt p (ringVector r) false else s

/-! ### Die resets begin (R327) -/

/-- DIE_RESET_PENDING in every enabled partition's event ring; vector 17 whether or not irq_enable is set. Where the ring
takes no record the interrupt is raised alone. -/
def State.pendingTo (s : State) (code p : Nat) : State :=
  let q := s.pq p 33
  let s1 := s.queueEvent p (eventBytes pendingCode 0xFF 0xFFFF 0xFFFF code 0) true
  if q.enabled && q.held.length < q.free then s1 else s1.interrupt p 17 false

/-- Steps 1 and 2 of R327. The sequence under way is not begun again. -/
def State.beginReset (s : State) (code : Nat) (requested : Bool) : State :=
  if s.rstDie.isSome || !s.panel.pwrGood then s
  else (s.enabledParts.foldl (fun (s : State) p => s.pendingTo code p) { s with rstDie := some ⟨code, requested⟩ }).klog 0x0015 code 0

/-- A read of the configuration region finds a block whose CRC fails, or that reads poison: a die reset of code 0x03 (R33, R326). -/
def State.readRegion (s : State) : State := if s.cfg.regionBad then s.beginReset 0x03 false else s

end Sys2Proof.Machine
end

