-- ==== Sys2Proof/Machine/Links.lean ====
section
/-! DEFINITION. Modules of the bridle faces: width, training, flits, messages and credits (R342 to R365 of
13_bridle_faces.md). -/

namespace Sys2Proof.Machine

/-! ### Messages (R354 to R356) -/

/-- The channel of a message Harkom sends. -/
def Msg.chan : Msg → Nat
  | .rd .. | .wr .. | .regData .. | .regAck _ => 0
  | .creditBack .. => 0
  | .snpRsp _ => 1
  | .intr .. => 2
  | .nrd .. | .nwr .. => 3

/-- Words 0 and 1 of an address pair (R356), with header bits [7:0] and the bits of word 1 from bit 17. -/
def addrPair (line head w1 : Nat) : List Nat :=
  [head + (line % 2 ^ 24) <<< 8, (line >>> 24) % 2 ^ 17 + w1 <<< 17]

/-- `n` 32-bit words of a byte string, first word first. -/
def wordsOf (v n : Nat) : List Nat := (List.range n).map (fun i => (v >>> (32 * i)) % 2 ^ 32)

/-- A byte string from its words. -/
def ofWords : List Nat → Nat
  | [] => 0
  | w :: ws => w % 2 ^ 32 + (ofWords ws) <<< 32

/-- The header of a message: channel and type (R354, R355). -/
def hdr (chan type : Nat) : Nat := chan + 4 * type

/-- The words of a message Harkom sends (R355, R356). -/
def Msg.words : Msg → List Nat
  | .rd line lines tag => addrPair line (hdr 0 0x01) (tag + (lines - 1) <<< 12)
  | .wr line tag poison mask bytes =>
    let masked := mask != BitVec.allOnes 128
    addrPair line (hdr 0 0x02) (tag + b2n poison <<< 12 + b2n masked <<< 13) ++
      (if masked then wordsOf mask.toNat 4 else []) ++ wordsOf bytes.toNat 32
  | .regData tag v => [hdr 0 0x12 + tag <<< 8, v.toNat]
  | .regAck seq => [hdr 0 0x13 + seq <<< 8]
  | .creditBack a b c d => [hdr 0 0x3F, a + b <<< 8 + c <<< 16 + d <<< 24]
  | .snpRsp tag => [hdr 1 0x02 + tag <<< 8]
  | .intr p v e => [hdr 2 0x01 + p <<< 8 + v <<< 11 + b2n e <<< 16]
  | .nrd tag a => [hdr 3 0x01 + tag <<< 8] ++ wordsOf a 2
  | .nwr tag a v => [hdr 3 0x02 + tag <<< 8] ++ wordsOf a 2 ++ wordsOf v 2

/-- Credits of a message of `n` words: one per 32 bytes (R361). -/
def wordCredits (n : Nat) : Nat := ceilDiv (4 * n) 32
def Msg.credits : Msg → Nat
  | .creditBack .. => 0
  | m => wordCredits m.words.length

/-- A message the host sends. -/
inductive InMsg where
  | pad
  | data (tag index status : Nat) (line : Line)
  | wack (tag status : Nat)
  | throttle (fraction addr : Nat)
  | regRd (p offset tag : Nat)
  | regWr (p offset seq : Nat) (value : Word)
  | credit (c0 c1 c2 c3 : Nat)
  | snp (line tag : Nat)
  | ndata (tag status value : Nat)
  | nwack (tag status : Nat)
  deriving DecidableEq, Repr

def InMsg.chan : InMsg → Nat
  | .snp .. => 1
  | .ndata .. | .nwack .. => 3
  | _ => 0

/-- Words of the host's messages by channel and type; none for an unknown type or one that Harkom sends (R360). -/
def inWords (chan type : Nat) : Option Nat :=
  match chan, type with
  | 0, 0x00 => some 1
  | 0, 0x03 => some 33
  | 0, 0x04 => some 1
  | 0, 0x05 => some 3
  | 0, 0x10 => some 2
  | 0, 0x11 => some 3
  | 0, 0x3F => some 2
  | 1, 0x01 => some 2
  | 3, 0x03 => some 3
  | 3, 0x04 => some 1
  | _, _ => none

/-- What the words of the stream give. -/
inductive Parsed where
  | need
  | error
  | got (m : InMsg) (rest : List Nat)
  deriving DecidableEq, Repr

/-- The fields of a word, each given by its highest and lowest bit, hold 0: so must every field that R356 does not name. -/
def clear (w : Nat) (fields : List (Nat × Nat)) : Bool := fields.all (fun x => fld w x.1 x.2 = 0)

/-- Read one message from its words (R356); a nonzero reserved field is an error (R360). -/
def readMsg (chan type : Nat) (ws : List Nat) : Option InMsg :=
  let w (i : Nat) := ws.getD i 0
  let w0 := w 0
  match chan, type with
  | 0, 0x00 => if w0 = 0 then some .pad else none
  | 0, 0x03 =>
    if !clear w0 [(31, 24)] || fld w0 23 22 = 3 then none
    else some (.data (fld w0 19 8) (fld w0 21 20) (fld w0 23 22) (BitVec.ofNat 1024 (ofWords (ws.drop 1))))
  | 0, 0x04 =>
    if !clear w0 [(21, 20), (31, 24)] || (fld w0 23 22 ≠ 0 && fld w0 23 22 ≠ 2) then none
    else some (.wack (fld w0 19 8) (fld w0 23 22))
  | 0, 0x05 =>
    if !clear w0 [(31, 17)] || fld w0 16 8 > 256 then none
    else some (.throttle (fld w0 16 8) (w 1 + w 2 <<< 32))
  | 0, 0x10 =>
    if !clear w0 [(11, 11), (31, 30)] || !clear (w 1) [(31, 16)] then none
    else some (.regRd (fld w0 10 8) (fld w0 29 12 * 4) (fld (w 1) 15 0))
  | 0, 0x11 =>
    if !clear w0 [(11, 11), (31, 30)] || !clear (w 1) [(31, 16)] then none
    else some (.regWr (fld w0 10 8) (fld w0 29 12 * 4) (fld (w 1) 15 0) (BitVec.ofNat 32 (w 2)))
  | 0, 0x3F =>
    if !clear w0 [(31, 8)] then none
    else some (.credit (fld (w 1) 7 0) (fld (w 1) 15 8) (fld (w 1) 23 16) (fld (w 1) 31 24))
  | 1, 0x01 =>
    if !clear (w 1) [(31, 29)] then none
    else some (.snp (fld w0 31 8 + fld (w 1) 16 0 <<< 24) (fld (w 1) 28 17))
  | 3, 0x03 =>
    if !clear w0 [(31, 22)] || fld w0 21 20 = 3 then none
    else some (.ndata (fld w0 19 8) (fld w0 21 20) (w 1 + w 2 <<< 32))
  | 3, 0x04 =>
    if !clear w0 [(31, 22)] || (fld w0 21 20 ≠ 0 && fld w0 21 20 ≠ 2) then none
    else some (.nwack (fld w0 19 8) (fld w0 21 20))
  | _, _ => none

/-- Take one message off the stream (R354, R360). -/
def parseMsg : List Nat → Parsed
  | [] => .need
  | w0 :: ws =>
    let chan := fld w0 1 0
    let type := fld w0 7 2
    match inWords chan type with
    | none => .error
    | some n =>
      if ws.length + 1 < n then .need
      else match readMsg chan type ((w0 :: ws).take n) with
        | some m => .got m ((w0 :: ws).drop n)
        | none => .error

/-- The words of a message that the host sends (R356). -/
def InMsg.wire : InMsg → List Nat
  | .pad => [hdr 0 0x00]
  | .data tag index status line => (hdr 0 0x03 + tag <<< 8 + index <<< 20 + status <<< 22) :: wordsOf line.toNat 32
  | .wack tag status => [hdr 0 0x04 + tag <<< 8 + status <<< 22]
  | .throttle fraction addr => (hdr 0 0x05 + fraction <<< 8) :: wordsOf addr 2
  | .regRd p offset tag => [hdr 0 0x10 + p <<< 8 + (offset / 4) <<< 12, tag]
  | .regWr p offset seq value => [hdr 0 0x11 + p <<< 8 + (offset / 4) <<< 12, seq, value.toNat]
  | .credit c0 c1 c2 c3 => [hdr 0 0x3F, c0 + c1 <<< 8 + c2 <<< 16 + c3 <<< 24]
  | .snp line tag => addrPair line (hdr 1 0x01) tag
  | .ndata tag status value => (hdr 3 0x03 + tag <<< 8 + status <<< 20) :: wordsOf value 2
  | .nwack tag status => [hdr 3 0x04 + tag <<< 8 + status <<< 20]

/-- The fields of a message fit their places (R356), and no status is reserved (R357, R359). -/
def InMsg.fits : InMsg → Bool
  | .pad => true
  | .data tag index status _ => tag < 2 ^ 12 && index < 4 && status < 3
  | .wack tag status => tag < 2 ^ 12 && (status = 0 || status = 2)
  | .throttle fraction addr => fraction ≤ 256 && addr < 2 ^ 64
  | .regRd p offset tag => p < 8 && offset < 2 ^ 20 && offset % 4 = 0 && tag < 2 ^ 16
  | .regWr p offset seq _ => p < 8 && offset < 2 ^ 20 && offset % 4 = 0 && seq < 2 ^ 16
  | .credit c0 c1 c2 c3 => c0 < 256 && c1 < 256 && c2 < 256 && c3 < 256
  | .snp line tag => line < 2 ^ 41 && tag < 2 ^ 12
  | .ndata tag status value => tag < 2 ^ 12 && status < 3 && value < 2 ^ 64
  | .nwack tag status => tag < 2 ^ 12 && (status = 0 || status = 2)

/-! ### Sending -/

/-- The words of a flit as one number. -/
def flitBits (header : Nat) (payload : List Nat) : Nat :=
  let body := ofWords (header :: payload)
  body + (crc32c body 252) <<< (32 * 63)

/-- A flit's header (R351). -/
def flitHeader (seq ack : Nat) (nak replayed : Bool) (kind : Nat) : Nat :=
  seq % 1024 + (ack % 1024) <<< 10 + b2n nak <<< 20 + b2n replayed <<< 21 + kind <<< 22

/-- The message that goes next: the first whose channel has the credits; messages of one channel keep their order (R361, R362). -/
def nextMsg (ms : List Msg) (cr : List Nat) : Option Msg :=
  ms.find? (fun m => m.credits ≤ cr.getD m.chan 0 && (ms.takeWhile (fun x => x != m)).all (fun x => x.chan != m.chan))

/-- Take messages while words and credits remain (R361): the words, the rest, and the controls taken. -/
def packMsgs : Nat → List Nat → List Msg → List Nat → List Msg → (List Nat × List Msg × List Nat × List Msg)
  | 0, ws, ms, cr, ctl => (ws, ms, cr, ctl)
  | n + 1, ws, ms, cr, ctl =>
    if ws.length ≥ 62 then (ws, ms, cr, ctl) else
    match nextMsg ms cr with
    | none => (ws, ms, cr, ctl)
    | some m =>
      let keep := match m with | .intr .. => true | .snpRsp _ => true | _ => false
      packMsgs n (ws ++ m.words) (ms.erase m) (cr.modify m.chan (· - m.credits)) (if keep then ctl ++ [m] else ctl)

/-- Send one flit on a module in service: first those that a nak asks for, in order; then a normal flit with what is ready, else a null
flit (R352, R353, R361; log 7). -/
def State.sendFlit (s : State) (f m : Nat) : State :=
  let x := s.modl f m
  if x.state ≠ .inService then s else
  match x.txAgain with
  | k :: ks =>
    (s.upMod f m (fun y => { y with txAgain := ks, txLast := wordsOf (flitBits (flitHeader k.1 y.rxSeq y.rxNak true 0) k.2) 64 })).upFace f
      (fun y => { y with replays := satAdd y.replays 1 0xFFFFFFFF })
  | [] =>
  let owe := x.owed.any (· != 0)
  let ready := !x.txWords.isEmpty || owe || (nextMsg x.txMsgs x.credits).isSome
  if !ready || x.txKept.length ≥ 256 then
    let payload := List.replicate 62 0
    s.upMod f m (fun y => { y with txLast := wordsOf (flitBits (flitHeader y.txSeq y.rxSeq y.rxNak false 1) payload) 64 })
  else
    let give (i : Nat) : Nat := min 255 (x.owed.getD i 0)
    let cw := if owe then (Msg.creditBack (give 0) (give 1) (give 2) (give 3)).words else []
    let (ws, ms, cr, ctl) := packMsgs 62 (x.txWords ++ cw) x.txMsgs x.credits []
    let payload := (ws ++ List.replicate 62 0).take 62
    let seq := (x.txSeq + 1) % 1024
    s.upMod f m (fun y =>
      { y with txSeq := seq
               txKept := y.txKept ++ [(seq, payload)]
               txWords := ws.drop 62
               txMsgs := ms
               txCtl := y.txCtl ++ ctl.map (fun c => (seq, c))
               credits := cr
               spent := (List.range 4).map (fun i => y.spent.getD i false || cr.getD i 0 != y.credits.getD i 0)
               owed := if owe then (List.range 4).map (fun i => y.owed.getD i 0 - give i) else y.owed
               avail := if owe then (List.range 4).map (fun i => y.avail.getD i 0 + give i) else y.avail
               txLast := wordsOf (flitBits (flitHeader seq y.rxSeq y.rxNak false 0) payload) 64 })

/-! ### States of a module (R345 to R350, R363, R364) -/

/-- Redundant data lanes of a half in one direction (R342). -/
def spareLanes : Nat := 2

/-- The 64 data lanes of a module in one direction from the masks of its two halves, lanes 31 to 0 being the lower (R342). -/
def laneMask (lower upper : Nat) : Nat := lower + upper * 2 ^ 32

/-- How many of the 32 data lanes of a half fail in one direction. -/
def failedLanes (failed half : Nat) : Nat := ((List.range 32).filter (fun i => failed.testBit (32 * half + i))).length

/-- The redundant lanes that replace failed data lanes of a half in one direction, while one remains (R345). -/
def halfSpares (failed half : Nat) : Nat := min spareLanes (failedLanes failed half)

/-- A half works in one direction: no lane of it fails after repair (R345). -/
def halfWorks (failed half : Nat) : Bool := failedLanes failed half ≤ spareLanes

/-- The width that Harkom's end reports from the data lanes that failed in each direction, at the half a retrain limits it to: 0 full,
1 lower, 2 upper, 3 none (R345, R347). -/
def ownHalf (failIn failOut limit : Nat) : Nat :=
  let lower := halfWorks failIn 0 && halfWorks failOut 0
  let upper := halfWorks failIn 1 && halfWorks failOut 1
  if lower && upper then limit else if lower then 1 else if upper then 2 else 3

def halfLanes (h : Nat) : Nat := if h = 0 then 64 else if h = 3 then 0 else 32

/-- The partitions behind a face and the primary, once each (R131, R348). -/
def State.degradedTo (s : State) (f : Nat) : List Nat :=
  let ps := s.partsBehind f
  if s.enabled 0 && !ps.contains 0 then 0 :: ps else ps

/-- SLOWED when a window's level changes (R275): once for each live order with a read of the window outstanding or
waiting; when the level returns to 0, to each order that was told. -/
def State.slowed (s : State) (e old : Nat) : State :=
  let new := s.level e
  if new = old then s else
  let v := (s.window e).v
  if new = 0 then
    (s.orders.filter (fun o => o.told.contains e)).foldl (fun s o =>
      (s.upOrder o.id (fun o => { o with told := o.told.erase e })).eventOf o.p o.q (leAt o.bytes.toNat 4 2) o.slot 0x000C e 256) s
  else
    (s.orders.filter (fun o => s.reads.any (fun r => r.entry == some e && r.isFor (fun c => c.order? == some o.id)))).foldl
      (fun s o => (s.upOrder o.id (fun o => { o with told := if o.told.contains e then o.told else e :: o.told })).eventOf
        o.p o.q (leAt o.bytes.toNat 4 2) o.slot 0x000C e v) s

/-- Apply a change to the state and post SLOWED for every window whose level it changes (R273, R275). -/
def State.withLevels (s : State) (f : State → State) : State :=
  let old := (List.range 16).map s.level
  (List.range 16).foldl (fun s e => s.slowed e (old.getD e 0)) (f s)

/-- Under a new slot table no new request is issued until the writes of the old one are acknowledged (R350). -/
def State.newTable (s : State) (f : Nat) (old : List Nat) : State :=
  if (s.face f).slotTable = old then s
  else { s with narrows := s.narrows.map (fun (n : NarrowReq) => if n.face = f ∧ n.modl.isSome ∧ n.write.isSome then { n with old := true } else n) }.upFace
    f (fun x => { x with oldWrites := (s.writes.filter (fun (w : WriteReq) => w.face == f && w.modl.isSome)).map WriteReq.id })

/-- The requests of a module that leaves wait to be sent again under the new slot table (R363). Of a burst that is read again
only the lines that had not come are wanted. -/
def State.reissue (s : State) (f m : Nat) : State :=
  let ws := (s.writes.filter (fun w => w.face == f && w.modl == some m)).map WriteReq.id
  let rs := (s.reads.filter (fun r => r.face == f && r.modl == some m)).map ReadReq.id
  { s with
    writes := s.writes.map (fun (w : WriteReq) => if ws.contains w.id then { w with modl := none } else w)
    reads := s.reads.map (fun (r : ReadReq) => if rs.contains r.id then { r with modl := none, wants := r.wants.filter (fun w => r.left.contains w.2), left := List.range r.lines } else r)
    narrows := s.narrows.map (fun (n : NarrowReq) => if n.face = f ∧ n.modl = some m then { n with modl := none, old := false } else n) }

/-- A command is performed: counted, and a write command logged with its address or 0 (R410, R415). -/
def State.performed (s : State) (cmd addr : Nat) (write : Bool) : State :=
  let s1 := s.upMon (fun m => { m with commands := satAdd m.commands 1 0xFFFF, writes := if write then satAdd m.writes 1 255 else m.writes })
  if write then s1.klog 0x0102 (Config.klogArg 0x0102 cmd 0) addr else s1

/-- Send a narrow access on the module its address names (R349, R350). A write is a poke, which is performed as it is issued (R412). -/
def State.sendNarrow (s : State) (n : NarrowReq) : State :=
  if n.modl.isSome || (s.rstDie.isSome && n.write.isSome) || (!n.issued && s.oldTable n.face) then s else
  match (s.face n.face).moduleFor (n.addr / 128) with
  | none => s
  | some m =>
    let msg := match n.write with | some v => Msg.nwr n.tag n.addr v | none => Msg.nrd n.tag n.addr
    let s1 := if n.write.isSome && !n.issued then s.performed 3 n.addr true else s
    let nth := if n.issued then n.nth else s1.nextId
    ({ s1.fresh with narrows := s1.narrows.map (fun (y : NarrowReq) => if y = n then { y with modl := some m, issued := true, nth := nth } else y) }.queueMsg n.face m msg).upFace
      n.face (fun x => { x with narrow := satAdd x.narrow 1 0xFFFFFFFF })

/-- Send the narrow accesses that wait. -/
def State.pumpNarrow (s : State) : State := s.narrows.foldl (fun s n => s.sendNarrow n) s

/-- Send again, in their original order, the requests of a face that a module left unanswered (R363). -/
def State.resend (s : State) (f : Nat) : State :=
  let ws := (s.writes.filter (fun w => w.face == f && w.modl.isNone && w.nth.isSome)).map (fun w => (w.nth.getD 0, fun (s : State) => tryWrite s w.id))
  let rs := (s.reads.filter (fun r => r.face == f && r.modl.isNone && r.nth.isSome)).map (fun r => (r.nth.getD 0, fun (s : State) => tryRead s r.id))
  let ns := (s.narrows.filter (fun n => n.face == f && n.modl.isNone && n.issued)).map (fun n => (n.nth, fun (s : State) => s.sendNarrow n))
  (sortBy (fun (x y : Nat × (State → State)) => decide (x.1 ≤ y.1)) (ws ++ rs ++ ns)).foldl (fun s x => x.2 s) s

def Msg.isControl : Msg → Bool
  | .intr .. => true
  | .snpRsp _ => true
  | _ => false

/-- A module as it leaves service for training or for good: its width and count stay, its traffic is gone (R346, R363). -/
def Modl.out (y : Modl) (next : ModState) (retrain : Bool) : Modl :=
  { state := next, lanes := y.lanes, half := y.half, repaired := y.repaired,
    retrains := if retrain then satAdd y.retrains 1 255 else y.retrains, trained := y.trained }

/-- A module in service changes under a new slot table; its tags are freed and its requests wait again (R350, R363). -/
def State.unseat (s : State) (f m : Nat) (g : Modl → Modl) : State :=
  let s1 := (s.upMod f m g).newTable f (s.face f).slotTable
  (s1.upFace f (fun x => { x with oldWrites := x.oldWrites.filter (fun i =>
    s1.writes.any (fun w => w.id == i && w.modl != some m)) })).reissue f m

/-- What a module left unanswered is sent again, and its INTR and SNP_RSP on the lowest module (R363). -/
def State.reseat (s : State) (f : Nat) (ctl : List Msg) : State :=
  ctl.foldl (fun s c => s.queueMsg f (((s.face f).lowest).getD 0) c) (s.resend f).pumpNarrow

/-- FACE_DOWN, where no module of the face is left in service (R364). -/
def State.postDown (s : State) (f : Nat) : State :=
  if !(s.face f).up && !(s.face f).downPosted then
    (s.upFace f (fun x => { x with downPosted := true, lost := false })).dieEvent (s.partsBehind f) 0x0010 f 0
  else s

/-- A module leaves service (R346, R363): its tags are freed, its requests reissued, its INTR and SNP_RSP sent on
another module, and it retrains (`next` training) or stays down. -/
def State.leave (s : State) (f m : Nat) (next : ModState) (retrain : Bool) : State :=
  let x := s.modl f m
  if x.state ≠ .inService then
    s.upMod f m (fun y => { y with state := next, retrains := if retrain then satAdd y.retrains 1 255 else y.retrains })
  else
    s.withLevels fun s =>
      ((s.unseat f m (fun y => y.out next retrain)).reseat f (x.txCtl.map Prod.snd ++ x.txMsgs.filter Msg.isControl)).postDown f

/-- A module is made to retrain by a reset of either end or by FACE_CTRL (R346): one in service leaves it, one that trained
at 0 lanes tries again (R347). One that is training goes on, and one whose face has not begun to train stays down (R344). -/
def State.retrainMod (s : State) (f m : Nat) : State :=
  let x := s.modl f m
  if s.modPresent f m && (x.state == .inService || (x.state == .down && x.trained)) then s.leave f m .training true else s

/-- Messages that waited on another module while the face was down (INTR) go on the module now in service. -/
def State.gatherWaiting (s : State) (f m : Nat) : State :=
  let x := s.face f
  let waiting := ((x.mods.zipIdx).filter (fun y => y.2 != m && y.1.state != .inService)).flatMap (fun y => y.1.txMsgs)
  let s1 := s.upFace f (fun x => { x with mods := (x.mods.zipIdx).map (fun y =>
    if y.2 != m && y.1.state != .inService then { y.1 with txMsgs := [] } else y.1) })
  s1.upMod f m (fun y => { y with txMsgs := waiting ++ y.txMsgs })

/-- A module as its training ends: its width, and what it has still to send (R345, R347, R363). -/
def Modl.seat (y : Modl) (half lanes : Nat) (repaired : Nat × Nat) : Modl :=
  { state := if lanes = 0 then .down else .inService, lanes := lanes, half := half, repaired := repaired,
    retrains := y.retrains, trained := true, txMsgs := y.txMsgs.filter Msg.isControl }

/-- A module ends its training; one in service takes its place in a new slot table (R350). The rate of a face is that of the module
that brings it up (R344). -/
def State.seat (s : State) (f m half lanes : Nat) (repaired : Nat × Nat) (fast : Bool) : State :=
  let s1 := (s.upMod f m (fun y => y.seat half lanes repaired)).upFace f (fun y => { y with fast := if (s.face f).up then y.fast else fast })
  if lanes = 0 then s1 else (s1.newTable f (s.face f).slotTable).gatherWaiting f m

/-- A face that comes up: what waited is sent, and FACE_UP where FACE_DOWN was posted (R364). -/
def State.faceUp (s : State) (f : Nat) : State :=
  let s1 := s.upFace f (fun y => { y with regSeq := 0, lost := false, downPosted := false, oldWrites := [] })
  let s2 := (pump (s1.resend f)).pumpNarrow
  if (s.face f).downPosted then s2.dieEvent (s2.partsBehind f) 0x0011 f 0 else s2

/-- The records that the rings behind a face hold go to memory (R142, R364). -/
def State.pumpBehind (s : State) (f : Nat) : State :=
  (s.partsBehind f).foldl (fun s p => (List.range 18).foldl (fun s i => s.pumpRing p (16 + i)) s) s

/-- A training attempt ends: each end reports the width that it can use (R345, R347, R348). Where Harkom's end reports full and the
other a half, it retrains at that half; where the other end is the wider, the module is held until it reports the same. -/
def State.trained (s : State) (f m : Nat) (own far : Nat) (repaired : Nat × Nat) (fast : Bool) : State :=
  let x := s.modl f m
  if x.state ≠ .training && x.state ≠ .held then s
  else if own = 0 && (far = 1 || far = 2) then
    s.upMod f m (fun y => { y with state := .training, limit := far, repaired := repaired, retrains := satAdd y.retrains 1 255 })
  else if far = 0 && (own = 1 || own = 2) then s.upMod f m (fun y => { y with state := .held, repaired := repaired })
  else
  let half := if own = far then own else 3
  let lanes := halfLanes half
  s.withLevels fun s =>
    let s1 := s.seat f m half lanes repaired fast
    let s2 := if lanes ≠ (if x.trained then x.lanes else 64) && (s1.face f).up then s1.dieEvent (s1.degradedTo f) 0x000F (f * 256 + m) lanes else s1
    if !(s.face f).up && (s2.face f).up then (s2.faceUp f).pumpBehind f else pump s2

/-- A protocol error (R360): counted, and the module retrains. -/
def State.protocolError (s : State) (f m : Nat) : State :=
  (s.upFace f (fun x => { x with protoErrs := satAdd x.protoErrs 1 0xFFFF })).leave f m .training true

/-- Credits that the host advertises or returns (R361). What comes before the first message of a channel is its
advertisement; what comes later and exceeds it is a protocol error (R360). -/
def State.creditIn (s : State) (f m : Nat) (c : List Nat) : State :=
  let x := s.modl f m
  let got (i : Nat) : Nat := x.credits.getD i 0 + c.getD i 0
  if (List.range 4).any (fun i => x.spent.getD i false && got i > x.advertised.getD i 0) then s.protocolError f m
  else s.upMod f m (fun x =>
    { x with credits := (List.range 4).map got
             advertised := (List.range 4).map (fun i => if x.spent.getD i false then x.advertised.getD i 0 else got i) })

/-- The buffer of a host message is used and owed back (R361). -/
def State.usedBuffer (s : State) (f m chan n : Nat) : State :=
  s.upMod f m (fun x => { x with avail := x.avail.modify chan (· - n), owed := x.owed.modify chan (· + n) })

/-- SNP: no copy and no data (R359). -/
def State.snoop (s : State) (f m tag : Nat) : State := s.queueMsg f m (.snpRsp tag)

/-- What the receiver makes of a flit's header and CRC (R353). -/
inductive FlitRx where
  | bad                        -- CRC or sequence: discarded, nak
  | null
  | accept
  deriving DecidableEq, Repr

/-- Judge a flit (R351 to R353). Kinds 2 and 3 and a nonzero reserved field are protocol errors, judged apart. -/
def judgeFlit (x : Modl) (v : Nat) : FlitRx :=
  if crc32c (v % 2 ^ (8 * 252)) 252 ≠ leAt v 252 4 then .bad
  else if fld v 23 22 = 1 then .null
  else if fld v 9 0 = (x.rxSeq + 1) % 1024 then .accept
  else .bad

/-- Numbers acknowledged by `ack`: those kept up to it (R353). -/
def ackKept {α : Type} (kept : List (Nat × α)) (ack : Nat) : List (Nat × α) :=
  if kept.any (fun k => k.1 == ack) then (kept.dropWhile (fun k => k.1 != ack)).dropWhile (fun k => k.1 == ack) else kept

/-- Drop control messages whose flit is acknowledged. -/
def ackCtl (ctl : List (Nat × Msg)) (kept : List (Nat × List Nat)) : List (Nat × Msg) :=
  ctl.filter (fun c => kept.any (fun k => k.1 == c.1))

/-- Act on the ack and nak fields of a flit whose CRC is good (R353): free acknowledged flits, resend the others on nak, and
retrain after eight naks in a row with one ack. -/
def State.ackNak (s : State) (f m ack : Nat) (nak : Bool) : State :=
  let s1 := s.upMod f m (fun x =>
    let kept := ackKept x.txKept ack
    { x with txKept := kept, txCtl := ackCtl x.txCtl kept, txAgain := x.txAgain.filter kept.contains })
  if !nak then s1.upMod f m (fun x => { x with nakRun := 0 })
  else
    let x := s1.modl f m
    let run := if x.nakRun ≠ 0 && x.nakAck = ack then x.nakRun + 1 else 1
    if run ≥ 8 then s1.leave f m .training true
    else s1.upMod f m (fun x => { x with nakAck := ack, nakRun := run, txAgain := x.txKept })

end Sys2Proof.Machine
end

