-- ==== Sys2Proof/Machine/Operands.lean ====
section
/-! DEFINITION. The operand forms: fields of a work order (R105 to R122), of a stream descriptor (R135 to R138), the
geometry of rows (R155 to R159), the choices of a jig (R53) and the bounds of tiles (R144). -/

namespace Sys2Proof.Machine

/-! ### Fields of a work order -/

def Order.f (o : Order) (off n : Nat) : Nat := leAt o.bytes.toNat off n
def Order.op (o : Order) : Nat := o.f 0 1
def Order.irqNow (o : Order) : Bool := (o.f 2 2).testBit 0
def Order.session (o : Order) : Nat := o.f 4 2
def Order.user (o : Order) : Nat := o.f 16 8
def Order.f32 (o : Order) (off : Nat) : F32 := BitVec.ofNat 32 (o.f off 4)

/-- The name of an opcode (R106). -/
inductive OpName where
  | gather | recall | score | scatter | append | prefetch | advise | copy | park | wake | fence | stats | pause | resume
  | accLoad | accStore
  deriving DecidableEq, Repr

def opName : Nat → Option OpName
  | 0x01 => some .gather
  | 0x02 => some .recall
  | 0x03 => some .score
  | 0x04 => some .scatter
  | 0x05 => some .append
  | 0x06 => some .prefetch
  | 0x07 => some .advise
  | 0x08 => some .copy
  | 0x09 => some .park
  | 0x0A => some .wake
  | 0x0B => some .fence
  | 0x0C => some .stats
  | 0x0D => some .pause
  | 0x0E => some .resume
  | 0x0F => some .accLoad
  | 0x10 => some .accStore
  | _ => none

def Order.name (o : Order) : Option OpName := opName o.op

/-- Orders that move data or accumulators (R132). -/
def OpName.moves : OpName → Bool
  | .park | .wake | .fence | .stats | .pause | .resume => false
  | _ => true

def Order.moves (o : Order) : Bool := match o.name with | some n => n.moves | none => false

/-- Orders that write rows of a table (R149). -/
def Order.writesRows (o : Order) : Bool :=
  o.op == 0x04 || o.op == 0x05 || (o.op == 0x08 && o.f 52 1 == 0)

/-- The jig kind of an opcode (R106, R54): required, optional, or none. -/
def jigKind : OpName → Option (Nat × Bool)
  | .gather => some (0x01, true)
  | .recall => some (0x02, true)
  | .score => some (0x03, true)
  | .scatter => some (0x04, true)
  | .append => some (0x05, true)
  | .prefetch => some (0x06, false)
  | .copy => some (0x08, true)
  | _ => none

/-- Descriptor fields of a body in body order: offset and stream number (R129, R136). -/
def descFields : OpName → List Nat
  | .gather => [24, 32, 40]
  | .recall | .score => [32]
  | .scatter => [24]
  | .copy => [32]
  | .prefetch => [24]
  | _ => []

/-- The offset of the driving stream's field (R144). -/
def Order.driveField (o : Order) : Nat :=
  match o.name with
  | some .gather | some .scatter | some .prefetch => 24
  | _ => 32

def Order.stream? (o : Order) (field : Nat) : Option Stream := o.streams.find? (fun x => x.field == field)
def Order.drive (o : Order) : Option Stream := o.stream? o.driveField
def Order.hasDrive (o : Order) : Bool := o.f o.driveField 8 != 0 && !o.phase2
def Order.setStream (o : Order) (field : Nat) (g : Stream → Stream) : Order :=
  { o with streams := o.streams.map (fun (x : Stream) => if x.field = field then g x else x) }
/-- The number of the descriptor field in body order, for fault records (R129); 0xFF without a driving stream. -/
def Order.streamNo (o : Order) (field : Nat) : Nat :=
  match o.name with
  | some n => ((descFields n).findIdx? (· == field)).getD 0xFF
  | none => 0xFF
def Order.driveNo (o : Order) : Nat := if o.hasDrive then o.streamNo o.driveField else 0xFF

/-! ### Streams (R136 to R138) -/

/-- Element size of an element code (R136). -/
def elemSize (e : Nat) : Nat := if e = 2 then 2 else 4

def Stream.count (x : Stream) : Nat := x.counts.1 * x.counts.2.1 * x.counts.2.2.1 * x.counts.2.2.2

/-- The offset of a position (R138). -/
def Stream.offset (x : Stream) (pos : Nat) : Nat :=
  let (c0, c1, c2, _) := x.counts
  let (s1, s2, s3) := x.strides
  let i0 := pos % c0
  let r := pos / c0
  let i1 := r % c1
  let r2 := r / c1
  i0 * elemSize x.elem + i1 * s1 + (r2 % c2) * s2 + (r2 / c2) * s3

/-- The engine address of a position (R138). -/
def Stream.addrOf (x : Stream) (pos : Nat) : Nat := eaAdd x.base (x.offset pos)

/-- The engine address of the last byte that a stream reaches: the largest offset plus the element. -/
def Stream.lastOff (x : Stream) : Nat :=
  let (c0, c1, c2, c3) := x.counts
  let (s1, s2, s3) := x.strides
  (c0 - 1) * elemSize x.elem + (c1 - 1) * s1 + (c2 - 1) * s2 + (c3 - 1) * s3

/-! ### Rows (R155 to R159) -/

/-- Bytes of the payload before the elements (R158). -/
def Binding.lead (b : Binding) : Nat := if b.scaleMode = 3 then 4 else 0
/-- E, the elements of a row (R158). -/
def Binding.elems (b : Binding) : Nat := (b.rowBytes - b.lead) * 8 / elemBits b.fmt
/-- The row is sharded (R44). -/
def Binding.sharded (b : Binding) : Bool := b.shardMap != 0xFFFF

/-- The element codes of a payload (R157, R158). -/
def Binding.codes (b : Binding) (payload : Nat) : List Nat :=
  (List.range b.elems).map (elemCode b.fmt (payload >>> (8 * b.lead)))
/-- A row's own scale under scale_mode 3 (R158). -/
def rowScale (payload : Nat) : F32 := BitVec.ofNat 32 payload

def trailerOf (witness version : Nat) (poisoned dflt migrating : Bool) : Nat :=
  witness % 2 ^ 32 + (version % 2 ^ 24) <<< 32 + b2n poisoned <<< 56 + b2n dflt <<< 57 + b2n migrating <<< 58
def trWitness (t : Nat) : Nat := leAt t 0 4
def trVersion (t : Nat) : Nat := leAt t 4 3
def trPoisoned (t : Nat) : Bool := t.testBit 56
def trDefault (t : Nat) : Bool := t.testBit 57
def trMigrating (t : Nat) : Bool := t.testBit 58

/-- A row of an order as mapped by R162: a row to read, the default row of zeros, or a stored default row. -/
inductive Mapped where
  | row (r : Nat)
  | dfltRow (r : Nat)
  | zeros
  deriving DecidableEq, Repr

/-- Map an index (R162, R163). -/
def Binding.map (b : Binding) (i : Nat) : Mapped :=
  if i < b.rowCount then .row i
  else if b.defaultRow = 0xFFFFFFFF then .zeros else .dfltRow b.defaultRow

def Mapped.row? : Mapped → Option Nat
  | .row r | .dfltRow r => some r
  | .zeros => none
def Mapped.isDefault : Mapped → Bool
  | .row _ => false
  | _ => true

def ShardMap.redirect? (m : ShardMap) (row : Nat) : Option Redirect := m.redirects.find? (fun x => x.row == row)
def ShardMap.shard? (m : ShardMap) (row : Nat) : Option Shard := m.shards[row / m.shardRows]?

/-- A face-table entry of a jig (R53). -/
def Jig.faceEntry (j : Jig) (stack level : Nat) : Nat := j.faces.getD (stack * 4 + level) 0

/-- A throttle level makes a jig read the replicas of a stack's shards (R53). -/
def Jig.mayReplica (j : Jig) (stack : Nat) : Bool := (List.range 4).any (fun l => (j.faceEntry stack l).testBit 4)

/-- The slots and stack entries of a row's copies: none for a row that is not sharded; the redirect's target; or primary and
replica (R155, R271). With its shard. -/
def rowCopies (b : Binding) (m : Option ShardMap) (row : Nat) : List (Nat × Nat) × Option Nat :=
  match (if b.sharded then m else none) with
  | none => ([], none)
  | some m =>
    let sh := row / m.shardRows
    match m.redirect? row, m.shards[sh]? with
    | some r, _ => ([(r.addr, r.stack)], some sh)
    | none, none => ([], none)
    | none, some x =>
      let off := (row % m.shardRows) * b.stride
      ((eaAdd x.primary off, x.pStack) :: (if x.replica ≠ 0 then [(eaAdd x.replica off, x.rStack)] else []), some sh)

/-- A row at a slot of it (R155). -/
def RowAt.at_ (r : RowAt) (b : Binding) (slot : Nat) (stack face : Option Nat) : RowAt :=
  { r with slot := slot, stack := stack, face := face, trailer := if b.layout = 0 then eaAdd slot b.rowBytes else eaAdd b.trailerBase (r.row * 8) }

/-- The copy of a row and the face that a read of it takes, at the throttle levels of the stack map of its tile's epoch
(R53, R155, R273). -/
def State.choose (s : State) (b : Binding) (j : Option Jig) (epoch : Nat) (r : RowAt) : RowAt :=
  match r.copies with
  | [] => r
  | (a, e) :: rest =>
    match j with
    | none => r.at_ b a (some e) none
    | some j =>
      let entry (e : Nat) : Nat := j.faceEntry e (s.levelIn (s.stacksAt epoch) e)
      let faceOf (x : Nat) : Nat := if r.row % 2 = 0 then fld x 1 0 else fld x 3 2
      match rest with
      | (a2, e2) :: _ => if (entry e).testBit 4 then r.at_ b a2 (some e2) (some (faceOf (entry e2))) else r.at_ b a (some e) (some (faceOf (entry e)))
      | [] => r.at_ b a (some e) (some (faceOf (entry e)))

/-- A row with its copies, at the place of an unsharded one (R155). -/
def rowAt (b : Binding) (m : Option ShardMap) (row : Nat) : RowAt :=
  let c := rowCopies b m row
  ({ row := row, slot := 0, trailer := 0, copies := c.1, shard := c.2 } : RowAt).at_ b (eaAdd b.base (row * b.stride)) none none

/-- The place of a row for a read under a jig, under the live stack map (R53, R155). -/
def State.placeRow (s : State) (b : Binding) (m : Option ShardMap) (j : Option Jig) (row : Nat) : RowAt :=
  s.choose b j s.cfg.epoch (rowAt b m row)

/-- The places that a write of a row goes to: primary and replica, or the redirect's target (R155, R271). -/
def RowAt.places (r : RowAt) (b : Binding) : List RowAt :=
  if r.copies.isEmpty then [r] else r.copies.map (fun c => r.at_ b c.1 (some c.2) none)

/-- The places that a read of a row may take: its first copy, and the replica where a throttle level makes the jig read it
(R53, R145). -/
def RowAt.readPlaces (r : RowAt) (b : Binding) (j : Option Jig) : List RowAt :=
  let l := r.places b
  match r.copies with
  | (_, e) :: _ :: _ => if j.any (fun j => j.mayReplica e) then l else l.take 1
  | _ => l

def placeWrites (b : Binding) (m : Option ShardMap) (row : Nat) : List RowAt := (rowAt b m row).places b

/-- The shard map that a tile uses: that of the live configuration, and the pinned one where it is gone (R32, R284). -/
def State.mapFor (s : State) (p : Nat) (b : Binding) (pinned : Option ShardMap) : Option ShardMap :=
  if b.sharded then (shardMapOf s.cfg.live p b.shardMap).orElse (fun _ => pinned) else none

/-! ### Pages, spans, lines -/

/-- Pieces of `n` bytes at an engine address, cut at 4 KiB pages: address and length. -/
def spans (ea n : Nat) : List (Nat × Nat) :=
  if n = 0 then [] else
  let k := (ea % 4096 + n - 1) / 4096 + 1
  (List.range k).map (fun i =>
    let lo := if i = 0 then ea else (ea / 4096 + i) * 4096
    let hi := min (ea + n) ((ea / 4096 + i + 1) * 4096)
    (lo, hi - lo))

/-- A key of a page that a tile uses, for reading or for writing. -/
def pageKey (ea : Nat) (write : Bool) : Nat := 2 * (ea / 4096) + b2n write

/-- The physical address under which a tile holds an engine address (R305). -/
def Tile.pa? (t : Tile) (ea : Nat) : Option Nat :=
  match t.addrs.find? (fun a => a.1 / 2 == ea / 4096) with
  | some a => some (a.2 * 4096 + ea % 4096)
  | none => none

/-- The physical pieces of `n` bytes that a tile has translated. -/
def Tile.pieces (t : Tile) (ea n : Nat) : List (Nat × Nat) :=
  (spans ea n).map (fun x => ((t.pa? x.1).getD 0, x.2))

/-- The lines of physical pieces. -/
def pieceLines (ps : List (Nat × Nat)) : List Nat := (ps.flatMap (fun x => linesOf x.1 x.2)).eraseDups

/-- Bytes of physical pieces from held lines: the bytes and whether a line is poisoned; none while one is missing. -/
def State.pieceBytes (s : State) (c : Consumer) : List (Nat × Nat) → Option (Nat × Bool)
  | [] => some (0, false)
  | (pa, n) :: ps =>
    match s.getBytes c pa n, State.pieceBytes s c ps with
    | some (v, b), some (w, d) => some (v + w <<< (8 * n), b || d)
    | _, _ => none

/-- The line writes of physical pieces that together carry a byte string. -/
def pieceWrites : List (Nat × Nat) → Nat → List (Nat × BitVec 128 × Line)
  | [], _ => []
  | (pa, n) :: ps, v => lineParts pa n (v % 2 ^ (8 * n)) ++ pieceWrites ps (v >>> (8 * n))

/-- Parts that share a line joined, one entry a line. -/
def joinParts (xs : List (Nat × BitVec 128 × Line)) : List (Nat × BitVec 128 × Line) :=
  xs.foldl (fun acc x =>
    if acc.any (fun y => y.1 == x.1) then
      acc.map (fun y => if y.1 = x.1 then (y.1, y.2.1 ||| x.2.1, mergeLine y.2.2 x.2.1 x.2.2) else y)
    else acc ++ [x]) []

/-! ### Tiles (R53, R144) -/

/-- Bags as first position and length, from their lengths. -/
def bagsFrom : Nat → List Nat → List (Nat × Nat)
  | _, [] => []
  | p, n :: ns => (p, n) :: bagsFrom (p + n) ns

/-- Tiles under tile order 0x2: first position, length, and position within the bag (R144). -/
def bagTiles (bags : List (Nat × Nat)) : List (Nat × Nat × Nat) :=
  bags.flatMap (fun b => (List.range (ceilDiv b.2 256)).map (fun i => (b.1 + 256 * i, min 256 (b.2 - 256 * i), 256 * i)))

/-- The bench of a tile (R53): its number and, under tile order 0x2, its position within its bag. -/
def Jig.benchOf (j : Jig) (t pos : Nat) : Nat :=
  let n := popcount j.benchMask
  match j.tileOrder with
  | 0 => j.lead
  | 1 => nthSet j.benchMask (t % n)
  | _ => nthSet j.benchMask ((rankOf j.benchMask j.lead + pos / j.splitLen) % n)

/-- The lane of a position (R53). -/
def laneOf (j : Jig) (pos : Nat) : Nat := (pos + j.laneRotate) % 16

/-- Positions of the driving stream: an index or candidate stream, or a run of rows (R107, R110, R114 to R116). -/
def Order.positions (o : Order) : Nat :=
  match o.name with
  | some .gather => if o.f 32 8 = 0 then o.f 60 4 * o.f 64 4 else (o.bags.foldl (fun a b => a + b.2) 0)
  | some .scatter => (o.drive.map Stream.count).getD 0
  | some .copy => if o.hasDrive then (o.drive.map Stream.count).getD 0 else o.f 44 4
  | some .prefetch => if o.hasDrive then (o.drive.map Stream.count).getD 0 else o.f 36 4
  | some .recall | some .score =>
    if o.phase2 then (o.bags.foldl (fun a b => a + b.2) 0)
    else if o.hasDrive then (o.drive.map Stream.count).getD 0 else o.keyRows
  | some .append => o.f 48 4
  | _ => 0

def Order.tileOrder (o : Order) : Nat := (o.jig.map Jig.tileOrder).getD 0

/-- The bags of a GATHER_POOL that are known: all of them when bag_len gives them, else those read (R108, R144). -/
def Order.bagList (o : Order) : List (Nat × Nat) :=
  if o.op = 0x01 && o.f 32 8 = 0 then (List.range (o.f 60 4)).map (fun b => (b * o.f 64 4, o.f 64 4)) else o.bags

/-- Every bag is known. -/
def Order.bagsKnown (o : Order) : Bool := o.name != some .gather || o.f 32 8 = 0 || o.bags.length = o.f 60 4 || o.badBag.isSome

/-- A tile's first position, length and position within its bag (R144); none past the last tile known. -/
def Order.tileSpan (o : Order) (t : Nat) : Option (Nat × Nat × Nat) :=
  if o.tileOrder = 2 && o.name == some .gather then (bagTiles o.bagList)[t]?
  else
    let n := o.positions
    if 256 * t < n then some (256 * t, min 256 (n - 256 * t), 0) else none

/-- The number of tiles, once every bag is known. -/
def Order.tileCount (o : Order) : Nat :=
  if o.tileOrder = 2 && o.name == some .gather then (bagTiles o.bagList).length else ceilDiv o.positions 256

/-- The bench that issues an order without a jig: its session's home bench, or the partition's lowest (R106), which is that of a
PREFETCH (R316). -/
def State.issueBench (s : State) (o : Order) : Nat :=
  match o.jig with
  | some j => j.lead
  | none =>
    if o.op = 0x06 then s.lowBench o.p else
    match s.ctx? o.p o.session with
    | some c => if c.home = 0xFF then s.lowBench o.p else c.home
    | none => s.lowBench o.p

/-- The bench that runs a tile. -/
def State.tileBench (s : State) (o : Order) (t pos : Nat) : Nat :=
  match o.jig with
  | some j => j.benchOf t pos
  | none => s.issueBench o

/-- The benches of an order. -/
def State.orderBenches (s : State) (o : Order) : List Nat :=
  match o.jig with
  | some j => setBits j.benchMask
  | none => [s.issueBench o]

/-! ### Strainer geometry (R192 to R195) -/

/-- Elements per chunk. -/
def chunkElems : Nat → Nat
  | 0 => 16
  | 1 => 8
  | 2 => 8
  | 3 => 8
  | _ => 2
/-- Dimensions per column, D_max (R192). -/
def dMax (fmt : Nat) : Nat := 256 * chunkElems fmt
/-- Stored elements per sketch, e (R193). -/
def Jig.stored (j : Jig) : Nat := if j.flags.testBit 1 then j.dims / 2 else j.dims
/-- Dimension blocks, nd. -/
def Jig.blocks (j : Jig) : Nat := ceilDiv j.stored (dMax j.fmt)
/-- Bytes of e elements of the Strainer's format. -/
def Jig.storedBytes (j : Jig) : Nat := ceilDiv (j.stored * elemBits j.fmt) 8
/-- The row stride of queries, qs (R203). -/
def Jig.queryStride (j : Jig) : Nat := roundUp j.storedBytes 32
def Jig.transposed (j : Jig) : Bool := j.flags.testBit 2
def Jig.resident (j : Jig) : Bool := j.flags.testBit 0
def Jig.fpAcc (j : Jig) : Bool := j.flags.testBit 4

/-! ### The length of a pooled row (R183, R186) -/

/-- The reduction of a GATHER_POOL (R108); 6 for RECALL (R209). -/
def Order.reduction (o : Order) : Nat :=
  if o.op = 0x02 then 6
  else if o.f 68 1 = 0xFF then (o.binding.map Binding.reduction).getD 0 else o.f 68 1

/-- The output format of a GATHER_POOL, RECALL or SCORE. -/
def Order.outFmt (o : Order) : Nat := match o.op with | 0x01 => o.f 69 1 | 0x02 => o.f 68 1 | _ => o.f 57 1
def Order.partialRows (o : Order) : Bool := o.op == 0x01 && (o.f 70 1).testBit 0

/-- Elements of a pooled output row (R177). -/
def outElems (reduction e : Nat) : Nat := if reduction = 5 then 2 * e else e

/-- P, the payload bytes of a pooled output row (R183) or of a partial row (R186). -/
def Order.outBytes (o : Order) (b : Binding) : Nat :=
  if o.partialRows then roundUp (32 + 4 * outElems o.reduction b.elems) 32
  else roundUp (ceilDiv (outElems o.reduction b.elems * elemBits o.outFmt) 8) 32

/-- The integer path of the Steep (R179). -/
def intPath (b : Binding) (reduction : Nat) : Bool :=
  isIntFmt b.fmt && (b.scaleMode == 1 || b.scaleMode == 2) && (reduction == 0 || reduction == 2 || reduction == 3 || reduction == 4)

/-- The output address of row `i` (R183, R211). -/
def Order.outAt (o : Order) (i : Nat) : Nat :=
  match o.op with
  | 0x01 => eaAdd (o.f 48 8) (i * o.f 56 4)
  | _ => eaAdd (o.f 40 8) (i * o.f 48 4)

/-! ### Ending an order early -/

/-- Requests of an order that are not sent yet are dropped; those sent are answered and their lines are not used. -/
def State.dropOrderReads (s : State) (o : Nat) : State :=
  let s1 := s.quitWhere (fun c => c.order? == some o) (fun _ => true)
  { s1 with walks := s1.walks.filter (fun w => match w.for_ with | .order i .. => i != o | _ => true) }

/-- An order's status is decided: it writes nothing after it (R128). The first decision stands. -/
def State.endOrder (s : State) (o status detail : Nat) : State :=
  match s.order? o with
  | none => s
  | some x =>
    if x.status.isSome then s
    else (s.upOrder o (fun x => { x with status := some (status, detail), phase := .ending, waitFor := [], outPa := [] })).dropOrderReads o

/-- The bag, query or tile that poison on an element of a tile names (R324). -/
def Order.poisonDetail (o : Order) (t first : Nat) : Nat :=
  match o.name with
  | some .gather => ((o.bagList.findIdx? (fun b => b.1 + b.2 > first && b.2 ≠ 0))).getD 0
  | some .recall | some .score => 0
  | _ => t

end Sys2Proof.Machine
end

