-- ==== Sys2Proof/Machine/Chest.lean ====
section
/-! DEFINITION. The Chest, the Saucer, resident copies, the write-combining buffer, row writes and write trackers
(R169 to R173, R188, R202, R255, R263, R264). -/

namespace Sys2Proof.Machine

/-! ### Replacement (R169) -/

/-- The set of a line address: bits [19:7] of the address. -/
def setOf (line : Nat) : Nat := line % 8192

/-- Ways under a node of the tree at a depth: node `i` of level `d` covers `16 / 2^d` ways. -/
def nodeWays (level i : Nat) : List Nat := (List.range (16 / 2 ^ level)).map (fun k => i * (16 / 2 ^ level) + k)

/-- The index of node `i` of a level among the 15 bits; a set bit points to the higher ways. -/
def nodeIx (level i : Nat) : Nat := 2 ^ level - 1 + i

/-- Turn the bits on a way's path to point away from it. -/
def plruTouch (bits way : Nat) : Nat :=
  (List.range 4).foldl (fun b level =>
    let i := way / 2 ^ (4 - level)
    let right := (way / 2 ^ (3 - level)) % 2 = 1
    let bit := 2 ^ nodeIx level i
    let cleared := if b.testBit (nodeIx level i) then b - bit else b
    if right then cleared else cleared + bit) bits

/-- The victim among the ways allowed: a subtree without one is never taken. -/
def plruVictim (bits : Nat) (ok : Nat → Bool) : Nat :=
  (List.range 4).foldl (fun i level =>
    let l := 2 * i
    let r := 2 * i + 1
    let any (j : Nat) : Bool := (nodeWays (level + 1) j).any ok
    if !any l then r else if !any r then l
    else if bits.testBit (nodeIx level i) then r else l) 0

/-- The tree bits of a set. DESIGN CHOICE (log 53): they are 0 at first and after an invalidation, which the spec does not say. -/
def Bench.plruOf (b : Bench) (set : Nat) : Nat := ((b.plru.find? (fun x => x.1 == set)).map Prod.snd).getD 0
def Bench.touch (b : Bench) (set way : Nat) : Bench :=
  { b with plru := (b.plru.filter (fun x => x.1 != set)) ++ [(set, plruTouch (b.plruOf set) way)] }

/-- A clean line enters: first in, first out, at most 512 lines. A line whose write is pending is not dropped; where every line
waits for its write, the new one is not kept (R13, R170; log 21). -/
def Bench.toSaucer (b : Bench) (x : SLine) : Bench :=
  let l := b.saucer ++ [x]
  if l.length ≤ 512 then { b with saucer := l }
  else match l.find? (fun y => y.pending.isNone) with
    | some v => { b with saucer := l.erase v }
    | none => b

/-- The way whose line is replaced, of those allowed: one that ADVISE made a next victim, else the tree's choice (R169, R317). -/
def Bench.victim (b : Bench) (set : Nat) (ok : Nat → Bool) : Nat :=
  match b.cold.findSome? (fun l => (b.chest.find? (fun c => c.set == set && c.line == l && ok c.way)).map CLine.way) with
  | some w => w
  | none => plruVictim (b.plruOf set) ok

/-- A line is no longer a next victim. -/
def Bench.warm (b : Bench) (line : Nat) : Bench := { b with cold := b.cold.filter (· != line) }

/-- Fill a line into the Chest under a mask of ways; the clean line it evicts goes to the Saucer (R169, R170). A way
whose line has a pending write is passed over, and nothing is filled where no way is left (log 21). -/
def Bench.fill (b : Bench) (mask line : Nat) (bytes : Line) (pending : Option Nat) (binds : List Nat) : Bench :=
  let set := setOf line
  let b := b.warm line
  let inSet := b.chest.filter (fun c => c.set == set)
  let free := (setBits mask).find? (fun w => !inSet.any (fun c => c.way == w))
  match free with
  | some w => { b with chest := b.chest ++ [(⟨set, w, line, bytes, pending, false, binds⟩ : CLine)] }.touch set w
  | none =>
    let ok (w : Nat) : Bool := mask.testBit w && !inSet.any (fun c => c.way == w && c.pending.isSome)
    if !(List.range 16).any ok then b else
    let w := b.victim set ok
    match inSet.find? (fun c => c.way == w) with
    | none => b
    | some v =>
      let b1 := { b with chest := (b.chest.erase v) ++ [(⟨set, w, line, bytes, pending, false, binds⟩ : CLine)] }.touch set w
      b1.toSaucer ⟨v.line, v.bytes, v.pending, v.bad, v.binds⟩

/-- What a lookup of a line meets (R169, R170, R173). -/
inductive Look where
  | hit (bytes : Line)
  | miss
  | clean                      -- a clean line with a parity error: dropped, to be refetched
  | lost (bytes : Line) (write : Nat)   -- a line with a pending write and a parity error
  deriving DecidableEq, Repr

def addBind (l : List Nat) (n : Nat) : List Nat := if l.contains n then l else n :: l

/-- Look a line up for a row of a binding in a bench's Chest, then its Saucer. DESIGN CHOICE (log 53): a row whose effective mask is
empty is served as well where its line is held, and a line of the Saucer then stays there. -/
def Bench.look (b : Bench) (mask line bind : Nat) : Look × Bench :=
  match b.chest.find? (fun c => c.line == line) with
  | some c =>
    if !c.bad then (.hit c.bytes, { b with chest := b.chest.map (fun (y : CLine) => if y = c then { y with binds := addBind y.binds bind } else y) }.warm line |>.touch c.set c.way)
    else match c.pending with
      | none => (.clean, { b with chest := b.chest.erase c })
      | some w => (.lost c.bytes w, { b with chest := b.chest.erase c })
  | none =>
    match b.saucer.find? (fun x => x.line == line) with
    | none => (.miss, b)
    | some x =>
      if x.bad then
        match x.pending with
        | none => (.clean, { b with saucer := b.saucer.erase x })
        | some w => (.lost x.bytes w, { b with saucer := b.saucer.erase x })
      else if mask = 0 then (.hit x.bytes, { b with saucer := b.saucer.map (fun (y : SLine) => if y = x then { y with binds := addBind y.binds bind } else y) })
      else
        -- it moves back into the Chest, whose victim takes its place as the newest entry of the Saucer (DESIGN CHOICE, log 21)
        let b1 := { b with saucer := b.saucer.erase x }.fill mask line x.bytes x.pending (addBind x.binds bind)
        -- where every way waits for a write, the line stays where it is
        (.hit x.bytes, if b1.chest.any (fun c => c.line == line) then b1 else b)

/-- Lines of a bench updated by a write, with the write they then wait for. -/
def Bench.update (b : Bench) (line : Nat) (mask : BitVec 128) (bytes : Line) (write : Nat) : Bench :=
  { b with
    chest := b.chest.map (fun c => if c.line = line then { c with bytes := mergeLine c.bytes mask bytes, pending := some write } else c)
    saucer := b.saucer.map (fun c => if c.line = line then { c with bytes := mergeLine c.bytes mask bytes, pending := some write } else c) }

/-- A write is acknowledged: its lines are clean again, or wait for the row write of the line that is still under way (`next`). -/
def Bench.acked (b : Bench) (write : Nat) (next : Option Nat) : Bench :=
  { b with
    chest := b.chest.map (fun c => if c.pending = some write then { c with pending := next } else c)
    saucer := b.saucer.map (fun c => if c.pending = some write then { c with pending := next } else c) }

def Bench.dropLine (b : Bench) (line : Nat) : Bench :=
  { b with chest := b.chest.filter (fun c => c.line != line), saucer := b.saucer.filter (fun c => c.line != line) }

/-- Benches of a partition. -/
def State.partBenches (s : State) (p : Nat) : List Nat := setBits (s.pe p).benchMask

/-- A bench's Chest serves and updates lines (R172). -/
def State.serves (s : State) (p b : Nat) : Bool := (s.part p).chest.serving.contains b

/-- The effective mask of a binding on a bench (R169). -/
def State.bindWays (s : State) (p b : Nat) (x : Binding) : Nat := x.wayMask &&& s.effWays p b

/-! ### Writing (R171, R263, R264) -/

def WriteFor.isRow : WriteFor → Bool
  | .rowOf .. => true
  | .mig _ => true
  | _ => false

/-- A write of an order, issued or waiting in a write-combining buffer, is not yet acknowledged. -/
def State.orderWrites (s : State) (o : Nat) : Bool :=
  s.writes.any (fun w => w.owners.any (WriteFor.ofOrder o)) ||
  s.benches.any (fun b => b.wc.any (fun e => e.owns.any (WriteFor.ofOrder o)))

/-- How a write leaves: its bench, its face, and the translation it was issued under. -/
structure Via where
  bench : Option Nat := none
  face : Nat
  space : Option Space := none

/-- The way of a write that belongs to no tile. -/
def State.via (s : State) (line : Nat) (space : Option Space := none) : Via := { face := s.nearFace (line * 128), space := space }

/-- The way of a write of a bench for a tile: its face is that of the stack map of the tile's epoch (R66, R268). -/
def State.viaAt (s : State) (bench : Option Nat) (epoch line : Nat) (space : Option Space) : Via :=
  { bench := bench, face := faceIn (s.stacksAt epoch) (line * 128), space := space }

/-- Reads of the line that are outstanding learn of a row write sent after them, so that no bench keeps an older copy (R171). -/
def State.passReads (s : State) (p line : Nat) (w : Passed) : State :=
  { s with reads := s.reads.map (fun (r : ReadReq) =>
      if r.part = p ∧ r.line ≤ line ∧ line < r.line + r.lines then { r with since := r.since ++ [w] } else r) }

/-- Write a line to memory; a row write updates every copy in the partition's Chests and Saucers (R171). -/
def State.sendLine (s : State) (owns : List WriteFor) (p : Nat) (via : Via) (line : Nat) (mask : BitVec 128) (bytes : Line)
    (poison : Bool) : State :=
  let id := s.nextId
  let s1 := s.postLine (owns.headD (.restore p)) p via.face line mask bytes poison none via.space owns.tail via.bench
  if owns.any WriteFor.isRow || poison then
    (s.partBenches p).foldl (fun s b =>
      if poison then s.upBench b (fun x => x.dropLine line)
      else if s.serves p b then s.upBench b (fun x => x.update line mask bytes id) else s) (s1.passReads p line ⟨line, mask, bytes, poison, id⟩)
  else s1

/-! ### Losses of the Chest (R173) -/

/-- A row has a byte in a line of engine addresses. -/
def Binding.meets (b : Binding) (r : RowAt) (l : Nat) : Bool :=
  (r.slot / 128 ≤ l && l ≤ (r.slot + b.rowBytes - 1) / 128) || (r.trailer / 128 ≤ l && l ≤ (r.trailer + 7) / 128)

/-- The line of engine addresses, of a row's slot or trailer, that a tile has translated to a line of memory. -/
def Tile.rowLine (t : Tile) (b : Binding) (r : RowAt) (line : Nat) : Nat :=
  ((linesOf r.slot b.rowBytes ++ linesOf r.trailer 8).find? (fun l => (t.pa? (l * 128)).any (fun pa => pa / 128 == line))).getD 0

/-- The translation under which a tile writes or reads a line of a row (R312). -/
def Tile.rowSpace (t : Tile) (b : Binding) (r : RowAt) (line : Nat) : Option Space :=
  let l := t.rowLine b r line
  some { tag := eaTag (l * 128), gen := t.gen, line := l }

/-- The other rows of a binding with a byte in a line of engine addresses that a row has a byte in, and where that slot is (R173,
R325). -/
def nearRows (b : Binding) (m : Option ShardMap) (row line : Nat) : List (Nat × Nat) :=
  let k := max 17 (128 / b.stride + 1)
  ((List.range (2 * k + 1)).filterMap (fun i => if row + i < k then none else some (row + i - k))).filterMap (fun r =>
    if r = row || r ≥ b.rowCount then none
    else ((placeWrites b m r).find? (fun x => b.meets x line)).map (fun x => (r, x.slot)))

/-- ROW_POISONED for a row (R131, R324). -/
def State.rowPoisoned (s : State) (p bind row slot : Nat) : State :=
  (s.upInts (fun i => { i with poisonMade := satAdd i.poisonMade 1 0xFFFF })).event p 0x000B slot (bind * 2 ^ 32 + row)

/-- The rows that a lost line of engine addresses poisons: binding, row and slot, each row once. -/
def State.lostRows (s : State) (p line : Nat) (owns : List WriteFor) : List (Nat × Nat × Nat) :=
  (owns.flatMap (fun w => match w with
    | .rowOf _ bind row slot =>
      match bindingOf s.cfg.live p bind with
      | some b => (bind, row, slot) :: (nearRows b (s.mapFor p b none) row line).map (fun x => (bind, x.1, x.2))
      | none => [(bind, row, slot)]
    | _ => [])).foldl (fun acc x => if acc.any (fun y => y.1 == x.1 && y.2.1 == x.2.1) then acc else acc ++ [x]) []

/-- The owners of the row writes of a partition to a line that are under way. -/
def State.lineOwners (s : State) (p line : Nat) : List WriteFor :=
  (s.writes.filter (fun w => w.part == p && w.line == line && w.owners.any WriteFor.isRow)).flatMap WriteReq.owners

/-- A line with pending writes is lost: no bench keeps it, it is written poisoned, its rows are reported, the writing
orders end with POISONED, and the loss is counted (R173). `more` are the writes it carried that are no longer, or not yet, under way,
and `at_` is the line of engine addresses. -/
def State.lineLost (s : State) (p line : Nat) (bytes : Line) (more : List WriteFor) (at_ : Nat) : State :=
  let owns := (more ++ s.lineOwners p line).eraseDups
  let s0 := (s.partBenches p).foldl (fun s b => s.upBench b (fun x => x.dropLine line)) s
  let s1 := s0.sendLine [.restore p] p (s.via line) line (BitVec.allOnes 128) bytes true
  let s2 := s1.upPart p (fun x => { x with chest := { x.chest with lostLines := satAdd x.chest.lostLines 1 0xFFFF } })
  let s3 := s2.upInts (fun i => i.parity 1)
  let s4 := (s3.lostRows p at_ owns).foldl (fun s x => s.rowPoisoned p x.1 x.2.1 x.2.2) s3
  owns.foldl (fun s w => match w with
    | .rowOf o _ _ _ => s.endOrder o 0x10 0
    | _ => s) s4

/-- A serving bench of the partition holds the line with a parity error not yet found. -/
def State.badCopy (s : State) (p line : Nat) : Bool :=
  (s.partBenches p).any (fun b => s.serves p b &&
    ((s.bench b).chest.any (fun c => c.line == line && c.bad) || (s.bench b).saucer.any (fun c => c.line == line && c.bad)))

/-- Write a line to memory. The write-through of a row meets a parity error of the line it goes through (R173). -/
def State.issueLine (s : State) (owns : List WriteFor) (p : Nat) (via : Via) (line : Nat) (mask : BitVec 128) (bytes : Line)
    (poison : Bool) : State :=
  if !poison && owns.any (fun w => match w with | .rowOf .. => true | _ => false) && s.badCopy p line then
    s.lineLost p line bytes owns ((via.space.map Space.line).getD 0)
  else s.sendLine owns p via line mask bytes poison

/-- Write a write-combining entry to memory. -/
def State.flushEntry (s : State) (b : Nat) (e : WcEnt) : State :=
  let s1 := s.upBench b (fun x => { x with wc := x.wc.erase e })
  s1.issueLine e.owns e.part { bench := some b, face := e.face, space := e.space } e.line e.mask e.bytes false

/-- A write of part of a line through a bench's write-combining buffer; whole lines bypass it (R263, R264). -/
def State.combine (s : State) (b p epoch : Nat) (own : WriteFor) (line : Nat) (mask : BitVec 128) (bytes : Line)
    (space : Option Space) : State :=
  let via := s.viaAt (some b) epoch line space
  match (s.bench b).wc.find? (fun e => e.line == line) with
  | some e =>
    let e2 : WcEnt := { e with mask := e.mask ||| mask, bytes := mergeLine e.bytes mask bytes,
                               owns := (e.owns.filter (· != own)) ++ [own] }
    let s1 := s.upBench b (fun x => { x with wc := x.wc.map (fun y => if y = e then e2 else y) })
    if e2.mask = BitVec.allOnes 128 then s1.flushEntry b e2 else s1
  | none =>
    if mask = BitVec.allOnes 128 then s.issueLine [own] p via line mask bytes false
    else
      let s1 := if (s.bench b).wc.length ≥ 256 then
          match (s.bench b).wc.head? with | some e => s.flushEntry b e | none => s
        else s
      s1.upBench b (fun x => { x with wc := x.wc ++ [⟨line, mask, bytes, [own], p, via.face, space⟩] })

/-- Bytes at physical pieces, through the write-combining buffer of a bench. -/
def State.writePieces (s : State) (b p epoch : Nat) (own : WriteFor) (ps : List (Nat × Nat)) (v : Nat) (space : Option Space) : State :=
  (pieceWrites ps v).foldl (fun s x => s.combine b p epoch own x.1 x.2.1 x.2.2 space) s

/-- Bytes at physical pieces written straight to memory (R249, R263). -/
def State.writeStraight (s : State) (b : Option Nat) (p epoch : Nat) (own : WriteFor) (ps : List (Nat × Nat)) (v : Nat) (space : Option Space) : State :=
  (pieceWrites ps v).foldl (fun s x => s.issueLine [own] p (s.viaAt b epoch x.1 space) x.1 x.2.1 x.2.2 false) s

/-- Write every entry of a bench whose last writer is the order: it has issued its last write there (R264). -/
def State.flushBench (s : State) (o b : Nat) : State :=
  ((s.bench b).wc.filter (fun e => (e.owns.getLast?.map (WriteFor.ofOrder o)).getD false)).foldl (fun s e => s.flushEntry b e) s

/-- Write every entry whose last writer is the order. -/
def State.flushOrder (s : State) (o : Nat) : State := (List.range 8).foldl (fun s b => s.flushBench o b) s

/-- A write of an order on a bench is not acknowledged yet (R243). -/
def State.writesOn (s : State) (o b : Nat) : Bool :=
  s.writes.any (fun w => w.bench == some b && w.owners.any (WriteFor.ofOrder o)) ||
  (s.bench b).wc.any (fun e => e.owns.any (WriteFor.ofOrder o))

/-- WC_FLUSH: the oldest entry of a bench is 64 core cycles old (R264). -/
def State.wcFlush (s : State) (b : Nat) : State :=
  match (s.bench b).wc.head? with
  | some e => s.flushEntry b e
  | none => s

/-! ### Write trackers (R188, R255) -/

def State.tracked (s : State) (p slot : Nat) : Bool := (s.part p).tracks.any (fun t => t.slot == slot)
def State.trackedByOther (s : State) (p slot o : Nat) : Bool := (s.part p).tracks.any (fun t => t.slot == slot && t.order != o)
/-- The order holds the tracker entry of a slot. -/
def State.holds (s : State) (p slot o : Nat) : Bool := (s.part p).tracks.any (fun t => t.slot == slot && t.order == o)
/-- Enter a slot of a row. -/
def State.track (s : State) (p o bind row slot : Nat) : State :=
  if s.holds p slot o then s else s.upPart p (fun x => { x with tracks := x.tracks ++ [⟨slot, o, bind, row⟩] })
/-- The entries of a row's slots leave. -/
def State.untrack (s : State) (p o bind row : Nat) : State :=
  s.upPart p (fun x => { x with tracks := x.tracks.filter (fun t => !(t.order == o && t.bind == bind && t.row == row)) })

/-- A read of the slot is outstanding on a bench of the partition: a write of it waits (R188). -/
def State.rowReadsOn (s : State) (p slot : Nat) : Bool :=
  s.reads.any (fun r => r.part == p && r.isFor (fun c => match c with | .row _ _ _ x | .prefetch _ _ x => x == slot | _ => false))

/-- A write of a row by an order, to any copy of it, is under way. -/
def State.rowWriting (s : State) (o bind row : Nat) : Bool :=
  let mine : WriteFor → Bool := fun w => match w with | .rowOf i bd r _ => i == o && bd == bind && r == row | _ => false
  s.writes.any (fun w => w.owners.any mine) || s.benches.any (fun b => b.wc.any (fun e => e.owns.any mine))

/-- The entries of a row leave the trackers when every write of it by its order, to each of its copies, is acknowledged (R188,
R255, R258, R271, R284). -/
def State.untrackDone (s : State) (p o bind row : Nat) : State :=
  if s.rowWriting o bind row then s else s.untrack p o bind row

/-! ### Resident copies (R200, R202) -/

/-- Every store of a bench is invalid. -/
def Bench.emptied (b : Bench) : Bench := { b with chest := [], plru := [], saucer := [], cold := [], wc := [], residents := [], loaded := none }

/-- Every copy of a row in the resident sets of a partition's benches takes a row write (R202). -/
def State.updateResident (s : State) (p bind row payload : Nat) : State :=
  (s.partBenches p).foldl (fun s b => s.upBench b (fun x =>
    { x with residents := x.residents.map (fun r =>
        if r.p = p ∧ r.bind = bind then { r with rows := r.rows.map (fun y => if y.1 = row then (row, payload) else y) } else r) })) s

def State.dropResidents (s : State) (f : Nat → Resident → Bool) : State :=
  { s with benches := (s.benches.zipIdx).map (fun (b, i) => { b with residents := b.residents.filter (fun r => !f i r) }) }

/-! ### Invalidation of Chests (R172) -/

/-- No write of the partition to a row is pending. -/
def State.rowsSettled (s : State) (p : Nat) : Bool :=
  !s.writes.any (fun w => w.part == p && w.owners.any WriteFor.isRow) &&
  !s.benches.any (fun b => b.wc.any (fun e => e.part == p && e.owns.any WriteFor.isRow))

def State.chestInvalidate (s : State) (p : Nat) : State := s.upPart p (fun x => { x with chest := { x.chest with invBusy := true } })

/-- INVALIDATE_DONE: every line of the partition's Chests and Saucers goes once write-throughs are acknowledged. -/
def State.invalidateDone (s : State) (p : Nat) : State :=
  if !(s.part p).chest.invBusy || !s.rowsSettled p then s
  else
    ((s.partBenches p).foldl (fun s b => s.upBench b (fun x => { x with chest := [], saucer := [], plru := [], cold := [] })) s).upPart p
      (fun x => { x with chest := { x.chest with invBusy := false, invDone := true } })

def State.chestEnable (s : State) (p : Nat) : State :=
  let bs := s.partBenches p
  s.upPart p (fun x =>
    if x.chest.invDone then { x with chest := { x.chest with enable := true, serving := bs } }
    else { x with chest := { x.chest with refused := true } })

/-- A bench that runs no tile of the partition's orders is at its tile boundary (R172). -/
def State.benchAtBoundary (s : State) (p b : Nat) : Bool :=
  !s.orders.any (fun o => o.p == p && o.tiles.any (fun t => t.bench == b && t.delivered && !t.consumed))

/-- Clearing enable: each bench serves lines until its next tile boundary; one without tiles stops at once. -/
def State.chestDisable (s : State) (p : Nat) : State :=
  if !(s.part p).chest.enable then s
  else
    let bs := (s.part p).chest.serving.filter (fun b => !s.benchAtBoundary p b)
    s.upPart p (fun x => { x with chest := { x.chest with enable := false, invDone := false, serving := bs } })

/-- A bench passes a tile boundary while its Chest is being disabled (R172). -/
def State.chestBoundary (s : State) (p b : Nat) : State :=
  if (s.part p).chest.enable then s
  else s.upPart p (fun x => { x with chest := { x.chest with serving := x.chest.serving.erase b } })

/-- Drop lines of the Chests and Saucers of a partition's benches; a line whose write is pending stays until it is
acknowledged (R66, R189). -/
def State.dropCached (s : State) (p : Nat) (c : CLine → Bool) (x : SLine → Bool) : State :=
  (s.partBenches p).foldl (fun s b => s.upBench b (fun y =>
    { y with chest := y.chest.filter (fun z => !c z || z.pending.isSome), saucer := y.saucer.filter (fun z => !x z || z.pending.isSome) })) s

/-- A line to be dropped still waits for its write. -/
def State.cachedPending (s : State) (p : Nat) (c : CLine → Bool) (x : SLine → Bool) : Bool :=
  (s.partBenches p).any (fun b => (s.bench b).chest.any (fun z => c z && z.pending.isSome) || (s.bench b).saucer.any (fun z => x z && z.pending.isSome))

end Sys2Proof.Machine
end

