-- ==== Sys2Proof/Machine/Steep.lean ====
section
/-! DEFINITION. The Steep: reductions, partials, their combining and the output elements (R167, R177 to R187, R219 to
R230, R237, R238). -/

namespace Sys2Proof.Machine

/-- A row-op (R167): multiplicity, the weights or scores of its occurrences in position order, and the row's elements
as integers and as scaled FP32 values. -/
structure RowOp where
  k : Nat
  ws : List F32 := []
  ints : List Int := []
  xs : List F32 := []
  shard : Option Nat := none
  zeros : Bool := false        -- the default row of zeros (R163)
  deriving DecidableEq, Repr

/-- What a pooling runs under. -/
structure Pool where
  red : Nat
  elems : Nat
  int : Bool                   -- the integer path (R179)
  mode : Nat                   -- scale_mode
  tree : Option Nat            -- group size of the tree class (R238)
  tau : F32
  factors : List (Option Nat × F32) := []   -- f of R227 per shard, or none for the table

def Pool.factor (c : Pool) (shard : Option Nat) : F32 := ((c.factors.find? (fun x => x.1 == shard)).map Prod.snd).getD f32one

/-- INT32 accumulators (R179, R186): only under scale_mode 1. -/
def Pool.intAcc (c : Pool) : Bool := c.int && c.mode == 1

/-- The partial of an empty bag part. -/
def Pool.start (c : Pool) : Partial :=
  { fp := !c.intAcc
    iacc := if c.intAcc then (if c.red = 3 then [] else List.replicate c.elems (some 0)) else []
    acc := if c.intAcc then [] else List.replicate c.elems (if c.red = 3 then f32ninf else f32zero)
    acc2 := if c.red = 5 then List.replicate c.elems f32zero else [] }

/-- What a row-op adds to an INT32 accumulator under reductions 0, 2 and 4 (R179, R228). -/
def intTerm (red k : Nat) (x : Int) : Int := if red = 4 then k * (x * x) else k * x

/-- One row-op on the integer path with INT32 accumulators. -/
def poolInt (red : Nat) (acc : List IAcc) (r : RowOp) : List IAcc :=
  if red = 3 then
    (if acc.isEmpty then r.ints.map some else List.zipWith (fun a x => imax a (some x)) acc r.ints)
  else List.zipWith (fun a x => iadd a (some (intTerm red r.k x))) acc r.ints

/-- The running state of shard runs (R228): the bag, the run and its shard. -/
structure Run where
  bag : List F32
  run : List IAcc := []
  cur : Option (Option Nat) := none

def Run.close (c : Pool) (x : Run) : Run :=
  match x.cur with
  | none => x
  | some sh =>
    let f := c.factor sh
    let scaled := x.run.map (fun v => fmul (iaccF32 v) f)
    { bag := List.zipWith (fun a b => if c.red = 3 then fmaxv a b else fadd a b) x.bag scaled }

/-- One row-op under scale_mode 2 (R228). The default row of zeros forms no run but under reduction 3. -/
def Run.step (c : Pool) (x : Run) (r : RowOp) : Run :=
  if c.red = 3 then
    ({ bag := x.bag, run := r.ints.map some, cur := some r.shard } : Run).close c
  else if r.zeros then x
  else
    let y := if x.cur = some r.shard then x else
      { x.close c with run := List.replicate c.elems (some 0), cur := some r.shard }
    { y with run := List.zipWith (fun a v => iadd a (some (intTerm c.red r.k v))) y.run r.ints }

/-- wm of R179: the occurrences' weights summed in position order. -/
def weightOf (ws : List F32) : F32 := ws.foldl fadd f32zero

/-- The term of a row-op under the tree class (R238). -/
def treeTerm (red : Nat) (r : RowOp) : List F32 :=
  let k := f32ofNat r.k
  match red with
  | 1 => let w := weightOf r.ws; r.xs.map (fmul w)
  | 4 => r.xs.map (fun x => fmul k (fmul x x))
  | _ => r.xs.map (fmul k)

/-- One level of pairwise addition; an unpaired last term passes up. -/
def pairUp : List (List F32) → List (List F32)
  | a :: b :: rest => List.zipWith fadd a b :: pairUp rest
  | l => l

def treeSum : Nat → List (List F32) → List (List F32)
  | 0, l => l
  | n + 1, l => if l.length ≤ 1 then l else treeSum n (pairUp l)

/-- Consecutive groups of `g`. -/
def groupsOf {α : Type} (g : Nat) : Nat → List α → List (List α)
  | 0, _ => []
  | n + 1, l => if l.isEmpty then [] else l.take g :: groupsOf g n (l.drop g)

/-- One row-op of the FP32 path under the ordered class (R179), reductions 0 to 4. -/
def poolFp (red : Nat) (acc : List F32) (r : RowOp) : List F32 :=
  let k := f32ofNat r.k
  match red with
  | 1 => let w := weightOf r.ws; List.zipWith (fun a x => ffma w x a) acc r.xs
  | 3 => List.zipWith fmaxv acc r.xs
  | 4 => List.zipWith (fun a x => ffma k (fmul x x) a) acc r.xs
  | _ => List.zipWith (fun a x => ffma k x a) acc r.xs

/-- One row-op under reduction 5 (R181): n, mean and m2. -/
def poolVar (n : Nat) (mean m2 : List F32) (r : RowOp) : Nat × List F32 × List F32 :=
  let n1 := n + r.k
  let q := fdiv (f32ofNat r.k) (f32ofNat n1)
  let step (me : F32 × F32) (x : F32) : F32 × F32 :=
    let d := fsub x me.1
    let mean' := fadd me.1 (fmul d q)
    (mean', fadd me.2 (fmul (fmul d (fsub x mean')) (f32ofNat r.k)))
  let out := List.zipWith step (List.zip mean m2) r.xs
  (n1, out.map Prod.fst, out.map Prod.snd)

/-- One row-op under reduction 6 (R182): mx, z and acc. -/
def poolScore (tau : F32) (mx z : F32) (acc : List F32) (r : RowOp) : F32 × F32 × List F32 :=
  let ts := r.ws.map (fmul tau)
  let g := ts.foldl fmaxv f32ninf
  let (mx1, z1, acc1) :=
    if fltB mx g then
      let c := if mx = f32ninf then f32zero else expUnit (fsub mx g)
      (g, fmul z c, acc.map (fun a => fmul a c))
    else (mx, z, acc)
  let w := ts.foldl (fun a t => fadd a (expUnit (fsub t mx1))) f32zero
  (mx1, fadd z1 w, List.zipWith (fun a x => ffma w x a) acc1 r.xs)

/-- Pool a bag's part of a tile onto a partial: `n` positions, the row-ops in pooling order, and the individual
weights in position order (R167, R179 to R182, R186, R228, R238). -/
def Pool.part (c : Pool) (p : Partial) (n : Nat) (ops : List RowOp) (ws : List F32) : Partial :=
  let count := p.count + n
  if c.intAcc then { p with count := count, iacc := ops.foldl (poolInt c.red) p.iacc }
  else if c.int then
    { p with count := count, acc := ((ops.foldl (Run.step c) { bag := p.acc }).close c).bag }
  else match c.red with
    | 5 =>
      let (_, mean, m2) := ops.foldl (fun (st : Nat × List F32 × List F32) r => poolVar st.1 st.2.1 st.2.2 r) (p.count, p.acc, p.acc2)
      { p with count := count, acc := mean, acc2 := m2 }
    | 6 =>
      let (mx, z, acc) := ops.foldl (fun (st : F32 × F32 × List F32) r => poolScore c.tau st.1 st.2.1 st.2.2 r) (p.scoreMax, p.weightSum, p.acc)
      { p with count := count, acc := acc, weightSum := z, scoreMax := mx }
    | red =>
      let acc := match c.tree with
        | some g =>
          if red = 3 then ops.foldl (poolFp red) p.acc
          else (groupsOf g ops.length ops).foldl (fun a grp =>
            match treeSum 5 (grp.map (treeTerm red)) with
            | t :: _ => List.zipWith fadd a t
            | [] => a) p.acc
        | none => ops.foldl (poolFp red) p.acc
      { p with count := count, acc := acc, weightSum := if red = 1 then ws.foldl fadd p.weightSum else p.weightSum }

/-- Two partials of one bag combine; a partial with count 0 is skipped (R187). -/
def Pool.combine (c : Pool) (a b : Partial) : Partial :=
  let bad := a.poisoned || b.poisoned
  if a.count = 0 then { b with poisoned := bad }
  else if b.count = 0 then { a with poisoned := bad }
  else
    let n := a.count + b.count
    if c.intAcc then
      { a with count := n, poisoned := bad, iacc := List.zipWith (if c.red = 3 then imax else iadd) a.iacc b.iacc }
    else match c.red with
      | 3 => { a with count := n, poisoned := bad, acc := List.zipWith fmaxv a.acc b.acc }
      | 5 =>
        let q := fdiv (f32ofNat b.count) (f32ofNat n)
        let d := List.zipWith fsub b.acc a.acc
        let mean := List.zipWith (fun m x => fadd m (fmul x q)) a.acc d
        let m2 := List.zipWith (fun s x =>
          fadd s (fdiv (fmul (fmul (fmul x x) (f32ofNat a.count)) (f32ofNat b.count)) (f32ofNat n)))
          (List.zipWith fadd a.acc2 b.acc2) d
        { a with count := n, poisoned := bad, acc := mean, acc2 := m2 }
      | 6 =>
        let mx := fmaxv a.scoreMax b.scoreMax
        let ca := expUnit (fsub a.scoreMax mx)
        let cb := expUnit (fsub b.scoreMax mx)
        { a with count := n, poisoned := bad, scoreMax := mx,
                 acc := List.zipWith (fun x y => fadd (fmul x ca) (fmul y cb)) a.acc b.acc,
                 weightSum := fadd (fmul a.weightSum ca) (fmul b.weightSum cb) }
      | _ => { a with count := n, poisoned := bad, acc := List.zipWith fadd a.acc b.acc, weightSum := fadd a.weightSum b.weightSum }

/-! ### Output elements (R180 to R187, R220 to R230) -/

/-- An output element: its code and what is counted of it (R224, R229, R230). -/
structure OutElem where
  code : Nat
  sat : Bool := false
  under : Bool := false
  infinity : Bool := false
  isNaN : Bool := false
  nonzero : Bool := false      -- its accumulator was finite and nonzero
  bin : Option Nat := none     -- none for a NaN
  deriving DecidableEq, Repr

/-- The end of the range and the infinity code of an integer format (R221). -/
def intMax (fmt : Nat) : Nat := if fmt = 0 then 7 else 127

/-- Requantise to an integer format (R226): multiplier, shift with offset, and the divisor of a mean. -/
def requant (fmt : Nat) (m se : Nat) (n : Option Nat) (acc : IAcc) : OutElem :=
  match acc with
  | none => { code := if fmt = 0 then 0x8 else 0x80, infinity := true, bin := some 63 }
  | some a =>
    let mag := a.natAbs * m
    let den := (n.getD 1) * 2 ^ se
    let q := match n with
      | some _ => (2 * mag + den) / (2 * den)
      | none => (mag + 2 ^ (se - 1)) / 2 ^ se
    let sat := q > intMax fmt
    let q1 := min q (intMax fmt)
    { code := toTwos (elemBits fmt) (if a < 0 then -(q1 : Int) else q1), sat := sat, under := q = 0 && a != 0,
      nonzero := a != 0, bin := some (histBin (ratLog2 mag den)) }

/-- The bin of an FP32 value before conversion (R230). -/
def binOf (v : F32) : Option Nat :=
  match decodeF32 v with
  | .nan => none
  | .inf _ => some 63
  | .fin .. => some (histBin (flog2 v))

def finiteNonzero (v : F32) : Bool := match decodeF32 v with | .fin _ m _ => m != 0 | _ => false

/-- Convert to a floating format (R220, R224); `nz` says that the accumulator was finite and nonzero. -/
def outF (fmt : Nat) (v : F32) (nz : Bool) : OutElem :=
  let c := convertF fmt v
  let zero := c.code % 2 ^ (elemBits fmt - 1) = 0
  { code := c.code, sat := c.sat, under := nz && zero && !c.isNaN, infinity := c.infinity, isNaN := c.isNaN, nonzero := nz, bin := binOf v }

/-- An INT32 accumulator at full width (R221). -/
def outI32 (a : IAcc) : OutElem :=
  { code := iaccCode a, infinity := a.isNone, nonzero := match a with | some v => v != 0 | none => false }

/-- A NaN accumulator makes the quiet NaN (R180). -/
def nanOr (a v : F32) : F32 := if isNan a then qnan else v

/-- A divided value: z = 0 gives 0 (R182). -/
def scoreDiv (z a : F32) : F32 := nanOr a (if z.toNat % 2 ^ 31 = 0 then f32zero else fdiv a z)

/-- The scale of a pooled output (R225): m, s, fp_scale of the entry and the shift offset. -/
structure OutScale where
  m : Nat := 1
  s : Nat := 1
  fp : F32 := 0x3F800000
  o : Int := 0

/-- The elements of a pooled output row (R177, R180, R225 to R227). -/
def Pool.finish (c : Pool) (fmt : Nat) (sc : OutScale) (p : Partial) : List OutElem :=
  let n := p.count
  if n = 0 then List.replicate (outElems c.red c.elems) { code := 0, bin := some 0 }
  else if c.intAcc then
    if isIntFmt fmt then
      p.iacc.map (requant fmt sc.m (sc.s + sc.o).toNat (if c.red = 2 then some n else none))
    else
      let f := fscale sc.fp sc.o
      p.iacc.map (fun a =>
        let v := fmul (iaccF32 a) f
        let v2 := if c.red = 2 then fdiv v (f32ofNat n) else v
        outF fmt v2 (match a with | some x => x != 0 | none => false))
  else match c.red with
    | 2 => p.acc.map (fun a => outF fmt (fdiv a (f32ofNat n)) (finiteNonzero a))
    | 5 => p.acc.map (fun a => outF fmt a (finiteNonzero a)) ++
           p.acc2.map (fun a => outF fmt (fdiv a (f32ofNat n)) (finiteNonzero a))
    | 6 => p.acc.map (fun a => outF fmt (scoreDiv p.weightSum a) (finiteNonzero a))
    | _ => p.acc.map (fun a => outF fmt a (finiteNonzero a))

/-- A payload from its codes (R157). -/
def packCodes (bits : Nat) : List Nat → Nat
  | [] => 0
  | c :: cs => c % 2 ^ bits + (packCodes bits cs) <<< bits

/-- A partial row's payload (R186); a bag of length 0 has accumulators of 0 (R180). Also its elements for the plausibility bounds. -/
def Pool.partialRow (c : Pool) (p : Partial) : Nat × List OutElem :=
  let accs := if p.count = 0 && p.fp then List.replicate c.elems ({ code := 0 } : OutElem)
    else if p.fp then p.acc.map (fun a => outF 5 a (finiteNonzero a))
    else (if p.iacc.isEmpty then List.replicate c.elems (some 0) else p.iacc).map outI32
  let accs2 := p.acc2.map (fun a => outF 5 a (finiteNonzero a))
  let es := accs ++ accs2
  let flags := b2n p.poisoned + 2 * b2n (es.any OutElem.infinity)
  let ws := if c.red = 6 || c.red = 1 then p.weightSum.toNat else 0
  let mx := if c.red = 6 then p.scoreMax.toNat else 0
  (p.count % 2 ^ 32 + c.red <<< 32 + b2n p.fp <<< 40 + flags <<< 48 + ws <<< 64 + mx <<< 96 +
    (packCodes 32 (es.map OutElem.code)) <<< 256, es)

end Sys2Proof.Machine
end

