-- ==== Sys2Proof/Machine/Flags.lean ====
section
/-! DEFINITION. The flag computations of an order: saturation, underflow and histogram counts, the flagged state, the
scale update (R229 to R236) and the plausibility bounds (R328, R329). -/

namespace Sys2Proof.Machine

/-! ### Counts (R229, R230) -/

/-- The order keeps a histogram: GATHER_POOL output rows and SCORE mode 2 rows (R230). -/
def Order.hasHist (o : Order) : Bool := (o.op == 0x01 && !o.partialRows) || (o.op == 0x03 && o.f 56 1 == 2)

/-- The order's saturations: the sum of its tiles' (R229). -/
def Order.sats (o : Order) : Nat := o.ptiles.foldl (fun a x => a + x.sats) 0
/-- Its underflows. -/
def Order.unders (o : Order) : Nat := o.ptiles.foldl (fun a x => a + x.unders) 0

/-- The counts cover the Steep's output elements and those of SCORE mode 2 (R229). -/
def Order.counts (o : Order) : Bool := !(o.op == 0x03 && o.f 56 1 != 2)

/-- Count what output elements give. -/
def Order.countOut (o : Order) (es : List OutElem) : Order :=
  if !o.counts then o
  else
    { o with
      nonzero := o.nonzero + (es.filter OutElem.nonzero).length
      hist := if o.hasHist then es.foldl (fun h e => match e.bin with | some b => h.modify b (· + 1) | none => h) o.hist else o.hist }

/-- The order is flagged (R231): any saturation, or underflows above 1/256. -/
def Order.flagged (o : Order) : Bool := o.sats != 0 || (o.unders != 0 && o.unders * 256 > o.nonzero)

/-- The peak bin (R230): none when only bin 0 holds counts. -/
def Order.peakBin (o : Order) : Option Nat :=
  ((o.hist.zipIdx).foldl (fun (a : Option Nat) x => if x.1 ≠ 0 && x.2 ≠ 0 then some x.2 else a) none)

/-! ### Plausibility (R328, R329) -/

/-- The value of an element for the bounds: that of its code (R218, R328); format 6 is an INT32. -/
def elemValue (fmt code : Nat) : F32 := if fmt = 6 then f32ofInt (signedOf 32 code) else elemF32 fmt code

/-- Add output elements to an output tile's counts. -/
def PTile.add (x : PTile) (pl : Plaus) (fmt : Nat) (es : List OutElem) : PTile :=
  es.foldl (fun (x : PTile) e =>
    if e.infinity then { x with infs := x.infs + 1 }
    else if e.isNaN then { x with magBad := x.magBad || pl.maxAbs != f32pinf }
    else
      let v := elemValue fmt e.code
      if isNan v then { x with magBad := x.magBad || pl.maxAbs != f32pinf }
      else
        { x with sumsq := fadd x.sumsq (fmul v v)
                 magBad := x.magBad || (pl.maxAbs != f32pinf && fltB pl.maxAbs (f32abs v)) }) x

def Order.addTile (o : Order) (t fmt : Nat) (es : List OutElem) : Order :=
  let cur := (o.ptiles.find? (fun x => x.t == t)).getD { t := t }
  let x := match o.plaus with | some pl => cur.add pl fmt es | none => cur
  let y := if o.counts then { x with sats := x.sats + (es.filter OutElem.sat).length, unders := x.unders + (es.filter OutElem.under).length } else x
  { o with ptiles := (o.ptiles.filter (fun x => x.t != t)) ++ [y] }

/-- Infinities of a RECALL query count one towards the bound (R210). -/
def Order.addInf (o : Order) (t : Nat) : Order :=
  match o.plaus with
  | none => o
  | some _ =>
    let cur := (o.ptiles.find? (fun x => x.t == t)).getD { t := t }
    { o with ptiles := (o.ptiles.filter (fun x => x.t != t)) ++ [{ cur with infs := cur.infs + 1 }] }

/-- The bounds a tile breaks: 0 magnitude, 1 sum of squares, 2 infinities (R131, R328). -/
def PTile.broken (x : PTile) (pl : Plaus) : List Nat :=
  (if x.magBad then [0] else []) ++
  (if pl.maxSumsq != f32pinf && (x.sumsq = f32pinf || fltB pl.maxSumsq x.sumsq) then [1] else []) ++
  (if pl.maxInf ≠ 0xFFFF && x.infs > pl.maxInf then [2] else [])

/-- Events name an order's ring, session and slot (R130). -/
def State.orderEvent (s : State) (o : Order) (code a0 a1 : Nat) : State := s.eventOf o.p o.q o.session o.slot code a0 a1

/-- The check of a tile completes: the first tile that breaks a bound is reported at once (R329). -/
def State.checkTile (s : State) (oid t : Nat) : State :=
  match s.order? oid with
  | none => s
  | some o =>
    match o.plaus, o.ptiles.find? (fun x => x.t == t && !x.checked) with
    | some pl, some x =>
      let s1 := s.upOrder oid (fun (o : Order) => { o with ptiles := o.ptiles.map (fun (y : PTile) => if y.t = t then { y with checked := true } else y) })
      (x.broken pl).foldl (fun s b =>
        if o.plausHits.any (fun h => h.1 == b) then
          s.upOrder oid (fun (o : Order) => { o with plausHits := o.plausHits.map (fun h => if h.1 = b then (b, min h.2.1 t, max h.2.2 t) else h) })
        else
          (s.upOrder oid (fun (o : Order) => { o with plausHits := o.plausHits ++ [(b, t, t)] })).orderEvent o 0x0009 (t * 2 ^ 32 + t) b) s1
    | _, _ => s

/-- At the order's end: every check left, then a second report for a bound that later tiles broke (R329). -/
def State.checkTiles (s : State) (oid : Nat) : State :=
  match s.order? oid with
  | none => s
  | some o =>
    let s1 := (sortNat ((o.ptiles.filter (fun x => !x.checked)).map PTile.t)).foldl (fun s t => s.checkTile oid t) s
    match s1.order? oid with
    | none => s1
    | some o1 => (o1.plausHits.filter (fun h => h.2.1 != h.2.2)).foldl (fun s h =>
        s.orderEvent o1 0x0009 (h.2.1 * 2 ^ 32 + h.2.2) h.1) s1

/-! ### Scales (R225, R233 to R236) -/

/-- The key of an order's scale (R233): table, entry of the key, and entry that governs. -/
def Order.scaleKey (o : Order) : Option (Nat × Nat × Nat) :=
  if o.op = 0x01 then
    match o.binding with
    | some b => if b.scaleMode = 1 then some (b.scaleTable, 0, 0) else if b.scaleMode = 2 then some (b.scaleTable, 0xFFFF, 0) else none
    | none => none
  else if o.op = 0x03 && o.f 56 1 = 2 then some (o.f 58 2, o.f 60 2, o.f 60 2)
  else none

/-- The governing entry, when adaptation applies (R233). -/
def Order.adapts (o : Order) : Option ScaleEnt :=
  match o.scaleKey with
  | some (_, _, g) =>
    match o.scales[g]? with
    | some e => if o.session ≠ 0xFFFF && o.outFmt ≤ 3 && e.adapt then some e else none
    | none => none
  | none => none

/-- The offset an order takes when its first tile is delivered (R235). -/
def State.takeOffset (s : State) (o : Order) : Int :=
  match o.adapts, o.scaleKey, s.ctx? o.p o.session with
  | some _, some (t, e, _), some c => ((c.scales.find? (fun x => x.table == t && x.entry == e)).map ScaleSt.offset).getD 0
  | _, _, _ => 0

def Order.o (o : Order) : Int := o.offset.getD 0

/-- F of R234. -/
def fitBin (fmt : Nat) : Int := match fmt with | 0 => 2 | 1 => 6 | 2 => 8 | _ => 15

/-- The update of R234: the stored offset and whether it was clipped; none for no update. -/
def Order.scaleUpdate (o : Order) (e : ScaleEnt) : Option (Int × Bool) :=
  match o.peakBin with
  | none => none
  | some pb =>
    let b : Int := (pb : Int) - 32
    let f := fitBin o.outFmt
    let d : Int := if b > f then b - f else if o.sats > 0 then 1 else if b < f - 1 then b - (f - 1) else 0
    let x := o.o + d
    let lo : Int := if o.outFmt ≤ 1 then max (-(e.bound : Int)) (1 - (e.s : Int)) else -(e.bound : Int)
    let hi : Int := if o.outFmt ≤ 1 then min (e.bound : Int) (62 - (e.s : Int)) else (e.bound : Int)
    some (max lo (min hi x), x < lo || x > hi)

/-- The use of an entry by an order counts for its replacement (R233). -/
def touchScale (l : List ScaleSt) (t e n : Nat) : List ScaleSt :=
  l.map (fun y => if y.table = t ∧ y.entry = e then { y with used := n } else y)

/-- The record of the last order that kept a histogram (R232). -/
def State.scaleLast (s : State) (o : Order) (offset : Int) (clipped : Bool) : State :=
  s.upPart o.p (fun x =>
    { x with scale :=
        { entry := (match o.scaleKey with | some (_, e, _) => e | none => Config.noScaleKey o.id / 2 ^ 16 % 2 ^ 16)
          table := (match o.scaleKey with | some (t, _, _) => t | none => Config.noScaleKey o.id % 2 ^ 16)
          sats := min o.sats 0xFFFF, flagged := o.flagged, clipped := clipped, offset := offset,
          seq := (x.scale.seq + 1) % 4, peak := o.peakBin.getD 0, unders := min o.unders 0xFFFFFFFF } })

/-- An order completes with OK or OK_FLAGGED: the record, and the update that its completion puts in force once written (R232 to
R235). Where no update is made the record holds the offset that the entry holds. -/
def State.finishScale (s : State) (o : Order) : State × Option ScaleUpd :=
  if !o.hasHist then (s, none) else
  match o.adapts, o.scaleKey with
  | some e, some (t, k, _) =>
    match o.scaleUpdate e with
    | some (x, clipped) =>
      let s2 := if clipped then s.orderEvent o 0x0008 (t * 65536 + k) (toTwos 64 x) else s
      (s2.scaleLast o x clipped, some { session := o.session, table := t, entry := k, offset := x, sat := o.sats != 0, clip := clipped })
    | none =>
      let s1 := s.fresh.upCtx o.p o.session (fun c => { c with scales := touchScale c.scales t k s.nextId })
      (s1.scaleLast o (s.takeOffset o) false, none)
  | _, _ => (s.scaleLast o 0 false, none)

/-- The factors f of R227 that rows take before pooling or shard runs after it. -/
def Order.factors (o : Order) (b : Binding) (m : Option ShardMap) : List (Option Nat × F32) :=
  match b.scaleMode with
  | 1 => [(none, fscale ((o.scales[0]?).map ScaleEnt.fp |>.getD f32one) o.o)]
  | 2 =>
    match m with
    | some m => (m.shards.zipIdx).map (fun (x, i) => (some i, fscale ((o.scales[x.scaleIndex]?).map ScaleEnt.fp |>.getD f32one) o.o))
    | none => []
  | _ => []

end Sys2Proof.Machine
end

