-- ==== Sys2Proof/Machine/Streams.lean ====
section
/-! DEFINITION. Streams and tiles: what a tile needs before delivery, translation, elements, bags, row reads and
consumption (R139 to R154, R162 to R168, R304 to R306). -/

namespace Sys2Proof.Machine

/-! ### Translating what a tile uses -/

/-- What a preparation met: ready, something still to come, or a fault or an end of the order. -/
inductive Need where
  | ok
  | wait
  | stop
  deriving DecidableEq, Repr

/-- An access that a tile will make: engine address and length, write, access kind (R129), stream number, the stack
entry it must lie in (R269), and the address a fault reports (R307). -/
structure Access where
  ea : Nat
  len : Nat
  write : Bool := false
  kind : Nat := 0
  stream : Nat := 0xFF
  stack : Option Nat := none
  report : Option Nat := none
  deriving DecidableEq, Repr

/-- A physical address lies in the stack entry an access must keep to (R269). -/
def State.inStack (s : State) (stack : Option Nat) (pa : Nat) : Bool :=
  match stack with
  | none => true
  | some e => stackIx s.stacks pa == some e

/-- The translation that a shadow of an order holds for an access: an element's in the ranges of its stream, the save area's in
the order's own. Row, trailer and state addresses are always looked up in the range cache (R303, R304). -/
def Order.shadowFor (o : Order) (a : Access) (ea : Nat) : Option Range :=
  let l := match a.kind with
    | 0 => (o.streams.filter (fun (x : Stream) => o.streamNo x.field == a.stream)).flatMap Stream.ranges
    | 5 => o.shadow
    | _ => []
  l.find? (fun r => r.covers (eaTag ea) (eaVa ea / 4096))

/-- A stream's shadow takes a range for its elements: at most 16, the one furthest behind the watermark going first. Translation goes
ahead in address order, so that is the one with the lowest addresses (R304). -/
def Stream.addRange (x : Stream) (r : Range) : Stream :=
  if x.ranges.contains r then x
  else if x.ranges.length < 16 then { x with ranges := x.ranges ++ [r] }
  else
    let low := x.ranges.foldl (fun m y => min m y.page) ((x.ranges.headD r).page)
    { x with ranges := (match x.ranges.find? (fun y => y.page == low) with | some y => x.ranges.erase y | none => x.ranges) ++ [r] }

/-- Translation of an element adds its range to the shadow of its stream (R304). -/
def State.shadowElement (s : State) (o : Order) (a : Access) (ea : Nat) : State :=
  if a.kind ≠ 0 then s else
  match (s.ranges.find? (fun x => x.2.part == o.p && x.2.covers (eaTag ea) (eaVa ea / 4096))).map Prod.snd with
  | none => s
  | some r => s.upOrder o.id (fun y => { y with streams := y.streams.map (fun (x : Stream) => if y.streamNo x.field = a.stream then x.addRange r else x) })

/-- Translate one page for a tile of an order: held pages, its shadows, then the range cache (R304). -/
def State.pageFor (s : State) (oid : Nat) (tile : Tile) (a : Access) (ea : Nat) : State × Tile × Xl :=
  match s.order? oid with
  | none => (s, tile, .wait)
  | some o =>
    let key := pageKey ea a.write
    match tile.addrs.find? (fun x => x.1 == key || (!a.write && x.1 / 2 == ea / 4096)) with
    | some x => (s, tile, .ok (x.2 * 4096 + ea % 4096) a.write)
    | none =>
      match o.xfaults.find? (fun x => x.1 == key) with
      | some x => (s, tile, .fault x.2.1 x.2.2)
      | none =>
        let walk (s : State) : State × Xl := s.xlate o.p ea a.write (.order oid a.kind a.stream tile.t)
        let (s1, x) := match o.shadowFor a ea with
          | some r => match judge s r (eaVa ea) a.write with
            | .ok pa w => (s, Xl.ok pa w)
            | _ => walk s
          | none => match walk s with
            | (s1, .ok pa w) => (s1.shadowElement o a ea, Xl.ok pa w)
            | y => y
        match x with
        | .ok pa w => (s1, { tile with addrs := tile.addrs ++ [(key, pa / 4096)] }, .ok pa w)
        | y => (s1, tile, y)

/-- A fault stands on a stream of an order, or on an access outside its streams. -/
def Order.faulty (o : Order) : Bool := !o.faults.isEmpty

/-- Two faults of one order are one: of one stream; found on spill records, of one tile; found outside delivery, of one address
(R151, R251, R266). -/
def FaultInfo.same (x y : FaultInfo) : Bool :=
  x.stream == y.stream && (x.stream != 0xFF ||
    (if x.tile = 0xFFFFFFFF || y.tile = 0xFFFFFFFF then x.tile == y.tile && x.addr == y.addr
     else (x.access == 6) == (y.access == 6) && (x.access != 6 || x.tile == y.tile)))

/-- A fault found: it holds its stream at the tile (R150), recorded later by FAULT_RECORD_WRITE. A stream holds one (R151). -/
def State.findFault (s : State) (oid t : Nat) (a : Access) (ea : Nat) (perm outside : Bool) : State :=
  let f : FaultInfo := { addr := a.report.getD ea, access := a.kind, stream := a.stream, perm := perm, outside := outside, tile := t, page := ea }
  s.upOrder oid (fun o => if o.faults.any (fun x => x.info.same f) then o else { o with faults := o.faults ++ [{ info := f }], xfaults := [] })

/-- A fault of the stream holds its translations for a tile (R150). -/
def Order.heldOn (o : Order) (stream t : Nat) : Bool :=
  o.faults.any (fun x => x.info.stream == stream && x.info.tile != 0xFFFFFFFF && x.info.access != 6 && x.info.tile ≤ t)

/-- Translate every page of a list of accesses, in order; of each stream the first fault in order is the one found (R150, R151, R307).
`later` are the streams of which a page is still to come. -/
def State.needPages (s : State) (oid : Nat) (tile : Tile) (as : List Access) : State × Tile × Need :=
  let held (s : State) (a : Access) : Bool := tile.t != 0xFFFFFFFF && (s.order? oid).any (fun o => o.heldOn a.stream tile.t)
  let (s, tile, n, _) := (as.flatMap (fun a => (spans a.ea a.len).map (fun x => (a, x.1)))).foldl
    (fun (st : State × Tile × Need × List Nat) x =>
      let (s, tl, n, later) := st
      let hold : Need := if n = .stop then .stop else .wait
      if held s x.1 then (s, tl, hold, later) else
      let fault (s : State) (tl : Tile) (p o : Bool) : State × Tile × Need × List Nat :=
        if later.contains x.1.stream then (s, tl, hold, later) else (s.findFault oid tile.t x.1 x.2 p o, tl, .stop, x.1.stream :: later)
      match s.pageFor oid tl x.1 x.2 with
      | (s1, t1, .ok pa _) => if s1.inStack x.1.stack pa then (s1, t1, n, later) else fault s1 t1 false true
      | (s1, t1, .wait) => (s1, t1, hold, x.1.stream :: later)
      | (s1, t1, .fault p o) => fault s1 t1 p o)
    (s, tile, .ok, [])
  (s, tile, n)

/-! ### SLOWED (R275) -/

/-- SLOWED when an order first reads a window whose level is above 0 (R275). -/
def State.tellSlow (s : State) (oid : Nat) (line : Nat) : State :=
  match stackIx s.stacks (line * 128), s.order? oid with
  | some e, some o =>
    if s.level e ≠ 0 && !o.told.contains e then
      (s.upOrder oid (fun o => { o with told := e :: o.told })).orderEvent o 0x000C e (s.window e).v
    else s
  | _, _ => s

/-- The order of a consumer is told of the windows whose lines it reads. -/
def State.tellSlows (s : State) (c : Consumer) (ls : List Nat) : State :=
  match c.order? with
  | none => s
  | some o => ls.foldl (fun s l => s.tellSlow o l) s

/-! ### Elements -/

/-- How lines are asked for: bench, epoch of the tile, the face that a jig chooses, age of the tile, and the translation of each line. -/
structure Ask where
  bench : Option Nat := none
  epoch : Nat
  face : Option Nat := none
  age : Nat := 0
  space : Nat → Option Space := fun _ => none

/-- The face of a line that is asked for (R66, R268). -/
def Ask.faceOf (a : Ask) (s : State) (l : Nat) : Nat := a.face.getD (faceIn (s.stacksAt a.epoch) (l * 128))

/-- The lines of physical pieces read for an order, or asked for (R268). -/
def State.needLines (s : State) (c : Consumer) (p : Nat) (a : Ask) (ls : List Nat) : State × Need :=
  if ls.all (fun l => (s.heldLine c l).isSome) then (s, .ok)
  else
    let new := ls.filter (fun l => (s.heldLine c l).isNone && !s.asked c l)
    let how (l : Nat) : Nat × Option Space := (a.faceOf s l, a.space l)
    (((new.map how).eraseDups.foldl (fun s f => s.ask c p a.bench f.1 (new.filter (fun l => how l == f)) f.2 a.age) s).tellSlows c new, .wait)

/-- An element of a stream from a consumer's held lines: value and poison (R135, R218 for BF16). -/
def State.element (s : State) (c : Consumer) (x : Stream) (tile : Tile) (pos : Nat) : Nat × Bool :=
  match tile.pa? (x.addrOf pos) with
  | none => (0, false)
  | some pa => (s.getBytes c pa (elemSize x.elem)).getD (0, false)

/-- The accesses of positions of a stream. -/
def elemAccesses (x : Stream) (no first len : Nat) : List Access :=
  (List.range len).map (fun i => { ea := x.addrOf (first + i), len := elemSize x.elem, kind := 0, stream := no })

/-- A weight or score element as FP32 (R136, R217). -/
def weightElem (elem v : Nat) : F32 := if elem = 2 then elemF32 4 v else BitVec.ofNat 32 v

/-- The lines of positions of a stream. -/
def elemLines (x : Stream) (tile : Tile) (first len : Nat) : List Nat :=
  ((List.range len).filterMap (fun i => (tile.pa? (x.addrOf (first + i))).map (· / 128))).eraseDups

def State.dropLines (s : State) (c : Consumer) (ls : List Nat) : State :=
  { s with held := s.held.filter (fun h => !(h.cons == c && ls.contains h.line)) }

/-- What an order holds of rows that it writes. -/
def isUpdOf (o : Nat) (f : Nat → Bool) : Consumer → Bool
  | .upd o' slot => o' == o && f slot
  | _ => false

/-- An order's copies of a line of rows that it writes, after it wrote the whole of the line. -/
def State.rewriteHeld (s : State) (o l : Nat) (bytes : Line) : State :=
  { s with held := s.held.map (fun (h : Held) => if isUpdOf o (fun _ => true) h.cons ∧ h.line = l then { h with bytes := bytes, poisoned := false } else h) }

/-- An order gives up what it has read, and is reading, of slots that satisfy `f`. -/
def State.quitUpd (s : State) (o : Nat) (f : Nat → Bool) : State := s.quitWhere (isUpdOf o f) (fun _ => true)

/-- An order reads lines of the rows it writes again (R325). -/
def State.reread (s : State) (o : Nat) (ls : List Nat) : State := s.quitWhere (isUpdOf o (fun _ => true)) ls.contains

/-! ### Tile-buffer space (R13, R21, R148) -/

/-- Data that the tile buffers hold for a consumer outside the duplicate store. -/
def Consumer.staged : Consumer → Bool
  | .tile .. | .bags .. | .order _ | .upd .. => true
  | _ => false

/-- Lines that a bench's tile buffers hold or wait for outside the duplicate store: elements, bag lengths, source, query and update
rows, and outputs whose writes are not sent. -/
def State.tileLines (s : State) (b : Nat) : Nat :=
  (s.held.filter (fun h => h.bench == some b && h.cons.staged)).length +
    s.reads.foldl (fun n r => if r.bench == some b then n + (r.left.filter (fun i => r.wants.any (fun w => w.2 == i && w.1.staged))).length else n) 0 +
    (s.writes.filter (fun w => w.bench == some b && w.modl.isNone && w.nth.isNone)).length

/-- Ages of the tiles of a bench that are not consumed and satisfy `f`: the lower the older. -/
def State.bornOn (s : State) (b : Nat) (f : Tile → Bool) : List Nat :=
  s.orders.flatMap (fun o => (o.tiles.filter (fun x => x.bench == b && (!x.consumed || x.left != 0) && f x)).map Tile.born)

/-- An older tile of the bench, of any stream, waits for space (R148). -/
def State.olderWaits (s : State) (b age : Nat) : Bool := (s.bornOn b (fun x => x.space != 0)).any (· < age)

/-- A tile is granted lines within the 2 MiB that the duplicate store leaves, in order of age; the oldest tile of the bench is always
granted its own, which may exceed them (R148). DEDUCED (log 43). -/
def State.tileRoom (s : State) (b age want : Nat) : Bool :=
  want = 0 || (s.bornOn b (fun _ => true)).all (age ≤ ·) || (s.tileLines b + want ≤ 16384 && !s.olderWaits b age)

/-! ### Bag streams (R109, R144, R151) -/

/-- A bag stream tile is needed before tile `t` can be bounded: whether bags of length 0 come at its end, whose rows it writes, the next
bag tells (R145, R185). -/
def Order.needsBags (o : Order) (t : Nat) : Bool :=
  !o.bagsKnown && (if o.tileOrder = 2 then (bagTiles o.bagList).length ≤ t + 1 else o.positions ≤ 256 * (t + 1))

/-- Add bag lengths; the first bag longer than 65,536 or past the index stream stops the order there (R109). -/
def Order.addBags (o : Order) (lens : List Nat) : Order :=
  let count := (o.drive.map Stream.count).getD 0
  lens.foldl (fun o n =>
    if o.badBag.isSome then o
    else
      let p := o.bags.foldl (fun a b => a + b.2) 0
      if n > 65536 || p + n > count then { o with badBag := some o.bags.length }
      else { o with bags := o.bags ++ [(p, n)] }) o

/-- The first index tile whose boundaries need the bag lengths that come next (R151). -/
def Order.bagTileNext (o : Order) : Nat := if o.tileOrder = 2 then (bagTiles o.bagList).length - 1 else (o.positions - 1) / 256

/-- The number of lengths that are read while tile `t` is needed: 8 tiles of 256 lengths beyond the one that it needs (R144). -/
def Order.bagsWanted (o : Order) (t : Nat) : Nat :=
  let at_ := if o.needsBags t then o.bags.length / 256
    else match o.tileSpan t with
      | some (first, len, _) => (o.bagList.findIdx? (fun b => b.1 + b.2 ≥ first + len)).getD 0 / 256
      | none => o.bags.length / 256
  256 * (at_ + 9)

/-- Translate and read one tile of bag lengths. A fault holds the first index tile that needs them, once every earlier length is
known (R151). -/
def State.bagLines (s : State) (o : Order) (x : Stream) (first len : Nat) : State × Tile × Need :=
  let tile : Tile := { t := o.bagTileNext, bench := s.issueBench o }
  if o.heldOn 1 0xFFFFFFFE then (s, tile, .wait) else
  let as := elemAccesses x 1 first len
  -- ahead of lengths that are still to come, a fault is not looked for
  let pages (s : State) : State × Tile × Need :=
    if first = o.bags.length then s.needPages o.id tile as
    else
      as.foldl (fun (st : State × Tile × Need) a =>
        match st.1.pageFor o.id st.2.1 a a.ea with
        | (s1, t1, .ok ..) => (s1, t1, st.2.2)
        | (s1, t1, _) => (s1, t1, .wait)) (s, tile, .ok)
  match pages s with
  | (s1, t1, .ok) =>
    let ls := elemLines x t1 first len
    -- those that come next are always granted space
    if first ≠ o.bags.length && !s1.tileRoom tile.bench s.nextId ls.length then (s1, t1, .wait) else
    let (s2, n) := s1.needLines (.bags o.id first) o.p { bench := some tile.bench, epoch := s.cfg.epoch, age := s.nextId, space := fun _ => s.spaceAt o.p x.base } ls
    (s2, t1, n)
  | r => r

/-- Every tile before tile `t` has been worked. -/
def Order.workedBefore (o : Order) (t : Nat) : Bool :=
  (List.range (t - o.watermark)).all (fun i => o.tiles.any (fun x => x.t == o.watermark + i && (x.worked || x.consumed)))

/-- Take the next tile of bag lengths, once its lines are there. Poison on one ends the order at the tile that needs the lengths: once
those before it are worked (R324). -/
def State.takeBags (s : State) (oid : Nat) (x : Stream) (tile : Tile) (first len : Nat) : State × Need :=
  let c : Consumer := .bags oid first
  let vs := (List.range len).map (fun i => s.element c x tile (first + i))
  let s1 := s.dropHeld c
  match vs.findIdx? Prod.snd with
  | some i => if (s.order? oid).any (fun o => o.workedBefore o.bagTileNext) then (s1.endOrder oid 0x10 (first + i), .stop) else (s, .wait)
  | none => (s1.upOrder oid (fun o => (o.addBags (vs.map Prod.fst)).setStream 32 (fun x => { x with live := true })), .ok)

/-- Read bag lengths as far ahead as tile `t` asks for, a tile of 256 at a time; `n` of them at most (R144). -/
def State.readBags (s : State) (oid t : Nat) : Nat → State
  | 0 => s
  | n + 1 =>
    match s.order? oid with
    | none => s
    | some o =>
      match o.stream? 32 with
      | none => s
      | some x =>
        if o.status.isSome || o.bagsKnown || o.bags.length ≥ o.bagsWanted t then s else
        let count := o.f 60 4
        let first := o.bags.length
        let len := min 256 (count - first)
        match s.bagLines o x first len with
        | (s1, t1, .ok) =>
          match s1.takeBags oid x t1 first len with
          | (s2, .ok) => State.readBags s2 oid t n
          | (s2, _) => s2
        | (s1, _, .stop) => s1
        | (s1, _, .wait) =>
          -- the tiles after it are asked for meanwhile
          ((List.range 9).filter (fun i => i ≠ 0 && first + 256 * i < min count (o.bagsWanted t))).foldl (fun s i =>
            match s.order? oid with
            | some o => (s.bagLines o x (first + 256 * i) (min 256 (count - (first + 256 * i)))).1
            | none => s) s1

/-! ### Guards of delivery -/

/-- A fault of a stream holds delivery of a tile; one on a spill record holds the tiles of its bench (R150, R251). -/
def Order.haltedAt (o : Order) (t bench : Nat) : Bool :=
  o.faults.any (fun f => f.info.tile != 0xFFFFFFFF && f.info.tile ≤ t &&
    (f.info.access != 6 || o.tiles.any (fun x => x.t == f.info.tile && x.bench == bench)))
/-- A fault was found on what a tile needs; it waits until the fault is resumed. -/
def Order.faultAt (o : Order) (t : Nat) : Bool := o.faults.any (fun f => f.info.tile == t)

/-- A tile has been consumed (R146). -/
def Order.isConsumed (o : Order) (t : Nat) : Bool := t < o.watermark || o.tiles.any (fun x => x.t == t && x.consumed)
def Order.tile? (o : Order) (t : Nat) : Option Tile := o.tiles.find? (fun x => x.t == t)
/-- A tile has been delivered; one that a preempted pass must stream again has not. -/
def Order.isDelivered (o : Order) (t : Nat) : Bool :=
  match o.tile? t with
  | some x => x.delivered || (x.consumed && x.left = 0)
  | none => t < o.watermark
def Order.setTile (o : Order) (x : Tile) : Order := { o with tiles := (o.tiles.filter (fun y => y.t != x.t)) ++ [x] }
def State.setTile (s : State) (oid : Nat) (x : Tile) : State := s.upOrder oid (fun o => o.setTile x)

/-- The tiles of the bench of tile `t` that come before it. -/
def State.earlierOn (s : State) (o : Order) (t : Nat) : List Nat :=
  match o.tileSpan t with
  | none => []
  | some (_, _, pos) =>
    let b := s.tileBench o t pos
    (List.range t).filter (fun u => match o.tileSpan u with | some (_, _, q) => s.tileBench o u q == b | none => false)

/-- The window of a tile on its bench (R165). -/
def State.windowOf (s : State) (o : Order) (t : Nat) : Nat := (s.earlierOn o t).length / 16

/-- How far ahead a bench fetches elements, and how far ahead it translates (R147). -/
def Order.indexAhead (o : Order) : Nat := match o.jig with | some j => if j.prefetch.testBit 0 then 8 else 0 | none => 0
def Order.pagesAhead (o : Order) : Nat := match o.jig with | some j => if j.prefetch.testBit 2 then 8 else 0 | none => 0
/-- How far ahead rows are read (R147). -/
def Order.rowsAhead (o : Order) : Nat := match o.jig with | some j => if j.prefetch.testBit 1 then 4 else 0 | none => 0

/-- The tiles of an order name candidates: rows of the key table of RECALL and SCORE. -/
def Order.keyed (o : Order) : Bool := (o.op == 0x02 && !o.phase2) || o.op == 0x03

/-- A row's payload in the resident set of an order's session on a bench (R200). -/
def State.residentRow (s : State) (o : Order) (b row : Nat) : Option Nat :=
  match (s.bench b).residents.find? (fun x => x.p == o.p && x.session == o.session && x.bind == o.auxNo) with
  | some x => (x.rows.find? (fun y => y.1 == row)).map Prod.snd
  | none => none

/-- A tile's row is read through the gather unit: a candidate that is resident is not (R203). -/
def State.gathered (s : State) (o : Order) (b : Nat) (r : RowAt) : Bool := !(o.keyed && (s.residentRow o b r.row).isSome)

/-- The place of a tile among those of its bench. -/
def State.placeOn (s : State) (o : Order) (t : Nat) : Nat := (s.earlierOn o t).length

/-- Operand preload: the tiles of a resident jig's set are read from stage 3 on, whatever the distances (R201). -/
def State.preloads (s : State) (o : Order) (t : Nat) : Bool :=
  match o.jig with
  | some j => j.prefetch.testBit 3 && o.keyed && j.resident && s.placeOn o t < max 1 (j.kTile / 256)
  | none => false

/-- Tiles of the bench of `t`, before it, that are not consumed. -/
def State.openBefore (s : State) (o : Order) (t : Nat) : Nat := ((s.earlierOn o t).filter (fun u => !o.isConsumed u)).length

/-- A bench can take tiles: powered, not under reset or test, not suspect (R332, R336, R380). -/
def State.benchReady (s : State) (b : Nat) : Bool :=
  let x := s.bench b
  x.power == .running && !x.reset && !s.suspect b && s.kettle.testBench != some b

/-- The session of an order steeps, or it names none (R83, R90). -/
def State.sessionRuns (s : State) (o : Order) : Bool :=
  if o.session = 0xFFFF then true else match s.ctx? o.p o.session with | some c => c.state == .steeping | none => false

/-- Every tile of an order has been consumed (R149); of one without tiles, its work is done. -/
def Order.drained (o : Order) : Bool :=
  match o.name with
  | some .recall => o.acted || (o.phase2 && o.watermark ≥ o.tileCount)
  | some .score | some .advise | some .accLoad | some .accStore => o.acted
  | _ => o.bagsKnown && o.watermark ≥ o.tileCount

/-- Every tile of the earlier data orders of the session is consumed (R149). -/
def State.afterConsumed (s : State) (o : Order) : Bool :=
  o.after.all (fun i => match s.order? i with
    | none => true
    | some a => if a.status.isSome then a.tiles.all Tile.consumed else a.phase == .running && a.drained)

/-- The home bench has passed a tile boundary since the order's stage 3, or runs no tile of the earlier orders of its session
(R149). -/
def State.pastBoundary (s : State) (o : Order) : Bool :=
  o.boundary || o.tiles.any (fun x => x.delivered || x.consumed) || o.watermark ≠ 0 ||
  match s.ctx? o.p o.session with
  | none => true
  | some c => o.after.all (fun i => match s.order? i with
      | none => true
      | some a => !a.tiles.any (fun x => x.bench == c.home && x.delivered && !x.consumed))

/-- Work for tile `t` may be done ahead: its elements fetched, its pages translated (R147, R149, R150, R327). -/
def State.mayPrepare (s : State) (o : Order) (t b : Nat) : Bool :=
  o.phase == .running && o.status.isNone && !o.stopping && s.rstDie.isNone && !s.resetting o.p && !o.isDelivered t &&
  !(o.phase2 && !o.saved.isEmpty) && s.sessionRuns o && s.benchReady b && (t < 8 || s.afterConsumed o)

/-- Tile `t` may be delivered (R146, R147, R149, R150). -/
def State.mayDeliver (s : State) (o : Order) (t b : Nat) : Bool :=
  s.mayPrepare o t b && !o.haltedAt t b && t < o.watermark + 64 && s.pastBoundary o &&
  (s.earlierOn o t).all o.isDelivered && (s.openBefore o t ≤ min o.indexAhead o.pagesAhead || s.preloads o t)

/-- Every row write of an order is issued. -/
def Order.rowsIssued (o : Order) : Bool := o.op != 0x04 || (o.merging && o.frags.all (fun f => o.merged.contains f.row))

/-- An order writes rows of a table that another names. -/
def Order.writesTableOf (a o : Order) : Bool :=
  a.writesRows && (a.bindNo == o.bindNo || a.bindNo == o.auxNo || (a.op == 0x05 && a.aux.isSome && (a.auxNo == o.bindNo || a.auxNo == o.auxNo)))

/-- Rows may be read: of the earlier data orders of the session every tile is consumed, and every write of rows of the
order's tables is acknowledged (R149). -/
def State.mayReadRows (s : State) (o : Order) : Bool :=
  s.afterConsumed o && o.after.all (fun i => match s.order? i with
    | none => true
    | some a => !a.writesTableOf o || ((a.status.isSome || a.rowsIssued) && !s.orderWrites a.id))

/-! ### Rows of a tile -/

/-- Tiles issued to their consumers are done; a Strainer tile counts as issued once a step has streamed it (R90, R195). -/
def Order.quiet (o : Order) : Bool :=
  if o.keyed then o.tiles.all (fun x => !x.worked || x.consumed) else o.tiles.all (fun x => !x.delivered || x.consumed)

/-- An order that PARK mode 2 stops has come to its tile boundary, or to the fault that holds its tiles: it ends with PREEMPTED (R89, R216, R266). -/
def State.stopNow (s : State) (oid : Nat) : State :=
  match s.order? oid with
  | none => s
  | some o => if o.stopping && (o.quiet || o.tiles.all (fun x => !x.inUse || o.faultAt x.t)) then s.endOrder oid 0x30 0 else s

/-- The binding whose rows an order's tiles name: the table, or the key table of RECALL and SCORE. -/
def Order.rowBinding (o : Order) : Option Binding := if o.keyed then o.aux else o.binding
def Order.rowBindNo (o : Order) : Nat := if o.keyed then o.auxNo else o.bindNo
def Order.rowMap (o : Order) : Option ShardMap := if o.keyed then o.auxSmap else o.smap

/-- Distinct rows named, in order of first position (R166, R167). -/
def distinctRows (b : Binding) (idx : List Nat) : List Nat := (idx.filterMap (fun i => (b.map i).row?)).eraseDups

/-- The accesses of a row's slot and trailer, as reads or as writes (R145, R269, R307). -/
def rowAccesses (b : Binding) (r : RowAt) (write : Bool) (stream : Nat) : List Access :=
  [{ ea := r.slot, len := b.rowBytes, write := write, kind := if write then 2 else 1, stream := stream, stack := r.stack, report := some r.slot },
   { ea := r.trailer, len := 8, write := write, kind := 7, stream := stream, stack := r.stack, report := some r.trailer }]

/-- The physical pieces of a row's payload followed by its trailer. -/
def Tile.rowPieces (t : Tile) (b : Binding) (r : RowAt) : List (Nat × Nat) := t.pieces r.slot b.rowBytes ++ t.pieces r.trailer 8

/-- A row read: payload, trailer and poison (R161, R323). -/
def State.rowData (s : State) (c : Consumer) (t : Tile) (b : Binding) (r : RowAt) : Option (Nat × Nat × Bool) :=
  match s.pieceBytes c (t.rowPieces b r) with
  | some (v, p) => some (v % 2 ^ (8 * b.rowBytes), v >>> (8 * b.rowBytes), p)
  | none => none

/-! ### Lines of the Chest (R169, R173) -/

/-- Look a line up for a row read and take it if it is there (R169, R170, R173). -/
def State.lookLine (s : State) (p b bindNo : Nat) (c : Consumer) (mask line : Nat) : State × Bool :=
  if !s.serves p b then (s, false) else
  match (s.bench b).look mask line bindNo with
  | (.hit bytes, x) => ({ s.upBench b (fun _ => x) with held := s.held ++ [{ cons := c, line := line, bytes := bytes }] }, true)
  | (.miss, _) => (s, false)
  | (.clean, x) =>
    ((((s.upBench b (fun _ => x)).upInts (fun i => i.parity 1)).countBind p bindNo 9 1).upPart p (fun y =>
      { y with chest := { y.chest with refetched := satAdd y.chest.refetched 1 0xFFFF } }), false)
  | (.lost bytes w, x) =>
    let at_ := (((s.writes.find? (fun y => y.id == w)).bind WriteReq.space).map Space.line).getD 0
    let s1 := (s.upBench b (fun _ => x)).lineLost p line bytes [] at_
    ({ s1 with held := s1.held ++ [{ cons := c, line := line, bytes := bytes, poisoned := true }] }, true)

/-! ### The sampler (R277) -/

/-- Offer a row to the hot-row sampler. Entries beyond those listed are empty, with a count of 0. -/
def offer (l : List Sample) (p bind row : Nat) : List Sample :=
  if l.any (fun x => x.p == p && x.bind == bind && x.row == row) then
    l.map (fun x => if x.p = p ∧ x.bind = bind ∧ x.row = row then { x with count := min 0xFFFF (x.count + 1) } else x)
  else
    let low := if l.length < 1024 then 0 else l.foldl (fun m x => min m x.count) 0xFFFF
    match l.findIdx? (fun x => x.count == low) with
    | some i => l.set i ⟨p, bind, row, low + 1⟩
    | none => l ++ [⟨p, bind, row, 1⟩]

/-- A row read is sent to a face, for a gather, a prefetch or an update: it counts, its shard counts one, and each bench offers every
64th (R168, R276, R277). -/
def State.rowSent (s : State) (o : Order) (b bindNo : Nat) (x : Binding) (r : RowAt) : State :=
  let s1 := (s.countBind o.p bindNo 3 1).countSess o.p o.session 5 1
  let s2 := match r.shard with | some sh => s1.countShard o.p x.shardMap sh 1 | none => s1
  let n := (s2.bench b).offers + 1
  if n % 64 = 0 then { s2.upBench b (fun y => { y with offers := 0 }) with sampler := offer s2.sampler o.p bindNo r.row }
  else s2.upBench b (fun y => { y with offers := n })

/-! ### The duplicate store (R166) -/

def isRowOn (b : Nat) : Consumer → Bool
  | .row _ c .. => c == b
  | _ => false

/-- A consumer is the row slots of a window on a bench that satisfy `f`. -/
def isWindowRow (o b w : Nat) (f : Nat → Bool) : Consumer → Bool
  | .row o' b' w' slot => o' == o && b' == b && w' == w && f slot
  | _ => false

/-- The held lines of the row slots of a window on a bench that satisfy `f` go. -/
def State.dropRows (s : State) (o b w : Nat) (f : Nat → Bool) : State :=
  { s with held := s.held.filter (fun h => !isWindowRow o b w f h.cons) }

/-- Lines of rows that a bench holds or is reading. -/
def State.rowLines (s : State) (b : Nat) : Nat :=
  (s.held.filter (fun h => isRowOn b h.cons)).length +
    s.reads.foldl (fun n r => n + (r.left.filter (fun i => r.wants.any (fun w => w.2 == i && isRowOn b w.1))).length) 0

/-- The age of an order's oldest tile on a bench: the lower the older. -/
def Order.oldestOn (o : Order) (b : Nat) : Nat :=
  match (o.tiles.filter (fun x => x.bench == b && !x.consumed)).map Tile.born with
  | [] => 0
  | x :: xs => xs.foldl min x

/-- The rows of an order that a bench may release for tile `t` of order `for_`: rows held, all of whose lines have returned, but not
those that the tile itself has read. DEDUCED (log 43): releasing those would gain nothing. -/
def State.releasable (s : State) (for_ t b : Nat) (o : Order) : List (Nat × Nat × Nat × Nat) :=
  o.dup.filter (fun d => d.1 == b && !s.reads.any (fun r => r.isFor (isWindowRow o.id b d.2.1 (· == d.2.2.1))) &&
    !(o.id == for_ && (o.tile? t).any (fun x => x.got.contains d.2.2.1) && s.windowOf o t == d.2.1))

/-- The order whose oldest tile on a bench is the youngest, of those with rows to release there. -/
def State.dupVictim (s : State) (for_ t b : Nat) : Option Order :=
  (s.orders.filter (fun o => !(s.releasable for_ t b o).isEmpty)).foldl (fun (m : Option Order) o =>
    match m with
    | some x => if x.oldestOn b < o.oldestOn b then some o else m
    | none => some o) none

/-- Release held rows of a bench while the duplicate store, of 2 MiB, has no room for `want` lines: of the stream whose oldest tile is
the youngest first, and of it the rows whose last naming position is earliest (R166). -/
def State.releaseDup (s : State) (for_ t b want : Nat) : Nat → State
  | 0 => s
  | n + 1 =>
    if s.rowLines b + want ≤ 16384 then s else
    match s.dupVictim for_ t b with
    | none => s
    | some o =>
      let mine := s.releasable for_ t b o
      let low := mine.foldl (fun m d => min m d.2.2.2) ((mine.headD (0, 0, 0, 0)).2.2.2)
      match mine.find? (fun d => d.2.2.2 == low) with
      | none => s
      | some d =>
        State.releaseDup ((s.upOrder o.id (fun o => { o with dup := o.dup.erase d })).dropRows o.id b d.2.1 (· == d.2.2.1)) for_ t b want n

/-- Room for the lines of a row of a tile in the duplicate store, in order of age; held rows are released for the oldest tile of its
stream only (R148, R166). -/
def State.rowRoom (s : State) (o : Order) (tile : Tile) (want : Nat) : State × Bool :=
  let b := tile.bench
  if s.olderWaits b tile.born then (s, false)
  else if s.rowLines b + want ≤ 16384 then (s, true)
  else if s.openBefore o tile.t = 0 then
    let s1 := s.releaseDup o.id tile.t b want 16384
    (s1, s1.rowLines b + want ≤ 16384)
  else (s, false)

/-- A mark of a row is good (R160). -/
def markGood (b : Binding) (payload trailer : Nat) : Bool := rowWitness payload b.rowBytes b.tableId == trWitness trailer

/-- Positions mapped to the default row are counted (R162). -/
def State.countDefaults (s : State) (oid n : Nat) : State :=
  if n = 0 then s else
  match s.order? oid with
  | none => s
  | some o => ((s.countBind o.p o.rowBindNo 6 n).countSess o.p o.session 8 n).upOrder oid (fun o => { o with defaults := o.defaults + n })

/-! ### Resident sets (R200 to R202) -/

/-- Units of 64 KiB that `n` rows of a jig take. -/
def residentUnits (rows bytes : Nat) : Nat := ceilDiv (rows * bytes) 65536

/-- Enter rows into a resident set; whole sets of sessions without a live Strainer order on the bench go first, least
recently used first, and rows that do not fit are not kept (R200). -/
def State.makeResident (s : State) (o : Order) (b bytes : Nat) (rows : List (Nat × Nat)) : State :=
  let x := s.bench b
  let isMine (r : Resident) : Bool := r.p == o.p && r.session == o.session && r.bind == o.auxNo
  let mine := ((x.residents.find? isMine).map Resident.rows).getD []
  let want := mine ++ rows.filter (fun r => !mine.any (fun y => y.1 == r.1))
  let others := x.residents.filter (fun r => !isMine r)
  let busy (r : Resident) : Bool := s.orders.any (fun y => y.p == r.p && y.session == r.session && (y.op == 0x02 || y.op == 0x03) && (setBits ((y.jig.map Jig.benchMask).getD 0)).contains b)
  let size (r : Resident) : Nat := residentUnits r.rows.length r.bytes
  let total (rs : List Resident) : Nat := rs.foldl (fun a r => a + size r) 0
  let need := residentUnits want.length bytes
  let idle := sortBy (fun a b => decide (a.used ≤ b.used)) (others.filter (fun r => !busy r))
  let kept := idle.foldl (fun (l : List Resident) r => if total l + need ≤ 128 then l else l.erase r) others
  let room := (128 - total kept) * 65536 / max 1 bytes
  s.fresh.upBench b (fun x => { x with residents := kept ++ [{ p := o.p, session := o.session, bind := o.auxNo, rows := want.take (max room mine.length), bytes := bytes, bad := ((x.residents.find? isMine).map Resident.bad).getD [], used := s.nextId }] })

/-- A tile of candidates belongs to the resident set of its bench (R200). -/
def State.inSet (s : State) (o : Order) (t : Nat) : Bool :=
  match o.jig with
  | some j => o.keyed && j.resident && s.placeOn o t < max 1 (j.kTile / 256)
  | none => false

/-- A key row enters its resident set as it is read for the set, once every line is there, unless it is poisoned or fails its mark; its
held lines go (R201, R202). A row with the default flag counts here, as its set keeps no trailer (R161, R162). -/
def State.enterRow (s : State) (oid b w slot : Nat) : State :=
  match s.order? oid with
  | none => s
  | some o =>
    match o.jig, o.aux, o.tiles.find? (fun t => t.bench == b && s.windowOf o t.t == w && t.slots.any (fun r => r.slot == slot)) with
    | some j, some x, some tile =>
      if !s.inSet o tile.t then s else
      match tile.slots.find? (fun r => r.slot == slot) with
      | none => s
      | some r =>
        match s.rowData (.row oid b w slot) tile x r with
        | none => s
        | some (v, tr, bad) =>
          if bad || trPoisoned tr || !markGood x v tr then s else
          let s1 := s.makeResident o b j.storedBytes [(r.row, v)]
          if (s1.residentRow o b r.row).isNone then s1 else
          ((s1.upOrder oid (fun o => { o with dup := o.dup.filter (fun d => !(d.1 == b && d.2.1 == w && d.2.2.1 == slot)) })).dropRows oid b w
            (· == slot)).countDefaults oid (if trDefault tr then 1 else 0)
    | _, _, _ => s

/-! ### Row reads of a delivered tile (R147, R162, R166, R168) -/

/-- Ask for the lines of a row that a bench misses; they join the bursts of its tile (R175). -/
def State.askRow (s : State) (o : Order) (tile : Tile) (x : Binding) (r : RowAt) (c : Consumer) (miss : List Nat) : State :=
  let a : Ask := { epoch := tile.epoch, face := r.face }
  let how (l : Nat) : Nat × Option Space := (a.faceOf s l, tile.rowSpace x r l)
  let s1 := (miss.map how).eraseDups.foldl (fun s f => s.queueReads c o.p (some tile.bench) f.1 (miss.filter (fun l => how l == f)) f.2 tile.born
    (o.id, tile.t)) (s.rowSent o tile.bench o.rowBindNo x r)
  s1.tellSlows c miss

/-- Read, find or take held one row of a tile; nothing while a write of the slot is under way (R188), and nothing but the tile's wait
where the duplicate store has no room for it (R148). The copy and the face are those of the throttle level now (R273). DESIGN CHOICE
(log 53): a position that names a row whose read has not returned yet joins that read, and counts as coalesced as one that names a held
row does; the rule speaks of held rows. -/
def State.issueRow (s : State) (oid t b w : Nat) (x : Binding) (r0 : RowAt) (mult last : Nat) : State :=
  match s.order? oid with
  | none => s
  | some o =>
    match o.tile? t with
    | none => s
    | some tile0 =>
      let again := tile0.got.contains r0.slot
      let chosen := s.choose x o.jig tile0.epoch r0
      let here (r : RowAt) : Bool :=
        let c : Consumer := .row oid b w r.slot
        o.dup.any (fun d => d.1 == b && d.2.1 == w && d.2.2.1 == r.slot) && (pieceLines (tile0.rowPieces x r)).all (fun l => (s.heldLine c l).isSome || s.asked c l)
      -- a held copy serves, whichever it is
      let r := if again && here r0 then r0 else ((chosen :: r0.readPlaces x o.jig).find? here).getD chosen
      let tile := { tile0 with slots := tile0.slots.map (fun (y : RowAt) => if y.row = r0.row then r else y) }
      let c : Consumer := .row oid b w r.slot
      let ls := pieceLines (tile.rowPieces x r)
      let mine := here r
      if again && mine then s
      else if !mine && s.trackedByOther o.p r.slot oid then s
      else
        let mark (s : State) : State := s.upOrder oid (fun o =>
          { o.setTile { tile with space := 0, got := if tile.got.contains r.slot then tile.got else tile.got ++ [r.slot] } with
            dup := (o.dup.filter (fun d => !(d.1 == b && d.2.1 == w && d.2.2.1 == r.slot))) ++ [(b, w, r.slot, last)] })
        let coal (s : State) (n : Nat) : State := if again || n = 0 then s else (s.countBind o.p o.rowBindNo 5 n).countSess o.p o.session 7 n
        if mine then coal (mark s) mult
        else
          match s.rowRoom o tile ls.length with
          | (s0, false) => s0.setTile oid { tile with space := ls.length }
          | (s0, true) =>
            -- a row is read whole, under one absence of writes (R188)
            let s0 := s0.dropRows oid b w (· == r.slot)
            let mask := s.bindWays o.p b x
            let (s1, hits) := ls.foldl (fun (st : State × List Nat) l =>
              if (st.1.heldLine c l).isSome then (st.1, l :: st.2) else
              let (s2, ok) := st.1.lookLine o.p b o.rowBindNo c mask l
              (s2, if ok then l :: st.2 else st.2)) (s0, [])
            let miss := ls.filter (fun l => !hits.contains l)
            let s2 := if miss.isEmpty then (s1.countBind o.p o.rowBindNo 4 1).countSess o.p o.session 6 1 else s1.askRow o tile x r c miss
            (coal (mark s2) (mult - 1)).enterRow oid b w r.slot

/-- Issue the row reads of a tile within the row distance (R147, R149). -/
def State.issueRows (s : State) (oid t : Nat) : State :=
  match s.order? oid with
  | none => s
  | some o =>
    match o.tile? t, o.rowBinding, o.tileSpan t with
    | some tile, some x, some (first, _, _) =>
      if !tile.delivered || (tile.worked && tile.left = 0) || (s.openBefore o t > o.rowsAhead && !s.preloads o t) || !s.mayReadRows o || o.op = 0x06 || o.writesRows then s else
      let w := s.windowOf o t
      let s1 := (tile.slots.filter (s.gathered o tile.bench)).foldl (fun s r =>
        if (s.order? oid).any (fun y => (y.tile? t).any (fun z => z.space != 0)) then s else
        let ps := (tile.elems.zipIdx).filter (fun e => (x.map e.1).row? == some r.row)
        s.issueRow oid t tile.bench w x r ps.length (first + (ps.getLast?.map Prod.snd).getD 0)) (s.setTile oid { tile with space := 0 })
      s1.upOrder oid (fun o => match o.tile? t with
        | some y => o.setTile { y with issued := y.slots.all (fun r => y.got.contains r.slot || !s1.gathered o tile.bench r) }
        | none => o)
    | _, _, _ => s

/-- The rows of a tile, once every line is there. -/
def State.tileRows (s : State) (o : Order) (tile : Tile) (x : Binding) : Option (List (RowAt × Nat × Nat × Bool)) :=
  let w := s.windowOf o tile.t
  tile.slots.foldr (fun r acc => match s.rowData (.row o.id tile.bench w r.slot) tile x r, acc with
    | some (v, tr, p), some l => some ((r, v, tr, p) :: l)
    | _, _ => none) (some [])

/-! ### Consumption (R146, R165) -/

/-- Advance the watermark over consumed tiles, and forget those behind it. -/
def Order.advance (o : Order) : Nat → Order
  | 0 => o
  | n + 1 =>
    if o.tiles.any (fun x => x.t == o.watermark && x.consumed) then
      Order.advance { o with watermark := o.watermark + 1, tiles := o.tiles.filter (fun x => x.t != o.watermark || x.left != 0) } n
    else o

/-- The last tile of a window on a bench is consumed: its held rows go (R166). -/
def State.closeWindow (s : State) (oid b w : Nat) : State :=
  match s.order? oid with
  | none => s
  | some o =>
    let here (t : Nat) : Bool := match o.tileSpan t with | some (_, _, pos) => s.tileBench o t pos == b | none => false
    let ts := List.range o.tileCount
    -- the window is whole: every bag is known, or a later window has begun
    if !(o.bagsKnown || ts.any (fun t => here t && s.windowOf o t > w)) then s
    else if ts.any (fun t => here t && s.windowOf o t == w && !o.isConsumed t) then s
    else (s.upOrder oid (fun o => { o with dup := o.dup.filter (fun d => !(d.1 == b && d.2.1 == w)) })).dropRows oid b w (fun _ => true)

end Sys2Proof.Machine
end

