-- ==== Sys2Proof/Machine/Gather.lean ====
section
/-! DEFINITION. Delivery of tiles, GATHER_POOL, COPY_ROWS, PREFETCH and ADVISE (R108, R109, R115, R116, R144 to R168,
R183 to R187, R316, R317, R325). -/

namespace Sys2Proof.Machine

/-! ### What a tile will use (R145, R305) -/

/-- Bags with a position in a tile: bag, first position in the tile, positions there. -/
def Order.bagParts (o : Order) (first len : Nat) : List (Nat × Nat × Nat) :=
  (o.bagList.zipIdx).filterMap (fun (b, i) =>
    let lo := max b.1 first
    let hi := min (b.1 + b.2) (first + len)
    if lo < hi then some (i, lo, hi - lo) else none)

/-- Bags of length 0 that a tile writes (R185). -/
def Order.emptyBags (o : Order) (t first len : Nat) : List Nat :=
  let total := o.bagList.foldl (fun a b => a + b.2) 0
  (o.bagList.zipIdx).filterMap (fun (b, i) =>
    if b.2 ≠ 0 then none
    else if first ≤ b.1 && b.1 < first + len then some i
    else if b.1 ≥ total && o.bagsKnown && t + 1 = o.tileCount then some i
    else none)

/-- Bags whose last position lies in a tile, and its empty bags (R305). -/
def Order.endingBags (o : Order) (t first len : Nat) : List Nat :=
  ((o.bagParts first len).filterMap (fun x => match o.bagList[x.1]? with
    | some b => if b.1 + b.2 ≤ first + len then some x.1 else none
    | none => none)) ++ o.emptyBags t first len

def Order.outAccess (o : Order) (b : Binding) (i : Nat) : Access :=
  { ea := o.outAt i, len := o.outBytes b + 8, write := true, kind := 4, stream := o.driveNo }

/-- Address, length and stride of the source or buffer rows of positions: gradients, COPY_ROWS and APPEND_ROWS. -/
def Order.source (o : Order) (aux : Bool) (i : Nat) : Nat :=
  match o.op with
  | 0x04 => eaAdd (o.f 32 8) (i * o.f 40 4)
  | 0x05 => if aux then eaAdd (o.f 32 8) (i * o.f 44 4) else eaAdd (o.f 24 8) (i * o.f 40 4)
  | _ => eaAdd (o.f 24 8) (i * o.f 48 4)

/-- Bytes of a gradient row (R241). -/
def Order.gradBytes (o : Order) (b : Binding) : Nat := b.elems * elemBits (o.f 44 1) / 8

/-- The rows that positions of an order name, when no stream gives them. -/
def Order.implied (o : Order) (i : Nat) : Nat :=
  match o.name with
  | some .copy => o.f 40 4 + i
  | some .prefetch => o.f 32 4 + i
  | _ => i

/-- The state-table entry of a row (R256). -/
def Binding.stateAt (b : Binding) (row : Nat) : Nat := eaAdd b.stateBase (4 * row)

/-! ### Outputs of RECALL and SCORE (R208, R211, R213, R305) -/

/-- top_k of an order (R110, R111): 0 takes the jig's. -/
def Order.topK (o : Order) : Nat := if o.f 54 2 = 0 then (o.jig.map Jig.topK).getD 0 else o.f 54 2
def Order.queryCount (o : Order) : Nat := o.f 52 2
/-- The order writes selections: RECALL with sel_base, SCORE mode 0. -/
def Order.writesSel (o : Order) : Bool := if o.op = 0x02 then o.f 56 8 != 0 else o.op == 0x03 && o.f 56 1 == 0
def Order.selAt (o : Order) (q : Nat) : Nat := if o.op = 0x02 then eaAdd (o.f 56 8) (q * o.topK * 8) else o.outAt q
def Order.keep (o : Order) : Bool := o.op == 0x03 && (o.f 62 1).testBit 0
def Order.isTransposed (o : Order) : Bool := o.op == 0x03 && (o.jig.map Jig.transposed).getD false
/-- The number of a query's selection among an order's outputs: a RECALL's stand apart from its rows. -/
def Order.selNo (o : Order) (q : Nat) : Nat := if o.op = 0x02 then 2 ^ 32 + q else q
/-- SCORE writes score rows: modes 1 and 2 without keep. -/
def Order.writesScores (o : Order) : Bool := o.op == 0x03 && o.f 56 1 != 0 && !o.keep
/-- Width of a score element in bits (R211). -/
def Order.scoreBits (o : Order) : Nat := if o.f 56 1 = 1 then 32 else elemBits o.outFmt
/-- Elements of a score row: one per candidate position, or the sketch's dimensions when read transposed. -/
def Order.scoreElems (o : Order) : Nat := if o.isTransposed then (o.jig.map Jig.dims).getD 0 else o.positions
/-- Payload bytes of a score row (R211). -/
def Order.scorePayload (o : Order) : Nat := roundUp (ceilDiv (o.scoreElems * o.scoreBits) 8) 32

/-- The lead bench's last candidate tile. -/
def State.leadLast (s : State) (o : Order) : Option Nat :=
  match o.jig with
  | some j => ((List.range o.tileCount).filter (fun t => s.tileBench o t 0 == j.lead)).getLast?
  | none => none

/-- The end of score row `q` after its elements: padding and trailer. -/
def Order.scoreTail (o : Order) (q : Nat) : Nat × Nat :=
  let n := o.scoreElems * o.scoreBits / 8
  (eaAdd (o.outAt q) n, o.scorePayload + 8 - n)

/-- The part of score row `q` that a candidate tile writes. -/
def Order.scorePart (o : Order) (q first len : Nat) : Nat × Nat :=
  (eaAdd (o.outAt q) (first * o.scoreBits / 8), len * o.scoreBits / 8)

/-- Outputs numbered by bag or query that are translated with a tile and written later: address and length. -/
def State.tileOuts (s : State) (o : Order) (t first len : Nat) : List (Nat × Nat × Nat) :=
  match o.name, o.binding with
  | some .gather, some b => (o.endingBags t first len).map (fun i => (i, o.outAt i, o.outBytes b + 8))
  | some .recall, some b =>
    if o.phase2 then (o.endingBags t first len).map (fun i => (i, o.outAt i, o.outBytes b + 8))
    else if o.writesSel && s.leadLast o == some t then (List.range o.queryCount).map (fun q => (o.selNo q, o.selAt q, o.topK * 8))
    else []
  | some .score, _ =>
    if o.writesSel then
      if s.leadLast o == some t then (List.range o.queryCount).map (fun q => (q, o.selAt q, o.topK * 8)) else []
    else if o.writesScores && !o.isTransposed && t + 1 = o.tileCount then
      (List.range o.queryCount).map (fun q => (q, o.scoreTail q))
    else []
  | _, _ => []

/-- Score rows or parts of them that a candidate tile writes itself. -/
def Order.scoreParts (o : Order) (first len : Nat) : List (Nat × Nat) :=
  if !o.writesScores then []
  else if o.isTransposed then (List.range len).map (fun i => (o.outAt (first + i), o.scorePayload + 8))
  else (List.range o.queryCount).map (fun q => o.scorePart q first len)

/-- The owner of a row (R254). -/
def rowOwner (j : Jig) (row : Nat) : Nat := nthSet j.benchMask (row % popcount j.benchMask)

/-- Accesses with the positions at which they come, in position order (R307). -/
def inOrder (as : List (Nat × List Access)) : List Access :=
  (sortBy (fun (x y : Nat × List Access) => decide (x.1 ≤ y.1)) as).flatMap Prod.snd

/-- The first position of a tile that names a row. -/
def firstNamed (idx : List Nat) (row? : Nat → Option Nat) (row : Nat) : Nat := (idx.findIdx? (fun i => row? i == some row)).getD 0

/-- The accesses of a tile beyond its elements, in position order (R145, R246, R305, R307). -/
def State.tileAccesses (s : State) (o : Order) (t first len : Nat) (idx : List Nat) (slots : List RowAt) : List Access :=
  let st := o.driveNo
  -- an output comes with the last position of its bag, any other with the tile's last
  let outs : List (Nat × List Access) := (s.tileOuts o t first len).map (fun x =>
    (match o.name, o.bagList[x.1]? with
     | some .gather, some b => if b.1 + b.2 > first then b.1 + b.2 - 1 - first else 0
     | _, _ => len,
     [{ ea := x.2.1, len := x.2.2, write := true, kind := 4, stream := st }]))
  let reads (b : Binding) : List (Nat × List Access) := slots.map (fun r =>
    (firstNamed idx (fun i => (b.map i).row?) r.row, (r.readPlaces b o.jig).flatMap (fun x => rowAccesses b x false st)))
  let writes (b : Binding) (rs : List RowAt) (at_ : RowAt → Nat) (st : Nat) : List (Nat × List Access) :=
    rs.map (fun r => (at_ r, (r.places b).flatMap (fun x => rowAccesses b x true st)))
  let sources (aux : Bool) (n stream : Nat) (write : Bool) (is : List Nat) : List (Nat × List Access) :=
    is.map (fun i => (i, [{ ea := o.source aux (first + i), len := n, write := write, kind := if write then 4 else 1, stream := stream }]))
  match o.name, o.binding with
  | some .gather, some b => inOrder (reads b ++ outs)
  | some .scatter, some b =>
    let rows := (distinctRows b idx).map (fun r => rowAt b (s.mapFor o.p b o.smap) r)
    let at_ (r : RowAt) : Nat := firstNamed idx (fun i => (b.map i).row?) r.row
    inOrder (sources false (o.gradBytes b) 0 false (List.range len) ++ writes b rows at_ st ++
      (if b.update = 3 then rows.map (fun r => (at_ r, [{ ea := b.stateAt r.row, len := 4, write := true, kind := 7, stream := st }])) else []))
  | some .copy, some b =>
    if o.f 52 1 = 0 then
      inOrder (sources false b.rowBytes st false ((List.range len).filter (fun i => idx.getD i 0 < b.rowCount)) ++
        writes b slots (fun r => firstNamed idx some r.row) st)
    else inOrder (reads b ++ sources false b.rowBytes st true (List.range len))
  | some .append, some b =>
    let c := s.ctx? o.p o.session
    let one (b : Binding) (aux : Bool) (base : Nat) : List (Nat × List Access) :=
      sources aux b.rowBytes 0xFF false (List.range len) ++ writes b (slots.filter (fun r => r.aux == aux)) (fun r => r.row - base - first) 0xFF
    inOrder (one b false ((c.map Ctx.valRows).getD 0) ++
      (match o.aux with | some k => one k true ((c.map Ctx.keyRows).getD 0) | none => []))
  | some .recall, _ | some .score, _ =>
    match o.rowBinding with
    | some k => inOrder (reads k ++ outs ++ (o.scoreParts first len).map (fun x => (len, [{ ea := x.1, len := x.2, write := true, kind := 4, stream := st }])))
    | none => []
  | _, _ => []

/-- Rows that a tile reads through the gather unit, or writes, as it resolves them. -/
def State.tileSlots (s : State) (o : Order) (first len : Nat) (idx : List Nat) : List RowAt :=
  match o.name with
  | some .gather | some .recall | some .score =>
    match o.rowBinding with
    | some b =>
      -- candidates outside the table are not scored (R203)
      let idx := if o.keyed then idx.filter (· < b.rowCount) else idx
      (distinctRows b idx).map (fun r => s.placeRow b (s.mapFor o.p b o.rowMap) o.jig r)
    | none => []
  | some .copy =>
    match o.binding with
    | some b =>
      let rows := if o.f 52 1 = 0 then (idx.filter (· < b.rowCount)).eraseDups else distinctRows b idx
      rows.map (fun r => s.placeRow b (s.mapFor o.p b o.smap) o.jig r)
    | none => []
  | some .append =>
    let c := s.ctx? o.p o.session
    let one (b : Binding) (m : Option ShardMap) (aux : Bool) (base : Nat) : List RowAt :=
      (List.range len).map (fun i => { s.placeRow b (s.mapFor o.p b m) o.jig (base + first + i) with aux := aux })
    (match o.binding with | some b => one b o.smap false ((c.map Ctx.valRows).getD 0) | none => []) ++
    (match o.aux with | some k => one k o.auxSmap true ((c.map Ctx.keyRows).getD 0) | none => [])
  | _ => []

/-- The translation of a source line: those of APPEND_ROWS key rows may lie under a tag of their own (R312). -/
def State.sourceSpace (s : State) (o : Order) (tile : Tile) (first len l : Nat) : Option Space :=
  let key := o.op == 0x05 && (match o.aux with
    | some k => (List.range len).any (fun i => (pieceLines (tile.pieces (o.source true (first + i)) k.rowBytes)).contains l)
    | none => false)
  s.spaceAt o.p (o.source key first)

/-- The lines of source rows that a tile holds before its delivery (R246, R261). -/
def State.sourceLines (o : Order) (tile : Tile) (first len : Nat) : List Nat :=
  match o.name, o.binding with
  | some .scatter, some b => ((List.range len).flatMap (fun i => pieceLines (tile.pieces (o.source false (first + i)) (o.gradBytes b)))).eraseDups
  | some .copy, some b =>
    if o.f 52 1 = 0 then
      (((tile.elems.zipIdx).filter (fun x => x.1 < b.rowCount)).flatMap (fun x => pieceLines (tile.pieces (o.source false (first + x.2)) b.rowBytes))).eraseDups
    else []
  | some .append, some b =>
    ((List.range len).flatMap (fun i => pieceLines (tile.pieces (o.source false (first + i)) b.rowBytes) ++
      (match o.aux with | some k => pieceLines (tile.pieces (o.source true (first + i)) k.rowBytes) | none => []))).eraseDups
  | _, _ => []

/-- Hold lines for a tile, asked for once it has space for them (R148). -/
def State.tileNeeds (s : State) (o : Order) (tile : Tile) (ls : List Nat) (space : Nat → Option Space) : State × Tile × Need :=
  let c : Consumer := .tile o.id tile.t
  let new := ls.filter (fun l => (s.heldLine c l).isNone && !s.asked c l)
  if !s.tileRoom tile.bench tile.born new.length then (s, { tile with space := new.length }, .wait)
  else
    let (s1, n) := s.needLines c o.p { bench := some tile.bench, epoch := s.cfg.epoch, age := tile.born, space := space } ls
    (s1, { tile with space := 0 }, n)

/-! ### Delivery -/

/-- The streams whose elements make a tile: the driving one, and the weights of a GATHER_POOL (R144). -/
def Order.elemStreams (o : Order) : List (Stream × Nat) :=
  (match o.drive with | some x => [(x, o.streamNo o.driveField)] | none => []) ++
  (if o.op = 0x01 then (match o.stream? 40 with | some y => [(y, 2)] | none => []) else [])

/-- Read the elements of a tile's streams: indices or candidates, and weights. Each stream goes on by itself; its elements are fetched
where `fetch` allows (R147, R151). Poison ends the order at the tile: once those before it are worked (R324). -/
def State.readElems (s : State) (oid : Nat) (tile : Tile) (first len : Nat) (fetch : Bool) : State × Tile × Need :=
  match s.order? oid with
  | none => (s, tile, .wait)
  | some o =>
    if o.phase2 then
      -- the survivor stream: rows in rank order, their scores as weights (R209)
      let l := ((o.sels.headD (0, [])).2.flatten.drop first).take len
      (s, { tile with elems := l.map (fun y => y.1), weights := l.map (fun y => y.2.2) }, .ok)
    else
    match o.drive with
    | none => (s, { tile with elems := (List.range len).map (fun i => o.implied (first + i)) }, .ok)
    | some x =>
      let (s1, t1, n1) := o.elemStreams.foldl (fun (st : State × Tile × Need) y =>
        let worse (n : Need) : Need := if st.2.2 = .stop || n = .stop then .stop else if st.2.2 = .ok then n else .wait
        match st.1.needPages oid st.2.1 (elemAccesses y.1 y.2 first len) with
        | (s1, t1, .ok) =>
          if !fetch then (s1, t1, worse .wait) else
          let (s2, t2, n) := s1.tileNeeds o t1 (elemLines y.1 t1 first len) (fun _ => s1.spaceAt o.p y.1.base)
          (s2, t2, worse n)
        | (s1, t1, n) => (s1, t1, worse n)) (s, tile, .ok)
      if n1 ≠ .ok then (s1, t1, n1) else
      let c : Consumer := .tile oid tile.t
      let read (y : Stream) : List (Nat × Bool) := (List.range len).map (fun i => s1.element c y t1 (first + i))
      let w := if o.op = 0x01 then o.stream? 40 else none
      let vs := read x
      let ws := match w with | some y => read y | none => []
      if vs.any Prod.snd || ws.any Prod.snd then
        if o.workedBefore tile.t then (s1.endOrder oid 0x10 (o.poisonDetail tile.t first), t1, .stop) else (s1, t1, .wait)
      else
        let wv := match w with | some y => (ws.map Prod.fst).map (weightElem y.elem) | none => []
        (s1.dropHeld c, { t1 with elems := vs.map Prod.fst, weights := wv }, .ok)

/-- The streams of an order become live with the first tile (R140). -/
def Order.goLive (o : Order) : Order := { o with streams := o.streams.map (fun x => { x with live := true }) }

/-- The tile with which a bag's row is written: that of its first position; of an empty bag, that of the next bag's; of bags without one
after them, the order's last (R185, R229). -/
def Order.homeTile (o : Order) (bag : Nat) : Option Nat :=
  match (o.bagList.drop bag).find? (fun b => b.2 ≠ 0) with
  | some b => if o.tileOrder = 2 && o.name == some .gather then (bagTiles o.bagList).findIdx? (fun x => x.1 == b.1) else some (b.1 / 256)
  | none => if o.tileCount = 0 then none else some (o.tileCount - 1)

/-- The bench that owns a bag and writes its row (R185). -/
def State.bagOwner (s : State) (o : Order) (bag : Nat) : Nat :=
  match o.homeTile bag with
  | some t => s.tileBench o t (match o.tileSpan t with | some (_, _, pos) => pos | none => 0)
  | none => s.issueBench o

/-- An order has issued its last write on a bench (R243, R264). -/
def State.lastIssued (s : State) (o : Order) (b : Nat) : Bool :=
  let worked : Bool := (List.range o.tileCount).all (fun t =>
    (match o.tileSpan t with | some (_, _, pos) => s.tileBench o t pos != b | none => true) || o.isConsumed t || o.tiles.any (fun x => x.t == t && x.worked))
  o.status.isSome || match o.name with
    | some .gather => o.bagsKnown && worked &&
        (List.range o.bagList.length).all (fun i => s.bagOwner o i != b || o.outSent.any (fun x => x.1 == i))
    | some .recall => o.phase2 && o.bagsOut ≥ o.queryCount
    | some .scatter => o.merging && o.frags.all (fun f => o.jig.any (fun j => rowOwner j f.row != b) || o.merged.contains f.row)
    | some .append | some .copy | some .prefetch => worked
    | _ => o.acted

/-- Write-combining entries of an order on benches where it has issued its last write go to memory (R264). -/
def State.settle (s : State) (oid : Nat) : State :=
  match s.order? oid with
  | none => s
  | some o => ((s.orderBenches o).filter (s.lastIssued o)).foldl (fun s b => s.flushBench oid b) s

/-- The orders that have ended have issued their last writes: their write-combining entries go to memory (R264). -/
def State.settleEnded (s : State) : State := (s.orders.filter (fun o => o.status.isSome)).foldl (fun s o => s.settle o.id) s

/-- An order holds its jig's merge share on a bench, from its first tile there until its last write there is acknowledged (R243). -/
def State.hasShare (s : State) (x : Order) (b : Nat) : Bool := x.shares.contains b && !(s.lastIssued x b && !s.writesOn x.id b)

/-- An order holds its spill segment until its last write on every bench of the jig is acknowledged (R251). -/
def State.hasSegment (s : State) (x : Order) : Bool :=
  x.segment && (s.orderBenches x).any (fun b => !(s.lastIssued x b && !s.writesOn x.id b))

/-- A merge share or a spill segment that the tile's bench needs first (R243, R251); APPEND_ROWS has no segment. -/
def State.shareFree (s : State) (o : Order) (b : Nat) : Bool :=
  if o.op ≠ 0x04 && o.op ≠ 0x05 then true else
  let jigNo := o.f 10 2
  o.shares.contains b ||
  (!(s.orders.any (fun x => x.id != o.id && x.p == o.p && x.f 10 2 == jigNo && s.hasShare x b)) &&
   (o.op = 0x05 || o.segment || o.spill.isNone ||
    !s.orders.any (fun x => x.id != o.id && x.spill == o.spill && s.hasSegment x)))

def Order.takeShare (o : Order) (b : Nat) : Order :=
  if o.op ≠ 0x04 && o.op ≠ 0x05 then o
  else { o with shares := if o.shares.contains b then o.shares else o.shares ++ [b], segment := o.segment || o.op = 0x04 }

/-- Translate what a tile whose elements are held will use, hold its source rows, and deliver it when it may be delivered. -/
def State.deliver (s : State) (oid : Nat) (o : Order) (tile : Tile) (first len : Nat) : State :=
  let t := tile.t
  let b := tile.bench
  let slots := s.tileSlots o first len tile.elems
  match s.needPages oid tile (s.tileAccesses o t first len tile.elems slots) with
  | (s2, tile2, .stop) | (s2, tile2, .wait) => s2.setTile oid tile2
  | (s2, tile2, .ok) =>
    if !s2.mayDeliver o t b || !s2.shareFree o b then s2.setTile oid tile2 else
    match s2.tileNeeds o tile2 (State.sourceLines o tile2 first len) (s2.sourceSpace o tile2 first len) with
    | (s3, tile3, .wait) | (s3, tile3, .stop) => s3.setTile oid tile3
    | (s3, tile3, .ok) =>
      let gen := (s3.part o.p).invGen
      let outs := (s3.tileOuts o t first len).map (fun x => (x.1, (⟨eaTag x.2.1, gen, 0⟩ : Space), tile3.pieces x.2.1 x.2.2))
      let nd := if o.keyed && !tile3.consumed then (o.jig.map Jig.blocks).getD 1 else tile3.left
      let off := if o.offset.isSome then o.offset else some (s3.takeOffset o)
      let s4 := s3.upOrder oid (fun o =>
        ({ o.goLive with offset := off, outPa := o.outPa.filter (fun (x : Nat × Space × List (Nat × Nat)) => !outs.any (fun y => y.1 == x.1)) ++ outs }.takeShare b).setTile
          { tile3 with delivered := true, epoch := s3.cfg.epoch, gen := gen, slots := slots, left := nd })
      (s4.chestBoundary o.p b).issueRows oid t

/-- TILE_DELIVER: a tile is delivered once its elements and every translation are held (R144 to R150). While something is missing it is
asked for, as far ahead as the jig's distances let each kind of work go (R147), and the tile stays undelivered. -/
def State.tileDeliver (s : State) (oid t : Nat) : State :=
  match s.order? oid with
  | none => s
  | some o =>
    if o.phase != .running || o.status.isSome then s else
    let s := if o.bagsKnown then s else s.readBags oid t 16
    match s.order? oid with
    | none => s
    | some o =>
      if o.status.isSome || o.needsBags t then s else
      match o.tileSpan t with
      | none => s
      | some (first, len, pos) =>
        let b := s.tileBench o t pos
        let s := s.powerUp b
        let k := s.openBefore o t
        let pre := s.preloads o t
        if !s.mayPrepare o t b || (k > max o.indexAhead o.pagesAhead && !pre) then s else
        let (s, tile0) := match o.tile? t with
          | some x => (s, x)
          | none => (s.fresh, { t := t, bench := b, born := s.nextId })
        let s := s.setTile oid tile0
        match (if tile0.elems.isEmpty then s.readElems oid tile0 first len (k ≤ o.indexAhead || pre) else (s, tile0, .ok)) with
        | (s1, tile1, .stop) | (s1, tile1, .wait) => s1.setTile oid tile1
        | (s1, tile1, .ok) =>
          let s2 := s1.setTile oid tile1
          if k > o.pagesAhead && !pre then s2 else
          match s2.order? oid with
          | some o1 => s2.deliver oid o1 tile1 first len
          | none => s2

/-! ### GATHER_POOL -/

/-- The Steep's setting for an order over a binding (R177, R179, R237, R238). -/
def Order.pool (o : Order) (b : Binding) (m : Option ShardMap) : Pool :=
  { red := o.reduction, elems := b.elems, int := o.op != 0x02 && intPath b o.reduction, mode := b.scaleMode,
    tree := if b.orderClass % 4 = 1 then some (4 * 2 ^ (b.orderClass / 4 % 4)) else none,
    tau := if o.op = 0x02 then o.f32 64 else f32one, factors := o.factors b m }

/-- A row as the Steep takes it: integers, or FP32 values scaled (R179). -/
def Pool.decode (c : Pool) (b : Binding) (payload : Nat) (shard : Option Nat) : List Int × List F32 :=
  let codes := b.codes payload
  if c.int then (codes.map (elemInt b.fmt), [])
  else
    let xs := codes.map (elemF32 b.fmt)
    ([], match b.scaleMode with
      | 3 => xs.map (fun x => fmul x (rowScale payload))
      | 1 => xs.map (fun x => fmul x (c.factor none))
      | 2 => xs.map (fun x => fmul x (c.factor shard))
      | _ => xs)

/-- The row-ops of positions in pooling order (R167): positions with index and weight; rows decoded. -/
def Pool.rowOps (c : Pool) (b : Binding) (rows : List (RowAt × Nat × Nat × Bool)) (ps : List (Nat × F32)) : List RowOp :=
  let keys := (ps.map (fun x => (b.map x.1).row?)).eraseDups
  keys.map (fun k =>
    let mine := ps.filter (fun x => (b.map x.1).row? == k)
    let ws := mine.map Prod.snd
    match k with
    | none => { k := mine.length, ws := ws, zeros := true, ints := List.replicate c.elems 0, xs := List.replicate c.elems f32zero }
    | some r =>
      match rows.find? (fun x => x.1.row == r) with
      | some x =>
        let (is, xs) := c.decode b x.2.1 x.1.shard
        { k := mine.length, ws := ws, ints := is, xs := xs, shard := x.1.shard }
      | none => { k := mine.length, ws := ws })

/-- A row's mark fails: the event, which names the order that read the block where one did, and the
counts (R130, R320). -/
def State.witnessBad (s : State) (who : Option Order) (p bindNo ea : Nat) : State :=
  let user := (((s.part p).outLog.find? (fun x => x.lo ≤ ea && ea < x.hi)).map OutEnt.user).getD 0
  let s1 := (s.upInts (fun i => { i with witMem := satAdd i.witMem 1 0xFFFF })).countBind p bindNo 10 1
  match who with
  | some o => s1.orderEvent o 0x000A ea user
  | none => s1.event p 0x000A ea user

/-- The tile of an output bag (R185, R229). -/
def Order.bagTile (o : Order) (bag : Nat) : Nat := (o.homeTile bag).getD 0

/-- Every element of an output tile is written (R229): the bags that begin in it, or the queries whose rows belong to it. -/
def Order.tileWhole (o : Order) (t : Nat) : Bool :=
  match o.name with
  | some .gather => !(o.parts.any (fun x => o.bagTile x.bag == t)) && (o.isConsumed t || o.tiles.any (fun x => x.t == t && x.worked))
  | some .recall => o.phase2 && (List.range o.queryCount).all (fun q => o.bagTile q != t || o.outDone.contains q)
  | _ => false

/-- The checks of the output tiles that lie two or more behind the one whose elements are written complete (R329). -/
def State.checkBehind (s : State) (oid t : Nat) (whole : Order → Nat → Bool) : State :=
  match s.order? oid with
  | none => s
  | some o => ((o.ptiles.filter (fun x => !x.checked && x.t + 2 ≤ t && whole o x.t)).map PTile.t).foldl (fun s x => s.checkTile oid x) s

/-- A partial fails its mark on the die interconnect: the event names the sending bench, and it counts, for the bench too (R320, R336). -/
def State.witnessDie (s : State) (o : Order) (sender : Nat) : State :=
  let now := s.wear.seconds
  ((s.upKettle (fun k => { k with senders := (k.senders.filter (fun x => now < x.2 + dayOf)) ++ [(sender, now)] })).upInts (fun i => { i with witDie := satAdd i.witDie 1 0xFFFF })).orderEvent o 0x000A 0xFFFFFFFFFFFFFFFF sender

/-- A block other than a row fails its mark: the event and the count (R320, R321). -/
def State.blockBad (s : State) (o : Order) (ea : Nat) : State :=
  let user := (((s.part o.p).outLog.find? (fun x => x.lo ≤ ea && ea < x.hi)).map OutEnt.user).getD 0
  (s.upInts (fun i => { i with witMem := satAdd i.witMem 1 0xFFFF })).orderEvent o 0x000A ea user

/-- The scale of pooled outputs (R225). -/
def Order.outScale (o : Order) : OutScale :=
  match o.scales[0]? with
  | some e => { m := e.m, s := e.s, fp := e.fp, o := o.o }
  | none => {}

/-- An output is written: its translation is no longer needed. -/
def Order.outWritten (o : Order) (i : Nat) : Order :=
  { o with outPa := o.outPa.filter (fun x => x.1 != i), outSent := o.outSent ++ ((o.outPa.find? (fun x => x.1 == i)).map (fun x => (i, x.2.2))).toList }

/-- The epoch under which a bench writes an output of an order: that of the oldest tile it has of the order (R65; log 41: DEDUCED). -/
def State.epochOn (s : State) (o : Order) (b : Nat) : Nat :=
  match (o.tiles.filter (fun x => x.bench == b && x.delivered)).map Tile.epoch with
  | [] => s.cfg.epoch
  | x :: xs => xs.foldl min x

/-- Write an output row with its trailer through the owner's write-combining buffer (R183, R186, R263). -/
def State.writeOut (s : State) (o : Order) (bench i bytes payload tableId : Nat) (poisoned : Bool) : State :=
  let tr := trailerOf (rowWitness payload bytes tableId) 0 poisoned false false
  match o.outPa.find? (fun x => x.1 == i) with
  | some x => (s.writePieces bench o.p (s.epochOn o bench) (.order o.id) x.2.2 (payload + tr <<< (8 * bytes)) (some x.2.1)).upOrder o.id (fun o => o.outWritten i)
  | none => s

/-- Write a finished bag (R180 to R187). A poisoned bag ends the order after it (R184). -/
def State.writeBag (s : State) (oid : Nat) (b : Binding) (bag : Nat) (p : Partial) : State :=
  match s.order? oid with
  | none => s
  | some o =>
    let c := o.pool b (s.mapFor o.p b o.smap)
    let bytes := o.outBytes b
    -- a RECALL query with an infinite score among its survivors (R210)
    let infRow := o.op == 0x02 && (match o.sels.head? with | some x => ((x.2.getD bag []).any (fun y => isInf y.2.2)) | none => false)
    let (payload, es) :=
      if o.partialRows then c.partialRow p
      else
        let es := if infRow then List.replicate (outElems o.reduction b.elems) (outF o.outFmt qnan false) else c.finish o.outFmt o.outScale p
        (packCodes (elemBits o.outFmt) (es.map OutElem.code), es)
    let fmt := if o.partialRows then (if p.fp then 5 else 6) else o.outFmt
    let s1 := s.writeOut o (s.bagOwner o bag) bag bytes payload b.tableId p.poisoned
    let s2 := s1.upOrder oid (fun o =>
      { (if infRow then (o.countOut es).addInf (o.bagTile bag) else o.countOut es).addTile (o.bagTile bag) fmt es with
        bagsOut := o.bagsOut + 1
        outDone := if o.op = 0x02 then bag :: o.outDone else o.outDone
        parts := o.parts.filter (fun x => x.bag != bag) })
    let s3 := s2.checkBehind oid (o.bagTile bag) Order.tileWhole
    if p.poisoned then s3.endOrder oid 0x10 bag else s3

/-- The key under which a bag's partial accumulates: the tile, or the share under tile order 0x2 (R185). -/
def Order.partKey (o : Order) (bag pos : Nat) : Nat :=
  match o.jig, o.bagList[bag]? with
  | some j, some b => if j.tileOrder = 2 then b.1 + (pos - b.1) / j.splitLen * j.splitLen else pos
  | _, _ => pos

/-- The bag's partials when its last part is there, combined in order of first positions under the ordered class and
of arrival under the tree class (R185, R237, R238). -/
def Order.wholeBag (o : Order) (c : Pool) (bag : Nat) : Option Partial :=
  match o.bagList[bag]? with
  | none => none
  | some b =>
    let ps := o.parts.filter (fun x => x.bag == bag)
    if ps.foldl (fun a x => a + x.positions) 0 ≠ b.2 then none
    else
      let ordered := if c.tree.isSome then ps else sortBy (fun x y => decide (x.first ≤ y.first)) ps
      match ordered with
      | [] => some { c.start with }
      | x :: xs => some (xs.foldl (fun a y => c.combine a y.val) x.val)

/-- Pool the bags of one tile, in order, until the order ends (R167, R184). -/
def State.poolBags (s : State) (oid : Nat) (tile : Tile) (first len : Nat) (b : Binding)
    (rows : List (RowAt × Nat × Nat × Bool)) : State :=
  match s.order? oid with
  | none => s
  | some o =>
    let c := o.pool b (s.mapFor o.p b o.smap)
    let bad (r : RowAt × Nat × Nat × Bool) : Bool := r.2.2.2 || trPoisoned r.2.2.1
    let fails (r : RowAt × Nat × Nat × Bool) : Bool := !bad r && !markGood b r.2.1 r.2.2.1
    let step (s : State) (x : Nat × Nat × Nat) : State :=
      match s.order? oid with
      | none => s
      | some o =>
        if o.status.isSome || o.outDone.contains x.1 then s else
        let (bag, pos, n) := x
        let ps := (List.range n).map (fun i => (tile.elems.getD (pos - first + i) 0, tile.weights.getD (pos - first + i) f32zero))
        let used := rows.filter (fun r => ps.any (fun p => (b.map p.1).row? == some r.1.row))
        match used.find? fails with
        | some r => (s.witnessBad (some o) o.p o.bindNo r.1.slot).endOrder oid 0x11 bag
        | none =>
          let ops := c.rowOps b rows ps
          let anyBad := used.any bad
          let flagged := (ps.filter (fun p => used.any (fun r => trDefault r.2.2.1 && (b.map p.1).row? == some r.1.row))).length
          let key := o.partKey bag pos
          let cur := (o.parts.find? (fun y => y.bag == bag && y.first == key && y.bench == tile.bench))
          let p0 := (cur.map PartEntry.val).getD c.start
          let p1 := c.part p0 n ops (ps.map Prod.snd)
          let p2 := { p1 with poisoned := p1.poisoned || anyBad }
          let entry : PartEntry := ⟨bag, key, tile.bench, (cur.map PartEntry.positions).getD 0 + n, p2⟩
          let s1 := (s.countBind o.p o.bindNo 1 ops.length).upOrder oid (fun o =>
            { o with parts := (o.parts.filter (fun y => !(y.bag == bag && y.first == key && y.bench == tile.bench))) ++ [entry] })
          let s2 := s1.countDefaults oid ((ps.filter (fun p => (b.map p.1).isDefault)).length + flagged)
          let s3 := if anyBad then
              let k := (used.filter bad).length
              (s2.countBind o.p o.bindNo 11 k).upInts (fun i => { i with poisonRead := satAdd i.poisonRead k 0xFFFF })
            else s2
          match s3.order? oid with
          | none => s3
          | some o3 => match o3.wholeBag c bag with
            | some p =>
              -- a partial that the die interconnect damaged fails its mark at the owner (R185, R319, R320)
              match (o3.parts.filter (fun y => y.bag == bag && y.bench != s3.bagOwner o3 bag)).find? (fun y => o3.struck.contains (y.bench, bag)) with
              | some y => (s3.witnessDie o3 y.bench).endOrder oid 0x11 bag
              | none => s3.writeBag oid b bag p
            | none => s3
    let empties := o.emptyBags tile.t first len
    -- an empty bag's row comes before the rows of the bags that follow it (R185)
    let before (bag : Nat) : List Nat := empties.filter (· < bag)
    let parts := o.bagParts first len
    let lastBag := (parts.getLast?.map Prod.fst).getD 0
    let s1 := parts.foldl (fun s x =>
      let prev := parts.takeWhile (fun y => y.1 < x.1)
      let from_ := (prev.getLast?.map Prod.fst).getD 0
      let mine := (before x.1).filter (fun e => prev.isEmpty || e > from_)
      let s := mine.foldl (fun s e => match s.order? oid with
        | some o => if o.status.isSome || o.outDone.contains e then s else s.writeBag oid b e c.start
        | none => s) s
      step s x) s
    (empties.filter (fun e => parts.isEmpty || e > lastBag)).foldl (fun s e => match s.order? oid with
      | some o => if o.status.isSome || o.outDone.contains e then s else s.writeBag oid b e c.start
      | none => s) s1

/-- A tile's work is done by its consumer. -/
def State.tileWorked (s : State) (oid t : Nat) : State :=
  s.upOrder oid (fun o => match o.tile? t with | some x => o.setTile { x with worked := true } | none => o)

/-- Earlier tiles of the bench have been worked. -/
def State.benchTurn (s : State) (o : Order) (t : Nat) : Bool :=
  (s.earlierOn o t).all (fun u => o.isConsumed u || o.tiles.any (fun x => x.t == u && x.worked))

/-- Bags refused by R109 end the order when every earlier bag is written. -/
def State.badBagEnd (s : State) (oid : Nat) : State :=
  match s.order? oid with
  | some o => match o.badBag with
    | some b => if o.bagsOut = b then s.endOrder oid 0x21 b else s
    | none => s
  | none => s

/-- Rows of bags that no tile wrote, once every length is known: all, of an order that runs no index tile (R185). -/
def State.gatherTail (s : State) (oid : Nat) (b : Binding) : State :=
  match s.order? oid with
  | none => s
  | some o =>
    let left := (List.range o.bagList.length).filter (fun i => !o.outSent.any (fun x => x.1 == i))
    let last := o.tileCount - 1
    if left.isEmpty || o.tileCount ≠ 0 || o.faultAt last then s else
    let tile : Tile := (o.tile? last).getD { t := last, bench := s.bagOwner o (left.headD 0), delivered := true, worked := true, consumed := true, epoch := s.cfg.epoch }
    let new := left.filter (fun i => !o.outPa.any (fun x => x.1 == i))
    match s.needPages oid tile (new.map (o.outAccess b)) with
    | (s1, t1, .ok) =>
      let outs := new.map (fun i => (i, (⟨eaTag (o.outAt i), (s1.part o.p).invGen, 0⟩ : Space), t1.pieces (o.outAt i) (o.outBytes b + 8)))
      let s2 := s1.upOrder oid (fun o => { o with outPa := o.outPa ++ outs })
      left.foldl (fun s e => match s.order? oid with
        | some o => if o.status.isSome then s else s.writeBag oid b e ((o.pool b none).start)
        | none => s) s2
    | (s1, t1, .wait) => s1.setTile oid t1
    | (s1, _, .stop) => s1

/-- Every index tile that is known is worked, and all are known. -/
def Order.allWorked (o : Order) : Bool :=
  o.bagsKnown && (List.range o.tileCount).all (fun t => o.isConsumed t || o.tiles.any (fun x => x.t == t && x.worked))

/-- The tile buffers of a bench take the outputs of a tile: they are not full, or none of them waits to be written (R13). -/
def State.outRoom (s : State) (b : Nat) : Bool :=
  s.tileLines b ≤ 16384 || !s.writes.any (fun w => w.bench == some b && w.modl.isNone && w.nth.isNone)

/-- GATHER_POOL of one delivered tile (R108, R145). Row lines still missing are asked for. The rows of bags that no tile holds come
last, and then the end that a bad bag makes (R109, R185). -/
def State.gatherPool (s : State) (oid t : Nat) : State :=
  match s.order? oid with
  | none => s
  | some o =>
    if o.name != some .gather || o.status.isSome || o.phase != .running then s else
    match o.binding with
    | none => s
    | some b =>
      let s1 := match o.tile? t, o.tileSpan t with
        | some tile, some (first, len, _) =>
          if !tile.delivered || tile.worked || !s.benchTurn o t || !s.outRoom tile.bench then s else
          match s.tileRows o tile b with
          | some rows =>
            if tile.slots.all (fun r => tile.got.contains r.slot) then (s.poolBags oid tile first len b rows).tileWorked oid t
            else s.issueRows oid t
          | none => s.issueRows oid t
        | _, _ => s
      let s2 := match s1.order? oid with
        | some o1 => if o1.status.isNone && o1.allWorked && !s1.resetting o.p then s1.gatherTail oid b else s1
        | none => s1
      (s2.badBagEnd oid).settle oid

/-! ### Row writers: trackers, trailers, and the write (R188, R255, R257, R284, R325) -/

/-- The migration table's entry of a row (R283). -/
def State.migRow? (s : State) (p map row : Nat) : Option MigRow :=
  if s.mig.phase ≠ 0 && s.mig.p = p && s.mig.map = map then s.mig.rows.find? (fun r => r.row == row) else none

/-- The slots of a row that migrates: its writers enter both (R284). -/
def State.migSlots (s : State) (p : Nat) (b : Binding) (row : Nat) : List Nat :=
  match s.migRow? p b.shardMap row with
  | some r => [r.old, r.target]
  | none => []

/-- Where a row's update goes, from the trailer read (R271, R284): the places, and the migrating flag written. Of a row that
migrates, old slot and target alike; of one that the migration table no longer holds, the slot read alone. -/
def State.rowTargets (s : State) (p : Nat) (b : Binding) (r : RowAt) (tr : Nat) : List RowAt × Bool :=
  if trMigrating tr then
    match s.migRow? p b.shardMap r.row with
    | some x => (((r.places b).filter (fun y => y.slot != x.old && y.slot != x.target)) ++ [r.at_ b x.old none none, r.at_ b x.target none none], true)
    | none => ([r], false)
  else (r.places b, false)

/-- The place of a slot of a migrating binding. -/
def migPlace (b : Binding) (row slot : Nat) (stack : Option Nat) : RowAt := { row := row, slot := slot, trailer := eaAdd slot b.rowBytes, stack := stack }

/-- Translate pages for the Kettle, which writes no fault records (R306): `stop` is a fault. -/
def State.kettlePages (s : State) (p : Nat) (tile : Tile) (as : List Access) : State × Tile × Need :=
  (as.flatMap (fun a => (spans a.ea a.len).map (fun x => (a, x.1)))).foldl
    (fun (st : State × Tile × Need) x =>
      if st.2.2 = .stop then st else
      let key := pageKey x.2 x.1.write
      if st.2.1.addrs.any (fun y => y.1 == key) then st else
      match st.1.xlate p x.2 x.1.write (.skip none) with
      | (s1, .ok pa _) =>
        if s1.inStack x.1.stack pa then (s1, { st.2.1 with addrs := st.2.1.addrs ++ [(key, pa / 4096)] }, st.2.2) else (s1, st.2.1, .stop)
      | (s1, .wait) => (s1, st.2.1, .wait)
      | (s1, .fault ..) => (s1, st.2.1, .stop))
    (s, tile, .ok)

/-- The primary stack of the migrating shard. -/
def State.migStack (s : State) : Nat :=
  (((shardMapOf s.cfg.live s.mig.p s.mig.map).bind (fun m => m.shards[s.mig.shard]?)).map Shard.pStack).getD 0

def State.upMigRow (s : State) (row : Nat) (f : MigRow → MigRow) : State :=
  s.upMig (fun g => { g with rows := g.rows.map (fun (r : MigRow) => if r.row = row then f r else r) })

def State.forgetMigRow (s : State) (row : Nat) : State := s.upMig (fun g => { g with rows := g.rows.filter (fun r => r.row != row) })

/-- A row is dropped from the migration table and counted (R283). -/
def State.dropMigRow (s : State) (r : MigRow) : State :=
  ((((s.forgetMigRow r.row).untrack s.mig.p s.mig.id s.mig.bind r.row).quitReads (.mig r.old)).clearSkips s.mig.p none).upPart s.mig.p
    (fun x => { x with mig := { x.mig with skipped := satAdd x.mig.skipped 1 255 } })

/-- Translate the slots of a row that migrates, under which its copy and its writers write them (R283, R284, R306). -/
def State.migPages (s : State) (b : Binding) (r : MigRow) : State × Tile × Need :=
  let g := s.mig
  let old := migPlace b r.row r.old (some s.migStack)
  let new := migPlace b r.row r.target (some r.stack)
  match s.kettlePages g.p { t := 0, bench := s.lowBench g.p, addrs := r.addrs } (rowAccesses b old false 0xFF ++ rowAccesses b old true 0xFF ++ rowAccesses b new true 0xFF) with
  | (s1, t, n) => (s1.upMigRow r.row (fun r => { r with addrs := t.addrs }), t, n)

/-- The translations of a migrating row's slots stand for its writers, whether it is copied yet or not: after an invalidation they are
made anew, and the row is dropped where they fail (R283, R284, R311). -/
def State.migReady (s : State) (p : Nat) (b : Binding) (row : Nat) : State × Bool :=
  match s.migRow? p b.shardMap row with
  | none => (s, true)
  | some r =>
    match s.migPages b r with
    | (s1, _, .ok) => (s1, true)
    | (s1, _, .wait) => (s1, false)
    | (s1, _, .stop) => (s1.dropMigRow r, true)

/-- A tile with the translations that the migration table holds of a row (R284). -/
def State.withMig (s : State) (p : Nat) (b : Binding) (row : Nat) (tile : Tile) : Tile :=
  match s.migRow? p b.shardMap row with
  | some x => { tile with addrs := tile.addrs ++ x.addrs }
  | none => tile

/-- A write of a slot by an order is under way. -/
def State.slotWriting (s : State) (oid slot : Nat) : Bool :=
  let mine : WriteFor → Bool := fun w => match w with | .rowOf i _ _ sl => i == oid && sl == slot | _ => false
  s.writes.any (fun w => w.owners.any mine) || s.benches.any (fun b => b.wc.any (fun e => e.owns.any mine))

/-- Enter the slots of rows in the trackers: all of them, or none while another order holds one or there is no room, so that no two
writers wait for each other. Whether they may be read and written: no write of them is under way and no read of them is
outstanding (R188). `rows` are rows of a binding with their slots. -/
def State.enterRows (s : State) (p oid bindNo : Nat) (rows : List (Nat × List Nat)) : State × Bool :=
  let slots := rows.flatMap Prod.snd
  let new := (slots.filter (fun x => !s.holds p x oid)).eraseDups
  if new.any (s.tracked p) || (s.part p).tracks.length + new.length > 1024 then (s, false)
  else (rows.foldl (fun s r => r.2.foldl (fun s x => s.track p oid bindNo r.1 x) s) s, slots.all (fun x => !s.slotWriting oid x && !s.rowReadsOn p x))

/-- Lines of a row's slot and trailer that a write covers only in part, and its trailer's lines: those a writer reads
(R325). -/
def partLines (ps : List (Nat × Nat)) (trailer : List (Nat × Nat)) : List Nat :=
  let w := pieceWrites ps 0
  let full := BitVec.allOnes 128
  ((w.filter (fun x => x.2.1 != full)).map (fun x => x.1) ++ pieceLines trailer).eraseDups

/-- Write a row to its places: payload and trailer, through the write-combining buffer or straight; resident copies
follow (R171, R202, R263). Lines that read back poisoned are written whole, their other bytes kept or 0, and the other
slots of the line leave the trackers with that write (R325). -/
def State.putRow (s : State) (oid p bindNo : Nat) (b : Binding) (m : Option ShardMap) (tile : Tile) (row : Nat) (places : List RowAt)
    (payload trailer : Nat) (comb : Bool) (poisonedLines : List Nat) : State :=
  let tile := s.withMig p b row tile
  (places.foldl (fun s r =>
    let own : WriteFor := .rowOf oid bindNo row r.slot
    let ps := tile.rowPieces b r
    (joinParts (pieceWrites ps (payload % 2 ^ (8 * b.rowBytes) + trailer <<< (8 * b.rowBytes)))).foldl (fun s x =>
      let space := tile.rowSpace b r x.1
      let via := s.viaAt (some tile.bench) tile.epoch x.1 space
      if poisonedLines.contains x.1 then
        (s.issueLine (own :: (nearRows b m row (tile.rowLine b r x.1)).map (fun y => .rowOf oid bindNo y.1 y.2)) p via x.1 (BitVec.allOnes 128) (mergeLine 0 x.2.1 x.2.2) false).rewriteHeld oid x.1 (mergeLine 0 x.2.1 x.2.2)
      else if comb then s.combine tile.bench p tile.epoch own x.1 x.2.1 x.2.2 space
      else s.issueLine [own] p via x.1 x.2.1 x.2.2 false) s) s).updateResident p bindNo row payload

/-- The place that a writer of a row reads: where it has begun to read, that place; else the copy and the face of the throttle level now
(R273). -/
def State.rowNow (s : State) (o : Order) (tile : Tile) (b : Binding) (r : RowAt) : RowAt :=
  let now := s.choose b o.jig tile.epoch r
  let begun (x : RowAt) : Bool :=
    let c : Consumer := .upd o.id x.slot
    (pieceLines (tile.rowPieces b x)).any (fun l => (s.heldLine c l).isSome || s.asked c l)
  match (now :: r.readPlaces b o.jig).find? begun with
  | some x => { x with aux := r.aux }
  | none => now

/-- Read, of one row whose slots the order has entered, the lines that its writer needs: of an update (`whole`) the row,
else what its write covers in part. The other slots of a line that returned poison are entered as well, and the line is
read again under them (R325); where another order holds one, nothing is read and the answer is `stop`. A row read for update
counts as sent (R168, R276). It is read from memory. DESIGN CHOICE (log 53): whether it looks in a Chest the spec does not say. -/
def State.readRow (s : State) (o : Order) (tile : Tile) (b : Binding) (bindNo : Nat) (m : Option ShardMap) (r : RowAt) (whole : Bool) : State × Need :=
  let r := s.rowNow o tile b r
  let c : Consumer := .upd o.id r.slot
  let ls := pieceLines (tile.rowPieces b r)
  let want := if whole then ls else (partLines (tile.rowPieces b r) (tile.pieces r.trailer 8)).filter (fun l => ls.contains l)
  let first := whole && ls.all (fun l => (s.heldLine c l).isNone && !s.asked c l)
  let s0 := if first then s.rowSent o tile.bench bindNo b r else s
  match s0.needLines c o.p { bench := some tile.bench, epoch := tile.epoch, face := r.face, age := tile.born, space := tile.rowSpace b r } want with
  | (s1, .ok) =>
    let bad := want.filter (fun l => ((s1.heldLine c l).map Held.poisoned).getD false)
    let near := if whole then [] else (bad.flatMap (fun l => nearRows b m r.row (tile.rowLine b r l))).eraseDups
    if near.all (fun x => s1.holds o.p x.2 o.id) then (s1, .ok)
    else if near.any (fun x => s1.trackedByOther o.p x.2 o.id) then (s1, .stop)
    else ((near.foldl (fun s x => s.track o.p o.id bindNo x.1 x.2) s1).reread o.id bad, .wait)
  | (s1, _) => (s1, .wait)

/-- Every slot that a writer of a row enters: its places, and both slots of one that migrates (R271, R284). -/
def State.rowSlots (s : State) (p : Nat) (b : Binding) (r : RowAt) : List Nat :=
  ((r.places b).map RowAt.slot ++ r.slot :: s.migSlots p b r.row).eraseDups

/-- Prepare the rows a tile writes: tracker entries, and the lines to be read. Ready when every line is there. A tile that would wait
for a slot of another order gives its own slots up, so that neither waits for the other. -/
def State.prepRows (s : State) (oid : Nat) (tile : Tile) (b : Binding) (bindNo : Nat) (m : Option ShardMap) (rows : List RowAt) (whole : Bool) : State × Need :=
  match s.order? oid with
  | none => (s, .wait)
  | some o =>
    match s.enterRows o.p oid bindNo (rows.map (fun r => (r.row, s.rowSlots o.p b r))) with
    | (s2, false) => (s2, .wait)
    | (s2, true) =>
      let (s3, n) := rows.foldl (fun (st : State × Need) r =>
        if st.2 = .stop then st else
        match st.1.readRow o tile b bindNo m r whole with
        | (s, .ok) => let (s1, ok) := s.migReady o.p b r.row; (s1, if ok then st.2 else .wait)
        | (s, n) => (s, n)) (s2, .ok)
      if n = .stop then
        (((s3.part o.p).tracks.filter (fun x => x.order == oid)).foldl (fun s x => s.untrackDone o.p oid x.bind x.row) (s3.quitUpd oid (fun _ => true)), .wait)
      else (s3, n)

/-- The trailer of a row as a writer reads it: its value, poison, and the lines that read back poisoned. -/
def State.readTrailer (s : State) (oid : Nat) (tile : Tile) (b : Binding) (r : RowAt) : Nat × Bool × List Nat :=
  let c : Consumer := .upd oid r.slot
  let (tr, bad) := (s.pieceBytes c (tile.pieces r.trailer 8)).getD (0, false)
  let ls := partLines (tile.rowPieces b r) (tile.pieces r.trailer 8)
  (tr, bad, ls.filter (fun l => ((s.heldLine c l).map Held.poisoned).getD false))

/-- Write the payloads of positions to their rows in position order: each write adds 1 to the version (R115, R159,
R257); a poisoned trailer counts as version 0 (R325). `ups` are row and payload. -/
def State.putRows (s : State) (oid : Nat) (tile : Tile) (b : Binding) (bindNo : Nat) (m : Option ShardMap)
    (ups : List (RowAt × Nat)) (comb : Bool) : State :=
  match s.order? oid with
  | none => s
  | some o =>
    (ups.foldl (fun (st : State × List (Nat × Nat)) u =>
      let (s, vers) := st
      let r := s.rowNow o tile b u.1
      let (tr, bad, badLines) := s.readTrailer oid tile b r
      let tr := if bad then 0 else tr
      let ver := match vers.find? (fun v => v.1 == r.row) with | some v => v.2 + 1 | none => trVersion tr + 1
      let (places, mig) := s.rowTargets o.p b r tr
      let t := trailerOf (rowWitness u.2 b.rowBytes b.tableId) ver false false mig
      ((s.putRow oid o.p bindNo b m tile r.row places u.2 t comb badLines).countBind o.p bindNo 7 1,
        (vers.filter (fun v => v.1 != r.row)) ++ [(r.row, ver)])) (s, [])).1

/-! ### COPY_ROWS (R115, R164) -/

/-- A fault keeps a tile from being delivered (R150). -/
def Order.stoppedAt (o : Order) (t : Nat) : Bool := o.faults.any (fun f => f.info.tile ≤ t)

/-- A tile after tile `t` has written a row. -/
def Order.later (o : Order) (t row : Nat) : Bool := o.tiles.any (fun x => t < x.t && (x.worked || x.consumed) && x.elems.contains row)

/-- Source rows of a tile go to the rows that its indices name, up to the first that is poisoned, which ends the order (R324).
An index outside the table writes nothing and counts as a default row (R164). A row that a later tile, delivered before a fault held this
one, has written keeps the payload of that position (R115, R150). -/
def State.copyIn (s : State) (oid t : Nat) (o : Order) (b : Binding) (tile : Tile) (first len : Nat) : State :=
  let live := (tile.elems.zipIdx).filter (fun x => x.1 < b.rowCount)
  let c : Consumer := .tile oid t
  let rows := live.filterMap (fun x => (tile.slots.find? (fun r => r.row == x.1)).map (fun r =>
    (r, match (if o.later t r.row then s.rowData (.upd oid (s.rowNow o tile b r).slot) tile b (s.rowNow o tile b r) else none) with
      | some (v, _, false) => some (v, false)
      | _ => s.pieceBytes c (tile.pieces (o.source false (first + x.2)) b.rowBytes))))
  let good := rows.takeWhile (fun x => match x.2 with | some (_, p) => !p | none => false)
  let s1 := s.putRows oid tile b o.bindNo (s.mapFor o.p b o.smap) (good.map (fun x => (x.1, ((x.2.map Prod.fst).getD 0)))) false
  let s2 := (s1.countDefaults oid (len - live.length)).upOrder oid (fun o => { o with count := o.count + len })
  let slots := tile.slots.map RowAt.slot
  let s3 := ((s2.setTile oid { tile with worked := true }).dropHeld c).quitUpd oid (fun x => slots.contains x || tile.slots.any (fun r => (r.readPlaces b o.jig).any (fun y => y.slot == x)))
  if good.length < rows.length then s3.endOrder oid 0x10 t else s3

/-- The writes of earlier tiles come first where a row is named by both: positions are applied in order, across the benches of the jig
(R115). A tile that a fault keeps from being delivered is not waited for (R150). -/
def State.copyTurn (s : State) (o : Order) (tile : Tile) : Bool :=
  s.benchTurn o tile.t && (!o.hasDrive || (List.range tile.t).all (fun u => o.isConsumed u ||
    (match o.tile? u with
     | some x => x.worked || (if x.delivered then !x.elems.any tile.elems.contains else o.stoppedAt u)
     | none => o.stoppedAt u)))

/-- One row of a tile goes to its place in the destination: a default row as zeros, a poisoned one with poison (R115). -/
def State.copyOutRow (s : State) (oid t : Nat) (b : Binding) (tile : Tile) (first : Nat) (rows : List (RowAt × Nat × Nat × Bool)) (x : Nat × Nat) : State :=
  match s.order? oid with
  | none => s
  | some o =>
    if o.status.isSome then s else
    let dst := tile.pieces (o.source false (first + x.2)) b.rowBytes
    let put (s : State) (v : Nat) (poison : Bool) : State :=
      (pieceWrites dst v).foldl (fun s y => s.issueLine [.order oid] o.p (s.viaAt (some tile.bench) tile.epoch y.1 (tile.under (o.f 24 8))) y.1 y.2.1 y.2.2 poison) s
    match (b.map x.1).row? with
    | none => put s 0 false
    | some r =>
      match rows.find? (fun y => y.1.row == r) with
      | none => s
      | some y =>
        if y.2.2.2 || trPoisoned y.2.2.1 then
          let s1 := (s.countBind o.p o.bindNo 11 1).upInts (fun i => { i with poisonRead := satAdd i.poisonRead 1 0xFFFF })
          (put s1 y.2.1 true).endOrder oid 0x10 t
        else if !markGood b y.2.1 y.2.2.1 then (s.witnessBad (some o) o.p o.bindNo y.1.slot).endOrder oid 0x11 t
        else put (if trDefault y.2.2.1 then s.countDefaults oid 1 else s) y.2.1 false

/-- The rows of a tile go to the destination, in the order of their positions. -/
def State.copyOut (s : State) (oid t : Nat) (b : Binding) (tile : Tile) (first len : Nat) (rows : List (RowAt × Nat × Nat × Bool)) : State :=
  let s1 := (tile.elems.zipIdx).foldl (fun s x => s.copyOutRow oid t b tile first rows x) s
  let n := (tile.elems.filter (fun i => (b.map i).isDefault)).length
  ((s1.countDefaults oid n).upOrder oid (fun o => { o with count := o.count + len })).tileWorked oid t

def State.copyRows (s : State) (oid t : Nat) : State :=
  match s.order? oid with
  | none => s
  | some o =>
    if o.name != some .copy || o.status.isSome || o.phase != .running then s else
    match o.binding, o.tile? t, o.tileSpan t with
    | some b, some tile, some (first, len, _) =>
      if !tile.delivered || tile.worked || !s.copyTurn o tile || !s.mayReadRows o then s else
      if o.f 52 1 = 0 then
        match s.prepRows oid tile b o.bindNo (s.mapFor o.p b o.smap) tile.slots (tile.slots.any (fun r => o.later t r.row)) with
        | (s0, .ok) => s0.copyIn oid t o b tile first len
        | (s1, _) => s1
      else
        match (if s.outRoom tile.bench then s.tileRows o tile b else none) with
        | none => s.issueRows oid t
        | some rows => if tile.slots.all (fun r => tile.got.contains r.slot) then s.copyOut oid t b tile first len rows else s.issueRows oid t
    | _, _, _ => s

/-! ### PREFETCH (R164, R316) -/

/-- What a row of a PREFETCH comes to: it waits, or it is done, and whether it counts: one skipped for a fault does not (R316). -/
inductive Warm where
  | wait
  | done (counts : Bool)
  deriving DecidableEq, Repr

/-- Warm one row: its pages into the range cache, its lines into the Chest. A row whose slot is being written waits (R188); one that
lies outside the stack entry its shard map names is skipped as a fault is (R269). -/
def State.prefetchRow (s : State) (o : Order) (b : Binding) (tile : Tile) (r : RowAt) : State × Warm :=
  let what := o.f 40 1
  let bench := tile.bench
  let parts := spans r.slot b.rowBytes ++ spans r.trailer 8
  let (s1, xs) := (parts.map Prod.fst).foldl (fun (st : State × List Xl) ea => let (s, x) := st.1.xlate o.p ea false (.skip (some o.id)); (s, st.2 ++ [x])) (s, [])
  let ok (x : Xl) : Bool := match x with | .ok pa _ => s1.inStack r.stack pa | _ => false
  if xs.any (· == .wait) then (s1, .wait)
  else if !xs.all ok then (s1, .done false)
  else
    let pas := (parts.zip xs).filterMap (fun x => match x.2 with | .ok pa _ => some (pa, x.1.2) | _ => none)
    let mask := s1.bindWays o.p bench b
    let lines := (pieceLines pas).filter (fun l => !((s1.bench bench).chest.any (fun c => c.line == l)))
    if !(what.testBit 0 && s1.serves o.p bench && mask ≠ 0 && !lines.isEmpty) then (s1, .done true)
    else if s1.tracked o.p r.slot then (s1, .wait)
    else
      let c : Consumer := .prefetch o.id bench r.slot
      let a : Ask := { epoch := tile.epoch, face := r.face }
      let t1 : Tile := { tile with addrs := (parts.zip xs).filterMap (fun x => match x.2 with | .ok pa _ => some (pageKey x.1.1 false, pa / 4096) | _ => none) }
      let how (l : Nat) : Nat × Option Space := (a.faceOf s1 l, t1.rowSpace b r l)
      let s2 := (lines.map how).eraseDups.foldl (fun s f =>
        s.queueReads c o.p (some bench) f.1 (lines.filter (fun l => how l == f)) f.2 tile.born (o.id, tile.t)) (s1.rowSent o bench o.bindNo b r)
      (s2.tellSlows c lines, .done true)

/-- PREFETCH of one delivered tile within the row distance: every row it names, each once; faulting row pages are skipped (R147,
R316). -/
def State.prefetchTile (s : State) (oid t : Nat) : State :=
  match s.order? oid with
  | none => s
  | some o =>
    if o.name != some .prefetch || o.status.isSome || o.phase != .running then s else
    match o.binding, o.tile? t with
    | some b, some tile =>
      if !tile.delivered || tile.worked || s.openBefore o t > o.rowsAhead || !s.mayReadRows o then s else
      let rows := (tile.elems.filter (· < b.rowCount)).eraseDups
      let s1 := (rows.filter (fun r => !tile.got.contains r)).foldl (fun s r =>
        match s.prefetchRow o b tile (s.placeRow b (s.mapFor o.p b o.smap) o.jig r) with
        | (s1, .wait) => s1
        | (s1, .done c) => s1.upOrder oid (fun o => match o.tile? t with
          | some y => { o.setTile { y with got := y.got ++ [r] } with count := o.count + b2n c }
          | none => o)) s
      let s2 := s1
      match (s2.order? oid).bind (fun o => o.tile? t) with
      | some y =>
        if rows.all y.got.contains then
          ((s2.countDefaults oid (tile.elems.length - (tile.elems.filter (· < b.rowCount)).length)).tileWorked oid t).clearSkips o.p (some oid)
        else s2
      | none => s2
    | _, _ => s

/-! ### ADVISE (R317) -/

/-- Walk a span in address order until half the share has been filled by the order's own walks, or its end is reached: whether it is
done, and the page it has reached. A range that a walk of the order made counts, and is marked hot within a quarter of the share. -/
def State.adviseStep (s : State) (oid p : Nat) (hot : Bool) (tag page stop half : Nat) : Nat → State × Bool × Nat
  | 0 => (s, false, page)
  | n + 1 =>
    match s.order? oid with
    | none => (s, true, page)
    | some o =>
      if page ≥ stop || o.made ≥ half then (s, true, page) else
      match s.xlate p (tag <<< 56 + page * 4096) false (.skip (some oid)) with
      | (s1, .wait) => (s1.upOrder oid (fun o => { o with walking := some page }), false, page)
      | (s1, .ok _ _) =>
        match s1.ranges.find? (fun x => x.2.part == p && x.2.covers tag page) with
        | some x =>
          let mine := o.walking == some page
          let hots := (s1.ranges.filter (fun y => y.2.part == p && y.2.hot)).length
          let mark := hot && mine && !x.2.hot && 4 * (hots + 1) ≤ s1.rangeShareOf p
          let s2 := if mark then { s1 with ranges := s1.ranges.map (fun (y : Nat × Range) => if y = x then (y.1, { y.2 with hot := true }) else y) } else s1
          State.adviseStep (s2.upOrder oid (fun o => { o with walking := none, made := o.made + b2n mine })) oid p hot tag (max (page + 1) (x.2.page + x.2.len)) stop half n
        | none => State.adviseStep s1 oid p hot tag (page + 1) stop half n
      | (s1, _) => State.adviseStep s1 oid p hot tag (page + 1) stop half n

/-- ADVISE: acts on the pages of its span; complete once its walks have ended. `watermark` holds the page it has
reached. -/
def State.advise (s : State) (oid : Nat) : State :=
  match s.order? oid with
  | none => s
  | some o =>
    if o.name != some .advise || o.status.isSome || o.phase != .running || o.acted then s else
    let base := eaVa (o.f 24 8) / 4096
    let stop := base + o.f 32 8 / 4096
    let tag := eaTag (o.f 24 8)
    let within (r : Range) : Bool := r.part == o.p && r.tag == tag && base ≤ r.page && r.page + r.len ≤ stop
    let touches (r : Range) : Bool := r.part == o.p && r.tag == tag && r.page < stop && base < r.page + r.len
    -- lines of ranges of the span become the next victims of their sets
    let victims (s : State) : State :=
      let rs := (s.ranges.filter (fun x => touches x.2)).map Prod.snd
      let inSpan (l : Nat) : Bool := rs.any (fun r => r.phys * 32 ≤ l && l < (r.phys + r.len) * 32)
      (s.partBenches o.p).foldl (fun s b => s.upBench b (fun x =>
        { x with
          cold := x.cold ++ ((x.chest.filter (fun c => inSpan c.line && !x.cold.contains c.line)).map CLine.line)
          saucer := (x.saucer.filter (fun c => inSpan c.line)) ++ (x.saucer.filter (fun c => !inSpan c.line)) })) s
    match o.f 40 1 with
    | 1 =>
      let s1 := victims s
      { s1 with ranges := s1.ranges.filter (fun x => !within x.2) }.upOrder oid (fun o => { o with acted := true })
    | 3 =>
      let s1 := victims s
      { s1 with ranges := s1.ranges.map (fun (x : Nat × Range) => if within x.2 then (x.1, { x.2 with hot := false }) else x) }.upOrder oid
        (fun o => { o with acted := true })
    | k =>
      let half := s.rangeShareOf o.p / 2
      let from_ := max base o.watermark
      let (s1, done, page) := s.adviseStep oid o.p (k == 2) tag from_ stop half 8192
      let s2 := s1.upOrder oid (fun o => { o with acted := done, watermark := page })
      if done then s2.clearSkips o.p (some oid) else s2

/-! ### TILE_CONSUMED (R146, R150, R165, R329) -/

/-- The consumer has accepted every entry: of PREFETCH every read is issued, of COPY_ROWS every row write (R146). -/
def State.tileIssued (s : State) (o : Order) (tile : Tile) : Bool :=
  match o.name with
  | some .prefetch => !s.reads.any (fun r => r.group == some (o.id, tile.t) && r.modl.isNone && r.nth.isNone)
  | some .copy => !s.writes.any (fun w => w.bench == some tile.bench && w.owners.any (WriteFor.ofOrder o.id) && w.modl.isNone && w.nth.isNone)
  | _ => true

/-- A bench passes a tile boundary: the orders that follow in the session and have passed stage 3 learn of it on their home bench
(R149). -/
def State.passBoundary (s : State) (o : Order) (b : Nat) : State :=
  if (s.ctx? o.p o.session).any (fun c => c.home == b) then
    { s with orders := s.orders.map (fun (x : Order) => if x.after.contains o.id ∧ x.phase = .running then { x with boundary := true } else x) }
  else s

/-- TILE_CONSUMED: the consumer has accepted every entry; the watermark advances and checks that are due complete. -/
def State.tileConsumed (s : State) (oid t : Nat) : State :=
  match s.order? oid with
  | none => s
  | some o =>
    match o.tile? t with
    | none => s
    | some tile =>
      if !tile.worked || tile.consumed || !s.tileIssued o tile then s else
      let n := tile.elems.length
      let bindNo := o.rowBindNo
      let w := s.windowOf o t
      let s1 := if o.hasDrive || o.name == some .gather then (s.countBind o.p bindNo 2 n).countSess o.p o.session 4 n else s
      let s2 := s1.upOrder oid (fun o => (o.setTile { tile with consumed := true }))
      let s3 := s2.closeWindow oid tile.bench w
      let s4 := s3.upOrder oid (fun o => o.advance 65)
      let s5 := (s4.chestBoundary o.p tile.bench).passBoundary o tile.bench
      match s5.order? oid with
      | none => s5
      | some o5 =>
        let due := (o5.ptiles.filter (fun x => !x.checked && o5.tileWhole x.t)).map PTile.t
        let s6 := due.foldl (fun s x => s.checkTile oid x) s5
        -- tiles now within the row distance read their rows (R147)
        (((o5.tiles.filter (fun x => x.delivered && !x.issued && !x.worked)).foldl (fun s x => s.issueRows oid x.t) s6).stopNow oid).settle oid

end Sys2Proof.Machine
end

