-- ==== Sys2Proof/Machine/Glue.lean ====
section
/-! DEFINITION. The Glue-up: SCATTER_MERGE, its merge, and APPEND_ROWS (R241 to R266 of 09_glue_up.md). -/

namespace Sys2Proof.Machine

/-! ### Lanes, fragments and spills (R244 to R251) -/

/-- Slots of a lane region (R244, R250). -/
def laneSlots (j : Jig) (e : Nat) : Nat := j.mergeShare / 16 / roundUp (4 * e + 8) 32
/-- Bytes of a spill record (R248). -/
def spillBytes (e : Nat) : Nat := roundUp (4 * e + 16) 128

/-- The engine address of record `k` of a lane (R249). -/
def spillAt (j : Jig) (sp : Spill) (e bench lane k : Nat) : Nat :=
  let n := popcount j.benchMask
  let rec_ := spillBytes e
  let cap := sp.length / (n * 16 * rec_)
  eaAdd sp.base (((rankOf j.benchMask bench * 16 + lane) * cap + k) * rec_)

/-- A spill record (R248). -/
def spillRecord (f : Frag) (k : Nat) : Nat :=
  let flags := b2n f.poisoned + 2 * b2n (f.acc.any isInf)
  f.row + f.bench <<< 32 + f.lane <<< 40 + flags <<< 48 + k <<< 64 + (f.count % 2 ^ 32) <<< 96 +
    (packCodes 32 (f.acc.map BitVec.toNat)) <<< 128

/-- The scatter of one tile, worked out before anything is stored: fragments, records spilled, and additions into an
existing slot. -/
structure Scat where
  frags : List Frag
  spills : List (Nat × Frag) := []
  counts : List (Nat × Nat × Nat)
  joined : Nat := 0
  defaults : Nat := 0

/-- One position (R244, R245, R247): its row, its gradient's elements and poison. -/
def Scat.add (x : Scat) (j : Jig) (e bench pos row : Nat) (grad : List F32) (bad : Bool) : Scat :=
  let lane := laneOf j pos
  let here (f : Frag) : Bool := f.bench == bench && f.lane == lane && f.spilled.isNone
  match x.frags.find? (fun f => here f && f.row == row) with
  | some _ =>
    { x with joined := x.joined + 1, frags := x.frags.map (fun f =>
        if here f && f.row == row then
          { f with acc := List.zipWith fadd f.acc grad, count := f.count + 1, lastPos := pos, poisoned := f.poisoned || bad }
        else f) }
  | none =>
    let x1 :=
      if (x.frags.filter here).length < laneSlots j e then x
      else
        let low := (x.frags.filter here).foldl (fun m f => min m f.lastPos) pos
        match x.frags.find? (fun f => here f && f.lastPos == low) with
        | none => x
        | some v =>
          let k := ((x.counts.find? (fun c => c.1 == bench && c.2.1 == lane)).map (fun c => c.2.2)).getD 0
          { x with
            frags := x.frags.map (fun f => if here f && f.lastPos == low then { f with acc := [], spilled := some k } else f)
            spills := x.spills ++ [(k, v)]
            counts := (x.counts.filter (fun c => !(c.1 == bench && c.2.1 == lane))) ++ [(bench, lane, k + 1)] }
    let zero := List.replicate e f32zero
    { x1 with frags := x1.frags ++ [{ bench := bench, lane := lane, row := row, count := 1,
                                      acc := List.zipWith fadd zero grad, lastPos := pos, poisoned := bad }] }

/-- The lanes after a tile's gradient rows (R244 to R247): each position's row joins the fragment of its row in its lane or
takes a slot of it; an index outside the table has no row (R113). -/
def State.scatter (s : State) (o : Order) (b : Binding) (j : Jig) (tile : Tile) (first len : Nat) : Scat :=
  let e := b.elems
  let fmt := o.f 44 1
  (List.range len).foldl (fun (x : Scat) i =>
    let idx := tile.elems.getD i 0
    if idx ≥ b.rowCount then { x with defaults := x.defaults + 1 }
    else
      let (g, bad) := (s.pieceBytes (.tile o.id tile.t) (tile.pieces (o.source false (first + i)) (o.gradBytes b))).getD (0, true)
      x.add j e tile.bench (first + i) idx ((List.range e).map (fun k => elemF32 fmt (elemCode fmt g k))) bad)
    { frags := o.frags, counts := o.spills }

/-- What a tile's scatter leaves: spill records written, counters, the lanes, and the tile worked. -/
def State.scattered (s : State) (oid : Nat) (o : Order) (b : Binding) (j : Jig) (tile : Tile) (len : Nat) (x : Scat) : State :=
  let e := b.elems
  let sp := o.spill.getD ⟨0, 0⟩
  let s1 := x.spills.foldl (fun s y => s.writeStraight (some y.2.bench) o.p tile.epoch (.order oid) (tile.pieces (spillAt j sp e y.2.bench y.2.lane y.1) (spillBytes e))
    (spillRecord y.2 y.1) (tile.under sp.base)) s
  let s2 := (s1.countBind o.p o.bindNo 8 x.spills.length).countDefaults oid x.defaults
  let s3 := (s2.countBind o.p o.bindNo 5 x.joined).countSess o.p o.session 7 x.joined
  (s3.upOrder oid (fun o => { o.setTile { tile with worked := true } with frags := x.frags, spills := x.counts, count := o.count + len })).dropHeld
    (.tile oid tile.t)

/-- SCATTER_MERGE of one delivered tile: every gradient row goes into its lane (R244 to R247). -/
def State.scatterTile (s : State) (oid t : Nat) : State :=
  match s.order? oid with
  | none => s
  | some o =>
    if o.name != some .scatter || o.status.isSome || o.phase != .running then s else
    match o.binding, o.jig, o.tile? t, o.tileSpan t with
    | some b, some j, some tile, some (first, len, _) =>
      if !tile.delivered || tile.worked || o.faultAt t || !s.benchTurn o t then s else
      let x := s.scatter o b j tile first len
      let at_ (y : Nat × Frag) : Nat := spillAt j (o.spill.getD ⟨0, 0⟩) b.elems y.2.bench y.2.lane y.1
      match s.needPages oid tile (x.spills.map (fun y => { ea := at_ y, len := spillBytes b.elems, write := true, kind := 6 })) with
      | (s2, _, .stop) => s2
      | (s2, t2, .wait) => s2.setTile oid t2
      | (s2, t2, .ok) => s2.scattered oid o b j t2 len x
    | _, _, _, _ => s

/-! ### The merge (R252 to R260, R265) -/

/-- Rows with a fragment that are not merged, ascending. -/
def Order.rowsLeft (o : Order) : List Nat := sortNat ((o.frags.map Frag.row).eraseDups.filter (fun r => !o.merged.contains r))

/-- The fragments of a row on a bench in the order of R253: lanes, spilled records in seq order, the resident slot. -/
def Order.fragsOf (o : Order) (bench row : Nat) : List Frag :=
  (List.range 16).flatMap (fun l =>
    let fs := o.frags.filter (fun f => f.bench == bench && f.row == row && f.lane == l)
    sortBy (fun a b => decide (a.spilled.getD 0 ≤ b.spilled.getD 0)) (fs.filter (fun f => f.spilled.isSome)) ++ fs.filter (fun f => f.spilled.isNone))

/-- The merged gradient (R253) from fragments whose spilled accumulators have been read back. -/
def mergeGrad (e : Nat) (benches : List (List Frag)) : List F32 :=
  let zero := List.replicate e f32zero
  benches.foldl (fun g fs =>
    if fs.isEmpty then g
    else List.zipWith fadd g (fs.foldl (fun b f => List.zipWith fadd b f.acc) zero)) zero

/-- The update of a row (R256): the new elements, and the new state entry for rule 3. -/
def applyRule (b : Binding) (x g : List F32) (a : F32) : List F32 × F32 :=
  match b.update with
  | 1 => (List.zipWith fadd x g, a)
  | 2 => (List.zipWith (fun v y => ffma (fneg b.learnRate) y v) x g, a)
  | _ =>
    let ss := g.foldl (fun s y => ffma y y s) f32zero
    let a1 := fadd a (fdiv ss (f32ofNat b.elems))
    let c := fdiv b.learnRate (fadd (fsqrt a1) b.epsilon)
    (List.zipWith (fun v y => ffma (fneg c) y v) x g, a1)

/-- Read a spilled fragment back (R248, R249); poison, or poisoned set, marks it (R265). -/
def State.readFrag (s : State) (c : Consumer) (tile : Tile) (j : Jig) (sp : Spill) (e : Nat) (f : Frag) : Frag :=
  match f.spilled with
  | none => f
  | some k =>
    let (v, bad) := (s.pieceBytes c (tile.pieces (spillAt j sp e f.bench f.lane k) (spillBytes e))).getD (0, true)
    { f with acc := (List.range e).map (fun i => BitVec.ofNat 32 (leAt v (16 + 4 * i) 4)), poisoned := bad || (leAt v 6 2).testBit 0 }

/-- A row of a merge in its tracker entry (R255, R306): its slot, taken as the entry is made (R266), and the translations of its
places and of its state entry. -/
structure Entered where
  tile : Tile
  row : RowAt

/-- Enter a row of a merge: its places and its state entry are translated, and its slots entered (R255, R306). A fault found holds the
row until it is resumed, and it is translated afresh then (R266). -/
def State.mergeEnter (s : State) (oid : Nat) (o : Order) (b : Binding) (j : Jig) (row : Nat) : State × Option Entered :=
  match (o.mergeTiles.find? (fun x => x.1 == row)).map Prod.snd with
  | some t => (s, (t.slots.head?).map (fun r => ⟨t, r⟩))
  | none =>
    let r := s.placeRow b (s.mapFor o.p b o.smap) o.jig row
    let t0 : Tile := { t := 0xFFFFFFFF, bench := rowOwner j row, epoch := s.cfg.epoch, slots := [r], born := s.nextId }
    let state : List Access := if b.update = 3 then [{ ea := b.stateAt row, len := 4, write := true, kind := 7 }] else []
    match s.needPages oid t0 (rowAccesses b r false 0xFF ++ (r.places b).flatMap (fun x => rowAccesses b x true 0xFF) ++ state) with
    | (s1, _, .stop) =>
      let new := ((s1.order? oid).bind (fun x => x.faults.getLast?)).map (fun f => f.info.addr)
      (s1.upOrder oid (fun x => { x with mergeHeld := x.mergeHeld ++ [(row, new.getD 0)] }), none)
    | (s1, _, .wait) => (s1, none)
    | (s1, t1, .ok) =>
      match s1.enterRows o.p oid o.bindNo [(row, s1.rowSlots o.p b r)] with
      | (s2, false) =>
        -- entered and waiting for reads of the slot, or not entered yet
        let t1 := { t1 with gen := (s2.part o.p).invGen }
        if s2.holds o.p r.slot oid then (s2.upOrder oid (fun o => { o with mergeTiles := o.mergeTiles ++ [(row, t1)] }), none) else (s2, none)
      | (s2, true) =>
        let t1 := { t1 with gen := (s2.part o.p).invGen }
        (s2.upOrder oid (fun o => { o with mergeTiles := o.mergeTiles ++ [(row, t1)] }), some ⟨t1, r⟩)

/-- Read back the spilled fragments of a row, each by the bench that wrote it (R249, R306). -/
def State.readSpills (s : State) (oid : Nat) (o : Order) (j : Jig) (sp : Spill) (e : Nat) (x : Entered) (fs : List Frag) : State × Tile × Need :=
  let at_ (f : Frag) : Nat := spillAt j sp e f.bench f.lane (f.spilled.getD 0)
  match s.needPages oid x.tile (fs.map (fun f => { ea := at_ f, len := spillBytes e, kind := 6 })) with
  | (s1, t1, .ok) =>
    fs.foldl (fun (st : State × Tile × Need) f =>
      let (s, n) := st.1.needLines (.upd oid x.row.slot) o.p { bench := some f.bench, epoch := t1.epoch, age := t1.born, space := fun _ => t1.under sp.base }
        (pieceLines (t1.pieces (at_ f) (spillBytes e)))
      (s, t1, if n = .ok then st.2.2 else n)) (s1, t1, .ok)
  | (s1, t1, .stop) =>
    let new := ((s1.order? oid).bind (fun y => y.faults.getLast?)).map (fun f => f.info.addr)
    (s1.upOrder oid (fun y => { y with mergeHeld := y.mergeHeld ++ [(x.row.row, new.getD 0)] }), t1, .stop)
  | r => r

/-- Apply one row whose reads are all held (R253 to R259, R265). -/
def State.mergeApply (s : State) (oid : Nat) (o : Order) (b : Binding) (j : Jig) (x : Entered) (lists : List (List Frag)) : State :=
  let row := x.row.row
  let owner := x.tile.bench
  let c : Consumer := .upd oid x.row.slot
  let m := s.mapFor o.p b o.smap
  let badFrag := lists.flatten.any Frag.poisoned
  let (payload, tr, badRow) := (s.rowData c x.tile b x.row).getD (0, 0, true)
  let (st, badSt) := if b.update = 3 then (s.pieceBytes c (x.tile.pieces (b.stateAt row) 4)).getD (0, true) else (0, false)
  let quit (s : State) : State := s.untrackDone o.p oid o.bindNo row
  if badRow || trPoisoned tr then
    let s4 := (s.countBind o.p o.bindNo 11 1).upInts (fun i => { i with poisonRead := satAdd i.poisonRead (b2n (!badRow)) 0xFFFF })
    (quit s4).endOrder oid 0x10 row
  else if !markGood b payload tr then (quit (s.witnessBad (some o) o.p o.bindNo x.row.slot)).endOrder oid 0x11 row
  else if badSt then (quit s).endOrder oid 0x10 row
  else
    -- a bench partial damaged on the die interconnect fails its mark at the owner (R254, R319, R320)
    match (lists.flatten.find? (fun f => f.bench != owner && o.struck.contains (f.bench, row))) with
    | some f => (quit (s.witnessDie o f.bench)).endOrder oid 0x11 row
    | none =>
      let (places, mig) := s.rowTargets o.p b x.row tr
      if badFrag then
        -- the payload stays; only the poisoned flag changes (R265)
        let t := trailerOf (trWitness tr) (trVersion tr) true (trDefault tr) (trMigrating tr)
        ((s.putRow oid o.p o.bindNo b m x.tile row places payload t true []).rowPoisoned o.p o.bindNo row x.row.slot).endOrder oid 0x10 row
      else
        let (y, a) := applyRule b ((b.codes payload).map (elemF32 b.fmt)) (mergeGrad b.elems lists) (BitVec.ofNat 32 st)
        let es := y.map (fun v => outF b.fmt v (finiteNonzero v))
        let p2 := packCodes (elemBits b.fmt) (es.map OutElem.code)
        let t := trailerOf (rowWitness p2 b.rowBytes b.tableId) (trVersion tr + 1) false false mig
        let s4 := s.putRow oid o.p o.bindNo b m x.tile row places p2 t true []
        let s5 := if b.update = 3 then
            s4.writePieces owner o.p x.tile.epoch (.rowOf oid o.bindNo row x.row.slot) (x.tile.pieces (b.stateAt row) 4) a.toNat (x.tile.under b.stateBase)
          else s4
        let num := rankOf j.benchMask owner * 65536 + ((o.merged.filter (fun r => rowOwner j r == owner)).length) / 256
        let s6 := (s5.countBind o.p o.bindNo 7 1).upOrder oid (fun o =>
          { o.addTile num b.fmt es with merged := o.merged ++ [row], mergeTiles := o.mergeTiles.filter (fun y => y.1 != row) })
        (s6.quitUpd oid (· == x.row.slot)).checkBehind oid num (fun _ t => t / 65536 == num / 65536)

/-- Merge one row at its owner: enter it, read the row, its state entry and its spilled fragments, and apply it. Nothing is changed but
requests while something is to come; answers whether the row was applied or the order ended. The copy that it reads is chosen as the
read is issued (R273), and a row that migrates has the translations of both its slots (R284). -/
def State.mergeRow (s : State) (oid : Nat) (row : Nat) : State × Bool :=
  match s.order? oid with
  | none => (s, false)
  | some o =>
    match o.binding, o.jig with
    | some b, some j =>
      let sp := o.spill.getD ⟨0, 0⟩
      let lists := (setBits j.benchMask).map (fun x => o.fragsOf x row)
      match s.mergeEnter oid o b j row with
      | (s0, none) => (s0, false)
      | (s0, some x0) =>
        let x : Entered := { x0 with row := s0.rowNow o x0.tile b x0.row }
        let keep (s : State) (t : Tile) : State :=
          s.upOrder oid (fun o => { o with mergeTiles := o.mergeTiles.map (fun (y : Nat × Tile) => if y.1 = row then (row, t) else y) })
        let open_ := s0.slotWriting oid x.row.slot || s0.rowReadsOn o.p x.row.slot
        if open_ then (s0, false) else
        match s0.readRow o x.tile b o.bindNo (s0.mapFor o.p b o.smap) x.row true with
        | (s1, n1) =>
          match s1.readSpills oid o j sp b.elems x (lists.flatten.filter (fun f => f.spilled.isSome)) with
          | (s2, t2, n2) =>
            let stLines := if b.update = 3 then pieceLines (t2.pieces (b.stateAt row) 4) else []
            match s2.needLines (.upd oid x.row.slot) o.p { bench := some t2.bench, epoch := t2.epoch, age := t2.born, space := fun _ => t2.under b.stateBase } stLines with
            | (s3, n3) =>
              if n1 ≠ .ok || n2 ≠ .ok || n3 ≠ .ok then (keep s3 t2, false)
              else
                match s3.migReady o.p b row with
                | (s4, false) => (keep s4 t2, false)
                | (s4, true) =>
                  let lists := lists.map (fun l => l.map (s4.readFrag (.upd oid x.row.slot) t2 j sp b.elems))
                  (((keep s4 t2).mergeApply oid o b j { x with tile := t2 } lists).settle oid, true)
    | _, _ => (s, false)

/-- MERGE_POINT: with every tile consumed the merge begins; each time one row is applied, each owner in ascending row
order (R252, R254). Rows are read only once the earlier orders of the session allow it (R149). -/
def State.mergePoint (s : State) (oid : Nat) : State :=
  match s.order? oid with
  | none => s
  | some o =>
    if o.name != some .scatter || o.status.isSome || o.phase != .running || s.resetting o.p then s else
    if o.watermark < o.tileCount || !s.mayReadRows o then s else
    match o.jig with
    | none => s
    | some j =>
      let s0 := s.upOrder oid (fun o => { o with merging := true })
      -- the next row of each owner that no fault holds
      let next := ((setBits j.benchMask).filterMap (fun b => o.rowsLeft.find? (fun r => rowOwner j r == b))).filter (fun r => !o.mergeHeld.any (fun x => x.1 == r))
      (next.foldl (fun (st : State × Bool) r => if st.2 then st else
        match st.1.order? oid with
        | some o => if o.status.isSome then st else st.1.mergeRow oid r
        | none => st) (s0, false)).1

/-! ### APPEND_ROWS (R114, R261, R265) -/

/-- A table of an APPEND_ROWS: its binding and number, shard map, and whether it is the keys' table. -/
structure AppendTo where
  bind : Binding
  no : Nat
  map : Option ShardMap
  aux : Bool

/-- The tables that an APPEND_ROWS writes: its binding, then the auxiliary one. -/
def State.appendTables (s : State) (o : Order) (b : Binding) : List AppendTo :=
  ⟨b, o.bindNo, s.mapFor o.p b o.smap, false⟩ ::
    (match o.aux with | some k => [⟨k, o.auxNo, s.mapFor o.p k o.auxSmap, true⟩] | none => [])

/-- Write the source rows of a tile to their tables, up to the first that is poisoned, which ends the order (R261, R265). -/
def State.appendWrite (s : State) (oid : Nat) (o : Order) (tile : Tile) (first len : Nat) (tables : List AppendTo) : State :=
  let c : Consumer := .tile oid tile.t
  let row (x : AppendTo) (i : Nat) : Option (Nat × Bool) := s.pieceBytes c (tile.pieces (o.source x.aux (first + i)) x.bind.rowBytes)
  let bad (i : Nat) : Bool := tables.any (fun x => match row x i with | some (_, p) => p | none => true)
  let k := ((List.range len).find? bad).getD len
  let s1 := tables.foldl (fun s x =>
    let rows := tile.slots.filter (fun r => r.aux == x.aux)
    s.putRows oid tile x.bind x.no x.map ((rows.zipIdx.take k).map (fun y => (y.1, ((row x y.2).map Prod.fst).getD 0))) true) s
  let read (slot : Nat) : Bool := tables.any (fun x => tile.slots.any (fun r => (r.readPlaces x.bind o.jig).any (fun y => y.slot == slot)))
  let s2 := (((s1.setTile oid { tile with worked := true }).upOrder oid (fun o => { o with count := o.count + k })).dropHeld c).quitUpd oid read
  (if k < len then s2.endOrder oid 0x10 (first + k) else s2).settle oid

def State.appendTile (s : State) (oid t : Nat) : State :=
  match s.order? oid with
  | none => s
  | some o =>
    if o.name != some .append || o.status.isSome || o.phase != .running then s else
    match o.binding, o.tile? t, o.tileSpan t with
    | some b, some tile, some (first, len, _) =>
      if !tile.delivered || tile.worked || !s.benchTurn o t || !s.mayReadRows o then s else
      let tables := s.appendTables o b
      let (s1, n1) := tables.foldl (fun (st : State × Need) x =>
        if st.2 = .stop then st else
        let (s, n) := st.1.prepRows oid tile x.bind x.no x.map (tile.slots.filter (fun r => r.aux == x.aux)) false
        (s, if n = .ok then st.2 else n)) (s, .ok)
      if n1 = .ok then s1.appendWrite oid o tile first len tables else s1
    | _, _, _ => s

end Sys2Proof.Machine
end

