-- ==== Sys2Proof/Machine/Strainer.lean ====
section
/-! DEFINITION. The Strainer: steps, scores, selection, RECALL, SCORE, ACC_LOAD and ACC_STORE (R191 to R216 of
07_strainer.md; R91 to R93, R112, R122). -/

namespace Sys2Proof.Machine

/-! ### Steps (R195) -/

/-- The candidate tiles of a bench, in tile order. -/
def State.benchTiles (s : State) (o : Order) (b : Nat) : List Nat :=
  (List.range o.tileCount).filter (fun t => s.tileBench o t 0 == b)

/-- Tiles of a sketch block. -/
def Jig.blockTiles (j : Jig) : Nat := max 1 (j.kTile / 256)

/-- Step `n` of a bench of `total` tiles: block, dimension block and index among the bench's tiles. -/
def stepAt (kb nd total n : Nat) : Option (Nat × Nat × Nat) :=
  let blk := n / (nd * kb)
  let cnt := min kb (total - blk * kb)
  let r := n - blk * (nd * kb)
  if cnt = 0 ∨ r ≥ nd * cnt then none else some (blk, r / cnt, blk * kb + r % cnt)

/-- The next step of an order on a bench: block, dimension block and tile. -/
def State.nextStep (s : State) (o : Order) (b : Nat) : Option (Nat × Nat × Nat) :=
  match o.jig with
  | none => none
  | some j =>
    let ts := s.benchTiles o b
    let n := ((o.steps.find? (fun x => x.1 == b)).map Prod.snd).getD 0
    match stepAt j.blockTiles (max 1 j.blocks) ts.length n with
    | some (blk, d, i) => some (blk, d, ts.getD i 0)
    | none => none

/-- An order has no step left on a bench. -/
def State.stepsDone (s : State) (o : Order) (b : Nat) : Bool := (s.nextStep o b).isNone

/-! ### The accumulator store and the array (R197, R198) -/

/-- Bytes of an order's tiles on a bench (R60, R196, R213). -/
def Order.accBytes (o : Order) : Nat :=
  match o.jig with
  | some j => j.accTiles * (if o.isTransposed then 1024 * min j.stored (dMax j.fmt) else j.qTile * 1024)
  | none => 0

/-- Bytes of a bench's store in use: tiles of orders that hold them there, and tiles kept or loaded (R197). -/
def State.storeUsed (s : State) (b oid : Nat) : Nat :=
  (s.orders.filter (fun o => o.id != oid && o.rooms.contains b)).foldl (fun a o => a + o.accBytes) 0 +
  (s.ctxs.filter (fun c => c.home == b)).foldl (fun a c =>
    -- what an order that holds its tiles here has kept of its own stands in them
    let covered (x : AccTile) : Bool := s.orders.any (fun o => x.own == some o.id && o.rooms.contains b)
    a + (c.tiles.filter (fun x => !covered x)).foldl (fun n x => n + x.rows * 1024) 0) 0

def storeBytes : Nat := 2 * 2 ^ 20

/-- A fault holds a step of a tile, or with none the end of phase 1: a fault on the tile itself, on the query rows, which
hold every step, or on the save area or an output (R150, R216). -/
def Order.stepHeld (o : Order) (t : Option Nat) : Bool :=
  o.faults.any (fun x =>
    let f := x.info
    f.tile == 0xFFFFFFFF || (o.queries.isEmpty && f.stream == 0xFF && f.tile == 0) || (match t with | some t => f.tile == t | none => true))

/-- An order can use the array of a bench now: it runs, its session steeps and no fault holds its next step. -/
def State.canStep (s : State) (o : Order) (b : Nat) : Bool :=
  o.phase == .running && o.status.isNone && !o.stopping && !o.phase2 && s.sessionRuns o &&
  match s.nextStep o b with
  | some (_, _, t) => !o.stepHeld (some t) && (!o.haltedAt t b || (o.tile? t).any Tile.delivered)
  | none => false

/-- The array of a bench is free for an order (R198): the order running there has left it, and no older order whose
tiles are allocated waits for it. -/
def State.arrayFree (s : State) (o : Order) (b : Nat) : Bool :=
  match (s.bench b).array with
  | some i =>
    i == o.id || (match s.order? i with
      | some a => !s.canStep a b
      | none => true) && (s.orders.takeWhile (fun x => x.id != o.id)).all (fun x => !(x.rooms.contains b && s.canStep x b))
  | none => (s.orders.takeWhile (fun x => x.id != o.id)).all (fun x => !(x.rooms.contains b && s.canStep x b))

/-! ### Queries (R203, R216) -/

/-- A bench reads the query rows: the stationary block (R203). Poison ends the order before its first step. -/
def State.readQueries (s : State) (oid b : Nat) : State × Need :=
  match s.order? oid with
  | none => (s, .wait)
  | some o =>
    match o.jig with
    | none => (s, .wait)
    | some j =>
      if o.queries.any (fun x => x.1 == b) then (s, .ok) else
      let at_ (q : Nat) : Nat := eaAdd (o.f 24 8) (q * j.queryStride)
      let n := o.queryCount
      match s.needPages oid { t := 0, bench := b } ((List.range n).map (fun q => { ea := at_ q, len := j.storedBytes, kind := 1 })) with
      | (s1, _, .stop) => (s1, .stop)
      | (s1, _, .wait) => (s1, .wait)
      | (s1, t1, .ok) =>
        let ls := ((List.range n).flatMap (fun q => pieceLines (t1.pieces (at_ q) j.storedBytes))).eraseDups
        match s1.needLines (.order oid) o.p { bench := some b, epoch := s.cfg.epoch, age := s.nextId, space := fun _ => s1.spaceAt o.p (o.f 24 8) } ls with
        | (s2, .ok) =>
          let vs := (List.range n).map (fun q => (s2.pieceBytes (.order oid) (t1.pieces (at_ q) j.storedBytes)).getD (0, true))
          match vs.findIdx? Prod.snd with
          | some q => (s2.endOrder oid 0x10 q, .stop)
          | none => ((s2.dropLines (.order oid) ls).upOrder oid (fun o => { o with queries := o.queries ++ [(b, vs.map Prod.fst)] }), .ok)
        | (s2, k) => (s2, k)

/-! ### Tile records and the save area (R91, R93) -/

def tileBytes (rows : Nat) : Nat := 128 + rows * 1024

/-- A tile record from the words of its rows, row-major. -/
def tileRecord (no bench rows session : Nat) (poisoned infinite : Bool) (words : List Nat) : Nat :=
  let data := packCodes 32 words
  let n := rows * 1024
  let crc := crc32c (data % 2 ^ (8 * n) + (session % 2 ^ 16) <<< (8 * n)) (n + 2)
  no % 2 ^ 16 + (bench % 256) <<< 16 + b2n poisoned <<< 24 + b2n infinite <<< 25 + (rows % 2 ^ 16) <<< 32 + crc <<< 64 +
    (data % 2 ^ (8 * n)) <<< 1024

/-- A tile record's mark is good. -/
def tileGood (rec_ rows session : Nat) : Bool :=
  let n := rows * 1024
  crc32c ((rec_ >>> 1024) % 2 ^ (8 * n) + (session % 2 ^ 16) <<< (8 * n)) (n + 2) == leAt rec_ 8 4

def tileWords (rec_ rows : Nat) : List Nat := (List.range (rows * 256)).map (fun i => leAt rec_ (128 + 4 * i) 4)

/-- An accumulator word is an infinity (R222 to R224). -/
def wordInf (fp : Bool) (w : Nat) : Bool := if fp then isInf (BitVec.ofNat 32 w) else w == 0x80000000

/-- Add accumulator words: INT32 under R222, FP32 under R219. -/
def addWord (fp : Bool) (a b : Nat) : Nat :=
  if fp then (fadd (BitVec.ofNat 32 a) (BitVec.ofNat 32 b)).toNat else iaccCode (iadd (iaccRead a) (iaccRead b))

/-- Bytes of an order's save area or tile records: held, or asked for. -/
def State.readArea (s : State) (oid b ea n kind : Nat) : State × Option (Nat × Bool) :=
  match s.order? oid with
  | none => (s, none)
  | some o =>
    match s.needPages oid { t := 0xFFFFFFFF, bench := b } [{ ea := ea, len := n, kind := kind }] with
    | (s1, t1, .ok) =>
      let ps := t1.pieces ea n
      match s1.needLines (.order oid) o.p { bench := some b, epoch := s.cfg.epoch, age := s.nextId, space := fun _ => s1.spaceAt o.p ea } (pieceLines ps) with
      | (s2, .ok) =>
        match s2.pieceBytes (.order oid) ps with
        | some v => (s2.dropLines (.order oid) (pieceLines ps), some v)
        | none => (s2, none)
      | (s2, _) => (s2, none)
    | (s1, _, _) => (s1, none)

/-- A steeping session begins to leave (R83): 0 PARK, 1 preemption, 2 eviction, 3 drain. -/
def State.leaveSlot (s : State) (p n why : Nat) : State :=
  let s1 := s.upCtx p n (fun c => { c with state := .leaving, leave := why, lastChange := s.clk.count, headerDue := false, hinted := false })
  match why with
  | 1 => (s1.countPart p 18 1).countSess p n 12 1
  | 2 => (s1.countPart p 17 1).countSess p n 13 1
  | _ => s1

/-- A mark of the save area fails at the resume: the event, WITNESS_FAIL on the halted order, and the session is parked again (R93, R320,
R340). -/
def State.resumeBad (s : State) (o : Order) (ea detail : Nat) : State :=
  let s1 := (s.blockBad o ea).endOrder o.id 0x11 detail
  if (s1.ctx? o.p o.session).any (fun c => c.state == .steeping) then s1.leaveSlot o.p o.session 0 else s1

/-- The header of a save area is read and checked before a resumed pass continues (R93 step 1). -/
def State.readHeader (s : State) (oid b : Nat) : State × Need :=
  match s.order? oid with
  | none => (s, .wait)
  | some o =>
    if o.saved.isEmpty || o.headerOk then (s, .ok) else
    match s.ctx? o.p o.session with
    | none => (s, .wait)
    | some c =>
      match s.readArea oid b c.saveBase 128 5 with
      | (s1, none) => (s1, .wait)
      | (s1, some (v, bad)) =>
        if bad then (s1.endOrder oid 0x10 0, .stop)
        else if crc32c v 124 ≠ leAt v 124 4 then (s1.resumeBad o c.saveBase 0, .stop)
        else (s1.upOrder oid (fun o => { o with headerOk := true }), .ok)

/-- Rows of the tiles that an order saves: q_tile, or the rows of ACC_LOAD and ACC_STORE (R92). -/
def Order.saveRows (o : Order) : Nat :=
  match o.name with
  | some .accLoad | some .accStore => o.f 36 2
  | _ => (o.jig.map Jig.qTile).getD 0

/-- A saved tile of a resumed order: its words, once they are read and their mark is good (R93). -/
def State.readSaved (s : State) (oid b : Nat) (x : Nat × Nat × Nat) : State × Option (List Nat) :=
  match s.order? oid with
  | none => (s, none)
  | some o =>
    match s.ctx? o.p o.session with
    | some c =>
      let n := tileBytes o.saveRows
      match s.readArea oid b (eaAdd c.saveBase (128 + x.1 * n)) n 5 with
      | (s1, none) => (s1, none)
      | (s1, some (v, bad)) =>
        if bad || v.testBit 24 then (s1.endOrder oid 0x10 x.2.1, none)
        else if !tileGood v o.saveRows o.session then (s1.resumeBad o (eaAdd c.saveBase (128 + x.1 * n)) x.2.1, none)
        else (s1, some (tileWords v o.saveRows))
    | none => (s, none)

/-! ### Scores (R191 to R193, R219) -/

/-- The stored elements of dimension block `d`. -/
def blockOf {α : Type} (j : Jig) (d : Nat) (xs : List α) : List α := ((xs.take j.stored).drop (d * dMax j.fmt)).take (dMax j.fmt)

/-- The FP32 sum of a block: exact within a chunk, one rounding per cell, top to bottom (R192). -/
def fpColumn (w : Nat) (ks qs : List FV) : F32 :=
  (groupsOf w ks.length (List.zip ks qs)).foldl (fun acc g =>
    match g with
    | [] => acc
    | x :: xs => encodeFV (addFV (decodeF32 acc) (xs.foldl (fun v y => addFV v (mulFV y.1 y.2)) (mulFV x.1 x.2)))) f32zero

/-- The INT32 sum of a block. -/
def intColumn (ks qs : List Int) : IAcc := iaccOf ((List.zipWith (· * ·) ks qs).foldl (· + ·) 0)

def elemFV (fmt code : Nat) : FV := decodeF32 (elemF32 fmt code)

/-- The codes of a query row. -/
def queryCodes (j : Jig) (q : Nat) : List Nat := (List.range j.stored).map (elemCode j.fmt q)

/-- The elements that the rows of a segment hold: L chunks (R193). -/
def Jig.segment (j : Jig) : Nat := ceilDiv (min j.stored (dMax j.fmt)) (chunkElems j.fmt) * chunkElems j.fmt

/-- A block shorter than a segment is padded with zeros (R193). -/
def padded (j : Jig) (xs : List Nat) : List Nat := xs ++ List.replicate (j.segment - xs.length) 0

/-- One dimension block of a score, as a word. -/
def blockScore (j : Jig) (d : Nat) (key query : List Nat) : Nat :=
  let ks := padded j (blockOf j d key)
  let qs := padded j (blockOf j d query)
  if j.fpAcc then (fpColumn (chunkElems j.fmt) (ks.map (elemFV j.fmt)) (qs.map (elemFV j.fmt))).toNat
  else iaccCode (intColumn (ks.map (elemInt j.fmt)) (qs.map (elemInt j.fmt)))

/-- Read transposed (R213): the words of one dimension block of a candidate, summed over the queries in column order. -/
def transScore (j : Jig) (d : Nat) (vec : List Nat) (queries : List (List Nat)) : List Nat :=
  let rows := List.zip vec (queries.map (blockOf j d))
  let n := (blockOf j d ((queries.headD []))).length
  if j.fpAcc then
    (rows.foldl (fun acc r => List.zipWith (fun a q => ffma (elemF32 j.fmt r.1) (elemF32 j.fmt q) a) acc r.2) (List.replicate n f32zero)).map BitVec.toNat
  else
    (rows.foldl (fun acc r => List.zipWith (fun a q => iadd a (some (elemInt j.fmt r.1 * elemInt j.fmt q))) acc r.2) (List.replicate n (some 0))).map iaccCode

/-! ### Selection (R206 to R208) -/

/-- The key of a score word in the selector's order, and its FP32 form (R208); none is never selected. -/
def selKey (fp : Bool) (w : Nat) : Option (Int × F32) :=
  if fp then
    let v : F32 := BitVec.ofNat 32 w
    if isNan v then none else some (if v.toNat % 2 ^ 31 = 0 then 0 else f32key v, v)
  else
    match iaccRead w with
    | none => some (2 ^ 40, f32pinf)
    | some x => some (x, f32ofInt x)

/-- One entry ranks before another: higher score, then lower row. -/
def selBefore (a b : Nat × Int × F32) : Bool := a.2.1 > b.2.1 || (a.2.1 == b.2.1 && a.1 < b.1)

/-- Insert an entry into a list, best first; a row stays at most once, at its better rank. -/
def selInsert (k : Nat) (l : List (Nat × Int × F32)) (x : Nat × Int × F32) : List (Nat × Int × F32) :=
  if l.any (fun y => y.1 == x.1 && !selBefore x y) then l
  else
    let m := l.filter (fun y => y.1 != x.1)
    (m.takeWhile (fun y => selBefore y x) ++ x :: m.dropWhile (fun y => selBefore y x)).take k

/-- A selection of a query as it is written (R206, R208). -/
def selBytes (k : Nat) (l : List (Nat × Int × F32)) : Nat :=
  packCodes 32 ((l.flatMap (fun x => [x.1, x.2.2.toNat])) ++ (List.replicate (k - l.length) [0xFFFFFFFF, 0xFF800000]).flatten)

/-! ### Score rows (R211) -/

/-- A score word as an output element. -/
def Order.scoreElem (o : Order) (fp : Bool) (w : Nat) : OutElem :=
  let nz := if fp then finiteNonzero (BitVec.ofNat 32 w) else w != 0 && w != 0x80000000
  if o.f 56 1 = 1 then
    (if fp then outF 5 (BitVec.ofNat 32 w) nz else outI32 (iaccRead w))
  else
    match o.scales[o.f 60 2]? with
    | none => { code := 0 }
    | some e =>
      if isIntFmt o.outFmt then requant o.outFmt e.m ((e.s : Int) + o.o).toNat none (iaccRead w)
      else
        let v := if fp then BitVec.ofNat 32 w else iaccF32 (iaccRead w)
        outF o.outFmt (fmul v (fscale e.fp o.o)) nz

/-- Count the elements of written score rows (R229, R230, R328): they belong to tile 0. -/
def State.countScores (s : State) (oid : Nat) (es : List OutElem) : State :=
  s.upOrder oid (fun o =>
    let fmt := if o.f 56 1 = 1 then (if (o.jig.map Jig.fpAcc).getD false then 5 else 6) else o.outFmt
    (o.countOut es).addTile 0 fmt es)

/-- Bytes of score codes at an address of a tile. -/
def State.putScores (s : State) (o : Order) (tile : Tile) (ea len v : Nat) : State :=
  s.writeStraight (some tile.bench) o.p tile.epoch (.order o.id) (tile.pieces ea len) v (tile.under ea)

/-! ### One step (R195, R203) -/

/-- The candidates of a tile: payload of each position, none where it is not scored. -/
def State.candidates (s : State) (o : Order) (b : Nat) (x : Binding) (tile : Tile) (rows : List (RowAt × Nat × Nat × Bool)) : List (Option Nat) :=
  tile.elems.map (fun i =>
    if i ≥ x.rowCount then none
    else match s.residentRow o b i with
      | some v => some v
      | none => (rows.find? (fun r => r.1.row == i)).map (fun r => r.2.1))

/-- A parity error is found on resident rows of a tile: the rows go, to be read from memory, and each counts (R202). -/
def State.dropBadRows (s : State) (o : Order) (b : Nat) (rows : List Nat) : State :=
  let isMine (r : Resident) : Bool := r.p == o.p && r.session == o.session && r.bind == o.auxNo
  match (s.bench b).residents.find? isMine with
  | none => s
  | some x =>
    let bad := x.bad.filter (fun r => rows.contains r && x.rows.any (fun y => y.1 == r))
    if bad.isEmpty then s else
    ((s.upInts (fun i => i.parity bad.length)).upBench b (fun y => { y with residents := y.residents.map (fun r =>
      if isMine r then { r with rows := r.rows.filter (fun z => !bad.contains z.1), bad := r.bad.filter (fun z => !bad.contains z) } else r) })).countBind o.p o.auxNo 9 bad.length

/-- Finish a score tile whose last dimension block is in: select from it, write it out or keep it. `vals` are the
words per query. -/
def State.finishTile (s : State) (oid b : Nat) (tile : Tile) (first : Nat) (fp : Bool) (scored : List (Option Nat)) (vals : List (List Nat)) : State :=
  match s.order? oid with
  | none => s
  | some o =>
    let len := scored.length
    if o.keep then
      let rows := (o.jig.map Jig.qTile).getD 0
      let row (l : List Nat) : List Nat := l ++ List.replicate (256 - l.length) 0
      let words := (vals.flatMap row) ++ List.replicate ((rows - vals.length) * 256) 0
      s.upCtx o.p o.session (fun c => { c with tiles := (c.tiles.filter (fun x => x.slot != tile.t)) ++ [{ slot := tile.t, rows := rows, fp := fp, vals := words, own := some oid }] })
    else if o.writesScores then
      let es := vals.map (fun l => (List.zip scored l).map (fun x => if x.1.isNone then ({ code := 0, bin := some 0 } : OutElem) else o.scoreElem fp x.2))
      let s1 := (es.zipIdx).foldl (fun s x =>
        let (ea, n) := o.scorePart x.2 first len
        s.putScores o tile ea n (packCodes o.scoreBits (x.1.map OutElem.code))) s
      let s2 := s1.countScores oid ((es.flatten))
      s2.upOrder oid (fun o => { o with scoreOut := o.scoreOut ++ [(tile.t, es.map (fun l => l.map OutElem.code))] })
    else
      let k := o.topK
      let old := ((o.sels.find? (fun x => x.1 == b)).map Prod.snd).getD []
      let new := (vals.zipIdx).map (fun (l, q) =>
        (List.zip (List.zip tile.elems scored) l).foldl (fun acc y =>
          if y.1.2.isNone then acc else
          match selKey fp y.2 with
          | some (key, v) => selInsert k acc (y.1.1, key, v)
          | none => acc) (old.getD q []))
      s.upOrder oid (fun o => { o with sels := (o.sels.filter (fun x => x.1 != b)) ++ [(b, new)] })

/-- A dimension block of a transposed tile: a transposed tile of the store holds one (R213), so its elements are written as its step ends,
and counted in the order in which they are written (R328; log 55: DEDUCED). With the last block go padding and trailer (R211). -/
def State.finishTransposed (s : State) (oid d : Nat) (tile : Tile) (j : Jig) (x : Binding) (first : Nat) (scored : List (Option Nat)) (vals : List (List Nat)) (last : Bool) : State :=
  match s.order? oid with
  | none => s
  | some o =>
    let before := ((o.scoreOut.find? (fun y => y.1 == tile.t)).map Prod.snd).getD []
    let es := (List.zip scored vals).map (fun y => y.2.map (fun w => if y.1.isNone then ({ code := 0, bin := some 0 } : OutElem) else o.scoreElem j.fpAcc w))
    let codes := (es.zipIdx).map (fun y => before.getD y.2 [] ++ y.1.map OutElem.code)
    let at_ := d * dMax j.fmt * o.scoreBits / 8
    let s1 := (es.zipIdx).foldl (fun s y =>
      let ea := eaAdd (o.outAt (first + y.2)) at_
      if last then
        let tr := trailerOf (rowWitness (packCodes o.scoreBits (codes.getD y.2 [])) o.scorePayload x.tableId) 0 false false false
        s.putScores o tile ea (o.scorePayload + 8 - at_) (packCodes o.scoreBits (y.1.map OutElem.code) + tr <<< (8 * (o.scorePayload - at_)))
      else s.putScores o tile ea (y.1.length * o.scoreBits / 8) (packCodes o.scoreBits (y.1.map OutElem.code))) s
    (s1.countScores oid es.flatten).upOrder oid (fun o =>
      { o with scoreOut := (o.scoreOut.filter (fun y => y.1 != tile.t)) ++ (if last then [] else [(tile.t, codes)]) })

/-- What other tiles of a tile's window still need of its rows in this dimension block: those of its sketch block that have not streamed
it, those that have read a row ahead, and once the sketch block is done those that follow it (R166, R203). -/
def State.stillShared (s : State) (o : Order) (b : Nat) (tile : Tile) (slot : Nat) : Bool :=
  let ts := s.benchTiles o b
  let kb := (o.jig.map Jig.blockTiles).getD 1
  let block (t : Nat) : Nat := ((ts.findIdx? (· == t)).getD 0) / kb
  ts.any (fun u => u != tile.t && s.windowOf o u == s.windowOf o tile.t &&
    match o.tile? u with
    | none => (block u == block tile.t || tile.left ≤ 1) && !o.isConsumed u
    | some y =>
      if block u = block tile.t then y.left ≥ tile.left && (!y.delivered || y.slots.any (fun r => r.slot == slot))
      else y.got.contains slot || (tile.left ≤ 1 && !y.consumed && (!y.delivered || y.slots.any (fun r => r.slot == slot))))

/-- The pieces that a step leaves behind: its tile has one dimension block less to stream; under several blocks the
rows that are not resident are read again, once for each block (R203). -/
def State.leaveStep (s : State) (oid b n : Nat) (tile : Tile) : State :=
  match s.order? oid with
  | none => s
  | some o =>
    let w := s.windowOf o tile.t
    let many := (o.jig.map Jig.blocks).getD 1 > 1
    let left := tile.left - 1
    let t1 : Tile := { tile with worked := true, left := left, got := if many then [] else tile.got }
    let mates := (s.benchTiles o b).filter (fun u => s.windowOf o u == w)
    let done (a : Nat) : Bool := !s.stillShared o b tile a && o.tiles.any (fun y => mates.contains y.t && y.slots.any (fun r => r.slot == a) &&
      (y.t == tile.t || y.got.isEmpty))
    let s1 := if many then
        (s.upOrder oid (fun o => { o with dup := o.dup.filter (fun d => !(d.1 == b && d.2.1 == w && done d.2.2.1)) })).dropRows oid b w done
      else s
    let s2 := s1.upOrder oid (fun o =>
      let o1 := if left = 0 && tile.t < o.watermark then { o with tiles := o.tiles.filter (fun y => y.t != tile.t) } else o.setTile t1
      { o1 with steps := (o1.steps.filter (fun y => y.1 != b)) ++ [(b, n + 1)] })
    match s2.order? oid with
    | some o2 => s2.upBench b (fun y => { y with array := if s2.stepsDone o2 b then none else some oid })
    | none => s2

/-- A resident set is used (R200). -/
def State.useSet (s : State) (o : Order) (b : Nat) : State :=
  s.fresh.upBench b (fun x => { x with residents := x.residents.map (fun r =>
    if r.p == o.p && r.session == o.session && r.bind == o.auxNo then { r with used := s.nextId } else r) })

/-- The block in a bench's array is the stationary block of a transposed SCORE (R213). -/
def Order.reuses (o : Order) (j : Jig) (l : Loaded) : Bool :=
  o.isTransposed && l.p == o.p && l.session == o.session && l.addr == o.f 24 8 && l.count == o.queryCount && l.fmt == j.fmt && l.qTile == j.qTile &&
    l.dims == j.dims

/-- The query rows that stand in a bench's array: a block that it reuses, or the order's own (R203, R213). -/
def State.stationary (s : State) (o : Order) (j : Jig) (b : Nat) : List Nat :=
  match (s.bench b).loaded with
  | some l => if o.reuses j l then l.rows else ((o.queries.find? (fun y => y.1 == b)).map Prod.snd).getD []
  | none => ((o.queries.find? (fun y => y.1 == b)).map Prod.snd).getD []

/-- An order turns to the array of a bench: it loads its stationary block, unless it reuses what is there (R198, R213). -/
def State.loadArray (s : State) (o : Order) (j : Jig) (b : Nat) : State :=
  let mine : Loaded := { p := o.p, session := o.session, addr := o.f 24 8, count := o.queryCount, fmt := j.fmt, qTile := j.qTile, dims := j.dims,
                         rows := ((o.queries.find? (fun y => y.1 == b)).map Prod.snd).getD [] }
  s.upBench b (fun y => { y with
    array := some o.id
    loaded := if y.loaded.any (o.reuses j) then y.loaded else if o.op == 0x03 && !o.isTransposed then some mine else none })

/-- Run the step of a delivered tile whose rows are all present. `saved` are the words of its saved tile. -/
def State.runStep (s : State) (oid b n d : Nat) (tile : Tile) (first : Nat) (j : Jig) (x : Binding)
    (rows : List (RowAt × Nat × Nat × Bool)) (saved : Option (List Nat)) : State :=
  match s.order? oid with
  | none => s
  | some o =>
    match rows.find? (fun r => r.2.2.2 || trPoisoned r.2.2.1 || !markGood x r.2.1 r.2.2.1) with
    | some r =>
      if r.2.2.2 || trPoisoned r.2.2.1 then
        (((s.countBind o.p o.auxNo 11 1).upInts (fun i => { i with poisonRead := satAdd i.poisonRead 1 0xFFFF })).endOrder oid 0x10 0)
      else (s.witnessBad (some o) o.p o.auxNo r.1.slot).endOrder oid 0x11 0
    | none =>
      let scored := s.candidates o b x tile rows
      let s0 := if j.resident then s.useSet o b else s
      let flagged := (tile.elems.filter (fun i => rows.any (fun r => r.1.row == i && trDefault r.2.2.1))).length
      let s1 := if d = 0 then s0.countDefaults oid ((scored.filter Option.isNone).length + flagged) else s0
      let qs := (s.stationary o j b).map (queryCodes j)
      let fp := j.fpAcc
      let keys := scored.map (fun y => y.map x.codes)
      if j.transposed then
        let vals := keys.map (fun y => match y with
          | some v => transScore j d v qs
          | none => List.replicate (blockOf j d (qs.headD [])).length 0)
        (s1.finishTransposed oid d tile j x first scored vals (tile.left = 1)).leaveStep oid b n tile
      else
        let block := qs.map (fun q => keys.map (fun y => match y with | some k => blockScore j d k q | none => 0))
        let old := o.scoreTiles.find? (fun y => y.bench == b && y.t == tile.t)
        -- an uncorrectable error in the accumulator store (R216)
        if d ≠ 0 && old.any ScoreTile.poisoned then s1.endOrder oid 0x10 tile.t
        else if o.badSels.any (fun y => y.1 == b) then s1.endOrder oid 0x10 (0xFF00 + ((o.badSels.find? (fun y => y.1 == b)).map Prod.snd).getD 0) else
        let sum := match (if d = 0 then none else old) with
          | some y => List.zipWith (List.zipWith (addWord fp)) y.vals block
          | none => block
        if tile.left ≤ 1 then
          let sum := match saved with
            | some ws => (sum.zipIdx).map (fun (l, q) => List.zipWith (addWord fp) l ((ws.drop (q * 256)).take 256))
            | none => sum
          let s2 := s1.upOrder oid (fun o => { o with scoreTiles := o.scoreTiles.filter (fun y => !(y.bench == b && y.t == tile.t)),
                                                      saved := o.saved.filter (fun y => !(y.2.1 == tile.t && y.2.2 == b)) })
          (s2.finishTile oid b tile first fp scored sum).leaveStep oid b n tile
        else
          let s2 := s1.upOrder oid (fun o =>
            { o with scoreTiles := (o.scoreTiles.filter (fun y => !(y.bench == b && y.t == tile.t))) ++ [{ bench := b, t := tile.t, fp := fp, vals := sum }] })
          s2.leaveStep oid b n tile

/-! ### The end of phase 1 -/

/-- A saved tile that is whole: a selection tile, or a tile that a SCORE with keep had finished. -/
def Order.savedWhole (o : Order) (t : Nat) : Bool := t ≥ 0xFF00 || (o.keep && !o.tiles.any (fun x => x.t == t && x.left != 0))

/-- The order's tiles have their place in a bench's accumulator store, or find it free now (R197). -/
def State.roomOn (s : State) (o : Order) (b : Nat) : Bool := o.rooms.contains b || s.storeUsed b o.id + o.accBytes ≤ storeBytes

/-- Merge saved selection tiles into their benches' lists (R93, R216). A selection tile holds 128 pairs of row and
accumulator word per query. -/
def State.mergeSaved (s : State) (oid b : Nat) : State × Bool :=
  match s.order? oid with
  | none => (s, false)
  | some o =>
    match o.saved.find? (fun x => o.savedWhole x.2.1), o.jig with
    | none, _ => (s, true)
    | some x, some j =>
      if !s.roomOn o b then (s, false) else
      match s.readSaved oid b x with
      | (s1, none) => (s1, false)
      | (s1, some ws) =>
        if x.2.1 < 0xFF00 then
          -- a tile that a SCORE with keep had finished
          ((s1.upOrder oid (fun o => { o with saved := o.saved.erase x })).upCtx o.p o.session (fun c =>
            { c with tiles := (c.tiles.filter (fun y => y.slot != x.2.1)) ++ [{ slot := x.2.1, rows := j.qTile, fp := j.fpAcc, vals := ws, own := some oid }] }), false)
        else
        let pairs (q : Nat) : List (Nat × Int × F32) := (List.range 128).filterMap (fun i =>
          let row := ws.getD (q * 256 + 2 * i) 0xFFFFFFFF
          if row = 0xFFFFFFFF then none else (selKey j.fpAcc (ws.getD (q * 256 + 2 * i + 1) 0)).map (fun k => (row, k.1, k.2)))
        (s1.upOrder oid (fun o =>
          let old := ((o.sels.find? (fun y => y.1 == x.2.2)).map Prod.snd).getD []
          let new := (List.range o.queryCount).map (fun q => (pairs q).foldl (selInsert o.topK) (old.getD q []))
          { o with saved := o.saved.erase x, rooms := if o.rooms.contains b then o.rooms else o.rooms ++ [b], sels := (o.sels.filter (fun y => y.1 != x.2.2)) ++ [(x.2.2, new)] }), false)
    | some _, none => (s, true)

/-- The lead bench's merge of the lists of every bench (R207). -/
def Order.mergedSels (o : Order) : List (List (Nat × Int × F32)) :=
  (List.range o.queryCount).map (fun q => (o.sels.flatMap (fun x => x.2.getD q [])).foldl (selInsert o.topK) [])

/-- Translate outputs that no tile has translated: the numbers given. -/
def State.needOuts (s : State) (oid b t : Nat) (outs : List (Nat × Nat × Nat)) : State × Bool :=
  match s.order? oid with
  | none => (s, false)
  | some o =>
    let missing := outs.filter (fun x => !o.outPa.any (fun y => y.1 == x.1))
    if missing.isEmpty then (s, true) else
    match s.needPages oid { t := t, bench := b } (missing.map (fun x => { ea := x.2.1, len := x.2.2, write := true, kind := 4, stream := o.driveNo })) with
    | (s1, t1, .ok) => (s1.upOrder oid (fun o => { o with outPa := o.outPa ++ missing.map (fun x => (x.1, (⟨eaTag x.2.1, (s1.part o.p).invGen, 0⟩ : Space), t1.pieces x.2.1 x.2.2)) }), true)
    | (s1, _, _) => (s1, false)

/-- The lead bench writes an output under the translation that is held for it. -/
def State.writeHeld (s : State) (oid b i v : Nat) : State :=
  match s.order? oid with
  | none => s
  | some o =>
    match o.outPa.find? (fun x => x.1 == i) with
    | some x => (s.writeStraight (some b) o.p (s.epochOn o b) (.order oid) x.2.2 v (some x.2.1)).upOrder oid (fun o => o.outWritten i)
    | none => s

/-- Every bench has run its last step: write the selections or the ends of the score rows, and begin phase 2 of a
RECALL (R207 to R211). The lead bench acts. -/
def State.strainFinish (s : State) (oid b : Nat) : State :=
  match s.order? oid with
  | none => s
  | some o =>
    match o.jig, o.aux with
    | some j, some x =>
      if b ≠ j.lead || o.acted || !(setBits j.benchMask).all (fun c => s.stepsDone o c) then s else
      if !o.badSels.isEmpty then s.endOrder oid 0x10 (0xFF00 + ((o.badSels.head?).map Prod.snd).getD 0) else
      match s.mergeSaved oid b with
      | (s1, false) => s1
      | (s1, true) =>
        let t := (s1.leadLast o).getD 0
        if o.writesScores && !o.isTransposed then
          let outs := (List.range o.queryCount).map (fun q => (q, o.scoreTail q))
          match s1.needOuts oid b t outs with
          | (s2, false) => s2
          | (s2, true) =>
            match s2.order? oid with
            | none => s2
            | some o2 =>
              let row (q : Nat) : Nat := packCodes o2.scoreBits ((sortBy (fun a c => decide (a.1 ≤ c.1)) o2.scoreOut).flatMap (fun y => y.2.getD q []))
              let s3 := (List.range o2.queryCount).foldl (fun s q =>
                let n := (o2.scoreTail q).2
                let tr := trailerOf (rowWitness (row q) o2.scorePayload x.tableId) 0 false false false
                s.writeHeld oid b q (tr <<< (8 * (n - 8)))) s2
              s3.upOrder oid (fun o => { o with acted := true, count := o.queryCount })
        else if o.writesSel then
          let outs := (List.range o.queryCount).map (fun q => (o.selNo q, o.selAt q, o.topK * 8))
          match s1.needOuts oid b t outs with
          | (s2, false) => s2
          | (s2, true) =>
            match s2.order? oid with
            | none => s2
            | some o2 =>
              let m := o2.mergedSels
              let s3 := (List.range o2.queryCount).foldl (fun s q =>
                s.writeHeld oid b (o2.selNo q) (selBytes o2.topK (m.getD q []))) s2
              s3.upOrder oid (fun o =>
                if o.op = 0x02 then
                  { o with phase2 := true, sels := [(j.lead, m)], bags := bagsFrom 0 (m.map List.length), tiles := [], watermark := 0, dup := [], scoreTiles := [] }
                else { o with acted := true, count := o.queryCount })
        else if o.op = 0x02 then
          let m := o.mergedSels
          s1.upOrder oid (fun o =>
            { o with phase2 := true, sels := [(j.lead, m)], bags := bagsFrom 0 (m.map List.length), tiles := [], watermark := 0, dup := [], scoreTiles := [] })
        else s1.upOrder oid (fun o => { o with acted := true, count := o.queryCount })
    | _, _ => s

/-- The step of a tile whose rows stream through the array: its rows are read, then a dimension block is scored (R195, R198). -/
def State.strainRows (s : State) (oid b d t first : Nat) (j : Jig) (x : Binding) (slots : List RowAt) (t2 : Tile) : State :=
  match s.order? oid with
  | none => s
  | some o =>
    match s.tileRows o { t2 with slots := slots } x with
    | none => s.issueRows oid t
    | some rows =>
      if !slots.all (fun r => t2.got.contains r.slot) then s.issueRows oid t else
      let at_ := ((o.steps.find? (fun y => y.1 == b)).map Prod.snd).getD 0
      match o.saved.find? (fun y => y.2.1 == t && y.2.2 == b) with
      | some y =>
        if t2.left > 1 then s.runStep oid b at_ d t2 first j x rows none
        else match s.readSaved oid b y with
          | (s1, some ws) => s1.runStep oid b at_ d t2 first j x rows (some ws)
          | (s1, none) => s1
      | none => s.runStep oid b at_ d t2 first j x rows none

/-- The next step of an order on a bench: the pages and rows of its tile, or the end of its work there (R195, R202). -/
def State.strainTile (s : State) (oid b : Nat) (o : Order) (j : Jig) (x : Binding) : State :=
  match s.nextStep o b with
  | none => s.strainFinish oid b
  | some (_, d, t) =>
    if !s.arrayFree o b then s else
    let s1 := s.loadArray o j b
    match o.tile? t, o.tileSpan t with
    | some tile, some (first, _, _) =>
      if !tile.delivered then s1 else
      let s2 := s1.dropBadRows o b tile.elems
      -- rows that are resident need no read
      s2.strainRows oid b d t first j x (tile.slots.filter (s2.gathered o b)) tile
    | _, _ => s1

/-- The next step of an order on a bench, as far as it can go (R195 to R203). -/
def State.strain (s : State) (oid b : Nat) : State :=
  match s.order? oid with
  | none => s
  | some o =>
    match o.jig, o.aux with
    | some j, some x =>
      if !(setBits j.benchMask).contains b || o.phase != .running || o.status.isSome || o.stopping || o.phase2 || o.stepHeld ((s.nextStep o b).map (fun y => y.2.2)) || !s.sessionRuns o || !s.benchReady b ||
        !s.mayReadRows o || s.resetting o.p then s else
      let (s1, n1) := s.readHeader oid b
      if n1 ≠ .ok then s1 else
      let (s2, n2) := s1.readQueries oid b
      if n2 ≠ .ok then s2 else
      if !s2.roomOn o b then s2 else
      let s3 := s2.upOrder oid (fun o => { o with
        steps := if o.steps.any (fun y => y.1 == b) then o.steps else o.steps ++ [(b, 0)]
        rooms := if o.rooms.contains b then o.rooms else o.rooms ++ [b] })
      match s3.order? oid with
      | none => s3
      | some o3 => s3.strainTile oid b o3 j x
    | _, _ => s

/-! ### RECALL and SCORE -/

/-- Phase 2 of a RECALL on a bench: pool the oldest tile of the survivor stream that is delivered and not worked (R209).
After a resume the survivors are read back first. -/
def State.recallPool (s : State) (oid b : Nat) : State :=
  match s.order? oid with
  | none => s
  | some o =>
    match o.binding, o.jig with
    | some v, some j =>
      if !(setBits j.benchMask).contains b || o.phase != .running || o.status.isSome || !s.benchReady b then s else
      -- an uncorrectable error in the selection tiles that hold the survivors (R216)
      if !o.badSels.isEmpty then s.endOrder oid 0x10 (0xFF00 + ((o.badSels.head?).map Prod.snd).getD 0) else
      if !o.saved.isEmpty then
        if !s.sessionRuns o || o.faulty then s else
        match s.readHeader oid b with
        | (s1, .ok) => (s1.mergeSaved oid b).1
        | (s1, _) => s1
      else if o.tileCount = 0 then
        if b ≠ j.lead || o.faulty then s else
        let outs := (List.range o.queryCount).map (fun q => (q, o.outAt q, o.outBytes v + 8))
        match s.needOuts oid b 0 outs with
        | (s1, false) => s1
        | (s1, true) => (List.range o.queryCount).foldl (fun s q => match s.order? oid with
            | some o => if o.status.isSome || o.outDone.contains q then s else s.writeBag oid v q ((o.pool v none).start)
            | none => s) s1
      else
        match sortBy (fun x y => decide (x.t ≤ y.t)) (o.tiles.filter (fun t => t.bench == b && t.delivered && !t.worked)) with
        | [] => s
        | tile :: _ =>
          match o.tileSpan tile.t with
          | none => s
          | some (first, len, _) =>
            if !s.benchTurn o tile.t then s else
            match s.tileRows o tile v with
            | some rows =>
              if tile.slots.all (fun r => tile.got.contains r.slot) then (s.poolBags oid tile first len v rows).tileWorked oid tile.t
              else s.issueRows oid tile.t
            | none => s.issueRows oid tile.t
    | _, _ => s

/-- All rows of a RECALL are written. -/
def State.recallDone (s : State) (oid : Nat) : State :=
  s.upOrder oid (fun o => if o.phase2 && o.status.isNone && (List.range o.queryCount).all o.outDone.contains then { o with acted := true, count := o.queryCount } else o)

def State.recall (s : State) (oid b : Nat) : State :=
  match s.order? oid with
  | none => s
  | some o =>
    if o.name != some .recall then s
    else if o.phase2 then ((s.recallPool oid b).recallDone oid).settle oid
    else s.strain oid b

def State.score (s : State) (oid b : Nat) : State :=
  match s.order? oid with
  | none => s
  | some o => if o.name != some .score then s else s.strain oid b

/-! ### ACC_LOAD and ACC_STORE (R122) -/

def Order.accRows (o : Order) : Nat := o.f 36 2
def Order.accFp (o : Order) : Bool := o.f 38 1 == 1
def Order.accSlot (o : Order) (i : Nat) : Nat := o.f 32 2 + i
/-- The engine address of an order's `i`-th tile record. -/
def Order.accAt (o : Order) (i : Nat) : Nat := eaAdd (o.f 24 8) (i * tileBytes o.accRows)

/-- What a slot holds for an order: the tile kept or loaded in it, zeros once it was cleared, and words that the spec leaves open where
nothing was put into it, or a tile of another shape (log 51: DESIGN CHOICE). -/
def Ctx.slotOf (c : Ctx) (oid slot rows : Nat) (fp : Bool) : AccTile :=
  let words := (List.range (rows * 256)).map (fun i => Config.accWord oid slot i % 2 ^ 32)
  match c.tiles.find? (fun x => x.slot == slot) with
  | some x => if x.rows = rows ∧ x.fp = fp then x else { slot := slot, rows := rows, fp := fp, vals := words, poisoned := x.poisoned }
  | none => { slot := slot, rows := rows, fp := fp, vals := if c.cleared.contains slot then List.replicate (rows * 256) 0 else words }

def State.setSlot (s : State) (p session : Nat) (x : AccTile) : State :=
  s.upCtx p session (fun c => { c with tiles := (c.tiles.filter (fun y => y.slot != x.slot)) ++ [x] })

/-- Guards of an accumulator order: it runs, in its session's turn, on the home bench. -/
def State.accReady (s : State) (o : Order) (n : OpName) (c : Ctx) : Bool :=
  o.name == some n && o.phase == .running && o.status.isNone && !o.acted && !o.faulty && s.sessionRuns o && s.mayReadRows o && s.benchReady c.home

/-- Tiles that a halted ACC_LOAD or ACC_STORE saved come back into their slots before it goes on (R92, R93). -/
def State.accRestore (s : State) (oid : Nat) (c : Ctx) : State :=
  match s.order? oid with
  | none => s
  | some o =>
    match o.saved with
    | [] => s
    | x :: _ =>
      match s.readHeader oid c.home with
      | (s1, .ok) =>
        match s1.readSaved oid c.home x with
        | (s2, some ws) => (s2.setSlot o.p o.session { slot := x.2.1, rows := o.accRows, fp := o.accFp, vals := ws }).upOrder oid (fun o => { o with saved := o.saved.erase x })
        | (s2, none) => s2
      | (s1, _) => s1

/-- ACC_LOAD: the next tile record; `count` is the number loaded. -/
def State.accLoad (s : State) (oid : Nat) : State :=
  match s.order? oid with
  | none => s
  | some o =>
    match s.ctx? o.p o.session with
    | none => s
    | some c =>
      if !s.accReady o .accLoad c then s else
      if !o.saved.isEmpty then s.accRestore oid c else
      let i := o.count
      let slot := o.accSlot i
      let held := ((c.tiles.find? (fun x => x.slot == slot)).map AccTile.rows).getD 0
      if o.accRows > held && s.storeUsed c.home oid + (o.accRows - held) * 1024 > storeBytes then s else
      match s.readArea oid c.home (o.accAt i) (tileBytes o.accRows) 5 with
      | (s1, none) => s1
      | (s1, some (v, bad)) =>
        if bad || v.testBit 24 then s1.endOrder oid 0x10 slot
        else if !tileGood v o.accRows o.session then (s1.blockBad o (o.accAt i)).endOrder oid 0x11 slot
        else
          let words := tileWords v o.accRows
          let old := c.slotOf oid slot o.accRows o.accFp
          let new := if (o.f 39 1).testBit 0 then List.zipWith (addWord o.accFp) old.vals words else words
          let spoilt := (o.f 39 1).testBit 0 && old.poisoned
          let s2 := (s1.setSlot o.p o.session { slot := slot, rows := o.accRows, fp := o.accFp, vals := new, poisoned := spoilt }).upOrder oid
            (fun o => { o with count := i + 1, acted := i + 1 = o.f 34 2 })
          -- an addition onto a tile that an uncorrectable error struck (R216)
          if spoilt then s2.endOrder oid 0x10 slot else s2

/-- ACC_STORE: the next tile record; a poisoned tile is stored poisoned and ends the order (R216). -/
def State.accStore (s : State) (oid : Nat) : State :=
  match s.order? oid with
  | none => s
  | some o =>
    match s.ctx? o.p o.session with
    | none => s
    | some c =>
      if !s.accReady o .accStore c then s else
      if !o.saved.isEmpty then s.accRestore oid c else
      let i := o.count
      let slot := o.accSlot i
      let x := c.slotOf oid slot o.accRows o.accFp
      match s.needPages oid { t := 0xFFFFFFFF, bench := c.home } [{ ea := o.accAt i, len := tileBytes o.accRows, write := true, kind := 4 }] with
      | (s1, t1, .ok) =>
        let rec_ := tileRecord slot c.home o.accRows o.session x.poisoned (x.vals.any (wordInf x.fp)) x.vals
        let s2 := s1.writeStraight (some c.home) o.p s1.cfg.epoch (.order oid) (t1.pieces (o.accAt i) (tileBytes o.accRows)) rec_ (s1.spaceAt o.p (o.f 24 8))
        let s3 := if (o.f 39 1).testBit 0 then s2.upCtx o.p o.session (fun c => { c with tiles := c.tiles.filter (fun y => y.slot != slot), cleared := slot :: c.cleared.erase slot }) else s2
        let s4 := s3.upOrder oid (fun o => { o with count := i + 1, acted := i + 1 = o.f 34 2 })
        if x.poisoned then s4.endOrder oid 0x10 slot else s4
      | (s1, _, _) => s1

end Sys2Proof.Machine
end

