-- ==== Sys2Proof/Machine/Sessions.lean ====
section
/-! DEFINITION. Sessions: slots, wakes, evictions, parking, preemption and the save area (R79 to R93 of
03_hosts_and_sessions.md; R142 for descriptor write-backs). -/

namespace Sys2Proof.Machine

/-! ### Descriptor write-backs (R135, R142) -/

/-- The first position of a tile; past the last tile, the end of the stream. -/
def Order.posOf (o : Order) (t : Nat) : Nat :=
  match o.tileSpan t with
  | some (first, _, _) => first
  | none => o.positions

/-- The first tile from `t` up that is not delivered. -/
def Order.firstUndelivered (o : Order) : Nat → Nat → Nat
  | 0, t => t
  | n + 1, t => if o.isDelivered t && (o.tileSpan t).isSome then o.firstUndelivered n (t + 1) else t

/-- Bit `i`: the `i`-th tile after the watermark's tile has been consumed. -/
def Order.consumedMask (o : Order) : Nat :=
  (List.range 64).foldl (fun m i => if i ≠ 0 && o.tiles.any (fun x => x.t == o.watermark + i && x.consumed) then m + 2 ^ i else m) 0

/-- Bytes 44 to 63 of a descriptor as Harkom writes them back. A bag stream reports the lengths read, and a driving
stream in phase 2 of a RECALL its end. -/
def Order.descBytes (o : Order) (x : Stream) (state : Nat) : Nat :=
  let bag := o.op = 0x01 && x.field = 32
  let ended := o.phase2
  let pos := if bag then o.bags.length else if ended then x.count else o.posOf (o.firstUndelivered 65 o.watermark)
  let mark := if bag then o.bags.length else if ended then x.count else o.posOf o.watermark
  state % 256 + (pos % 2 ^ 32) <<< 32 + (mark % 2 ^ 32) <<< 64 + (if bag || ended then 0 else o.consumedMask) <<< 96

/-- The page of a stream's write-backs: held in its shadow, or translated now. A fault on it is a fault of the stream, on which the
write-back waits (R306). -/
def State.backPage (s : State) (oid field : Nat) : State × Option Nat :=
  match s.order? oid with
  | none => (s, none)
  | some o =>
    match o.stream? field with
    | none => (s, none)
    | some x =>
      if x.back.isSome then (s, x.back)
      else if o.faults.any (fun f => f.info.stream == o.streamNo field && f.info.access == 3) then (s, none) else
      let a : Access := { ea := eaAdd x.addr 44, len := 20, write := true, kind := 3, stream := o.streamNo field }
      match s.pageFor oid { t := o.watermark, bench := 0 } a a.ea with
      | (s1, _, .ok pa _) => (s1.upOrder oid (fun o => o.setStream field (fun y => { y with back := some (pa / 4096) })), some (pa / 4096))
      | (s1, _, .wait) => (s1, none)
      | (s1, _, .fault p out) => (s1.findFault oid o.watermark a a.ea p out, none)

/-- Issue a write-back of 20 bytes at a descriptor's byte 44, which lies on a physical page. -/
def State.writeBack (s : State) (p oid addr page value : Nat) : State :=
  s.postBytes (.desc oid) p ((s.order? oid).map s.issueBench) (page * 4096 + eaAdd addr 44 % 4096) 20 value (s.spaceAt p addr)

/-- Write one stream back; false while its page is not translated. -/
def State.backStream (s : State) (oid : Nat) (x : Stream) (value : Nat) : State × Bool :=
  match s.order? oid, s.backPage oid x.field with
  | some o, (s1, some pg) => (s1.writeBack o.p oid x.addr pg value, true)
  | _, (s1, _) => (s1, false)

/-- Write back the streams of a preempted order that are not written yet: its tiles not issued count as not delivered. A stream of
which no tile was delivered is written armed alone (log 47: DESIGN CHOICE; R140, R153). -/
def State.backStreams (s : State) (oid : Nat) (undone : Order) : State × Bool :=
  (undone.streams.filter (fun x => !x.written)).foldl (fun (st : State × Bool) x =>
    match st.1.backStream oid x (undone.descBytes x ((if x.live then 3 else 1) + (if x.faulted then 8 else 0))) with
    | (s1, true) => (s1.upOrder oid (fun o => o.setStream x.field (fun y => { y with written := true })), st.2)
    | (s1, false) => (s1, false)) (s, true)

/-- A write of a descriptor of the order is not acknowledged. -/
def State.backPending (s : State) (oid : Nat) : Bool := s.writes.any (fun w => w.own == .desc oid)

/-! ### Slots (R83 to R87) -/

def State.sessionOrders (s : State) (p n : Nat) : List Order := s.orders.filter (fun o => o.p == p && o.session == n)

/-- Slots of a partition that sessions warming, steeping or leaving hold. -/
def State.slotsTaken (s : State) (p : Nat) : Nat := (s.ctxs.filter (fun c => c.p == p && c.state != .parked)).length

/-- The session that an eviction takes: steeping, without a live order, its last order completed longest ago (R85); a
hinted session that has had no order only once it is idle (R87). One that has completed no order comes first, and of equals the
context listed first (log 47: DESIGN CHOICE). -/
def State.idleVictim (s : State) (p : Nat) : Option Ctx :=
  let cs := s.ctxs.filter (fun c => c.p == p && c.state == .steeping && !c.hinted && (s.sessionOrders p c.session).isEmpty)
  match cs with
  | [] => none
  | c :: rest => some (rest.foldl (fun m x => if x.lastDone < m.lastDone then x else m) c)

/-- The benches on which sessions of a partition take slots: a suspect one only when every bench of the partition is (log 31). -/
def State.homes (s : State) (p : Nat) : List Nat :=
  let all := s.partBenches p
  let good := all.filter (fun b => !s.suspect b)
  if good.isEmpty then all else good

/-- Slots of a bench that sessions hold; it has 8 (R14). -/
def State.slotsOn (s : State) (b : Nat) : Nat := (s.ctxs.filter (fun c => c.home == b && c.state != .parked)).length

/-- Slots that a partition may take: steeping_max, and 8 on each of its benches (R14, R86). -/
def State.slotsMax (s : State) (p : Nat) : Nat := min (quotaOf s.cfg.live p).2 (8 * (s.homes p).length)

def State.freeSlot (s : State) (p : Nat) : Bool := s.slotsTaken p < s.slotsMax p && (s.homes p).any (fun b => s.slotsOn b < 8)

/-- The home bench of a wake (R84): of those with a slot left, fewest sessions warming or steeping, the lower number on a tie. -/
def State.chooseHome (s : State) (p : Nat) : Nat :=
  let load (b : Nat) : Nat := (s.ctxs.filter (fun c => c.home == b && (c.state == .warming || c.state == .steeping))).length
  match (s.homes p).filter (fun b => s.slotsOn b < 8) with
  | [] => 0
  | b :: rest => rest.foldl (fun m x => if load x < load m then x else m) b

/-- A halted order begins its stage 3 again as its session warms: its shadows are rebuilt (R81, R89, R303), and its counts begin
again (R235). -/
def Order.resume (o : Order) : Order :=
  if o.phase != .halted then o else
  { o with phase := .stage3, offset := none, hist := List.replicate 64 0, nonzero := 0, queries := [], headerOk := false,
           ptiles := o.ptiles.map (fun (x : PTile) => { x with sats := 0, unders := 0 })
           streams := o.streams.map (fun (x : Stream) => { x with written := false }) }

/-- A parked session, or one just created, takes a slot and warms (R83, R84). One with a live order is not idle for want of one (R87). -/
def State.startWarm (s : State) (p n : Nat) (order : Option Nat) (hinted : Bool) : State :=
  let home := s.chooseHome p
  let s1 := s.upCtx p n (fun c => { c with state := .warming, home := home, lastChange := s.clk.count, wakeOrder := order, contextIn := false, hinted := hinted && (s.sessionOrders p n).isEmpty })
  let s2 := match (s.ctx? p n).bind Ctx.preemptOrder with
    | some i => s1.upOrder i Order.resume
    | none => s1
  ((s2.countPart p 16 1).countSess p n 10 1).powerUp home

/-- A control order has acted. -/
def State.act (s : State) (oid : Nat) : State := s.upOrder oid (fun o => { o with acted := true, phase := .running })

/-- A WAKE that has its slot creates its session, where it creates, and wakes it (R80, R83). The context takes the lowest Cupboard
slot that is free and not withdrawn (log 47: DESIGN CHOICE). -/
def State.wakeNow (s : State) (o : Order) : State :=
  let used := s.ctxs.map Ctx.index
  let withdrawn := s.repairs.filterMap (fun e => match e with | .withdrawn k => some k | _ => none)
  let create := (o.f 24 1).testBit 0 && (s.ctx? o.p o.session).isNone
  let full := (s.ctxs.filter (fun c => c.p == o.p)).length ≥ (quotaOf s.cfg.live o.p).1
  match (if !create then some 0 else if full then none else freeTag (used ++ withdrawn) 16384 0) with
  | none => s.endOrder o.id 0x21 6
  | some ix =>
    let s1 := if create then
        { s with ctxs := s.ctxs ++ [{ p := o.p, session := o.session, index := ix, tag := o.f 25 1, saveBase := o.f 32 8, saveLen := o.f 28 4,
                                      keyBind := o.f 40 2, valBind := o.f 42 2, fetched := 1, lastChange := s.clk.count }] }
      else s
    (s1.startWarm o.p o.session none false).act o.id

/-- Sessions of a partition that hold a slot and are not giving it up. -/
def State.slotsKept (s : State) (p : Nat) : Nat := (s.ctxs.filter (fun c => c.p == p && (c.state == .warming || c.state == .steeping))).length

/-- The order behind a wake that waits is still there to be served. -/
def State.waitStands (s : State) (p : Nat) (w : WaitWake) : Bool :=
  (match w.wake with
   | some i => (s.order? i).any (fun o => o.status.isNone && !o.acted)
   | none => true) &&
  match s.ctx? p w.session with
  | none => w.wake.isSome
  | some c => c.state == .parked && !c.poisoned

/-- Serve the wakes that wait, in the order in which they began; while they are more than the slots that come free, evict idle
sessions (R85, R86). The wait of a session that has been poisoned ends (log 39: DESIGN CHOICE). -/
def State.serveWaits (s : State) (p : Nat) : Nat → State
  | 0 => s
  | k + 1 =>
    match (s.part p).waits with
    | [] => s
    | w :: rest =>
      let s0 := s.upPart p (fun x => { x with waits := rest })
      if !s.waitStands p w then State.serveWaits s0 p k
      else if s.freeSlot p then
        State.serveWaits (match w.wake.bind s.order? with
          | some o => s0.wakeNow o
          | none => s0.startWarm p w.session w.order w.hint) p k
      else if s.slotsMax p < s.slotsKept p + (s.part p).waits.length then
        match s.idleVictim p with
        | some v => State.serveWaits (s.leaveSlot p v.session 2) p k
        | none => s
      else s

def State.serve (s : State) (p : Nat) : State := s.serveWaits p (2 * (s.part p).waits.length + 8)

/-- A parked session asks for a slot (R85). -/
def State.askSlot (s : State) (p : Nat) (w : WaitWake) : State :=
  if (s.part p).waits.any (fun x => x.session == w.session) then s
  else (s.upPart p (fun x => { x with waits := x.waits ++ [w] })).serve p

/-- A slot can be had without waiting for an order: one is free, or an idle session gives its own up, which no other wake waits for
(R85 to R87). -/
def State.canWake (s : State) (p : Nat) : Bool :=
  s.freeSlot p || ((s.idleVictim p).isSome && s.slotsKept p + (s.part p).waits.length ≤ s.slotsMax p)

/-- A doorbell's hint (R87): it takes a slot as a WAKE can, or is ignored and counted. One that names a session that is poisoned is
counted too (log 39: DESIGN CHOICE). -/
def State.hint (s : State) (p n : Nat) : State :=
  if n = 0xFFFF then s else
  let bad := s.upPart p (fun x => { x with badHints := satAdd x.badHints 1 255 })
  match s.ctx? p n with
  | none => bad
  | some c =>
    if c.state != .parked || c.poisoned then bad
    else if s.canWake p then s.askSlot p ⟨n, none, true, none⟩
    else bad

/-! ### Steeping (R83, R93) -/

/-- The order that woke a session has done its stage 3. -/
def State.stage3Done (s : State) (c : Ctx) : Bool :=
  match c.wakeOrder with
  | none => true
  | some i => match s.order? i with
    | none => true
    | some o => o.phase != .stage2 && o.phase != .waiting && o.phase != .stage3

/-- A warming session whose context is on its bench steeps, once the order that woke it has done its stage 3 (R83). -/
def State.maybeSteep (s : State) (p n : Nat) : State :=
  match s.ctx? p n with
  | none => s
  | some c =>
    if c.state != .warming || !c.contextIn || !s.stage3Done c then s else
    let s1 := s.fresh.upCtx p n (fun c => { c with state := .steeping, lastChange := s.clk.count, steepSince := s.nextId })
    if s1.draining && (s1.sessionOrders p n).isEmpty then s1.leaveSlot p n 3 else s1

/-- A save write of the session is not acknowledged. -/
def State.savePending (s : State) (p n : Nat) : Bool := s.writes.any (fun w => w.own == .save p n)

/-- The order that a leaving session has still to halt: its oldest order that runs, unless it has a halted one (R81). -/
def State.runningOf (s : State) (p n : Nat) : Option Order :=
  if (s.ctx? p n).any (fun c => c.preemptOrder.isSome) then none else
  (s.sessionOrders p n).find? (fun o => o.phase == .running && o.moves && o.status.isNone)

/-- The move of a context between the Cupboard and its bench can be made now. -/
def State.moveReady (s : State) (c : Ctx) : Bool :=
  !s.resetting c.p && match c.state with
  | .warming => !c.contextIn && s.benchReady c.home
  | .leaving => !(s.sessionOrders c.p c.session).any (fun o => o.phase == .ending) && (s.runningOf c.p c.session).isNone && !s.savePending c.p c.session
  | _ => false

/-- It is a partition's turn to move a context: no partition that comes before it, after the one served last, can move one (R78). -/
def State.cupFor (s : State) (p : Nat) : Bool :=
  let after (q : Nat) : Nat := (q + 8 - s.cupTurn - 1) % 8
  !s.ctxs.any (fun c => decide (after c.p < after p) && s.moveReady c)

/-- SESSION_STEEPING: the context of a warming session reaches its home bench. -/
def State.sessionSteeping (s : State) (p n : Nat) : State :=
  match s.ctx? p n with
  | none => s
  | some c =>
    if c.state != .warming || s.resetting p || !s.benchReady c.home || !(c.contextIn || s.cupFor p) then s
    else
      let s1 := if c.contextIn then s else { s with cupTurn := p }
      (s1.upCtx p n (fun c => { c with contextIn := true })).maybeSteep p n

/-- HINT_IDLE: a hinted session without an order may be evicted (R87). -/
def State.hintIdle (s : State) (p n : Nat) : State :=
  match s.ctx? p n with
  | none => s
  | some c =>
    if c.hinted && c.state == .steeping && !s.resetting p && (s.sessionOrders p n).isEmpty then
      (s.upCtx p n (fun c => { c with hinted := false })).serve p
    else s

/-! ### Leaving: the save area (R90, R91) -/

/-- The accumulator word of a selection entry. -/
def selWord (fp : Bool) (x : Nat × Int × F32) : Nat :=
  if fp then x.2.2.toNat else if x.2.1 = 2 ^ 40 then 0x80000000 else toTwos 32 x.2.1

/-- Rows of 256 words, filled to `rows` rows. -/
def tileRowsOf (rows : Nat) (fill : Nat) (l : List (List Nat)) : List Nat :=
  (List.range rows).flatMap (fun q => let r := l.getD q []; r.take 256 ++ List.replicate (256 - r.length) fill)

/-- The words of the `i`-th selection tile of a bench's lists. -/
def selTile (j : Jig) (lists : List (List (Nat × Int × F32))) (i : Nat) : List Nat :=
  (List.range j.qTile).flatMap (fun q =>
    let r := ((lists.getD q []).drop (128 * i)).take 128
    r.flatMap (fun x => [x.1, selWord j.fpAcc x]) ++ (List.replicate (128 - r.length) [0xFFFFFFFF, 0xFF800000]).flatten)

/-- A Strainer order (R92). -/
def Order.isStrainer (o : Order) : Bool := o.op == 0x02 || o.op == 0x03 || o.op == 0x0F || o.op == 0x10

/-- What a halted Strainer order saves: tile number, bench, whether it is poisoned, and words, score tiles first (R91, R216). A SCORE
with keep also saves the tiles it has finished, an ACC_LOAD those it has loaded, and an ACC_STORE those it has still to store (R92). -/
def Order.tilesToSave (o : Order) (c : Ctx) : List (Nat × Nat × Bool × List Nat) :=
  let ofSlots (f : AccTile → Bool) : List (Nat × Nat × Bool × List Nat) := (c.tiles.filter f).map (fun x => (x.slot, c.home, x.poisoned, x.vals))
  let mine (lo hi : Nat) (x : AccTile) : Bool := o.accSlot lo ≤ x.slot && x.slot < o.accSlot hi && x.rows == o.accRows && x.fp == o.accFp
  match o.name with
  | some .accLoad => ofSlots (mine 0 o.count)
  | some .accStore => ofSlots (mine o.count (o.f 34 2))
  | _ =>
    match o.jig with
    | none => []
    | some j =>
      let score := o.scoreTiles.map (fun x => (x.t, x.bench, x.poisoned, tileRowsOf j.qTile 0 x.vals))
      let kept := if o.keep then ofSlots (fun x => x.own == some o.id) else []
      let sel := o.sels.flatMap (fun x => (List.range (ceilDiv o.topK 128)).map (fun i => (0xFF00 + i, x.1, o.badSels.contains (x.1, i), selTile j x.2 i)))
      (if o.phase2 then [] else score ++ kept) ++ (if o.writesScores || o.keep then [] else sel)

/-- The accumulators of an order are FP32. -/
def Order.saveFp (o : Order) : Bool :=
  match o.name with
  | some .accLoad | some .accStore => o.accFp
  | _ => (o.jig.map Jig.fpAcc).getD false

/-- The header of the save area (R91). -/
def State.saveHeader (s : State) (o : Order) (tiles block : Nat) : Nat :=
  let h := recordOf [(0, 4, 0x56534B48), (4, 2, 1), (6, 2, o.session), (8, 1, o.p), (9, 1, b2n o.saveFp), (10, 2, tiles), (12, 2, o.saveRows),
    (14, 2, o.f 10 2), (16, 4, tileBytes o.saveRows), (20, 4, block), (24, 1, o.q), (26, 2, o.slot), (28, 4, o.epoch), (32, 8, s.stamp)]
  h + (crc32c h 124) <<< (8 * 124)

/-- A halted order's tiles that are not issued go back to be delivered again (R216, R153). -/
def Order.unissue (o : Order) : Order :=
  let again (x : Tile) : Tile := { x with delivered := false, addrs := [], elems := [], weights := [], slots := [], got := [], issued := false }
  { o with
    tiles := if o.phase2 then [] else (o.tiles.filter (fun x => x.consumed)).map (fun x => if x.left = 0 then x else again x)
    shadow := [], dup := [], queries := [], rooms := []
    streams := o.streams.map (fun (x : Stream) => { x with ranges := [], back := none })
    xfaults := [] }

/-- The number of the first step that a bench has not issued, and its block. -/
def State.stepOn (s : State) (o : Order) (j : Jig) (b : Nat) : Nat × Nat :=
  let n := ((o.steps.find? (fun x => x.1 == b)).map Prod.snd).getD 0
  let total := (s.benchTiles o b).length
  match stepAt j.blockTiles (max 1 j.blocks) total n with
  | some (blk, _, _) => (n, blk)
  | none => (n, ceilDiv total j.blockTiles)

/-- What the context reports of a halted order: of a Strainer order the first step not issued and its block (R195), of the bench
that has issued fewest, of those with a step left (log 31: DESIGN CHOICE); of another its first undelivered tile (R153). -/
def State.haltPoint (s : State) (o : Order) : Nat × Nat :=
  if o.keyed then
    match o.jig with
    | some j =>
      let bs := setBits j.benchMask
      let left := bs.filter (fun b => !s.stepsDone o b)
      match (if left.isEmpty then bs else left).map (s.stepOn o j) with
      | [] => (0, 0)
      | x :: xs => xs.foldl (fun m y => if y.1 < m.1 then y else m) x
    | none => (0, 0)
  else (o.firstUndelivered 65 o.watermark, 0)

/-- Before a second save the tiles of the first are added back (R93). -/
def State.restoreSaved (s : State) (oid b : Nat) : State × Bool :=
  match s.order? oid with
  | none => (s, true)
  | some o =>
    match o.saved with
    | [] => (s, true)
    | x :: _ =>
      match s.readHeader oid b with
      | (s0, .ok) =>
        if o.jig.isNone then ((s0.ctx? o.p o.session).toList.foldl (fun s c => s.accRestore oid c) s0, false) else
        if o.savedWhole x.2.1 then let (s1, _) := s0.mergeSaved oid b; (s1, false) else
        match s0.readSaved oid b x, o.jig with
        | (s1, some ws), some j =>
          let rows := (List.range o.queryCount).map (fun q => (ws.drop (q * 256)).take 256)
          (s1.upOrder oid (fun o =>
            let old := o.scoreTiles.find? (fun y => y.t == x.2.1 && y.bench == x.2.2)
            let vals := match old with
              | some y => List.zipWith (fun a b => List.zipWith (addWord j.fpAcc) a (b.take a.length)) y.vals rows
              | none => rows
            { o with saved := o.saved.erase x
                     scoreTiles := (o.scoreTiles.filter (fun y => !(y.t == x.2.1 && y.bench == x.2.2))) ++
                       [{ bench := x.2.2, t := x.2.1, fp := j.fpAcc, vals := vals, poisoned := old.any ScoreTile.poisoned }] }), false)
        | (s1, _), _ => (s1, false)
      | (s0, _) => (s0, false)

/-- The order is halted: what it saved is listed, and its context says where it stopped (R81, R90). -/
def State.halt (s : State) (c : Ctx) (o : Order) (saved : List (Nat × Nat × Nat)) : State :=
  let (tile, blk) := s.haltPoint o
  let mark := if o.phase2 then
      let first := ((List.range o.queryCount).find? (fun q => !o.outDone.contains q)).getD 0
      ((o.bags.getD first (0, 0)).1) / 256
    else o.watermark
  let s1 := s.upOrder o.id (fun o =>
    { o.unissue with phase := .halted, scoreTiles := [], sels := [], badSels := [], parts := if o.phase2 then [] else o.parts, saved := saved, watermark := mark,
                     outPa := if o.phase2 || o.keyed then [] else o.outPa })
  s1.upCtx c.p c.session (fun d =>
    { d with haltedOrder := true, preemptOrder := some o.id, accSaved := !saved.isEmpty, haltRing := o.q, haltSlot := o.slot,
             haltJig := o.f 10 2, haltTile := if o.phase2 then mark else tile, haltBlock := blk, headerDue := false,
             tiles := d.tiles.filter (fun x => x.own != some o.id) })

/-- Write the tiles of a halted Strainer order to the save area, and once they are acknowledged the header; true once that is sent
(R90 to R92). -/
def State.saveTiles (s : State) (c : Ctx) (o : Order) : State × Bool :=
  let tiles := o.tilesToSave c
  let n := tileBytes o.saveRows
  let space := s.spaceAt c.p c.saveBase
  match s.needPages o.id { t := 0xFFFFFFFF, bench := c.home } [{ ea := c.saveBase, len := 128 + tiles.length * n, write := true, kind := 5 }] with
  | (s1, t1, .ok) =>
    if !c.headerDue then
      let s2 := (tiles.zipIdx).foldl (fun s x =>
        s.writeStraight (some x.1.2.1) c.p s.cfg.epoch (.save c.p c.session) (t1.pieces (eaAdd c.saveBase (128 + x.2 * n)) n)
          (tileRecord x.1.1 x.1.2.1 o.saveRows c.session x.1.2.2.1 (x.1.2.2.2.any (wordInf o.saveFp)) x.1.2.2.2) space) s1
      (s2.upCtx c.p c.session (fun c => { c with headerDue := true }), false)
    else if s1.savePending c.p c.session then (s1, false)
    else
      (s1.writeStraight (some c.home) c.p s1.cfg.epoch (.save c.p c.session) (t1.pieces c.saveBase 128)
        (s1.saveHeader o tiles.length (s1.haltPoint o).2) space, true)
  | (s1, _, _) => (s1, false)

/-- Halt the order of a leaving session: its streams are written back, its tiles saved, then the header; true once it is halted (R90
to R92). Tiles saved before that have not been added back stay as they were saved. -/
def State.haltStep (s : State) (p n : Nat) (o : Order) : State × Bool :=
  match s.ctx? p n with
  | none => (s, true)
  | some c =>
    if !o.quiet then (s, false) else
    match s.backStreams o.id o.unissue with
    | (s1, false) => (s1, false)
    | (s1, true) =>
      if !o.isStrainer || ((o.op == 0x02 || o.op == 0x03) && o.rooms.isEmpty) then (s1.halt c o o.saved, true) else
      match s1.restoreSaved o.id c.home with
      | (s2, false) => (s2, false)
      | (s2, true) =>
        let tiles := o.tilesToSave c
        if tiles.isEmpty then (s2.halt c o [], true) else
        match s2.saveTiles c o with
        | (s3, true) => (s3.halt c o ((tiles.zipIdx).map (fun x => (x.2, x.1.1, x.1.2.1))), true)
        | (s3, false) => (s3, false)

/-- Free a context (R80, R236). -/
def State.freeCtx (s : State) (p n : Nat) : State :=
  { s.dropScales p (fun u => u.session == n) with ctxs := s.ctxs.filter (fun c => !(c.p == p && c.session == n)) }.upPart p (fun x => { x with waits := x.waits.filter (fun w => w.session != n) })

/-- A session gives its slot up: kept tiles, resident sets, loaded blocks and translations go (R81, R112, R202, R213). A change from
leaving to parked counts, whatever its cause. -/
def State.dropSlot (s : State) (p n : Nat) : State :=
  let s0 := if (s.ctx? p n).any (fun c => c.state == .leaving) then s.countSess p n 11 1 else s
  let s1 := s0.upCtx p n (fun c => { c with state := .parked, home := 0xFF, tiles := [], cleared := [], contextIn := false, wakeOrder := none, hinted := false, lastChange := s.clk.count })
  let s2 := s1.dropResidents (fun _ r => r.p == p && r.session == n)
  { s2 with benches := s2.benches.map (fun (b : Bench) => if b.loaded.any (fun l => l.p == p && l.session == n) then { b with loaded := none } else b) }

/-- A released session without live orders is freed; one that steeps leaves first (R80, R88). -/
def State.releaseIf (s : State) (p n : Nat) : State :=
  match s.ctx? p n with
  | none => s
  | some c =>
    if !c.releasing || (s.sessionOrders p n).any (fun o => o.op != 0x09) then s
    else match c.state with
      | .parked => s.freeCtx p n
      | .steeping => s.leaveSlot p n 0
      | _ => s

/-- The streams of the orders of a session but one that have begun are written back; true once all are (R153). -/
def State.backOthers (s : State) (p n keep : Nat) : State × Bool :=
  (s.sessionOrders p n).foldl (fun (st : State × Bool) o =>
    if o.id ≠ keep ∧ o.phase = .running ∧ o.status.isNone ∧ o.streams.any Stream.live then
      let (s1, ok) := st.1.backStreams o.id o.unissue
      (s1, st.2 && ok)
    else st) (s, true)

/-- Orders of the session behind the halted one wait: their prologue is done again, and their shadows are dropped (R81, R89). Tiles that
they have consumed stay consumed. -/
def State.rewindOthers (s : State) (p n keep : Nat) : State :=
  { s with orders := s.orders.map (fun (o : Order) =>
      if o.p = p ∧ o.session = n ∧ o.moves ∧ o.id ≠ keep ∧ (o.phase = .running ∨ o.phase = .stage3) ∧ o.status.isNone then
        { o.unissue with phase := .stage3, offset := none, streams := o.unissue.streams.map (fun (x : Stream) => { x with written := false }) }
      else o) }

/-- The oldest order of a leaving session stops: one whose tiles are all consumed completes first, another is halted, and what those
behind it have delivered and may work is consumed (R90, R149, R153). -/
def State.haltOldest (s : State) (p n : Nat) (o : Order) : State × Bool :=
  if o.drained then (s, false)
  else if (s.sessionOrders p n).any (fun x => x.id != o.id && x.phase == .running && x.status.isNone && !x.quiet && s.afterConsumed x) then (s, false)
  else
    match s.backOthers p n o.id with
    | (s1, false) => (s1, false)
    | (s1, true) => s1.haltStep p n o

/-- SESSION_PARKED: a leaving session whose issued tiles are complete and whose accumulators are saved is parked, in its partition's
turn (R78, R83, R90). A session that R85 preempted asks for a slot again unless its order is halted at a fault (R89). -/
def State.sessionParked (s : State) (p n : Nat) : State :=
  match s.ctx? p n with
  | none => s
  | some c =>
    if c.state != .leaving || s.resetting p || (s.sessionOrders p n).any (fun o => o.phase == .ending || (o.stopping && o.status.isNone)) then s else
    let (s1, done) := match s.runningOf p n with
      | some o => s.haltOldest p n o
      | none => (s, true)
    if !done || s1.savePending p n || !s1.cupFor p then s1
    else
      let halted := (s1.ctx? p n).bind Ctx.preemptOrder
      -- one that has not got past its stage 3 again stays halted as it was
      let s2 := match halted with
        | some i => s1.upOrder i (fun o => if o.phase == Phase.stage3 then { o.unissue with phase := .halted } else o)
        | none => s1
      let s3 := ({ s2 with cupTurn := p }.rewindOthers p n (halted.getD s2.nextId)).dropSlot p n
      let s4 := match halted with
        | some i =>
          let faulted := match s3.order? i with | some o => o.faulty | none => true
          if c.leave = 1 && !faulted then s3.upPart p (fun x => { x with waits := x.waits ++ [(⟨n, some i, false, none⟩ : WaitWake)] }) else s3
        | none => s3
      (s4.releaseIf p n).serve p

/-- SLICE_EXPIRE: the session that has been steeping longest is preempted for a wake that waits; one with a live
SCATTER_MERGE or APPEND_ROWS is never taken (R85, R90). -/
def State.sliceExpire (s : State) (p : Nat) : State :=
  let x := s.part p
  if x.waits.isEmpty || x.slice = 0 || s.freeSlot p || s.resetting p then s else
  let glue (n : Nat) : Bool := (s.sessionOrders p n).any (fun o => o.op == 0x04 || o.op == 0x05)
  match s.ctxs.filter (fun c => c.p == p && c.state == .steeping && !glue c.session) with
  | [] => s
  | c :: rest =>
    let v := rest.foldl (fun m y => if y.steepSince < m.steepSince then y else m) c
    s.leaveSlot p v.session 1

/-- During a drain a steeping session without live orders is parked (R88, R338). -/
def State.drainParks (s : State) : State :=
  if !s.draining then s else
  (s.ctxs.filter (fun c => c.state == .steeping && (s.sessionOrders c.p c.session).isEmpty)).foldl (fun s c => s.leaveSlot c.p c.session 3) s

/-! ### WAKE and PARK (R80, R88, R89, R117, R118) -/

/-- Within the scope of a FENCE (R133). -/
def Order.inScope (f x : Order) : Bool :=
  x.p == f.p && (match f.f 24 1 with
    | 0 => x.q == f.q
    | 1 => x.session == f.session
    | _ => true)

/-- The FENCEs that an order waits at. -/
def State.fencesOf (s : State) (o : Order) : List Order :=
  (s.orders.takeWhile (fun x => x.id != o.id)).filter (fun x => x.op == 0x0B && x.inScope o)

/-- A control order that waits at a fence goes no further. -/
def State.fenceHeld (s : State) (o : Order) : Bool := !(s.fencesOf o).isEmpty

/-- The order is at its action: past stage 2 and not held by a FENCE. -/
def State.controlReady (s : State) (o : Order) : Bool :=
  (o.phase == .waiting || o.phase == .running) && o.status.isNone && !o.acted && (o.phase == .running || !s.fenceHeld o)

/-- WAKE creates its session or wakes it; one that is warming or steeping needs nothing (R88). Without a slot, and without an idle
session to evict, it is refused; while an eviction is under way it stays at the head of its ring (R86). -/
def State.wake (s : State) (oid : Nat) : State :=
  match s.order? oid with
  | none => s
  | some o =>
    if o.name != some .wake || !s.controlReady o then s else
    let take (s : State) : State :=
      if (s.part o.p).waits.any (fun w => w.wake == some oid) then s
      else if s.freeSlot o.p then s.wakeNow o
      else if s.canWake o.p then (s.upPart o.p (fun x => { x with waits := x.waits ++ [⟨o.session, none, false, some oid⟩] })).serve o.p
      else s.endOrder oid 0x21 7
    match s.ctx? o.p o.session with
    | none => if (o.f 24 1).testBit 0 then take s else s.endOrder oid 0x3F 4
    | some c =>
      match c.state with
      | .warming | .steeping => s.act oid
      | .leaving => s
      | .parked => take s

/-- The live data orders of a session. -/
def State.dataOrders (s : State) (p n : Nat) : List Order := (s.sessionOrders p n).filter Order.moves

/-- What PARK mode 0 waits for: every live order of its session but PARKs, the FENCEs fetched after it and what those hold (R89;
log 47: DESIGN CHOICE). -/
def State.parkWaits (s : State) (o : Order) : Bool :=
  let later (x : Order) : Bool := (s.orders.takeWhile (fun y => y.id != x.id)).any (fun y => y.id == o.id)
  (s.sessionOrders o.p o.session).any (fun x => x.op != 0x09 && !(x.op == 0x0B && later x) && !(s.fencesOf x).any later)

/-- A SCATTER_MERGE or APPEND_ROWS of the session is under way, or halted at a fault: it is not stopped (R88, R90, R266). -/
def State.glueLive (s : State) (p n : Nat) : Bool :=
  (s.dataOrders p n).any (fun x => (x.op == 0x04 || x.op == 0x05) && (x.phase == .running || x.phase == .ending || (x.phase == .stage3 && x.faulty)))

/-- PARK completes once its session is parked (R89). -/
def State.parkOrder (s : State) (oid : Nat) : State :=
  match s.order? oid with
  | none => s
  | some o =>
    if o.name != some .park || !s.controlReady o then s else
    match s.ctx? o.p o.session with
    | none => s.act oid
    | some c =>
      let mode := o.f 24 1
      let s0 := if (o.f 25 1).testBit 0 && !c.releasing then s.upCtx o.p o.session (fun c => { c with releasing := true }) else s
      let merging (x : Order) : Bool := x.op == 0x04 && x.merging
      -- mode 2: every order ends at its next tile boundary, but a merge goes on to its end (R266)
      let stop (s : State) : State := (s.dataOrders o.p o.session).foldl (fun s x =>
        if merging x || x.status.isSome then s else ((s.upOrder x.id (fun x => { x with stopping := true })).stopNow x.id).settle x.id) s
      let s1 := s0.upOrder oid (fun o => { o with phase := .running })
      match c.state with
      | .warming | .leaving => s1
      | .parked => if mode = 0 && s0.parkWaits o then s1 else ((if mode = 2 then stop s0 else s0).act oid).releaseIf o.p o.session
      | .steeping =>
        if mode = 0 then (if s0.parkWaits o then s1 else s1.leaveSlot o.p o.session 0)
        else if mode = 1 then (if s0.glueLive o.p o.session then s1 else s1.leaveSlot o.p o.session 0)
        else if (s0.dataOrders o.p o.session).any merging then stop s1
        else (stop s1).leaveSlot o.p o.session 0

/-- An uncorrectable error in a context: the session is poisoned, gives its slot up, and its live orders end (R82). -/
def State.contextEccError (s : State) (p n : Nat) : State :=
  match s.ctx? p n with
  | none => s
  | some _ =>
    let s1 := (s.sessionOrders p n).foldl (fun s o => s.endOrder o.id 0x10 0) s
    ((s1.upCtx p n (fun c => { c with poisoned := true, haltedOrder := false, preemptOrder := none, accSaved := false, releasing := false })).dropSlot p n).serve p

end Sys2Proof.Machine
end

