-- ==== Sys2Proof/Machine/Stacks.lean ====
section
/-! DEFINITION. Stack throttle, load sampling, decisions and row migration (R272 to R290 of
10_stacks_and_shards.md). -/

namespace Sys2Proof.Machine

/-! ### Throttle (R272 to R275) -/

/-- A throttle message: it sets the rate fraction of the window that holds the base; 0 counts as 1. One that names no
window, or comes before the first commit, is ignored and counted (R272). -/
def State.throttle (s : State) (addr v : Nat) : State :=
  match (if s.cfg.committed then stackIx s.stacks addr else none) with
  | none => s.upInts (fun i => { i with throttleIgnored := satAdd i.throttleIgnored 1 0xFFFF })
  | some e => s.withLevels (fun s => s.upWindow e (fun w => { w with v := max 1 v }))

/-- A limiter interval begins: the count resets, and the reads held are admitted in their order (R274). -/
def State.limiterInterval (s : State) (e : Nat) : State :=
  pump (s.upWindow e (fun w => { w with admitted := 0, peakNow := w.peak }))

/-! ### Filters (R277, R278) -/

/-- The one binding of a partition that names a shard map; none where several or none do. -/
def soleBinding (l : List Sec) (p map : Nat) : Option Nat :=
  match l.filter (fun x => x.type == 4 && x.owner == p && (match x.body with | .binding b => b.shardMap == map | _ => false)) with
  | [x] => some x.inst
  | _ => none

/-- The shards filtered, at most 32,768: partition, map and shard; maps of the lowest partition and instance first. -/
def filteredShards (l : List Sec) : List (Nat × Nat × Nat) :=
  ((List.range 8).flatMap (fun p =>
    (sortBy (fun a b => decide (a.inst ≤ b.inst)) (l.filter (fun x => x.type == 5 && x.owner == p))).flatMap (fun x =>
      match x.body with
      | .shardMap m => if (soleBinding l p x.inst).isSome then (List.range m.shards.length).map (fun k => (p, x.inst, k)) else []
      | _ => []))).take 32768

/-- One filter step: F moves to the raw count by 1 / 2^shift, an arithmetic shift. -/
def filterStep (f : Int) (raw shift : Nat) : Int := f + ((raw : Int) - f) / (2 ^ shift : Nat)

/-- Hot above the threshold, not hot below the threshold less the hysteresis, else as before. -/
def hotAfter (k : Policy) (f : Int) (was : Bool) : Bool :=
  if f > k.hot then true else if f < (k.hot * (100 - k.hyst) / 100 : Nat) then false else was

def State.shardReads (s : State) (p map shard : Nat) : Nat :=
  (((s.part p).shardCtrs.find? (fun x => x.1 == map && x.2.1 == shard)).map (fun x => x.2.2)).getD 0

/-- A shard's filter after a millisecond. -/
def Filter.next (x : Filter) (k : Policy) (count : Nat) : Filter :=
  let f := filterStep x.f ((count + 2 ^ 64 - x.last) % 2 ^ 64) k.shift
  let hot := hotAfter k f x.hot
  { x with f := f, hot := hot, hotMs := if hot && x.hot then x.hotMs + 1 else 0, last := count }

/-- Each millisecond: shards and windows are filtered, the sampler is read and halved, proposals of shards no longer hot
are dropped, and accepted decisions are due (R277, R278, R281). -/
def State.filterTick (s : State) : State :=
  let k := policyOf s.cfg.live
  let fs := (filteredShards s.cfg.live).map (fun (p, map, shard) =>
    let old := (s.filters.find? (fun x => x.p == p && x.map == map && x.shard == shard)).getD ⟨p, map, shard, 0, false, 0, 0⟩
    old.next k (s.shardReads p map shard))
  -- the other shards keep their last counts, so that a filter that begins counts from there
  let rest := (List.range 8).flatMap (fun p => ((s.part p).shardCtrs.filter (fun c => !fs.any (fun x => x.p == p && x.map == c.1 && x.shard == c.2.1))).map
    (fun c => (⟨p, c.1, c.2.1, 0, false, 0, c.2.2⟩ : Filter)))
  let hot (p map shard : Nat) : Bool := fs.any (fun x => x.p == p && x.map == map && x.shard == shard && x.hot)
  let parts := (s.parts.zipIdx).map (fun (x, p) =>
    { x with mig := { x.mig with proposals := x.mig.proposals.filter (fun y => hot p y.1 y.2), accepts := x.mig.accepts.map (fun a => (a.1, a.2.1, true)) } })
  let windows := s.windows.map (fun (w : Window) =>
    { w with load := filterStep w.load ((w.lines + 2 ^ 64 - w.lastLines) % 2 ^ 64) k.shift, lastLines := w.lines })
  { s with filters := fs ++ rest, parts := parts, windows := windows, sampleRead := s.sampler,
           sampler := s.sampler.map (fun (x : Sample) => { x with count := x.count / 2 }) }

/-- F begins again at 0 for the shards of a committed map (R278). -/
def State.resetFilters (s : State) (p map : Nat) : State :=
  { s with filters := s.filters.map (fun (x : Filter) => if x.p = p ∧ x.map = map then { x with f := 0, hot := false, hotMs := 0 } else x) }

/-! ### Decisions (R279 to R281) -/

/-- The rows of a decision: of the map's binding, in the shard, counted at least twice, without a redirect; highest count
first, the lower row on a tie (R279). -/
def State.chosenRows (s : State) (p bind shard : Nat) (m : ShardMap) (k : Policy) : List Nat :=
  let xs := s.sampleRead.filter (fun x => x.p == p && x.bind == bind && x.row / m.shardRows == shard && x.count ≥ 2 && (m.redirect? x.row).isNone)
  let sorted := sortBy (fun a b => a.count > b.count || (a.count == b.count && a.row ≤ b.row)) xs
  (sorted.map Sample.row).take (min k.rowsMax (1024 - m.redirects.length))

/-- The targets of the rows, slot and stack, and the pool entry they take slots from; none where no pool entry
qualifies (R280). -/
def State.targets (s : State) (p : Nat) (b : Binding) (m : ShardMap) (x : Shard) (rows : List Nat) : Option (List (Nat × Nat) × Option Nat) :=
  if x.replica ≠ 0 then some (rows.map (fun r => (eaAdd x.replica (r % m.shardRows * b.stride), x.rStack)), none)
  else
    let mg := (s.part p).mig
    let ok (e : PoolEnt × Nat) : Bool := mg.enable && !mg.reading && e.1.valid && e.2 != x.pStack && e.2 < s.stacks.length &&
      e.1.slotBytes ≥ b.stride && e.1.next + rows.length ≤ e.1.slots
    match (mg.pool.zipIdx).filter ok with
    | [] => none
    | e :: es =>
      let best := es.foldl (fun a y => if (s.window y.2).load < (s.window a.2).load then y else a) e
      some ((List.range rows.length).map (fun i => (eaAdd best.1.base ((best.1.next + i) * best.1.slotBytes), best.2)), some best.2)

/-! ### Copying (R283) -/

/-- A write of a row's migration is not acknowledged. -/
def State.migWriting (s : State) (row : Nat) : Bool := s.writes.any (fun w => w.owners.contains (.mig row))

/-- Reads of the migration. -/
def isMig : Consumer → Bool
  | .mig _ => true
  | _ => false

/-- The migration gives up its reads. -/
def State.quitMig (s : State) : State := s.quitWhere isMig (fun _ => true)

/-- A trailer with its migrating flag set or cleared: mark, version and the other flags stay, reserved bits are written 0 (R7, R159). -/
def withMigrating (tr : Nat) (v : Bool) : Nat := trailerOf (trWitness tr) (trVersion tr) (trPoisoned tr) (trDefault tr) v

/-- How the Kettle reads rows: through the partition's lowest bench. -/
def State.migAsk (s : State) (slot : Nat) : Ask := { bench := some (s.lowBench s.mig.p), epoch := s.cfg.epoch, age := s.mig.id, space := fun _ => s.spaceAt s.mig.p slot }

/-- Copy one row as far as it can go. -/
def State.migCopyRow (s : State) (b : Binding) (r : MigRow) : State :=
  let g := s.mig
  if r.acked then s
  else if r.copied then
    if s.migWriting r.row then s else (s.untrack g.p g.id g.bind r.row).upMigRow r.row (fun r => { r with acked := true })
  else
    let old := migPlace b r.row r.old none
    let new := migPlace b r.row r.target none
    match s.migPages b r with
    | (s1, _, .stop) => s1.dropMigRow r
    | (s1, _, .wait) => s1
    | (s1, t, .ok) =>
      let ls := pieceLines (t.rowPieces b old)
      match s1.enterRows g.p g.id g.bind [(r.row, [r.old, r.target])] with
      | (s2, false) => s2
      | (s2, true) =>
        match s2.needLines (.mig r.old) g.p (s2.migAsk r.old) ls with
        | (s3, .ok) =>
          let (payload, tr, bad) := (s3.rowData (.mig r.old) t b old).getD (0, 0, true)
          let s4 := s3.dropLines (.mig r.old) ls
          if bad || trPoisoned tr then s4.dropMigRow r
          else if !markGood b payload tr then (s4.witnessBad none g.p g.bind r.old).dropMigRow r
          else
            let tr2 := withMigrating tr true
            let put (s : State) (ps : List (Nat × Nat)) (v slot : Nat) : State :=
              s.writeStraight (some t.bench) g.p s.cfg.epoch (.mig r.row) ps v (s.spaceAt g.p slot)
            let s5 := if g.replica then put s4 (t.pieces new.trailer 8) tr2 r.target
              else put s4 (t.rowPieces b new) (payload + tr2 <<< (8 * b.rowBytes)) r.target
            (put s5 (t.pieces old.trailer 8) tr2 r.old).upMigRow r.row (fun r => { r with copied := true })
        | (s3, _) => s3

/-- MIGRATE_COPY_DONE: up to 64 rows at a time are copied; when every copy is acknowledged the switch is due (R283, R285). -/
def State.migCopy (s : State) : State :=
  if s.mig.phase ≠ 1 then s else
  match bindingOf s.cfg.live s.mig.p s.mig.bind with
  | none => s
  | some b =>
    let batch := (s.mig.rows.filter (fun r => !r.acked)).take 64
    let s1 := batch.foldl (fun s r => s.migCopyRow b r) s
    if s1.mig.rows.isEmpty then { s1 with mig := {} }
    else if s1.mig.rows.all MigRow.acked then s1.upMig (fun g => { g with phase := 2 })
    else s1

/-- MIGRATE_DECISION for a shard that has been hot for hot_hold_ms, or whose proposal was accepted (R279 to R281). -/
def State.migDecision (s : State) (p map shard : Nat) : State :=
  let k := policyOf s.cfg.live
  let accepted := (s.part p).mig.accepts.any (fun a => a == (map, shard, true))
  let due := s.filters.any (fun x => x.p == p && x.map == map && x.shard == shard && x.hot && x.hotMs ≥ k.holdMs)
  -- during a drain the Kettle starts no migration (R338)
  if (!accepted && !due) || s.resetting p || (s.draining && (accepted || k.auto.testBit p)) then s else
  let s1 := if accepted then s.upPart p (fun x => { x with mig := { x.mig with accepts := x.mig.accepts.erase (map, shard, true) } })
    else { s with filters := s.filters.map (fun (x : Filter) => if x.p = p ∧ x.map = map ∧ x.shard = shard then { x with hotMs := 0 } else x) }
  match shardMapOf s1.cfg.live p map, soleBinding s1.cfg.live p map with
  | some m, some bind =>
    match bindingOf s1.cfg.live p bind, m.shards[shard]? with
    | some b, some x =>
      let rows := s1.chosenRows p bind shard m k
      if rows.isEmpty || (s1.part p).paused.any (fun y => y.1 == bind) || s1.mig.phase ≠ 0 then s1 else
      let ts := s1.targets p b m x rows
      if (accepted || k.auto.testBit p) && ts.isSome then
        match ts with
        | none => s1
        | some (places, ent) =>
          let table := (rows.zip places).map (fun (r, y) => ({ row := r, old := eaAdd x.primary (r % m.shardRows * b.stride), target := y.1, stack := y.2 } : MigRow))
          let s2 := match ent with
            | some e => s1.upPart p (fun y => { y with mig := { y.mig with used := (y.mig.used + rows.length) % 2 ^ 32, pool := y.mig.pool.modify e (fun q => { q with next := q.next + rows.length }) } })
            | none => s1
          let g : Mig := { phase := 1, p := p, map := map, shard := shard, bind := bind, replica := ent.isNone, rows := table, id := s2.nextId }
          ({ s2.fresh with mig := g }).migCopy
      else
        (s1.upPart p (fun y => { y with mig := { y.mig with proposals := if y.mig.proposals.contains (map, shard) then y.mig.proposals else y.mig.proposals ++ [(map, shard)] } })).event
          p 0x000D (map * 65536 + shard) (if ts.isSome then rows.length else 0)
    | _, _ => s1
  | _, _ => s1

/-- PART_MIG_ACCEPT: a held proposal is taken to a decision at the next millisecond; another accept is ignored (R281). -/
def State.migAccept (s : State) (p map shard : Nat) : State :=
  s.upPart p (fun x =>
    if x.mig.proposals.contains (map, shard) then
      { x with mig := { x.mig with proposals := x.mig.proposals.erase (map, shard), accepts := x.mig.accepts ++ [(map, shard, false)] } }
    else { x with mig := { x.mig with acceptIgnored := true } })

/-! ### The pool (R282, R290) -/

/-- The pool entries of a table of 512 bytes; none where one breaks the rules (R282, R293). The tag of an entry that is not valid is not
looked at (log 48: DESIGN CHOICE). -/
def readPool (e : PartEnt) (v : Nat) : Option (List PoolEnt) :=
  let one (i : Nat) : PoolEnt × Bool :=
    let x := leAt v (32 * i) 32
    let ent : PoolEnt := { base := leAt x 0 8, slots := leAt x 8 4, slotBytes := leAt x 12 2, valid := (leAt x 14 1).testBit 0 }
    let ok := leAt x 14 1 < 2 && leAt x 15 17 = 0 &&
      ent.base % 128 = 0 && eaOk ent.base && ent.slotBytes % 32 = 0 && (!ent.valid || e.hasTag (eaTag ent.base))
    (ent, ok)
  let all := (List.range 16).map one
  if all.all Prod.snd then some (all.map Prod.fst) else none

/-- The pool is disabled with pool_error. -/
def State.poolFail (s : State) (p : Nat) : State :=
  ((s.upPart p (fun x => { x with mig := { x.mig with enable := false, reading := false, pool := [], poolError := true } })).clearSkips p none).quitReads (.pool p)

/-- Read the pool table as far as it has come. -/
def State.poolStep (s : State) (p : Nat) : State :=
  let g := (s.part p).mig
  if !g.reading then s else
  match s.xlate p g.poolBase false (.skip none) with
  | (s1, .wait) => s1
  | (s1, .fault ..) => s1.poolFail p
  | (s1, .ok pa _) =>
    match s1.needLines (.pool p) p { epoch := s1.cfg.epoch, space := fun _ => s1.spaceAt p g.poolBase } (linesOf pa 512) with
    | (s2, .ok) =>
      match s2.getBytes (.pool p) pa 512 with
      | none => s2
      | some (v, bad) =>
        match (if bad then none else readPool (s2.pe p) v) with
        | none => s2.poolFail p
        | some es => (s2.upPart p (fun x => { x with mig := { x.mig with reading := false, pool := es } })).quitReads (.pool p)
    | (s2, _) => s2

/-- A write of PART_MIG_POOL_LO: with enable set the table is read at once and allocation begins again; ignored while
a migration of the partition is in progress (R282). -/
def State.migPoolLo (s : State) (p v : Nat) : State :=
  if s.mig.phase ≠ 0 && s.mig.p = p then s else
  let base := (s.part p).mig.poolBase / 2 ^ 32 * 2 ^ 32 + fld v 31 9 * 512
  if v.testBit 0 then
    ((s.upPart p (fun x => { x with mig := { x.mig with poolBase := base, enable := true, reading := true, pool := [], used := 0 } })).quitReads (.pool p)).poolStep p
  else
    (s.upPart p (fun x => { x with mig := { x.mig with poolBase := base, enable := false, reading := false } })).quitReads (.pool p)

/-- A write of PART_MIG_POOL_HI (R290): it takes effect with the next write of PART_MIG_POOL_LO (R282). -/
def State.migPoolHi (s : State) (p v : Nat) : State :=
  s.upPart p (fun x => { x with mig := { x.mig with poolBase := hiBase x.mig.poolBase v } })

/-! ### Release and abandonment (R285, R286, R288) -/

/-- Slots of a row whose migrating flag the release clears: the target, or, where the row keeps its old slot, that slot
and a replica target. -/
def Mig.clearSlots (g : Mig) (r : MigRow) (pStack : Nat) : List (Nat × Nat) :=
  if g.abandoned then (r.old, pStack) :: (if g.replica then [(r.target, r.stack)] else []) else [(r.target, r.stack)]

/-- Clear migrating in a row's trailers, under its tracker entry; the row then leaves the table. -/
def State.migClearRow (s : State) (b : Binding) (pStack : Nat) (r : MigRow) : State :=
  let g := s.mig
  let slots := g.clearSlots r pStack
  let leave (s : State) : State := (s.untrack g.p g.id g.bind r.row).forgetMigRow r.row
  if s.migWriting r.row then s
  else if r.cleared then leave s
  else
    let places := slots.map (fun x => migPlace b r.row x.1 (some x.2))
    let acc (x : RowAt) (w : Bool) : Access := { ea := x.trailer, len := 8, write := w, kind := 7, stack := x.stack }
    match s.kettlePages g.p { t := 0, bench := s.lowBench g.p } (places.flatMap (fun x => [acc x false, acc x true])) with
    | (s1, _, .stop) => leave (s1.clearSkips g.p none)
    | (s1, _, .wait) => s1
    | (s1, t, .ok) =>
      let ls := (places.flatMap (fun x => pieceLines (t.pieces x.trailer 8))).eraseDups
      let (s2, ok) := s1.enterRows g.p g.id g.bind [(r.row, places.map RowAt.slot)]
      if !ok then s2 else
      match s2.needLines (.mig r.old) g.p (s2.migAsk r.target) ls with
      | (s3, .ok) =>
        let s4 := places.foldl (fun s x =>
          match s3.pieceBytes (.mig r.old) (t.pieces x.trailer 8) with
          | some (tr, false) => s.writeStraight (some t.bench) g.p s.cfg.epoch (.mig r.row) (t.pieces x.trailer 8) (withMigrating tr false) (s.spaceAt g.p x.slot)
          | _ => s) s3
        (s4.dropLines (.mig r.old) ls).upMigRow r.row (fun r => { r with cleared := true })
      | (s3, _) => s3

/-- MIGRATE_RELEASE: once every tile of the epochs before the switch is done, migrating is cleared, 64 rows at a time, and
MIGRATE_DONE is posted; a migration that was not switched ends without it (R286, R285, R288). -/
def State.migRelease (s : State) : State :=
  if s.mig.phase ≠ 3 then s else
  if !s.mig.abandoned && s.cfg.oldest < s.mig.epoch then s else
  match bindingOf s.cfg.live s.mig.p s.mig.bind with
  | none => { s with mig := {} }
  | some b =>
    let st := s.migStack
    let s1 := (s.mig.rows.take 64).foldl (fun s r => s.migClearRow b st r) s
    if !s1.mig.rows.isEmpty then s1
    else
      let g := s1.mig
      let s2 := { s1 with mig := {} }
      if g.abandoned then s2 else s2.event g.p 0x000E (g.map * 65536 + g.shard) g.epoch

/-- The Kettle's transaction, where it has not switched, is given up with the migration that it was to switch (R285, R288). -/
def State.dropKettleTxn (s : State) : State :=
  if s.cfg.txn.owner = 0xFE && !s.cfg.txn.switched then s.upTxn (fun _ => {}) else s

/-- A migration not yet switched is abandoned: rows not copied leave the table, and the others keep their old slots
(R285, R288). -/
def State.abandonMig (s : State) : State :=
  if s.mig.phase ≠ 1 && s.mig.phase ≠ 2 then s
  else
    let g := s.mig
    let (done, undone) := g.rows.partition MigRow.copied
    let s1 := (undone.foldl (fun s r => s.untrack g.p g.id g.bind r.row) s).quitMig.dropKettleTxn
    s1.upMig (fun g => { g with phase := 3, abandoned := true, rows := done })

/-- A partition's migration is dropped by its reset (R288). -/
def State.dropMig (s : State) (p : Nat) : State :=
  if s.mig.phase ≠ 0 && s.mig.p = p then { s.quitMig.dropKettleTxn with mig := {} } else s

end Sys2Proof.Machine
end

