-- ==== Sys2Proof/Machine/Checks.lean ====
section
/-! DEFINITION. The checks of stage 2 (R25 to R27, R76, R80, R86, R92, R105 to R124, R136, R137, R141, R293 and the rules
of single opcodes). A failing check is a pair of its number in R123 and its detail. -/

namespace Sys2Proof.Machine

/-! ### Failing checks -/

/-- One check: its number and detail where it fails. -/
def failIf (c : Bool) (check detail : Nat) : List (Nat × Nat) := if c then [(check, detail)] else []

/-- The failing check that decides: the first in R123, and of one check the lowest field or limit code. -/
def firstFail (l : List (Nat × Nat)) : Option (Nat × Nat) :=
  l.foldl (fun m x => match m with
    | none => some x
    | some y => if x.1 < y.1 || (x.1 == y.1 && x.2 < y.2) then some x else some y) none

/-- The status of a failing check (R123). -/
def failStatus (check : Nat) : Nat :=
  match check with
  | 2 => 0x22
  | 3 => 0x20
  | 5 => 0x21
  | 6 => 0x23
  | _ => 0x3F

/-- Reserved bytes from one offset up to another: the first that is not 0 (R8, R105). -/
def reservedBytes (o : Order) (lo hi : Nat) : List (Nat × Nat) :=
  match (List.range (hi - lo)).find? (fun i => o.f (lo + i) 1 ≠ 0) with
  | some i => [(1, lo + i)]
  | none => []

/-- An engine address of an order (R76, R107, R293). -/
def addrCheck (o : Order) (e : PartEnt) (off align : Nat) : List (Nat × Nat) :=
  let a := o.f off 8
  failIf (!eaOk a || eaVa a % align ≠ 0) 1 off ++ failIf (!e.hasTag (eaTag a)) 4 off

/-- An address that may be absent as 0. -/
def addrOrZero (o : Order) (e : PartEnt) (off align : Nat) : List (Nat × Nat) := if o.f off 8 = 0 then [] else addrCheck o e off align

/-- A stream descriptor's address; a required one may not be absent (R107). -/
def descAddr (o : Order) (e : PartEnt) (off : Nat) (required : Bool) : List (Nat × Nat) :=
  if o.f off 8 = 0 then failIf required 1 off else addrCheck o e off 64

/-! ### The header (R105, R106) -/

/-- The session rule of an opcode: required, optional, or none allowed. -/
inductive Want where
  | required
  | optional
  | absent
  deriving DecidableEq, Repr

def Order.wantSession (o : Order) (n : OpName) : Want :=
  match n with
  | .recall | .score | .append | .park | .wake | .accLoad | .accStore => .required
  | .pause | .resume => .absent
  | .fence => if o.f 24 1 = 1 then .required else .optional
  | .stats => if o.f 24 1 = 0 then .required else if o.f 24 1 ≤ 3 then .absent else .optional
  | _ => .optional

def Order.wantBinding (o : Order) (n : OpName) : Want :=
  match n with
  | .gather | .scatter | .prefetch | .copy | .pause | .resume => .required
  | .recall | .append => .optional
  | .stats => if o.f 24 1 = 1 || o.f 24 1 = 3 then .required else if o.f 24 1 ≤ 3 then .absent else .optional
  | _ => .absent

def Order.wantAux (n : OpName) : Want :=
  match n with
  | .recall | .score | .append => .optional
  | _ => .absent

/-- A header field that names or does not name against its rule. -/
def wantCheck (w : Want) (v off : Nat) : List (Nat × Nat) :=
  match w with
  | .required => failIf (v = 0xFFFF) 1 off
  | .absent => failIf (v ≠ 0xFFFF) 1 off
  | .optional => []

/-- The binding an order runs with: its field, or the context's (R106). -/
def Order.bindField (o : Order) (n : OpName) (c : Option Ctx) : Nat :=
  match n with
  | .recall | .append => if o.f 6 2 = 0xFFFF then (c.map Ctx.valBind).getD 0xFFFF else o.f 6 2
  | _ => o.f 6 2

def Order.auxField (o : Order) (n : OpName) (c : Option Ctx) : Nat :=
  match n with
  | .recall | .score => if o.f 8 2 = 0xFFFF then (c.map Ctx.keyBind).getD 0xFFFF else o.f 8 2
  | _ => o.f 8 2

/-- An order with the records that its header names, as a configuration holds them (R32). -/
def State.withRecords (s : State) (live : List Sec) (o : Order) (n : OpName) : Order :=
  let c := s.ctx? o.p o.session
  let bn := o.bindField n c
  let an := o.auxField n c
  let b := bindingOf live o.p bn
  let a := bindingOf live o.p an
  let j := (jigOf live o.p (o.f 10 2)).filter (fun j => (jigKind n).any (fun k => j.kind == k.1))
  let scaleNo := if n = .score then (if o.f 56 1 = 2 then some (o.f 58 2) else none)
    else match b with | some b => if b.scaleMode = 1 || b.scaleMode = 2 then some b.scaleTable else none | none => none
  let plausBind := if n = .score then a else b
  let spillNo := match j, b with
    | some j, some b => if j.spillSel ≠ 0 then some (j.spillSel - 1) else if b.spill ≠ 0xFFFF then some b.spill else none
    | _, _ => none
  { o with
    binding := b, bindNo := bn, aux := a, auxNo := an, jig := j
    smap := b.bind (fun b => s.mapFor o.p b none)
    auxSmap := a.bind (fun a => s.mapFor o.p a none)
    scales := (scaleNo.bind (scalesOf live o.p)).getD []
    plaus := plausBind.bind (fun b => plausOf live o.p b.plaus)
    spill := if n = .scatter then spillNo.bind (spillOf live o.p) else none }

/-- A WAKE with create. -/
def Order.creates (o : Order) : Bool := o.op == 0x0A && (o.f 24 1).testBit 0

/-- Header fields against R106, and what they name (checks 1 and 4). `o` carries its records. -/
def State.headerFails (s : State) (o : Order) (n : OpName) : List (Nat × Nat) :=
  let c := s.ctx? o.p o.session
  let known := o.session = 0xFFFF || c.isSome
  failIf (o.f 1 1 ≠ 1) 1 1 ++ failIf (o.f 2 2 ≥ 2) 1 2 ++ failIf (o.f 12 4 ≠ 0) 1 12 ++
  wantCheck (o.wantSession n) o.session 4 ++
  failIf (o.session ≠ 0xFFFF && (if o.creates then c.isSome else c.isNone)) 4 4 ++
  wantCheck (o.wantBinding n) (o.f 6 2) 6 ++
  (if n = .append then failIf (o.f 6 2 ≠ 0xFFFF && c.any (fun c => c.valBind != o.f 6 2)) 1 6 else []) ++
  (if n = .resume && (s.part o.p).paused.any (fun x => x.1 == o.bindNo) then []
   else failIf (known && o.wantBinding n ≠ .absent && (o.bindNo ≠ 0xFFFF || n = .recall || n = .append) && o.binding.isNone) 4 6) ++
  wantCheck (Order.wantAux n) (o.f 8 2) 8 ++
  (if n = .append then failIf (o.f 8 2 ≠ 0xFFFF && c.any (fun c => c.keyBind != o.f 8 2)) 1 8 else []) ++
  failIf (known && Order.wantAux n ≠ .absent && (o.auxNo ≠ 0xFFFF || n ≠ .append) && o.aux.isNone) 4 8 ++
  (match jigKind n with
   | none => failIf (o.f 10 2 ≠ 0xFFFF) 1 10
   | some (_, req) => if o.f 10 2 = 0xFFFF then failIf req 1 10 else failIf o.jig.isNone 4 10)

/-! ### Bodies -/

/-- Body of GATHER_POOL (R108, R177, R183, R225). -/
def gatherFails (o : Order) (e : PartEnt) : List (Nat × Nat) :=
  descAddr o e 24 true ++ descAddr o e 32 false ++ descAddr o e 40 false ++ addrCheck o e 48 128 ++
  failIf (o.f 60 4 = 0 || o.f 60 4 > 1048576) 1 60 ++
  (if o.f 32 8 = 0 then failIf (o.f 64 4 = 0) 1 64 ++ failIf (o.f 64 4 > 65536) 5 2 else failIf (o.f 64 4 ≠ 0) 1 64) ++
  failIf (o.f 68 1 > 6 && o.f 68 1 ≠ 0xFF) 1 68 ++ failIf (o.f 69 1 > 5) 1 69 ++ failIf (o.f 70 1 ≥ 2) 1 70 ++ reservedBytes o 71 128 ++
  failIf (o.f 56 4 % 32 ≠ 0) 1 56 ++
  (if o.reduction > 6 || (o.f 68 1 = 0xFF && o.binding.isNone) then [] else failIf ((o.reduction = 1 || o.reduction = 6) != (o.f 40 8 != 0)) 1 40) ++
  (match o.binding with
   | none => []
   | some b =>
     if o.reduction > 6 then [] else
     failIf (isIntFmt (o.f 69 1) && !(intPath b o.reduction && b.scaleMode == 1)) 1 69 ++
     (if o.f 69 1 > 5 then [] else failIf (o.f 56 4 < o.outBytes b + 8) 1 56))

/-- R92: the save area a Strainer order needs. -/
def saveNeed (n accTiles qTile : Nat) : Nat := roundUp (128 + n * accTiles * (128 + qTile * 1024)) 4096
def saveFails (c : Option Ctx) (need : Nat) : List (Nat × Nat) :=
  match c with
  | some c => failIf (c.saveLen < need) 5 8
  | none => []

/-- The stride of score rows of `count` candidates (R211, R213). -/
def scoreStride (o : Order) (j : Jig) (count : Nat) : List (Nat × Nat) :=
  if o.keep || o.f 56 1 = 0 || o.f 56 1 > 2 || (o.f 56 1 = 2 && (o.f 57 1 = 0 || o.f 57 1 > 4)) then []
  else
    let n := if j.transposed then j.dims else count
    failIf (o.f 48 4 % 32 ≠ 0 || o.f 48 4 < roundUp (ceilDiv (n * o.scoreBits) 8) 32 + 8) 1 48

/-- The candidates of a SCORE with keep (R212). -/
def keepCount (o : Order) (j : Jig) (count : Nat) : List (Nat × Nat) :=
  if o.keep then failIf (count > (j.accTiles - ceilDiv j.topK 128) * 256) 1 62 else []

/-- What RECALL and SCORE share (R110, R111, R200, R203, R213). -/
def strainerFails (o : Order) (e : PartEnt) (c : Option Ctx) : List (Nat × Nat) :=
  addrCheck o e 24 128 ++ descAddr o e 32 false ++ addrCheck o e 40 128 ++ failIf (o.f 52 2 = 0) 1 52 ++
  (match o.jig with
   | none => []
   | some j =>
     failIf (j.resident && o.f 32 8 ≠ 0) 1 32 ++ failIf (o.f 52 2 > j.qTile) 5 5 ++
     (match o.aux with
      | some a => failIf (a.fmt ≠ j.fmt || a.rowBytes * 8 < (if j.transposed then j.qTile else j.stored) * elemBits j.fmt) 1 8
      | none => []) ++
     saveFails c (saveNeed (popcount j.benchMask) j.accTiles j.qTile))

/-- Body of RECALL (R110, R183, R210, R225). -/
def recallFails (o : Order) (e : PartEnt) (c : Option Ctx) : List (Nat × Nat) :=
  let t : F32 := o.f32 64
  strainerFails o e c ++ addrOrZero o e 56 128 ++
  failIf (isNan t || isInf t || !(fltB f32zero t)) 1 64 ++ failIf (o.f 68 1 < 2 || o.f 68 1 > 5) 1 68 ++ reservedBytes o 69 128 ++
  (match o.jig with | some j => failIf (o.f 54 2 > min j.topK 1024) 5 4 | none => []) ++
  (match o.binding with
   | some b => if o.f 68 1 > 5 then [] else failIf (o.f 48 4 % 32 ≠ 0 || o.f 48 4 < o.outBytes b + 8) 1 48
   | none => [])

/-- Body of SCORE (R111, R112, R208, R211 to R213, R225). `scales` of the order are those of its scale table. -/
def scoreFails (o : Order) (e : PartEnt) (c : Option Ctx) : List (Nat × Nat) :=
  let mode := o.f 56 1
  strainerFails o e c ++ failIf (mode > 2) 1 56 ++ failIf (o.f 62 1 ≥ 2) 1 62 ++ reservedBytes o 63 128 ++
  (if mode = 2 then
     failIf (o.f 57 1 = 0 || o.f 57 1 > 4) 1 57 ++
     (if o.scales.isEmpty then [(4, 58)] else failIf (o.f 60 2 ≥ o.scales.length) 4 60)
   else failIf (o.f 57 1 ≠ 0) 1 57 ++ failIf (o.f 58 2 ≠ 0) 1 58 ++ failIf (o.f 60 2 ≠ 0) 1 60) ++
  (if mode = 0 then failIf (o.f 54 2 = 0) 1 54 else failIf (o.f 54 2 ≠ 0) 1 54) ++
  (match o.jig with
   | none => []
   | some j =>
     (if mode = 0 then failIf (o.f 54 2 > min j.topK 1024) 5 4 else []) ++
     failIf (mode ≤ 2 && (mode == 2) != j.flags.testBit 3) 1 56 ++
     failIf (j.transposed && mode = 0) 1 56 ++
     failIf (mode = 2 && o.f 57 1 = 1 && j.fpAcc) 1 57 ++
     (if o.keep then
        failIf (mode ≠ 1 || j.transposed || popcount j.benchMask ≠ 1 ||
          c.any (fun c => (c.state == .warming || c.state == .steeping) && j.benchMask != 2 ^ c.home)) 1 62
      else if mode = 0 then failIf (o.f 48 4 % 32 ≠ 0 || o.f 48 4 < o.f 54 2 * 8) 1 48 else []) ++
     (if o.f 32 8 = 0 then match c with
        | some c => scoreStride o j c.keyRows ++ keepCount o j c.keyRows
        | none => []
      else []))

/-- Bytes of a gradient row, padded (R241). -/
def scatterFails (o : Order) (e : PartEnt) : List (Nat × Nat) :=
  descAddr o e 24 true ++ addrCheck o e 32 128 ++ failIf (o.f 44 1 ≠ 4 && o.f 44 1 ≠ 5) 1 44 ++ reservedBytes o 45 128 ++
  (match o.binding with
   | none => []
   | some b =>
     failIf (b.update = 0) 1 6 ++
     (if o.f 44 1 ≠ 4 && o.f 44 1 ≠ 5 then [] else
      failIf (o.f 40 4 % 32 ≠ 0 || o.f 40 4 < roundUp (ceilDiv (b.elems * elemBits (o.f 44 1)) 8) 32) 1 40))

/-- Body of APPEND_ROWS (R114). -/
def appendFails (o : Order) (e : PartEnt) (c : Option Ctx) : List (Nat × Nat) :=
  let key := o.f 8 2 ≠ 0xFFFF
  addrCheck o e 24 128 ++ addrOrZero o e 32 128 ++ failIf (key != (o.f 32 8 != 0)) 1 32 ++
  failIf (o.f 32 8 = 0 && o.f 44 4 ≠ 0) 1 44 ++ failIf (o.f 48 4 = 0 || o.f 48 4 > 65536) 1 48 ++ reservedBytes o 52 128 ++
  (match o.binding with
   | some b => failIf (o.f 40 4 % 32 ≠ 0 || o.f 40 4 < b.rowBytes) 1 40 ++
       (match c with | some c => failIf (c.valRows + o.f 48 4 > b.rowCount) 5 9 | none => [])
   | none => []) ++
  (match o.aux with
   | some a => if key then failIf (o.f 32 8 ≠ 0 && (o.f 44 4 % 32 ≠ 0 || o.f 44 4 < a.rowBytes)) 1 44 ++
       (match c with | some c => failIf (c.keyRows + o.f 48 4 > a.rowCount) 5 9 | none => []) else []
   | none => [])

/-- A run of rows without an index stream (R115, R116): its two fields. -/
def runFails (o : Order) (desc first count : Nat) : List (Nat × Nat) :=
  if o.f desc 8 ≠ 0 then failIf (o.f first 4 ≠ 0) 1 first ++ failIf (o.f count 4 ≠ 0) 1 count
  else failIf (o.f count 4 = 0 || o.f count 4 > 1048576) 1 count

/-- Body of WAKE (R80, R86, R118). -/
def wakeFails (s : State) (o : Order) (e : PartEnt) (c : Option Ctx) : List (Nat × Nat) :=
  let slot := s.canWake o.p
  failIf (o.f 24 1 ≥ 2) 1 24 ++ reservedBytes o 44 128 ++
  (if !o.creates then
     failIf (o.f 25 1 ≠ 0) 1 25 ++ reservedBytes o 26 28 ++ failIf (o.f 28 4 ≠ 0) 1 28 ++ failIf (o.f 32 8 ≠ 0) 1 32 ++
     failIf (o.f 40 2 ≠ 0) 1 40 ++ failIf (o.f 42 2 ≠ 0) 1 42 ++ failIf (c.any (fun c => c.state == .parked && !c.poisoned) && !slot) 5 7
   else
     let base := o.f 32 8
     let len := o.f 28 4
     reservedBytes o 26 28 ++ failIf (len ≠ 0 && o.f 25 1 ≠ eaTag base) 1 25 ++ failIf (!e.hasTag (o.f 25 1)) 4 25 ++
     failIf (len % 4096 ≠ 0) 1 28 ++ failIf (base % 4096 ≠ 0 || !eaOk base || (len = 0 && base ≠ 0)) 1 32 ++
     failIf (o.f 40 2 ≠ 0xFFFF && (bindingOf o.book o.p (o.f 40 2)).isNone) 4 40 ++
     failIf (o.f 42 2 ≠ 0xFFFF && (bindingOf o.book o.p (o.f 42 2)).isNone) 4 42 ++
     failIf ((s.ctxs.filter (fun c => c.p == o.p)).length ≥ (quotaOf s.cfg.live o.p).1) 5 6 ++ failIf (!slot) 5 7)

/-- The record size of READ_STATS (R121). -/
def Order.statsSize (o : Order) : Nat :=
  match o.f 24 1 with
  | 0 => 1024
  | 3 => 8 * (o.smap.map (fun m => m.shards.length)).getD 0
  | _ => 256

/-- Body of READ_STATS (R121). -/
def statsFails (o : Order) (e : PartEnt) : List (Nat × Nat) :=
  failIf (o.f 24 1 > 3) 1 24 ++ failIf (o.f 25 1 ≥ 2) 1 25 ++ reservedBytes o 26 32 ++ addrCheck o e 32 128 ++ reservedBytes o 44 128 ++
  (if o.f 24 1 = 3 then match o.binding with | some b => failIf (!b.sharded) 1 6 | none => [] else []) ++
  failIf (o.f 24 1 ≤ 3 && (o.f 24 1 ≠ 3 || o.smap.isSome) && o.f 40 4 < o.statsSize) 5 11

/-- Body of ACC_LOAD and ACC_STORE (R122, R198). -/
def accFails (o : Order) (e : PartEnt) (c : Option Ctx) : List (Nat × Nat) :=
  let rows := o.f 36 2
  let rowsOk := [1, 2, 4, 8, 16, 32, 64, 128, 256].contains rows
  addrCheck o e 24 128 ++ failIf (o.f 34 2 = 0) 1 34 ++ failIf (!rowsOk) 1 36 ++ failIf (o.f 38 1 > 1) 1 38 ++ failIf (o.f 39 1 ≥ 2) 1 39 ++
  reservedBytes o 40 128 ++
  (if rowsOk then failIf (o.f 32 2 + o.f 34 2 > 2048 / rows) 5 10 ++ saveFails c (saveNeed 1 (o.f 32 2 + o.f 34 2) rows) else [])

/-- The body's own fields. -/
def State.bodyFails (s : State) (o : Order) (n : OpName) : List (Nat × Nat) :=
  let e := s.pe o.p
  let c := s.ctx? o.p o.session
  match n with
  | .gather => gatherFails o e
  | .recall => recallFails o e c
  | .score => scoreFails o e c
  | .scatter => scatterFails o e
  | .append => appendFails o e c
  | .prefetch => descAddr o e 24 false ++ runFails o 24 32 36 ++ failIf (o.f 40 1 = 0 || o.f 40 1 ≥ 4) 1 40 ++ reservedBytes o 41 128
  | .advise =>
    addrCheck o e 24 4096 ++ failIf (o.f 32 8 = 0 || o.f 32 8 % 4096 ≠ 0 || o.f 32 8 > 2 ^ 36) 1 32 ++ failIf (o.f 40 1 > 3) 1 40 ++ reservedBytes o 41 128
  | .copy =>
    addrCheck o e 24 128 ++ descAddr o e 32 false ++ runFails o 32 40 44 ++
    (match o.binding with | some b => failIf (o.f 48 4 % 32 ≠ 0 || o.f 48 4 < b.rowBytes) 1 48 | none => []) ++
    failIf (o.f 52 1 > 1) 1 52 ++ reservedBytes o 53 128
  | .park => failIf (o.f 24 1 > 2) 1 24 ++ failIf (o.f 25 1 ≥ 2) 1 25 ++ reservedBytes o 26 128
  | .wake => wakeFails s o e c
  | .fence => failIf (o.f 24 1 > 2) 1 24 ++ reservedBytes o 25 128
  | .stats => statsFails o e
  | .pause | .resume => reservedBytes o 24 128
  | .accLoad | .accStore => accFails o e c

/-- The unit an opcode needs and the variant lacks (R25). -/
def unitFails (v : Variant) (n : OpName) : List (Nat × Nat) :=
  match n with
  | .recall | .score | .accLoad | .accStore => failIf (!v.hasStrainer) 3 1
  | .scatter | .append => failIf (!v.hasGlue) 3 2
  | _ => []

/-- The checks of an order's own fields, that is all but those of its descriptors (R123). -/
def State.ownFails (s : State) (o : Order) : List (Nat × Nat) :=
  match o.name with
  | none => (1, 0) :: failIf s.draining 2 0
  | some n => s.headerFails o n ++ s.bodyFails o n ++ failIf s.draining 2 0 ++ unitFails s.variant n

/-! ### Descriptors (R135 to R138, R141) -/

/-- A descriptor as a stream, from its 64 bytes. -/
def readDesc (field addr v : Nat) : Stream :=
  { field := field, addr := addr, base := leAt v 0 8, counts := (leAt v 8 4, leAt v 12 4, leAt v 16 4, leAt v 20 4),
    strides := (leAt v 24 6, leAt v 30 6, leAt v 36 6), elem := leAt v 42 1 }

/-- Element codes that a field takes (R136). -/
def elemOk (n : OpName) (field elem : Nat) : Bool := if n = .gather && field = 40 then elem = 1 || elem = 2 else elem = 0

/-- A descriptor against R136 and R137; `v` are its bytes. -/
def descFails (e : PartEnt) (n : OpName) (x : Stream) (v : Nat) : List (Nat × Nat) :=
  let (c0, c1, c2, c3) := x.counts
  let (s1, s2, s3) := x.strides
  let w := elemSize x.elem
  let stride (c st : Nat) : Bool := (c = 1 && st ≠ 0) || st % w ≠ 0
  let none_ := c0 = 0 || c1 = 0 || c2 = 0 || c3 = 0
  let known := elemOk n x.field x.elem
  failIf (none_ || leAt v 43 1 ≠ 0 || !known || !eaOk x.base) 1 x.field ++
  (if known then failIf (eaVa x.base % w ≠ 0 || stride c1 s1 || stride c2 s2 || stride c3 s3) 1 x.field else []) ++
  failIf (!none_ && eaVa x.base + x.lastOff ≥ 2 ^ 48) 1 x.field ++
  failIf (!e.hasTag (eaTag x.base)) 4 x.field ++
  failIf (!none_ && known && x.field != 40 && !(n = .gather && x.field = 32) && x.count > 1048576) 5 1

/-- Counts of the streams against the order (R61, R136, R211, R212). -/
def countFails (o : Order) (n : OpName) (xs : List Stream) : List (Nat × Nat) :=
  let count (f : Nat) : Option Nat := (xs.find? (fun x => x.field == f)).map Stream.count
  match n with
  | .gather =>
    (match count 24 with
     | some k => (if o.f 32 8 = 0 then failIf (k ≠ o.f 60 4 * o.f 64 4) 1 24 else []) ++
        (match count 40 with | some w => failIf (w ≠ k) 1 40 | none => [])
     | none => []) ++
    (match count 32 with | some k => failIf (k ≠ o.f 60 4) 1 32 | none => [])
  | .scatter => (match count 24, o.binding with | some k, some b => failIf (b.update ≠ 0 && k > b.maxBatch) 5 3 | _, _ => [])
  | .score => (match count 32, o.jig with | some k, some j => scoreStride o j k ++ keepCount o j k | _, _ => [])
  | _ => []

/-- State bits of a descriptor (R135, R140). -/
def Stream.bits (x : Stream) : Nat := 1 + 2 * b2n x.live + 8 * b2n x.faulted

/-- The live stream that runs from a descriptor address, with its state bits (R141, R142). -/
def State.armedAt (s : State) (p addr : Nat) : Option Nat :=
  match ((s.liveOf p).flatMap Order.streams).find? (fun x => x.addr == addr) with
  | some x => some x.bits
  | none => if (s.part p).orphans.any (fun x => x.addr == addr) then some 12 else none

/-- Check 6: a descriptor whose address is held by a stream, or that an earlier field of the order names. Offset, address and state bits
of the first such field: where two fields are refused the spec does not say which offset is reported (log 55: DESIGN CHOICE). `seen` are
the addresses of the fields before. -/
def State.rearm (s : State) (p : Nat) (seen : List Nat) : List (Nat × Nat) → Option (Nat × Nat × Nat)
  | [] => none
  | (off, a) :: rest =>
    match s.armedAt p a with
    | some b => some (off, a, b)
    | none => if seen.contains a then some (off, a, 1) else State.rearm s p (a :: seen) rest

/-- The descriptor fields an order names: offset and address. -/
def Order.descs (o : Order) : List (Nat × Nat) :=
  match o.name with
  | some n => ((descFields n).filter (fun f => o.f f 8 ≠ 0)).map (fun f => (f, o.f f 8))
  | none => []

end Sys2Proof.Machine
end

