-- ==== Sys2Proof/Machine/Orders.lean ====
section
/-! DEFINITION. The life of a work order: fetch and stage 2, waiting, stage 3, faults, completion, and the control orders
(R18, R32, R64, R70, R97 to R104, R119 to R135, R139 to R142, R149 to R153, R303, R307, R308, R321 and R323 to R329). -/

namespace Sys2Proof.Machine

/-! ### Fetching (R98, R100, R388) -/

/-- Work orders are fetched: after the first commit, once the bring-up self-test has ended, and not under a die-reset
error (R101, R327, R388). -/
def State.fetchOpen (s : State) : Bool := s.cfg.committed && s.kettle.bringTest.isEmpty && s.rstDie.isNone

/-- A fault found at stage 3 holds the order there (R303). -/
def Order.stage3Held (o : Order) : Bool := o.faults.any (fun f => f.info.tile == 0 || f.info.tile == 0xFFFFFFFF)

/-- An order of the ring has not got past its waits before the end of stage 3 (R125, R137, R303). -/
def State.headHeld (s : State) (p q : Nat) : Bool :=
  (s.liveOf p).any (fun o => o.q == q && o.status.isNone &&
    (o.phase == .stage2 || o.phase == .waiting || (o.phase == .stage3 && o.stage3Held)))

/-- A ring is eligible for a fetch (R98, R100). -/
def State.eligible (s : State) (p q : Nat) : Bool :=
  let x := s.sq p q
  s.enabled p && !(s.part p).busy && s.fetchOpen && x.enabled && x.head != x.tail && s.liveOn p q < 16 &&
    (s.pq p (16 + x.cq)).free > s.reserved p x.cq && !s.headHeld p q

/-- The ring whose turn it is: round-robin over the eligible rings (R100). -/
def State.nextRing (s : State) (p : Nat) : Option Nat :=
  ((List.range 16).map (fun i => ((s.part p).turn + i) % 16)).find? (s.eligible p)

/-! ### Stage 2 (R123 to R125, R137, R139) -/

/-- Read the descriptors named at addresses of the partition: field, address and bytes; none while one is to come, or
when a fault or poison stops the order. -/
def State.readDescs (s : State) (oid : Nat) (ds : List (Nat × Nat)) : State × Option (List (Nat × Nat × Nat)) :=
  match s.order? oid with
  | none => (s, none)
  | some o =>
    match s.needPages oid { t := 0, bench := s.lowBench o.p } (ds.map (fun d => { ea := d.2, len := 64, kind := 3, stream := o.streamNo d.1 })) with
    | (s1, t, .ok) =>
      let (s2, n) := ds.foldl (fun (st : State × Need) d =>
        let (s, n) := st.1.needLines (.desc oid) o.p { epoch := o.epoch, space := fun _ => s1.spaceAt o.p d.2 } (pieceLines (t.pieces d.2 64))
        (s, if n = .ok then st.2 else n)) (s1, .ok)
      match n with
      | .ok =>
        let vs := ds.map (fun d => (d, (s2.pieceBytes (.desc oid) (t.pieces d.2 64)).getD (0, true)))
        if vs.any (fun x => x.2.2) then (s2.endOrder oid 0x10 0, none)
        else (s2.dropHeld (.desc oid), some (vs.map (fun x => (x.1.1, x.1.2, x.2.1))))
      | _ => (s2, none)
    | (s1, _, _) => (s1, none)

/-- The binding of an order is paused (R70): it waits there, and pins nothing. -/
def State.namesPaused (s : State) (o : Order) : Bool :=
  o.name != some .pause && o.name != some .resume && (s.part o.p).paused.any (fun x => x.1 == o.bindNo || x.1 == o.auxNo)

/-- An order waits at a ring head on a paused binding: it names nothing yet (R64, R133). -/
def State.waitsOnPause (s : State) (o : Order) : Bool := o.phase == .waiting && !o.pinned && s.namesPaused o

/-- The orders that a FENCE waits for: those of its scope that are live as it is fetched, but not one that has passed stage 2 and
waits at its ring head on a paused binding (R133). -/
def State.waitList (s : State) (o : Order) : List Nat :=
  if o.op = 0x0B then (s.orders.filter (fun x => o.inScope x && !s.waitsOnPause x)).map Order.id else []

/-! ### The on-die part (R30, R32) -/

/-- Bytes of a section's payload (R39). -/
def Section.bytes : Section → Nat
  | .partitions _ => 128
  | .ways _ => 32
  | .stacks es => 8 + 32 * es.length
  | .binding _ | .jig _ => 128
  | .shardMap m => 16 + 32 * m.shards.length + 16 * m.redirects.length
  | .scales es => 8 + 16 * es.length
  | .plaus _ | .policy _ => 32
  | .quotas _ => 64
  | .plan _ | .spill _ => 16
  | .deleted => 0

/-- The records that an order pins, under the keys that tell them apart. -/
def Order.pins (o : Order) : List Sec :=
  let bindings := (o.binding.map (fun b => (b, o.bindNo, o.smap))).toList ++ (o.aux.map (fun b => (b, o.auxNo, o.auxSmap))).toList
  bindings.flatMap (fun x => ⟨4, o.p, x.2.1, .binding x.1⟩ :: (x.2.2.map (fun m => (⟨5, o.p, x.1.shardMap, .shardMap m⟩ : Sec))).toList) ++
  (o.jig.map (fun j => (⟨6, o.p, o.f 10 2, .jig j⟩ : Sec))).toList ++
  (if o.scales.isEmpty then [] else [⟨7, o.p, if o.op = 0x03 then o.f 58 2 else (o.binding.map Binding.scaleTable).getD 0, .scales o.scales⟩]) ++
  (o.plaus.map (fun x => (⟨8, o.p, (((if o.op = 0x03 then o.aux else o.binding)).map Binding.plaus).getD 0, .plaus x⟩ : Sec))).toList ++
  (o.spill.map (fun x => (⟨0xC, o.p, 0, .spill x⟩ : Sec))).toList

def sectionBytes (l : List Sec) : Nat := l.foldl (fun a x => a + x.body.bytes) 0

/-- The records of an order fit in the on-die part of 4 MiB, beside the section directory, the global sections and what the other
orders have pinned, each record once (R30, R32). The size of a record is that of its payload, and the directory takes 16 bytes for each
live section, as a section table does (log 11: DESIGN CHOICE; the spec gives neither). -/
def State.pinsFit (s : State) (o : Order) : Bool :=
  let held := (((s.orders.filter (fun x => x.pinned && x.id != o.id)).flatMap Order.pins) ++ o.pins).eraseDups
  16 * s.cfg.live.length + sectionBytes (s.cfg.live.filter (fun x => ([1, 2, 3, 9, 0xA, 0xB] : List Nat).contains x.type)) + sectionBytes held ≤ 4 * 2 ^ 20

/-- An order's records can be pinned: they fit, and the region from which they are read can be reached, which an order without records
does not need (R32, R364). -/
def State.canPin (s : State) (o : Order) : Bool := s.pinsFit o && (o.pins.isEmpty || (s.face 0).up)

/-- An order passes stage 2: its streams are armed, and its records pinned unless it waits on a paused binding, for space in the on-die
part, or for face 0 (R32, R364). -/
def State.pass (s : State) (o : Order) (xs : List Stream) : State :=
  let paused := s.namesPaused o
  let fits := s.canPin o
  (s.upOrder o.id (fun x => { o with after := x.after, waitFor := x.waitFor, phase := .waiting, book := [], streams := xs, pinned := !paused && fits, crowded := !paused && !fits })).readRegion

/-- The checks of stage 2, as far as the descriptors have come. An order behind a FENCE of its scope waits before them. -/
def State.stage2 (s : State) (oid : Nat) : State :=
  match s.order? oid with
  | none => s
  | some o0 =>
    if o0.phase != .stage2 || o0.status.isSome || o0.faulty || s.fenceHeld o0 then s else
    let o := match o0.name with | some n => s.withRecords o0.book o0 n | none => o0
    let own := s.ownFails o
    match firstFail (own.filter (fun x => x.1 ≤ 3)) with
    | some f => s.endOrder oid (failStatus f.1) f.2
    | none =>
      match o.name with
      | none => s
      | some n =>
        match s.readDescs oid (o.descs.filter (fun d => (s.pe o.p).hasTag (eaTag d.2))) with
        | (s1, none) => s1
        | (s1, some vs) =>
          let xs := vs.map (fun d => (readDesc d.1 d.2.1 d.2.2, d.2.2))
          match firstFail (own ++ xs.flatMap (fun x => descFails (s.pe o.p) n x.1 x.2) ++ countFails o n (xs.map Prod.fst)) with
          | some f => s1.endOrder oid (failStatus f.1) f.2
          | none =>
            match s1.rearm o.p [] o.descs with
            | some (off, a, bits) => (s1.orderEvent o 0x0005 a bits).endOrder oid 0x23 off
            | none =>
              let poisoned := (s1.ctx? o.p o.session).any Ctx.poisoned
              if poisoned && !(n = .park && (o.f 25 1).testBit 0) then s1.endOrder oid 0x10 0
              else s1.pass o (xs.map Prod.fst)

/-- An order read from its ring becomes live, and names the records of this epoch (R32, R64, R100). -/
def State.takeOrder (s : State) (p q : Nat) (bytes : Line) : State :=
  let x := s.sq p q
  let o0 : Order := { id := s.nextId, p := p, q := q, slot := x.head, cq := x.cq, bytes := bytes, epoch := s.cfg.epoch,
                      book := s.cfg.live.filter (fun y => y.owner == p) }
  let o := match o0.name with | some n => s.withRecords o0.book o0 n | none => o0
  let before := ((s.liveOf p).filter (fun a => o.moves && o.session ≠ 0xFFFF && a.moves && a.session == o.session)).map Order.id
  let s1 := (s.fresh.quitReads (.ring p q)).upPart p (fun y => { (y.upSq q (fun z => { z with head := (z.head + 1) % z.size })) with turn := (q + 1) % 16 })
  let s2 := { s1 with orders := s1.orders ++ [{ o with after := before, waitFor := s.waitList o }] }
  (s2.upCtx p o.session (fun c => { c with fetched := (c.fetched + 1) % 2 ^ 64, hinted := false })).stage2 o.id

/-- Read the entry at the head of a ring through the partition's host face (R97, R103). -/
def State.fetchEntry (s : State) (p q : Nat) : State :=
  let x := s.sq p q
  match s.xlate p (eaAdd x.base (128 * x.head)) false (.ring p q) with
  | (s1, .wait) => s1
  | (s1, .fault ..) => s1.ringError p q 1
  | (s1, .ok pa _) =>
    match s1.heldLine (.ring p q) (pa / 128) with
    | none => (s1.ask (.ring p q) p none (s1.hostFace p) [pa / 128] (s1.spaceAt p x.base))
    | some h =>
      if h.poisoned then (s1.quitReads (.ring p q)).ringError p q 2
      else if s1.nextRing p = some q then s1.takeOrder p q h.bytes
      else s1

/-- ORDER_FETCH: the next order of an eligible ring, or the one of the ring still in stage 2. -/
def State.orderFetch (s : State) (p q : Nat) : State :=
  match (s.liveOf p).find? (fun o => o.q == q && o.phase == .stage2) with
  | some o => s.stage2 o.id
  | none => if s.eligible p q then s.fetchEntry p q else s

/-! ### Stage 3 (R149, R303) -/

/-- The driving stream of an order has fetched its last index tile on the home bench of its session, or on every bench where none of
its tiles runs there (R149). Orders without an index stream count once they are complete. -/
def State.indexDone (s : State) (o : Order) : Bool :=
  match o.name with
  | some .append | some .advise | some .accLoad | some .accStore => false
  | _ =>
    if o.status.isSome then true
    else o.phase == .running && (o.phase2 || (o.bagsKnown &&
      let ts := List.range o.tileCount
      let home := (s.ctx? o.p o.session).map Ctx.home
      let mine := ts.filter (fun t => match o.tileSpan t with | some (_, _, pos) => home == some (s.tileBench o t pos) | none => false)
      (if mine.isEmpty then ts else mine).all (fun t => o.isDelivered t || (o.tile? t).any (fun x => !x.elems.isEmpty))))

/-- Translate one page into a shadow of an order (R303): into that of a stream, or of the order. -/
def State.shadowPage (s : State) (oid : Nat) (a : Access) (tile field : Nat) : State × Need :=
  match s.order? oid with
  | none => (s, .stop)
  | some o =>
    match s.pageFor oid { t := tile, bench := 0 } a a.ea with
    | (s1, _, .ok _ _) =>
      let r := (s1.ranges.find? (fun x => x.2.part == o.p && x.2.covers (eaTag a.ea) (eaVa a.ea / 4096))).map Prod.snd
      (match r with
       | none => s1
       | some r => s1.upOrder oid (fun o =>
          if field = 0 then (if o.shadow.contains r then o else { o with shadow := o.shadow ++ [r] })
          else o.setStream field (fun x => x.addRange r)), .ok)
    | (s1, _, .wait) => (s1, .wait)
    | (s1, _, .fault p out) => (s1.findFault oid tile a a.ea p out, .stop)

/-- Translate a span into the order's shadow, a range at a time. -/
def State.shadowSpan (s : State) (oid : Nat) (a : Access) (page stop : Nat) : Nat → State × Need
  | 0 => (s, .ok)
  | n + 1 =>
    if page ≥ stop then (s, .ok) else
    let ea := (eaTag a.ea) <<< 56 + page * 4096
    match s.shadowPage oid { a with ea := ea, report := some ea } 0xFFFFFFFF 0 with
    | (s1, .ok) =>
      let next := match (s1.order? oid).bind (fun o => o.shadow.find? (fun r => r.covers (eaTag ea) page)) with
        | some r => max (page + 1) (r.page + r.len)
        | none => page + 1
      State.shadowSpan s1 oid a next stop n
    | r => r

/-- The translations of stage 3: the base of every binding, which of a sharded one is where its row 0 lies (log 33: DEDUCED), the first
page of every stream and the page of its write-backs, and the save area (R303, R306). -/
def State.stage3Pages (s : State) (oid : Nat) : State × Need :=
  match s.order? oid with
  | none => (s, .stop)
  | some o =>
    let base (b : Binding) (m : Option ShardMap) : Access × Nat × Nat := ({ ea := (rowAt b (s.mapFor o.p b m) 0).slot, len := 1, kind := 1 }, 0xFFFFFFFF, 0)
    let bases := (o.binding.map (fun b => base b o.smap)).toList ++ (o.aux.map (fun b => base b o.auxSmap)).toList
    let streams := o.streams.map (fun x => (({ ea := x.addrOf 0, len := 1, kind := 0, stream := o.streamNo x.field } : Access), 0, x.field))
    let (s1, n1) := (bases ++ streams).foldl (fun (st : State × Need) x =>
      if st.2 = .stop then st else
      let (s1, n) := st.1.shadowPage oid x.1 x.2.1 x.2.2
      (s1, if n = .ok then st.2 else n)) (s, .ok)
    if n1 = .stop then (s1, n1) else
    let (s2, n2) := o.streams.foldl (fun (st : State × Need) x =>
      let (s, pg) := st.1.backPage oid x.field
      (s, if pg.isSome then st.2 else .wait)) (s1, n1)
    if n2 ≠ .ok || !o.isStrainer then (s2, n2) else
    match s2.ctx? o.p o.session with
    | none => (s2, n2)
    | some c =>
      let pages := c.saveLen / 4096
      s2.shadowSpan oid { ea := c.saveBase, len := 4096, write := true, kind := 5 } (eaVa c.saveBase / 4096) (eaVa c.saveBase / 4096 + pages) pages

/-- The slot of the order's session (R83, R85, R89): true once the session warms or steeps. -/
def State.haveSlot (s : State) (o : Order) : State × Bool :=
  if o.session = 0xFFFF then (s, true) else
  match s.ctx? o.p o.session with
  | none => (s, false)
  | some c =>
    match c.state with
    | .warming | .steeping => (s, true)
    | .leaving => (s, false)
    | .parked =>
      if c.haltedOrder then (s, false) else
      let s1 := s.askSlot o.p ⟨o.session, some o.id, false, none⟩
      (s1, (s1.ctx? o.p o.session).any (fun c => c.state == .warming))

/-- A SCORE with keep whose session's home bench is not its jig's (R112). -/
def State.keepAway (s : State) (o : Order) : Bool :=
  o.keep && (s.ctx? o.p o.session).any (fun c => (c.state == .warming || c.state == .steeping) && o.jig.any (fun j => j.benchMask != 2 ^ c.home))

/-- Each bench of the jig of a RECALL or SCORE reads its stationary block (R203). -/
def State.stage3Queries (s : State) (oid : Nat) : State × Need :=
  match s.order? oid with
  | none => (s, .stop)
  | some o =>
    if !o.keyed then (s, .ok) else
    (setBits ((o.jig.map Jig.benchMask).getD 0)).foldl (fun (st : State × Need) b =>
      if st.2 = .stop then st else
      let (s, n) := st.1.readQueries oid b
      (s, if n = .ok then st.2 else n)) (s, .ok)

/-- An APPEND_ROWS would pass a table's row_count, now that the earlier appends of its session are complete (R114). -/
def State.appendPast (s : State) (o : Order) : Bool :=
  o.op = 0x05 && (s.ctx? o.p o.session).any (fun c =>
    o.binding.any (fun b => decide (c.valRows + o.f 48 4 > b.rowCount)) || o.aux.any (fun a => decide (c.keyRows + o.f 48 4 > a.rowCount)))

/-- An order is past stage 3. One that its session had halted is halted no more: acc_saved and halted_order of its context clear here, at
a moment that the spec does not name (log 55: DESIGN CHOICE; R81, R93). -/
def State.startRun (s : State) (oid : Nat) : State :=
  match s.order? oid with
  | none => s
  | some o =>
    ((s.upOrder oid (fun o => { o with phase := .running })).upCtx o.p o.session (fun c =>
      if c.preemptOrder = some oid then { c with accSaved := false, haltedOrder := false, preemptOrder := none } else c)).maybeSteep o.p o.session

/-- Stage 3, once the earlier data orders of the session have fetched their last index tile. A halted order does its stage 3 again
as its session warms (R81, R303). -/
def State.stage3 (s : State) (oid : Nat) : State :=
  match s.order? oid with
  | none => s
  | some o =>
    if o.phase != .stage3 || o.status.isSome || o.stage3Held then s else
    if o.after.any (fun i => (s.order? i).any (fun a => !s.indexDone a)) then s else
    let (s1, ok) := s.haveSlot o
    let again := (s1.ctx? o.p o.session).any (fun c => c.preemptOrder == some oid)
    if !ok then s1
    else if !again && s1.keepAway o then s1.endOrder oid 0x3F 62
    else if s1.appendPast o then s1.endOrder oid 0x21 9
    -- its tiles would run on a suspect bench, which takes none (R94, R336)
    else if (s1.orderBenches o).any s1.suspect then s1.endOrder oid 0x31 (((s1.orderBenches o).find? s1.suspect).getD 0)
    else
      let rows := ((s1.ctx? o.p o.session).map Ctx.keyRows).getD 0
      match (s1.upOrder oid (fun o => { o with keyRows := rows })).stage3Pages oid with
      | (s2, .ok) =>
        match s2.stage3Queries oid with
        | (s3, .ok) => s3.startRun oid
        | (s3, _) => s3
      | (s2, _) => s2

/-! ### Waiting (R32, R64, R70, R83, R125) -/

/-- The records of an order that proceeds past a pause are pinned as they now stand, and check 4 is made again; an order whose
records could not be pinned waits for it at the head of its ring (R32, R64). -/
def State.pinAgain (s : State) (o : Order) : State × Bool :=
  if o.pinned then (s, true) else
  match o.name with
  | none => (s, true)
  | some n =>
    let o1 := if o.crowded then o else s.withRecords s.cfg.live o n
    match firstFail ((s.ownFails o1).filter (fun x => x.1 = 4)) with
    | some f => (s.endOrder o.id 0x3F f.2, false)
    | none =>
      if !s.canPin o1 then (s, false)
      else (s.upOrder o.id (fun _ => { o1 with pinned := true, crowded := false, epoch := if o.crowded then o.epoch else s.cfg.epoch }), true)

/-- A data order past stage 2 goes to stage 3, or waits for its session's slot. -/
def State.enter (s : State) (oid : Nat) : State :=
  match s.order? oid with
  | none => s
  | some o =>
    let go (s : State) : State := (s.upOrder oid (fun o => { o with phase := .stage3 })).stage3 oid
    if o.session = 0xFFFF then go s else
    match s.ctx? o.p o.session with
    | none => s.endOrder oid 0x3F 4
    | some c =>
      if c.poisoned then s.endOrder oid 0x10 0
      else if c.state == .parked && c.haltedOrder then s.upOrder oid (fun o => { o with phase := .stage3 })
      else
        let (s1, ok) := s.haveSlot o
        if ok then go s1 else s1

/-- ORDER_PROCEED: an order that waits goes on as far as it can (R125). -/
def State.orderProceed (s : State) (oid : Nat) : State :=
  match s.order? oid with
  | none => s
  | some o =>
    if o.status.isSome then s else
    match o.phase with
    | .waiting =>
      if s.fenceHeld o || s.waitsOnPause o then s else
      match s.pinAgain o with
      | (s1, false) => s1
      | (s1, true) =>
        if o.moves then s1.enter oid
        -- these wait at their ring's head until they act (R86, R134)
        else if o.op = 0x0A || o.name = some .pause then s1
        else s1.upOrder oid (fun o => { o with phase := .running })
    | .stage3 => s.stage3 oid
    | _ => s

/-! ### FENCE, READ_STATS, TABLE_PAUSE, TABLE_RESUME (R70, R119 to R121, R133) -/

def State.fence (s : State) (oid : Nat) : State :=
  match s.order? oid with
  | none => s
  | some o =>
    if o.name != some .fence || !s.controlReady o then s
    else if o.waitFor.any (fun i => (s.order? i).isSome) then s.upOrder oid (fun o => { o with phase := .running })
    else s.act oid

/-- Counters of 8 bytes each. -/
def counterBytes (l : List Nat) : Nat := packCodes 64 l

/-- A session context as memory shows it (R81). -/
def State.contextBytes (s : State) (c : Ctx) : Nat :=
  let st := match c.state with | .parked => 1 | .warming => 2 | .steeping => 3 | .leaving => 4
  let faults := (s.sessionOrders c.p c.session).any (fun o => o.faults.any (fun f => f.id.isSome))
  let flags := b2n c.accSaved + 2 * b2n c.haltedOrder + 4 * b2n faults + 8 * b2n c.poisoned
  let scale (x : ScaleSt) : Nat := x.table % 65536 + (x.entry % 65536) <<< 16 + (toTwos 8 x.offset) <<< 32 + (1 + 2 * b2n x.sat + 4 * b2n x.clip) <<< 40
  recordOf [(0, 2, c.session), (2, 1, c.p), (3, 1, st), (4, 1, c.home), (5, 1, flags), (6, 1, c.tag), (8, 8, c.saveBase), (16, 4, c.saveLen),
    (24, 8, c.fetched), (32, 8, c.completed), (40, 8, c.lastChange.toNat), (48, 2, c.keyBind), (50, 2, c.valBind), (52, 4, c.keyRows),
    (56, 4, c.valRows), (64, 1, c.haltRing), (66, 2, c.haltSlot), (68, 2, c.haltJig), (72, 4, c.haltTile), (76, 4, c.haltBlock),
    (128, 256, counterBytes (c.scales.map scale)), (384, 256, counterBytes c.ctrs)]

/-- The record that READ_STATS writes; none where its context has gone. -/
def State.statsRecord (s : State) (o : Order) : Option Nat :=
  match o.f 24 1 with
  | 0 => (s.ctx? o.p o.session).map s.contextBytes
  | 1 => some (counterBytes (((s.part o.p).bindCtrs.find? (fun x => x.1 == o.bindNo)).map Prod.snd |>.getD []))
  | 2 => some (counterBytes (s.part o.p).ctrs)
  | _ => some (counterBytes ((List.range ((o.smap.map (fun m => m.shards.length)).getD 0)).map (fun k =>
      s.shardReads o.p ((o.binding.map Binding.shardMap).getD 0) k)))

/-- The counters that READ_STATS has read are zeroed. -/
def State.clearStats (s : State) (o : Order) : State :=
  if !(o.f 25 1).testBit 0 then s
  else match o.f 24 1 with
    | 1 => s.upPart o.p (fun x => { x with bindCtrs := x.bindCtrs.filter (fun y => y.1 != o.bindNo) })
    | 2 => s.upPart o.p (fun x => { x with ctrs := List.replicate 18 0 })
    | _ => s

def State.readStats (s : State) (oid : Nat) : State :=
  match s.order? oid with
  | none => s
  | some o =>
    if o.name != some .stats || !s.controlReady o || !o.pinned || o.faulty then s else
    match s.statsRecord o with
    | none => s.endOrder oid 0x3F 4
    | some v =>
      let n := o.statsSize
      match s.needPages oid { t := 0xFFFFFFFF, bench := s.lowBench o.p } [{ ea := o.f 32 8, len := n, write := true, kind := 4 }] with
      | (s1, t, .ok) => ((s1.writeStraight none o.p s1.cfg.epoch (.order oid) (t.pieces (o.f 32 8) n) v (s1.spaceAt o.p (o.f 32 8))).clearStats o).act oid
      | (s1, _, _) => s1.upOrder oid (fun o => { o with phase := .running })

/-- No live order names a binding, but those that wait on its pause and the pauses and resumes themselves (R64, R70). -/
def State.bindingIdle (s : State) (p n : Nat) : Bool :=
  !(s.liveOf p).any (fun x => x.name != some .pause && x.name != some .resume && !s.waitsOnPause x && (x.bindNo == n || x.auxNo == n))

/-- A binding is paused. An order that waits to have its records pinned now waits on the pause, and takes its records as they stand when
it proceeds (R32, R70). -/
def State.pauseBinding (s : State) (p n : Nat) : State :=
  if (s.part p).paused.any (fun x => x.1 == n) then s else
  let s1 := s.upPart p (fun x => { x with paused := x.paused ++ [(n, false)] })
  { s1 with orders := s1.orders.map (fun (o : Order) => if o.p = p ∧ (o.bindNo = n ∨ o.auxNo = n) then { o with crowded := false } else o) }

/-- The TABLE_PAUSE of a binding completes: the binding is paused and drained, and its resident sets go (R70, R202). -/
def State.pauseDone (s : State) (p n : Nat) : State :=
  (s.upPart p (fun x => { x with paused := x.paused.map (fun y => if y.1 = n then (n, true) else y) })).dropResidents (fun _ r => r.p == p && r.bind == n)

/-- TABLE_PAUSE: the binding is paused from its first command on, and the order acts once no live order names it. A TABLE_RESUME taken
meanwhile ends the pause, and the next command of the order pauses the binding again (log 49: DESIGN CHOICE; R120). -/
def State.tablePause (s : State) (oid : Nat) : State :=
  match s.order? oid with
  | none => s
  | some o =>
    if o.name != some .pause || !s.controlReady o then s else
    let n := o.bindNo
    let s1 := s.upOrder oid (fun o => { o with phase := .running })
    let s2 := s1.pauseBinding o.p n
    let migrates := s2.mig.phase ≠ 0 && s2.mig.p = o.p && s2.mig.bind = n
    -- a migration not yet switched is abandoned, and one that is is waited for (R288)
    let s3 := if migrates then s2.abandonMig else s2
    if !s3.bindingIdle o.p n || migrates then s3 else s3.act oid

def State.tableResume (s : State) (oid : Nat) : State :=
  match s.order? oid with
  | none => s
  | some o =>
    if o.name != some .resume || !s.controlReady o then s
    else (s.upPart o.p (fun x => { x with paused := x.paused.filter (fun y => y.1 != o.bindNo) })).act oid

/-! ### Faults (R129, R150 to R152, R307, R308) -/

/-- The fault record of an order (R129). -/
def faultBytes (o : Order) (f : FaultInfo) (id : Nat) : Nat :=
  recordOf [(0, 8, f.addr), (8, 1, eaTag f.addr), (9, 1, f.access), (10, 1, f.stream), (11, 1, 2 * b2n f.perm + 4 * b2n f.outside),
    (12, 2, o.session), (14, 2, o.slot), (16, 1, o.q), (18, 2, id), (20, 4, f.tile)]

/-- What an order holds for tiles not delivered is discarded from a tile on. -/
def Order.discardFrom (o : Order) (t : Nat) : Order :=
  { o with tiles := o.tiles.filter (fun x => x.delivered || x.consumed || x.t < t) }

/-- A fault found becomes pending under a number. -/
def Order.numberFault (o : Order) (f : OFault) (id : Nat) : Order :=
  { o with faults := o.faults.map (fun x => if x = f then { x with id := some id } else x) }

/-- Elements fetched for tiles not delivered are discarded from a tile on (R150). -/
def State.discardFrom (s : State) (oid t : Nat) : State :=
  match s.order? oid with
  | none => s
  | some o =>
    let gone := (o.tiles.filter (fun x => !x.delivered && !x.consumed && t ≤ x.t)).map Tile.t
    (s.upOrder oid (fun o => o.discardFrom t)).quitWhere (fun c => match c with | .tile i k => i == oid && gone.contains k | .bags i n => i == oid && (o.bags.length < n || t ≤ o.bagTileNext) | _ => false) (fun _ => true)

/-- FAULT_RECORD_WRITE: a fault found becomes pending once a fault_id is free; its record waits for space in the
fault ring (R102, R129). It takes the lowest number that is free (log 49: DESIGN CHOICE). -/
def State.faultRecord (s : State) (oid : Nat) : State :=
  match s.order? oid with
  | none => s
  | some o =>
    -- of an order that has ended only a fault of its write-backs matters (R306)
    match (if s.resetting o.p then none else o.faults.find? (fun x => x.id.isNone && (o.status.isNone || x.info.access == 3))) with
    | none => s
    | some x =>
      match freeTag ((s.part o.p).faults.map PFault.id) 1024 0 with
      | none => s
      | some id =>
        let f := x.info
        let s1 := s.upPart o.p (fun y => { y with faults := y.faults ++ [{ id := id, order := some oid, stream := f.stream, tag := eaTag f.addr, va := eaVa f.addr }] })
        let s2 := (s1.upOrder oid (fun o => o.numberFault x id)).discardFrom oid f.tile
        ((s2.countPart o.p 14 1).countSess o.p o.session 9 1).queueRecord o.p 32 (faultBytes o f id) false

/-- A fault of the stream holds the tile at which it has quiesced: every delivered tile is consumed, and the watermark is there
(R150). -/
def Order.quiescedAt (o : Order) (x : Stream) : Bool :=
  o.faults.any (fun f => f.id.isSome && f.info.stream == o.streamNo x.field && f.info.tile == o.watermark)

/-- STREAM_QUIESCE: every delivered tile of a halted stream is consumed; it is faulted, and its state is written back (R142, R150).
One of which no tile was delivered is armed and faulted without live (log 49: DESIGN CHOICE; R140). -/
def State.streamQuiesce (s : State) (oid : Nat) : State :=
  match s.order? oid with
  | none => s
  | some o =>
    if (o.phase != .running && o.phase != .stage3) || o.status.isSome || s.resetting o.p || o.tiles.any Tile.inUse then s else
    (o.streams.filter (fun x => o.quiescedAt x && !x.faulted)).foldl (fun s x =>
      match s.backStream oid x (o.descBytes x (1 + 2 * b2n x.live + 8)) with
      | (s1, true) => s1.upOrder oid (fun o => o.setStream x.field (fun y => { y with faulted := true, written := true }))
      | (s1, false) => s1) s

/-- The order of a pending fault; the fault is no longer pending. -/
def State.takeFault (s : State) (p id : Nat) : State × Option Nat :=
  match (s.part p).faults.find? (fun f => f.id == id) with
  | none => (s.upPart p (fun x => { x with badCmd := true }), none)
  | some f => (s.upPart p (fun x => { x with faults := x.faults.filter (fun g => g.id != id) }), f.order)

/-- The faulting page is to be walked anew: no cached range of it stays, nor one in a shadow of the order (R308). -/
def Order.forgetPage (o : Order) (ea : Nat) : Order :=
  let off (r : Range) : Bool := !r.covers (eaTag ea) (eaVa ea / 4096)
  { o with shadow := o.shadow.filter off, streams := o.streams.map (fun (x : Stream) => { x with ranges := x.ranges.filter off }) }

/-- An order's fault is gone, and what was held on it goes on: its stream, and the rows that a merge stopped at for the address. -/
def Order.endFault (o : Order) (f : FaultInfo) : Order :=
  { o with faults := o.faults.filter (fun x => x.info != f), xfaults := [], mergeHeld := o.mergeHeld.filter (fun x => x.2 != f.addr),
           streams := o.streams.map (fun (x : Stream) => if o.streamNo x.field = f.stream then { x with faulted := false, written := false } else x) }

/-- FAULT_RESUME: the page is walked again; the stream replays from its watermark (R152, R308). -/
def State.faultResume (s : State) (p id : Nat) : State :=
  match s.takeFault p id with
  | (s1, none) => s1
  | (s1, some i) =>
    match s1.order? i with
    | none => s1
    | some o =>
      match o.faults.find? (fun x => x.id == some id) with
      | none => s1
      | some x =>
        let f := x.info
        let s2 := ((s1.dropPage (eaTag f.page) (eaVa f.page / 4096)).upOrder i (fun o => (o.endFault f).forgetPage f.page)).discardFrom i f.tile
        let s3 := if o.phase == .stage2 then s2.quitReads (.desc i) else s2
        match s3.ctx? o.p o.session with
        | some c =>
          if c.state == .parked && c.leave = 1 && c.preemptOrder == some i && !(s3.order? i).any Order.faulty then s3.askSlot o.p ⟨o.session, some i, false, none⟩ else s3
        | none => s3

/-- FAULT_ABORT: the order ends (R128, R308). A write-back that waits on the fault is not made (log 49: DESIGN CHOICE). -/
def State.faultAbort (s : State) (p id : Nat) : State :=
  match s.takeFault p id with
  | (s1, none) => s1
  | (s1, some i) =>
    match (s1.order? i).bind (fun o => o.faults.find? (fun x => x.id == some id)) with
    | none => s1
    | some x =>
      ((s1.upOrder i (fun o =>
        let o1 := o.endFault x.info
        if x.info.access = 3 then { o1 with streams := o1.streams.map (fun (y : Stream) => if o.streamNo y.field = x.info.stream then { y with ended := true } else y) } else o1)).endOrder i 0x12 id).settle i

/-! ### Completion (R18, R126 to R128, R140, R142, R231, R262, R321) -/

/-- An order has done all its work. -/
def State.finished (s : State) (o : Order) : Bool :=
  o.phase == .running && !o.faulty &&
  match o.name with
  | some .gather => o.bagsOut = o.f 60 4 && o.bagsKnown && o.watermark ≥ o.tileCount
  | some .recall => o.acted && o.watermark ≥ o.tileCount
  | some .score => o.acted && o.tiles.all Tile.consumed
  | some .scatter => o.merging && o.rowsLeft.isEmpty
  | some .append | some .copy => o.watermark ≥ o.tileCount
  | some .prefetch => o.watermark ≥ o.tileCount && !s.reads.any (fun r => r.isFor (fun c => match c with | .prefetch i .. => i == o.id | _ => false))
  | _ => o.acted

/-- The count field (R126). -/
def Order.countField (o : Order) : Nat :=
  match o.name with
  | some .gather => o.bagsOut
  | some .recall => o.outDone.length
  | some .score => if o.acted then o.queryCount else 0
  | some .scatter | some .append | some .copy | some .prefetch | some .accLoad | some .accStore => o.count
  | _ => 0

/-- The detail field of an order that completes with OK or OK_FLAGGED (R126). -/
def State.okDetail (s : State) (o : Order) : Nat :=
  match o.name with
  | some .gather | some .recall => o.defaults
  | some .scatter => o.spills.foldl (fun a x => a + x.2.2) 0
  | some .append => ((s.ctx? o.p o.session).map Ctx.valRows).getD 0
  | _ => 0

/-- The place of a status among the partition counters (R121). -/
def statusIx (st : Nat) : Nat := (([0x00, 0x01, 0x10, 0x11, 0x12, 0x20, 0x21, 0x22, 0x23, 0x30, 0x31, 0x32, 0x3F] : List Nat).findIdx? (· == st)).getD 12

/-- The entries of the output log (R321). -/
def Order.logEntries (o : Order) : List OutEnt :=
  let out : OutEnt := ⟨o.f 40 8, o.f 40 8 + o.countField * o.f 48 4, o.user⟩
  match o.name with
  | some .gather => [⟨o.f 48 8, o.f 48 8 + o.bagsOut * o.f 56 4, o.user⟩]
  | some .recall => [out] ++ (if o.f 56 8 ≠ 0 then [⟨o.f 56 8, o.f 56 8 + o.queryCount * o.topK * 8, o.user⟩] else [])
  | some .score => if o.keep then [] else [out]
  | some .accStore => [⟨o.f 24 8, o.f 24 8 + o.count * tileBytes o.accRows, o.user⟩]
  | some .copy => if o.f 52 1 = 1 then [⟨o.f 24 8, o.f 24 8 + o.count * o.f 48 4, o.user⟩] else []
  | _ => []

/-- Writes of an order that its completion waits for: under FACE_LOST not those behind a face that is down (R94, R142). -/
def State.owesWrites (s : State) (o : Order) : Bool :=
  let lost := (o.status.map Prod.fst) == some 0x32
  s.writes.any (fun w => w.owners.any (WriteFor.ofOrder o.id) && !(lost && !(s.face w.face).up)) ||
  s.benches.any (fun b => b.wc.any (fun e => e.owns.any (WriteFor.ofOrder o.id)))

/-- Issue the last write-back of every stream: done, and faulted where the order did not end well. Under FACE_LOST one
that cannot be made now is left to be made when the face is back (R142). -/
def State.endStreams (s : State) (o : Order) : State :=
  let good := o.status.isNone
  (o.streams.filter (fun x => !x.ended)).foldl (fun s x =>
    let v := o.descBytes x (if good then 4 else 12)
    let mark (s : State) : State := s.upOrder o.id (fun o => o.setStream x.field (fun y => { y with ended := true }))
    match s.backStream o.id x v with
    | (s1, true) => mark s1
    | (s1, false) =>
      if (o.status.map Prod.fst) == some 0x32 then
        mark (s1.upPart o.p (fun y => { y with orphans := y.orphans ++ [{ order := o.id, addr := x.addr, value := v }] }))
      else s1) s

/-- Write-backs that FACE_LOST left, once their pages can be reached (R142). -/
def State.pumpOrphans (s : State) (p : Nat) : State :=
  ((s.part p).orphans.filter (fun x => !x.sent)).foldl (fun s x =>
    match s.xlate p (eaAdd x.addr 44) true (.back x.order) with
    | (s1, .ok pa _) => (s1.writeBack p x.order x.addr (pa / 4096) x.value).upPart p (fun y => { y with orphans := y.orphans.map (fun (z : Orphan) => if z = x then { z with sent := true } else z) })
    | (s1, _) => s1) s

/-- The shadows that FACE_LOST left are freed when their write-backs are acknowledged; a write still waiting behind a face
that is down holds its shadow. -/
def State.holdOrphans (s : State) (o : Order) : State :=
  if (o.status.map Prod.fst) != some 0x32 || !s.backPending o.id then s
  else s.upPart o.p (fun y => { y with orphans := y.orphans ++
    (o.streams.filter (fun x => !y.orphans.any (fun z => z.order == o.id && z.addr == x.addr))).map (fun x =>
      ({ order := o.id, addr := x.addr, value := 0, sent := true } : Orphan)) })

/-- An order is live no more: it reads nothing, and leaves the arrays. -/
def State.removeOrder (s : State) (o : Order) : State :=
  let s1 := (s.dropOrderReads o.id).clearSkips o.p (some o.id)
  { s1 with benches := s1.benches.map (fun (b : Bench) => if b.array = some o.id then { b with array := none } else b)
            orders := s1.orders.filter (fun x => x.id != o.id) }

/-- What an order held is freed. -/
def State.freeOrder (s : State) (o : Order) : State :=
  (s.removeOrder o).upPart o.p (fun y => { y with tracks := y.tracks.filter (fun t => t.order != o.id), faults := y.faults.filter (fun f => f.order != some o.id) })

/-- The session of an order that completes (R81, R85, R262). -/
def State.sessionDone (s : State) (o : Order) (st : Nat) : State :=
  if o.session = 0xFFFF then s else
  let ctr := if st = 0 then 1 else if st = 1 then 2 else 3
  let s1 := (s.countSess o.p o.session ctr 1).fresh.upCtx o.p o.session (fun c =>
    let c1 := { c with completed := (c.completed + 1) % 2 ^ 64, lastDone := s.nextId }
    let c2 := if c1.preemptOrder = some o.id then { c1 with preemptOrder := none, haltedOrder := false, accSaved := false } else c1
    if o.op = 0x05 && st ≤ 1 then { c2 with valRows := c2.valRows + o.f 48 4, keyRows := if o.aux.isSome then c2.keyRows + o.f 48 4 else c2.keyRows } else c2)
  (((s1.maybeSteep o.p o.session).releaseIf o.p o.session).serve o.p).drainParks

/-- The completion is written (R126). -/
def State.complete (s : State) (oid : Nat) : State :=
  let s1 := s.checkTiles oid
  match s1.order? oid with
  | none => s1
  | some o =>
    let (s2, scale) := if o.status.isNone then s1.finishScale o else (s1, none)
    let flagged := o.flagged
    let plaus := !o.plausHits.isEmpty
    let (st, detail) := match o.status with
      | some x => x
      | none => (if flagged || plaus then 0x01 else 0x00, s1.okDetail o)
    let written := st ≤ 0x12
    let flags := 2 * b2n (written && flagged) + 4 * b2n (written && plaus) + 8 * b2n (o.defaults ≠ 0)
    let bytes := recordOf [(0, 1, st), (1, 1, o.op), (2, 1, flags), (3, 1, o.q), (4, 2, o.session), (6, 2, o.slot), (8, 8, o.user),
      (16, 4, o.countField), (20, 4, detail)]
    let s3 := (s2.holdOrphans o).upPart o.p (fun y =>
      { y with spillLast := if o.op = 0x04 then (o.spills.foldl (fun a x => a + x.2.2) 0) % 2 ^ 32 else y.spillLast
               outLog := if (0x20 ≤ st && st ≤ 0x23) || st = 0x3F then y.outLog else (o.logEntries.reverse ++ y.outLog).take 256 })
    let s4 := ((s3.countPart o.p (statusIx st + 1) 1).freeOrder o).queueRecord o.p (16 + o.cq) bytes o.irqNow scale
    let s5 := if o.name == some .pause && st = 0 then s4.pauseDone o.p o.bindNo else s4
    s5.sessionDone o st

/-- ORDER_COMPLETE: every write of the order is acknowledged and every check made; orders of a session complete in the order
in which they were fetched (R18, R126). -/
def State.orderComplete (s : State) (oid : Nat) : State :=
  match s.order? oid with
  | none => s
  | some o =>
    if (o.status.isNone && !s.finished o) || s.resetting o.p || o.after.any (fun i => (s.order? i).isSome) then s else
    let s1 := s.flushOrder oid
    if s1.owesWrites o then s1 else
    let s2 := s1.endStreams o
    match s2.order? oid with
    | none => s2
    | some o2 => if o2.streams.any (fun x => !x.ended) || s2.owesWrites o2 then s2 else s2.complete oid

end Sys2Proof.Machine
end

