-- ==== Sys2Proof/Machine/Clocks.lean ====
section
/-! DEFINITION. Power-good, crystals, loops and changes of source (R366 to R376, R381 to R386 of
14_clocks_and_bring_up.md). Time-outs are commands whose time is trusted (log 14). -/

namespace Sys2Proof.Machine

/-! ### Power -/

/-- Modules of face 0 begin to train: at the end of bring-up step 2 and after a die reset (R385, R386). -/
def State.trainFace (s : State) (f : Nat) : State :=
  s.upFace f (fun x => { x with mods := (x.mods.zipIdx).map (fun (y, m) =>
    if s.modPresent f m && y.state == .down then { y with state := .training } else y) })

/-- What power-on restores from the last record (R399). -/
def Wear.restored (w : Wear) : Wear :=
  match w.records with
  | [] => { life := w.life, lower := w.lower, upper := w.upper, conf := w.conf }
  | r :: _ => { records := w.records, seconds := r.seconds, cycles := r.cycles, ageing := r.ageing, spares := r.spares, lanes := r.lanes,
                thermal := r.thermal, life := w.life, lower := w.lower, upper := w.upper, conf := w.conf }

/-- PWR_GOOD rises: the repair log and the last wear record are in force, the firmware is checked, and the XA oscillator is
enabled (R335, R386, R392, R399). A suspect die drains from the start (R338). -/
def State.pwrGoodHigh (s : State) : State :=
  if s.panel.pwrGood then s else
  let tdp := s.variant.tdp
  let drain := logSuspect s.log
  let s1 := { s with
    panel := { s.panel with pwrGood := true }
    kettle := { s.kettle with cap := tdp, capReset := tdp }
    wear := s.wear.restored
    drain := if drain then { s.drain with inForce := true, cause := 1, owed := true } else s.drain }
  if s.fuses.fwGood then s1.upClk (fun c => { c with step := 2 }) else s1.upClk (fun c => { c with step := 1, halted := true })

/-- The die after power-on reset: everything is cleared except fuses, repair log and wear store; entries whose write was
deferred are lost (R384, R429). -/
def State.afterPowerOff (s : State) : State :=
  { pending := s.pending, fuses := s.fuses, log := s.log, nextId := s.nextId,
    wear := s.wear.restored,
    kettle := { cap := s.variant.tdp, capReset := s.variant.tdp } }

/-- PWR_GOOD falls: nothing is written and nothing completes (R384, R390). -/
def State.pwrGoodLow (s : State) : State := if s.panel.pwrGood then s.afterPowerOff else s

/-- The Kettle runs (R392). -/
def State.alive (s : State) : Bool := s.panel.pwrGood && !s.clk.halted

/-! ### Crystals (R368 to R371) -/

/-- The loops of XA are enabled once it is judged stable (R372). -/
def Clk.xaGood (c : Clk) : Clk := { c with xaStable := true, coreEn := true, controlEn := true }

/-- A switch requested away from a stopped source hangs until it is forced (R382). -/
def Clk.hang (c : Clk) (domain src : Nat) : Clk :=
  { c with switching := (c.switching.filter (fun x => x.1 != domain)) ++ [(domain, src)] }

/-- XA is lost: its loops stop, and the domains that run on them are asked to switch to the fast RC (R370, R372, R381). -/
def Clk.xaGone (c : Clk) (osc : Bool) : Clk :=
  let c1 := { c with xaStable := false, xaLost := true, xaRun := 0, xaOsc := osc, coreEn := false, controlEn := false, coreLock := false, controlLock := false }
  let c2 := if c.coreSrc = 1 then c1.hang 0 0 else c1
  if c.controlSrc = 1 then c2.hang 1 0 else c2

/-- XA's amplitude detector reports oscillation; the check begins (R368, R369). -/
def State.xaOscillation (s : State) : State :=
  if s.alive && !s.clk.xaStable then s.upClk (fun c => { c with xaOsc := true, xaRun := 0 }) else s

/-- A window agrees within ±0.5 % (R368). -/
def windowAgrees (n : Nat) : Bool := 15650 ≤ n && n ≤ 15807
/-- A window beyond ±2 % loses XA (R370). -/
def windowLost (n : Nat) : Bool := n < 15415 || n > 16043

/-- A window of 4,096 XA cycles ends (R368, R370); T8 and S8 only. -/
def State.xaWindow (s : State) (n : Nat) : State :=
  if !s.alive || s.variant = .l4 || !s.clk.xaOsc then s
  else if s.clk.xaStable then (if windowLost n then s.upClk (fun c => c.xaGone true) else s)
  else if !windowAgrees n then s.upClk (fun c => { c with xaRun := 0 })
  else if s.clk.xaRun + 1 ≥ 8 then s.upClk (fun c => { c with xaRun := 8 }.xaGood)
  else s.upClk (fun c => { c with xaRun := c.xaRun + 1 })

/-- No XA edge for 256 fast-RC cycles (R370); T8 and S8 only. -/
def State.xaEdgeTimeout (s : State) : State :=
  if s.alive && s.variant ≠ .l4 && s.clk.xaStable then s.upClk (fun c => c.xaGone false) else s

/-- 20 ms after power-on XA is not judged stable: xa_failed, and face 0 trains on the fast RC (R371). -/
def State.xaFailTimeout (s : State) : State :=
  if !s.alive || s.clk.xaStable || s.clk.xaFailed then s
  else
    let s1 := s.upClk (fun c => { c with xaFailed := true, step := if c.step = 2 then 3 else c.step })
    if s.clk.step = 2 then s1.trainFace 0 else s1

/-- On L4 a crystal has made 65,536 cycles since its oscillation (R369). XB moves the slow domain at once, as both of its
clocks run, and enables the Kettle loop. -/
def State.xtalStableCount (s : State) (xb : Bool) : State :=
  if !s.alive || s.variant ≠ .l4 then s
  else if xb then
    if s.clk.xbStable then s
    else s.upClk (fun c => { c with xbStable := true, kettleEn := true, kslowSrc := 3, switching := c.switching.filter (fun x => x.1 != 3) })
  else if s.clk.xaOsc && !s.clk.xaStable then s.upClk Clk.xaGood
  else s

/-- On L4 a crystal's amplitude detector stops reporting oscillation (R370). -/
def State.xtalAmplitudeLost (s : State) (xb : Bool) : State :=
  if !s.alive || s.variant ≠ .l4 then s
  else if xb then
    if !s.clk.xbStable then s
    else s.upClk (fun c =>
      let c1 := { c with xbStable := false, xbLost := true, kettleEn := false, kettleLock := false }
      let c2 := if c.kfastSrc = 1 then c1.hang 2 0 else c1
      if c.kslowSrc = 3 then c2.hang 3 2 else c2)
  else if s.clk.xaStable then s.upClk (fun c => c.xaGone false)
  else s.upClk (fun c => { c with xaOsc := false, xaRun := 0 })

/-! ### Loops (R372, R381, R382) -/

/-- Bring-up step 2 ends once both XA loops run their domains; face 0 then trains (R386). -/
def State.endStep2 (s : State) : State :=
  if s.clk.step = 2 && s.clk.coreSrc = 1 && s.clk.controlSrc = 1 then
    (s.upClk (fun c => { c with step := 3 })).trainFace 0
  else s

/-- An enabled loop reports lock and its domain switches to it: both clocks run, so the switch completes (R372, R381). -/
def State.loopLock (s : State) (loop : Nat) : State :=
  let c := s.clk
  let ends (c : Clk) : Clk := { c with switching := c.switching.filter (fun x => x.1 != loop) }
  if !s.alive then s
  else if loop = 0 then (if c.coreEn && !c.coreLock then (s.upClk (fun c => ends { c with coreLock := true, coreSrc := 1 })).endStep2 else s)
  else if loop = 1 then (if c.controlEn && !c.controlLock then (s.upClk (fun c => ends { c with controlLock := true, controlSrc := 1 })).endStep2 else s)
  else if loop = 2 && s.variant = .l4 then (if c.kettleEn && !c.kettleLock then s.upClk (fun c => ends { c with kettleLock := true, kfastSrc := 1 }) else s)
  else s

/-- A loop whose reference is sound loses its lock and stops; its domain waits for it to lock again (R372). -/
def State.loopLockLost (s : State) (loop : Nat) : State :=
  if !s.alive then s
  else match loop with
    | 0 => s.upClk (fun c => { c with coreLock := false })
    | 1 => s.upClk (fun c => { c with controlLock := false })
    | 2 => s.upClk (fun c => { c with kettleLock := false })
    | _ => s

/-- Put a domain on a source. -/
def Clk.setSrc (c : Clk) (domain src : Nat) : Clk :=
  match domain with
  | 0 => { c with coreSrc := src }
  | 1 => { c with controlSrc := src }
  | 2 => { c with kfastSrc := src }
  | 3 => { c with kslowSrc := src }
  | _ => c

/-- A switch that hangs is forced after 64 slow-RC cycles; CLK_MUX_FORCED goes to the primary (R382). -/
def State.switchForced (s : State) (domain : Nat) : State :=
  match (if s.alive then s.clk.switching.find? (fun x => x.1 == domain) else none) with
  | none => s
  | some (_, src) =>
    let s1 := s.upClk (fun c => { (c.setSrc domain src) with forced := satAdd c.forced 1 255, switching := c.switching.filter (fun x => x.1 != domain) })
    s1.dieEvent s1.primary 0x0012 domain src

/-- BEGIN needs both loops: neither domain may run on the fast RC (R371). -/
def Clk.onFastRc (c : Clk) : Bool := c.coreSrc = 0 || c.controlSrc = 0

/-- After a die reset the core loop takes the spread of CLK_PLAN_HELD; a spread that differs from the one it runs has it
relock, with the core on the fast RC meanwhile (R374, R385). A switch away from a loop that has lost its lock hangs (R372, R382). -/
def Clk.takeSpread (c : Clk) : Clk :=
  let same := c.runDepth = c.heldDepth && (c.heldDepth = 0 || c.runRate = c.heldRate)
  let c1 := { c with runDepth := c.heldDepth, runRate := c.heldRate }
  if same then c1
  else if c.coreSrc = 1 then (if c.coreLock then { c1 with coreSrc := 0, coreLock := false } else c1.hang 0 0)
  else { c1 with coreLock := false }

end Sys2Proof.Machine
end

