-- ==== Sys2Proof/Machine/Crypto.lean ====
section
/-! DEFINITION. SHA-384 and ECDSA over P-384, which a SIGNATURE section names (R55 to R58 of 02_cut_lists.md). Their
definitions are those of the cited standards, FIPS 180-4 and FIPS 186: PRESUMED (log 18). -/

namespace Sys2Proof.Machine

/-! ### SHA-384 -/

/-- The initial hash value. -/
def shaInit : List Nat := [
    0xCBBB9D5DC1059ED8, 0x629A292A367CD507, 0x9159015A3070DD17, 0x152FECD8F70E5939,
    0x67332667FFC00B31, 0x8EB44A8768581511, 0xDB0C2E0D64F98FA7, 0x47B5481DBEFA4FA4]

/-- The round constants. -/
def shaKLow : List Nat := [
    0x428A2F98D728AE22, 0x7137449123EF65CD, 0xB5C0FBCFEC4D3B2F, 0xE9B5DBA58189DBBC,
    0x3956C25BF348B538, 0x59F111F1B605D019, 0x923F82A4AF194F9B, 0xAB1C5ED5DA6D8118,
    0xD807AA98A3030242, 0x12835B0145706FBE, 0x243185BE4EE4B28C, 0x550C7DC3D5FFB4E2,
    0x72BE5D74F27B896F, 0x80DEB1FE3B1696B1, 0x9BDC06A725C71235, 0xC19BF174CF692694,
    0xE49B69C19EF14AD2, 0xEFBE4786384F25E3, 0x0FC19DC68B8CD5B5, 0x240CA1CC77AC9C65,
    0x2DE92C6F592B0275, 0x4A7484AA6EA6E483, 0x5CB0A9DCBD41FBD4, 0x76F988DA831153B5,
    0x983E5152EE66DFAB, 0xA831C66D2DB43210, 0xB00327C898FB213F, 0xBF597FC7BEEF0EE4,
    0xC6E00BF33DA88FC2, 0xD5A79147930AA725, 0x06CA6351E003826F, 0x142929670A0E6E70,
    0x27B70A8546D22FFC, 0x2E1B21385C26C926, 0x4D2C6DFC5AC42AED, 0x53380D139D95B3DF,
    0x650A73548BAF63DE, 0x766A0ABB3C77B2A8, 0x81C2C92E47EDAEE6, 0x92722C851482353B]

def shaKHigh : List Nat := [
    0xA2BFE8A14CF10364, 0xA81A664BBC423001, 0xC24B8B70D0F89791, 0xC76C51A30654BE30,
    0xD192E819D6EF5218, 0xD69906245565A910, 0xF40E35855771202A, 0x106AA07032BBD1B8,
    0x19A4C116B8D2D0C8, 0x1E376C085141AB53, 0x2748774CDF8EEB99, 0x34B0BCB5E19B48A8,
    0x391C0CB3C5C95A63, 0x4ED8AA4AE3418ACB, 0x5B9CCA4F7763E373, 0x682E6FF3D6B2B8A3,
    0x748F82EE5DEFB2FC, 0x78A5636F43172F60, 0x84C87814A1F0AB72, 0x8CC702081A6439EC,
    0x90BEFFFA23631E28, 0xA4506CEBDE82BDE9, 0xBEF9A3F7B2C67915, 0xC67178F2E372532B,
    0xCA273ECEEA26619C, 0xD186B8C721C0C207, 0xEADA7DD6CDE0EB1E, 0xF57D4F7FEE6ED178,
    0x06F067AA72176FBA, 0x0A637DC5A2C898A6, 0x113F9804BEF90DAE, 0x1B710B35131C471B,
    0x28DB77F523047D84, 0x32CAAB7B40C72493, 0x3C9EBE0A15C9BEBC, 0x431D67C49C100D4C,
    0x4CC5D4BECB3E42B6, 0x597F299CFC657E2A, 0x5FCB6FAB3AD6FAEC, 0x6C44198C4A475817]

def shaK : List Nat := shaKLow ++ shaKHigh

def m64 (x : Nat) : Nat := x % 2 ^ 64
/-- Rotate a 64-bit word right. -/
def rotr64 (n x : Nat) : Nat := (x >>> n) ||| m64 (x <<< (64 - n))
def not64 (x : Nat) : Nat := x ^^^ 0xFFFFFFFFFFFFFFFF

def shaS0 (x : Nat) : Nat := rotr64 28 x ^^^ rotr64 34 x ^^^ rotr64 39 x
def shaS1 (x : Nat) : Nat := rotr64 14 x ^^^ rotr64 18 x ^^^ rotr64 41 x
def shaT0 (x : Nat) : Nat := rotr64 1 x ^^^ rotr64 8 x ^^^ (x >>> 7)
def shaT1 (x : Nat) : Nat := rotr64 19 x ^^^ rotr64 61 x ^^^ (x >>> 6)

/-- Extend the message schedule, newest word first. -/
def shaExtend : Nat → List Nat → List Nat
  | 0, w => w
  | n + 1, w => shaExtend n (m64 (shaT1 (w.getD 1 0) + w.getD 6 0 + shaT0 (w.getD 14 0) + w.getD 15 0) :: w)

/-- One round on the eight working words. -/
def shaRound (h : List Nat) (k w : Nat) : List Nat :=
  let g (i : Nat) : Nat := h.getD i 0
  let t1 := g 7 + shaS1 (g 4) + ((g 4 &&& g 5) ^^^ (not64 (g 4) &&& g 6)) + k + w
  let t2 := shaS0 (g 0) + ((g 0 &&& g 1) ^^^ (g 0 &&& g 2) ^^^ (g 1 &&& g 2))
  [m64 (t1 + t2), g 0, g 1, g 2, m64 (g 3 + t1), g 4, g 5, g 6]

def shaBlock (h ws : List Nat) : List Nat :=
  let sched := (shaExtend 64 ws.reverse).reverse
  let r := (shaK.zip sched).foldl (fun a x => shaRound a x.1 x.2) h
  List.zipWith (fun a b => m64 (a + b)) h r

/-- Big-endian value of a list of bytes. -/
def beNat (l : List Nat) : Nat := l.foldl (fun a b => a * 256 + b) 0

/-- 64-bit words of a list of bytes, most significant byte first. -/
def beWords : Nat → List Nat → List Nat
  | 0, _ => []
  | n + 1, l => beNat (l.take 8) :: beWords n (l.drop 8)

def shaBlocks : Nat → List Nat → List Nat → List Nat
  | 0, h, _ => h
  | n + 1, h, l => shaBlocks n (shaBlock h (beWords 16 l)) (l.drop 128)

/-- The SHA-384 digest of a list of bytes, as a number of 48 bytes, most significant first. -/
def sha384 (l : List Nat) : Nat :=
  let n := l.length
  let zeros := (2 * 128 - (n + 17) % 128) % 128
  let padded := l ++ 0x80 :: List.replicate zeros 0 ++ ((List.range 16).map (fun i => (8 * n) >>> (8 * (15 - i)) % 256))
  beNatWords ((shaBlocks (padded.length / 128) shaInit padded).take 6)
where
  beNatWords (ws : List Nat) : Nat := ws.foldl (fun a b => a * 2 ^ 64 + b) 0

/-! ### ECDSA over P-384 -/

/-- The field prime. -/
def p384 : Nat := 2 ^ 384 - 2 ^ 128 - 2 ^ 96 + 2 ^ 32 - 1
/-- The order of the base point. -/
def n384 : Nat := 0xFFFFFFFFFFFFFFFFFFFFFFFFFFFFFFFFFFFFFFFFFFFFFFFFC7634D81F4372DDF581A0DB248B0A77AECEC196ACCC52973
/-- The coefficient b of the curve y² = x³ − 3x + b. -/
def b384 : Nat := 0xB3312FA7E23EE7E4988E056BE3F82D19181D9C6EFE8141120314088F5013875AC656398D8A2ED19D2A85C8EDD3EC2AEF
def gx384 : Nat := 0xAA87CA22BE8B05378EB1C71EF320AD746E1D3B628BA79B9859F741E082542A385502F25DBF55296C3A545E3872760AB7
def gy384 : Nat := 0x3617DE4A96262C6F5D9E98BF9292DC29F8F41DBD289A147CE9DA3113B5F0B8C00A60B1CE1D7E819D7A431D7C90EA0E5F

/-- b ^ e modulo m over the low `fuel` bits of e. -/
def powMod (m : Nat) : Nat → Nat → Nat → Nat
  | 0, _, _ => 1 % m
  | fuel + 1, b, e =>
    let r := powMod m fuel (b * b % m) (e / 2)
    if e % 2 = 1 then b * r % m else r

/-- The inverse modulo a prime below 2^384. -/
def invMod (m a : Nat) : Nat := powMod m 384 (a % m) (m - 2)

/-- A point; none is the point at infinity. -/
abbrev Pt : Type := Option (Nat × Nat)

def ptAdd (a b : Pt) : Pt :=
  match a, b with
  | none, q => q
  | q, none => q
  | some (x1, y1), some (x2, y2) =>
    if x1 = x2 && (y1 + y2) % p384 = 0 then none else
    let l :=
      if x1 = x2 then (3 * x1 * x1 + (p384 - 3)) * invMod p384 (2 * y1) % p384
      else (y2 + (p384 - y1)) * invMod p384 (x2 + (p384 - x1)) % p384
    let x3 := (l * l + (p384 - x1) + (p384 - x2)) % p384
    some (x3, (l * (x1 + (p384 - x3)) + (p384 - y1)) % p384)

/-- k times a point over the low `fuel` bits of k. -/
def ptMul : Nat → Nat → Pt → Pt
  | 0, _, _ => none
  | fuel + 1, k, q =>
    let r := ptMul fuel (k / 2) (ptAdd q q)
    if k % 2 = 1 then ptAdd q r else r

def onCurve (x y : Nat) : Bool := x < p384 && y < p384 && y * y % p384 == (x * x * x + (p384 - 3) * x + b384) % p384

/-- Verify a signature (r, s) of a digest under a public point. -/
def ecdsaGood (digest x y r s : Nat) : Bool :=
  if r = 0 || r ≥ n384 || s = 0 || s ≥ n384 || !onCurve x y then false else
  let w := invMod n384 s
  match ptAdd (ptMul 384 (digest * w % n384) (some (gx384, gy384))) (ptMul 384 (r * w % n384) (some (x, y))) with
  | none => false
  | some (vx, _) => vx % n384 == r

/-- The public key of a SIGNATURE section is an uncompressed SEC 1 point (R55, R56). -/
def sigKey (section_ : Nat) : List Nat := bytesOf (section_ >>> (8 * 8)) 97

/-- A SIGNATURE section verifies over the image bytes it covers; where a key digest is fused, the key's digest equals it
(R57, R58). -/
def signatureGood (digestSet : Bool) (keyDigest : Nat) (covered : List Nat) (section_ : Nat) : Bool :=
  let key := sigKey section_
  let r := beAt section_ 112 48
  let s := beAt section_ 160 48
  (!digestSet || sha384 key == keyDigest) && key.headD 0 == 4 &&
    ecdsaGood (sha384 covered) (beNat ((key.drop 1).take 48)) (beNat (key.drop 49)) r s

end Sys2Proof.Machine
end

