-- ==== Sys2Proof/Machine/CutList.lean ====
section
/-! DEFINITION. Cut-list images: the checks of R59 that concern the image alone, made at STAGE, the sections an image
holds, and the checks of the configuration that would result, made at COMMIT (R28 to R61 of 02_cut_lists.md; R156, R158,
R163, R194, R196, R199, R201, R213, R214, R239, R241, R242, R250, R270, R293). Where several checks fail, the first failing
section decides and within it the first reason of the table of R59 (log 17). -/

namespace Sys2Proof.Machine

/-- Reasons that fail: each is given where its condition holds. -/
def bad (c : Bool) (reason : Nat) : List Nat := if c then [reason] else []

/-- The first reason in the order of R59. -/
def minReason : List Nat → Option Nat
  | [] => none
  | x :: xs => some (xs.foldl min x)

/-- An image in memory order: bytes as a number, and how many. -/
structure Image where
  v : Nat
  n : Nat
  deriving DecidableEq, Repr

def Image.kind (i : Image) : Nat := leAt i.v 7 1
def Image.count (i : Image) : Nat := leAt i.v 12 2
def Image.imageId (i : Image) : Nat := leAt i.v 24 8
/-- The image with its witness field taken as 0 (R34, R57). -/
def Image.unwitnessed (i : Image) : Nat := i.v - (leAt i.v 16 4) <<< 128

/-- An entry of the section table (R35). -/
structure Entry where
  type : Nat
  owner : Nat
  inst : Nat
  delete : Bool
  reserved : Bool
  offset : Nat
  length : Nat
  deriving DecidableEq, Repr

def Image.entry (i : Image) (k : Nat) : Entry :=
  let x := leAt i.v (64 + 16 * k) 16
  { type := leAt x 0 1, owner := leAt x 1 1, inst := leAt x 2 2, delete := (leAt x 4 1).testBit 0,
    reserved := leAt x 4 1 ≥ 2 || leAt x 5 3 != 0, offset := leAt x 8 4, length := leAt x 12 4 }

def Image.entries (i : Image) : List Entry := (List.range i.count).map i.entry
def Image.payload (i : Image) (e : Entry) : Nat := leAt i.v e.offset e.length

/-- The header, variant, witness and signature checks (R28, R34, R37, R55 to R58, R63). A section table that does not fit in the length is
a section_count out of range: R36 gives it no reason of its own (log 50: DESIGN CHOICE). -/
def Image.headReason (i : Image) (f : Fuses) : Option Nat :=
  let size := leAt i.v 8 4
  if i.n < 64 || leAt i.v 0 4 ≠ 0x4C434B48 || leAt i.v 4 2 ≠ 1 || i.kind > 1 || size % 64 ≠ 0 || size > 2 ^ 26 || size ≠ i.n ||
      i.count = 0 || i.count > 4096 || 64 + 16 * i.count > size then some 0x01
  else if leAt i.v 6 1 ≠ f.variant.code then some 0x02
  else if crc32c i.unwitnessed i.n ≠ leAt i.v 16 4 then some 0x03
  else
    match i.entries.find? (fun e => e.type == 0x0D && !e.delete) with
    | none => if f.secureLoad then some 0x04 else none
    | some e =>
      let whole := e.length = 208 && e.offset + 208 ≤ i.n && leAt i.v e.offset 2 = 1
      if whole && !signatureGood f.digestSet f.keyDigest (bytesOf i.unwitnessed e.offset) (i.payload e) then some 0x05 else none

/-! ### Sections (R39 to R52) -/

def isGlobalType (t : Nat) : Bool := t == 1 || t == 2 || t == 3 || t == 9 || t == 0xA || t == 0xB || t == 0xD

/-- Highest instance of a type (R39). -/
def maxInst (t : Nat) : Nat :=
  match t with
  | 4 => 1023
  | 5 => 255
  | 6 => 4095
  | 7 => 255
  | 8 => 255
  | 0xC => 63
  | _ => 0

/-- Entries of a table of fixed size at an offset of a payload. -/
def entriesAt (pl off size n : Nat) : List Nat := (List.range n).map (fun i => leAt pl (off + size * i) size)

/-- What the payload of a section gives: reasons it fails, and its content. -/
abbrev Parse : Type := List Nat × Section

/-- A face that is not present (R29). -/
def faceAbsent (v : Variant) (f : Nat) : Bool := f ≥ v.faceCount

def parsePartitions (v : Variant) (pl : Nat) : Parse :=
  let xs := (entriesAt pl 0 16 8).zipIdx
  let ent (x : Nat) : PartEnt := { enabled := (leAt x 0 1).testBit 0, benchMask := leAt x 1 1, hostFace := leAt x 2 1, tagBase := leAt x 4 2, tagCount := leAt x 6 2 }
  let one (x : Nat × Nat) : List Nat :=
    let e := ent x.1
    bad (leAt x.1 0 1 ≥ 2 || leAt x.1 3 1 != 0 || leAt x.1 8 8 != 0) 0x06 ++
    (if !e.enabled then bad (x.1 != 0) 0x0A
     else bad (x.2 ≥ v.benchCount || e.benchMask ≥ 2 ^ v.benchCount || faceAbsent v e.hostFace) 0x09 ++
       bad (e.benchMask = 0 || e.tagCount > 256 || e.tagBase + e.tagCount > 256) 0x0A)
  let es := xs.map (fun x => ent x.1)
  let p0 := es.getD 0 {}
  (xs.flatMap one ++ bad (!p0.enabled || p0.hostFace != 0) 0x0A, .partitions es)

def parseWays (pl : Nat) : Parse :=
  let xs := entriesAt pl 0 4 8
  (bad (xs.any (fun x => x ≥ 2 ^ 16)) 0x06, .ways (xs.map (· % 2 ^ 16)))

/-- Ranges, as base and end, do not overlap; empty ones overlap nothing. -/
def disjoint (l : List (Nat × Nat)) : Bool :=
  let s := sortBy (fun a b => decide (a.1 ≤ b.1)) (l.filter (fun x => x.1 < x.2))
  (s.zip (s.drop 1)).all (fun x => x.1.2 ≤ x.2.1)

def parseStacks (v : Variant) (pl len : Nat) : Parse :=
  let n := leAt pl 0 1
  if len < 8 || n = 0 || n > 16 || len ≠ 8 + 32 * n then ([0x0A], .stacks []) else
  let xs := entriesAt pl 8 32 n
  let ent (x : Nat) : StackEnt := { base := leAt x 0 8, length := leAt x 8 8, kind := leAt x 16 1, nearFace := leAt x 17 1, altFaces := leAt x 18 1, stackNo := leAt x 19 1 }
  let one (x : Nat) : List Nat :=
    let e := ent x
    bad (leAt x 20 12 != 0) 0x06 ++ bad (faceAbsent v e.nearFace || e.altFaces ≥ 2 ^ v.faceCount) 0x09 ++
    bad (e.base % 2 ^ 30 != 0 || e.length = 0 || e.length % 2 ^ 30 != 0 || e.base + e.length > 2 ^ 48 || e.kind > 1 ||
      (e.kind = 0 && e.stackNo > 7) || (e.kind = 1 && e.stackNo != 0xFF)) 0x0A
  let es := xs.map ent
  (bad (leAt pl 1 7 != 0) 0x06 ++ xs.flatMap one ++ bad (!disjoint (es.map (fun e => (e.base, e.base + e.length)))) 0x0A, .stacks es)

/-- A binding's fields (R44). -/
def bindingAt (x : Nat) : Binding :=
  { base := leAt x 0 8, rowCount := leAt x 8 4, rowBytes := leAt x 12 2, fmt := leAt x 14 1, layout := leAt x 15 1, stride := leAt x 16 2,
    shardMap := leAt x 18 2, defaultRow := leAt x 20 4, reduction := leAt x 24 1, orderClass := leAt x 25 1, update := leAt x 26 1,
    scaleMode := leAt x 27 1, scaleTable := leAt x 28 2, wayMask := leAt x 30 2, stateBase := leAt x 32 8, trailerBase := leAt x 40 8,
    maxBatch := leAt x 48 4, spill := leAt x 52 2, plaus := leAt x 54 2, learnRate := BitVec.ofNat 32 (leAt x 56 4),
    epsilon := BitVec.ofNat 32 (leAt x 60 4), tableId := leAt x 64 4 }

/-- The rules of a binding by itself (R44, R156, R158, R163, R217, R239, R241, R293). -/
def bindingRules (b : Binding) : Bool :=
  let cls := fld b.orderClass 1 0
  let grp := fld b.orderClass 3 2
  (32 ≤ b.rowBytes && b.rowBytes ≤ 4096 && b.rowBytes % 32 = 0) && b.fmt ≤ 5 && b.layout ≤ 1 &&
  (b.stride % 32 = 0 && b.stride ≥ b.rowBytes + (if b.layout = 0 then 8 else 0)) &&
  b.reduction ≤ 6 && b.update ≤ 3 && b.scaleMode ≤ 3 &&
  (cls ≤ 1 && grp ≤ 2 && (cls = 1 || grp = 0)) &&
  (b.scaleMode != 3 || b.fmt ≤ 3) && !(b.scaleMode = 2 && !b.sharded) &&
  (b.defaultRow = 0xFFFFFFFF || b.defaultRow < b.rowCount) &&
  eaOk b.base && eaOk b.stateBase && eaOk b.trailerBase &&
  (if b.layout = 1 then !b.sharded && b.trailerBase % 128 = 0 else b.trailerBase = 0) &&
  (if b.update = 0 then b.maxBatch = 0 && b.spill = 0xFFFF && b.stateBase = 0
   else (b.fmt = 4 || b.fmt = 5) && b.scaleMode = 0 && b.orderClass % 16 = 0 && b.defaultRow = 0xFFFFFFFF && 1 ≤ b.maxBatch && b.maxBatch ≤ 2 ^ 20 &&
     (if b.update = 3 then b.stateBase != 0 && b.stateBase % 128 = 0 else b.stateBase = 0))

def parseBinding (pl : Nat) : Parse :=
  let b := bindingAt pl
  (bad (b.orderClass ≥ 16 || leAt pl 68 60 != 0) 0x06 ++ bad (!bindingRules b) 0x0A, .binding b)

/-- Rows strictly rising. -/
def rising : List Nat → Bool
  | a :: b :: r => a < b && rising (b :: r)
  | _ => true

def parseShards (pl len : Nat) : Parse :=
  let n := leAt pl 4 2
  let k := leAt pl 6 2
  if len < 16 || n = 0 || n > 4096 || k > 1024 || len ≠ 16 + 32 * n + 16 * k then ([0x0A], .shardMap ⟨0, [], []⟩) else
  let xs := entriesAt pl 16 32 n
  let rs := entriesAt pl (16 + 32 * n) 16 k
  let ent (x : Nat) : Shard := { primary := leAt x 0 8, replica := leAt x 8 8, pStack := leAt x 16 1, rStack := leAt x 17 1, scaleIndex := leAt x 18 2 }
  let red (x : Nat) : Redirect := { row := leAt x 0 4, stack := leAt x 4 1, addr := leAt x 8 8 }
  let one (x : Nat) : List Nat :=
    let e := ent x
    bad (leAt x 20 12 != 0) 0x06 ++
    bad (!eaOk e.primary || !eaOk e.replica || (e.replica == 0) != (e.rStack == 0xFF) || e.rStack == e.pStack) 0x0A
  let m : ShardMap := ⟨leAt pl 0 4, xs.map ent, rs.map red⟩
  (bad (leAt pl 8 8 != 0 || rs.any (fun x => leAt x 5 3 != 0)) 0x06 ++ xs.flatMap one ++
    bad (!rising (m.redirects.map Redirect.row) || m.redirects.any (fun r => !eaOk r.addr)) 0x0A, .shardMap m)

def jigAt (x : Nat) : Jig :=
  { kind := leAt x 0 1, benchMask := leAt x 1 1, lead := leAt x 2 1, tileOrder := leAt x 3 1, splitLen := leAt x 4 4, prefetch := leAt x 8 1,
    laneRotate := leAt x 9 1, mergeShare := leAt x 12 4, qTile := leAt x 16 2, kTile := leAt x 18 2, dims := leAt x 20 2, fmt := leAt x 22 1,
    flags := leAt x 23 1, accTiles := leAt x 24 2, topK := leAt x 26 2, spillSel := leAt x 28 2, faces := bytesOf (x >>> (8 * 64)) 64 }

def Jig.strains (j : Jig) : Bool := j.kind == 2 || j.kind == 3
def Jig.glues (j : Jig) : Bool := j.kind == 4 || j.kind == 5

/-- Units and benches that the variant lacks (R29, R194). -/
def jigAbsent (v : Variant) (j : Jig) : Bool :=
  (j.strains && !v.hasStrainer) || (j.glues && !v.hasGlue) || j.benchMask ≥ 2 ^ v.benchCount || (j.strains && j.flags.testBit 1 && !v.hasStrainer)

/-- The rules of a jig by itself (R52, R194, R199, R201, R213, R214, R217, R242). -/
def jigRules (j : Jig) : Bool :=
  [1, 2, 3, 4, 5, 6, 8].contains j.kind && j.benchMask != 0 && j.lead < 8 && j.benchMask.testBit j.lead &&
  j.tileOrder ≤ 2 && (j.tileOrder != 2 || j.kind = 1) &&
  (if j.tileOrder = 2 then j.splitLen % 256 = 0 && 256 ≤ j.splitLen && j.splitLen ≤ 65536 else j.splitLen = 0) &&
  (!j.glues || j.tileOrder = 1) && (j.kind != 5 || j.mergeShare ≥ 131072) && j.mergeShare % 4096 = 0 && (j.glues || j.mergeShare = 0) &&
  (j.kind = 4 || j.spillSel = 0) &&
  (if j.strains then
    1 ≤ j.qTile && j.qTile ≤ 256 && j.kTile != 0 && j.kTile % 256 = 0 && 32 ≤ j.dims && j.dims ≤ 4096 && j.dims % 32 = 0 && j.fmt ≤ 4 &&
    1 ≤ j.topK && j.topK ≤ 1024 &&
    !(j.kind = 2 && (j.flags.testBit 2 || j.flags.testBit 3)) &&
    (j.flags.testBit 4 == (j.fmt ≥ 2)) && (!j.flags.testBit 1 || j.fmt ≤ 1) &&
    (!j.flags.testBit 2 || (!j.flags.testBit 0 && !j.flags.testBit 1)) && (!j.prefetch.testBit 3 || j.flags.testBit 0)
   else j.qTile = 0 && j.kTile = 0 && j.dims = 0 && j.fmt = 0 && j.flags = 0 && j.accTiles = 0 && j.topK = 0 && !j.prefetch.testBit 3)

def parseJig (v : Variant) (pl : Nat) : Parse :=
  let j := jigAt pl
  (bad (j.prefetch ≥ 16 || j.laneRotate ≥ 16 || j.flags ≥ 32 || leAt pl 10 2 != 0 || leAt pl 30 34 != 0 || j.faces.any (· ≥ 32)) 0x06 ++
    bad (jigAbsent v j) 0x09 ++ bad (!jigRules j) 0x0A, .jig j)

def parseScales (pl len : Nat) : Parse :=
  let n := leAt pl 0 2
  if len < 8 || n = 0 || n > 4096 || len ≠ 8 + 16 * n then ([0x0A], .scales []) else
  let xs := entriesAt pl 8 16 n
  let ent (x : Nat) : ScaleEnt := { m := leAt x 0 4, s := leAt x 4 1, bound := leAt x 5 1, adapt := (leAt x 6 1).testBit 0, fp := BitVec.ofNat 32 (leAt x 8 4) }
  let one (x : Nat) : List Nat :=
    let e := ent x
    bad (leAt x 6 1 ≥ 2 || leAt x 7 1 != 0 || leAt x 12 4 != 0) 0x06 ++ bad (e.m ≥ 2 ^ 31 || e.s = 0 || e.s > 62 || e.bound > 16) 0x0A
  (bad (leAt pl 2 6 != 0) 0x06 ++ xs.flatMap one, .scales (xs.map ent))

def parsePlaus (pl : Nat) : Parse :=
  (bad (leAt pl 10 22 != 0) 0x06, .plaus ⟨BitVec.ofNat 32 (leAt pl 0 4), BitVec.ofNat 32 (leAt pl 4 4), leAt pl 8 2⟩)

def parseQuotas (pl : Nat) : Parse :=
  let xs := entriesAt pl 0 8 8
  (bad (xs.any (fun x => leAt x 3 5 != 0)) 0x06, .quotas (xs.map (fun x => (leAt x 0 2, leAt x 2 1))))

def parsePolicy (pl : Nat) : Parse :=
  let k : Policy := ⟨(leAt pl 0 1).testBit 0, (leAt pl 0 1).testBit 1, leAt pl 1 1, leAt pl 2 1, leAt pl 3 1, leAt pl 4 4, leAt pl 8 2, leAt pl 10 2⟩
  (bad (leAt pl 0 1 ≥ 4 || leAt pl 12 20 != 0) 0x06 ++
    bad (k.shift = 0 || k.shift > 8 || k.hyst > 50 || k.holdMs = 0 || k.holdMs > 10000 || k.rowsMax = 0 || k.rowsMax > 1024) 0x0A, .policy k)

def parsePlan (v : Variant) (pl : Nat) : Parse :=
  let c : Plan := { depth := leAt pl 0 1, rate := leAt pl 1 1, faces := leAt pl 2 1 }
  (bad (c.faces.testBit 0 || c.faces ≥ 16 || leAt pl 3 13 != 0) 0x06 ++ bad (c.faces % 16 ≥ 2 ^ v.faceCount) 0x09 ++
    bad (c.depth > 8 || (c.depth != 0 && (c.rate < 25 || c.rate > 63))) 0x0A, .plan c)

def parseSpill (pl : Nat) : Parse :=
  let x : Spill := { base := leAt pl 0 8, length := leAt pl 8 8 }
  (bad (x.base % 4096 != 0 || x.length % 4096 != 0 || !eaOk x.base) 0x0A, .spill x)

/-- The form of a SIGNATURE section (R55); nothing of it is kept. -/
def parseSignature (pl : Nat) : Parse :=
  (bad (leAt pl 2 6 != 0 || leAt pl 105 7 != 0) 0x06 ++ bad (leAt pl 0 2 != 1) 0x0A, .deleted)

/-- The size of a payload that has one size (R39). -/
def fixedSize (t : Nat) : Option Nat :=
  match t with
  | 1 => some 128
  | 2 => some 32
  | 4 => some 128
  | 6 => some 128
  | 8 => some 32
  | 9 => some 64
  | 0xA => some 32
  | 0xB => some 16
  | 0xC => some 16
  | 0xD => some 208
  | _ => none

def parseSection (v : Variant) (t pl len : Nat) : Parse :=
  if (fixedSize t).any (· != len) then ([0x0A], .deleted) else
  match t with
  | 1 => parsePartitions v pl
  | 2 => parseWays pl
  | 3 => parseStacks v pl len
  | 4 => parseBinding pl
  | 5 => parseShards pl len
  | 6 => parseJig v pl
  | 7 => parseScales pl len
  | 8 => parsePlaus pl
  | 9 => parseQuotas pl
  | 0xA => parsePolicy pl
  | 0xB => parsePlan v pl
  | 0xC => parseSpill pl
  | _ => parseSignature pl

/-- The least accumulator tiles of a forward jig (R196). -/
def minAccTiles (j : Jig) : Nat := (if j.blocks = 1 then 2 else ceilDiv j.kTile 256) + ceilDiv j.topK 128

/-- Rules of a section among its own fields: tag ranges and bench masks of the partitions, the sum of the contexts, and what a jig asks
of the accumulator store and the operand memory (R41, R48, R60, R196, R213). They concern the image alone (R63). -/
def Section.alone : Section → List Nat
  | .partitions es =>
    let on := es.filter PartEnt.enabled
    bad (!disjoint (on.map (fun e => (e.tagBase, e.tagBase + e.tagCount))) || (List.range 8).any (fun b => (on.filter (fun e => e.benchMask.testBit b)).length > 1)) 0x0A
  | .quotas es => bad ((es.map Prod.fst).foldl (· + ·) 0 > 16384) 0x0D
  | .jig j =>
    bad (j.strains && (j.accTiles * j.qTile * 1024 > 2 * 2 ^ 20 || (j.resident && j.kTile * j.stored * elemBits j.fmt > 8 * 2 ^ 20 * 8) ||
      (if j.transposed then j.accTiles < 2 || j.accTiles * 256 * min j.stored (dMax j.fmt) * 4 > 2 * 2 ^ 20 else j.accTiles < minAccTiles j))) 0x0D
  | _ => []

def Entry.key (e : Entry) : Nat := (e.type * 256 + e.owner) * 65536 + e.inst

/-- The checks of an entry of the table, given those before it (R8, R29, R35, R36, R39, R40). -/
def Image.entryReasons (i : Image) (v : Variant) (stager : Nat) (before : List Entry) (e : Entry) : List Nat :=
  let place := e.offset % 64 != 0 || e.length != 0 && (e.offset < 64 + 16 * i.count || e.offset + e.length > i.n ||
    before.any (fun x => x.length != 0 && e.offset < x.offset + x.length && x.offset < e.offset + e.length) ||
    (e.type == 0x0D && i.entries.any (fun x => x.length != 0 && x.offset > e.offset)))
  let known := 1 ≤ e.type && e.type ≤ 0x0D
  bad e.reserved 0x06 ++
  bad (before.getLast?.any (fun x => e.key ≤ x.key) || place) 0x07 ++
  bad (stager != 0 && known && e.type != 0x0D && e.owner != stager) 0x08 ++
  bad (v.benchCount ≤ e.owner && e.owner ≤ 7) 0x09 ++
  bad (!known || e.owner > 7 || (isGlobalType e.type && (e.owner != 0 || e.inst != 0)) || (known && !isGlobalType e.type && e.inst > maxInst e.type) ||
    (e.delete && e.length != 0)) 0x0A ++
  (if known && !e.delete && !place then
    let (reasons, body) := parseSection v e.type (i.payload e) e.length
    reasons ++ body.alone
   else [])

/-- The first failing section of an image and its reason, from entry `k` on. -/
def Image.sectionReason (i : Image) (v : Variant) (stager : Nat) : Nat → List Entry → List Entry → Option (Nat × Nat)
  | _, _, [] => none
  | k, before, e :: rest =>
    match minReason (i.entryReasons v stager before e) with
    | some r => some (r, k)
    | none => i.sectionReason v stager (k + 1) (before ++ [e]) rest

/-- The global sections that every full image holds (R38). -/
def globals : List Nat := [1, 2, 3, 9, 0xA, 0xB]

/-- The checks of an image at STAGE: the reason, 0 for none, and the index of the failing section (R59, R63). -/
def Image.check (i : Image) (f : Fuses) (stager : Nat) : Nat × Nat :=
  match i.headReason f with
  | some r => (r, 0xFFF)
  | none =>
    if leAt i.v 14 2 ≠ 0 || leAt i.v 32 32 ≠ 0 then (0x06, 0xFFF)
    else if stager ≠ 0 && i.kind = 0 then (0x08, 0xFFF)
    else
      match i.sectionReason f.variant stager 0 [] i.entries with
      | some (r, k) => (r, k)
      | none =>
        if i.kind = 0 && globals.any (fun t => !i.entries.any (fun e => e.type == t && !e.delete)) then (0x12, 0xFFF) else (0, 0xFFF)

/-- The sections that a good image stages; a signature is not kept. -/
def Image.sections (i : Image) (v : Variant) : List Sec :=
  (i.entries.filter (fun e => e.type != 0x0D)).map (fun e =>
    ⟨e.type, e.owner, e.inst, if e.delete then .deleted else (parseSection v e.type (i.payload e) e.length).2⟩)

/-! ### The configuration that would result (R38, R59) -/

def Sec.sameKey (a b : Sec) : Bool := a.type == b.type && a.owner == b.owner && a.inst == b.inst
def Sec.key (a : Sec) : Nat := (a.type * 256 + a.owner) * 65536 + a.inst
def Sec.isDelete (a : Sec) : Bool := a.body == .deleted

/-- Replace or add sections by key. -/
def overlay (old new : List Sec) : List Sec := old.filter (fun a => !new.any (fun b => a.sameKey b)) ++ new

/-- The configuration that a transaction would give, in key order. -/
def Txn.result (t : Txn) (live : List Sec) : List Sec :=
  sortBy (fun a b => decide (a.key ≤ b.key)) ((overlay (if t.fullStaged then [] else live) t.staged).filter (fun a => !a.isDelete))

/-- The bound of R61 and R250 for a binding under a SCATTER_MERGE jig and a segment length. -/
def spillReason (b : Binding) (j : Jig) (length : Nat) : List Nat :=
  let n := popcount j.benchMask
  let perLane := 16 * ceilDiv (ceilDiv b.maxBatch 256) n
  let slots := j.mergeShare / 16 / roundUp (4 * b.elems + 8) 32
  let cap := length / (n * 16 * roundUp (4 * b.elems + 16) 128)
  if slots = 0 then [0x0D] else bad (cap < perLane - slots) 0x0C

/-- The length of the segment of a pairing (R52, R61); none where it names a segment that does not exist. -/
def pairSegment (l : List Sec) (p : Nat) (b : Binding) (j : Jig) : Option Nat :=
  let inst := if j.spillSel = 0 then b.spill else j.spillSel - 1
  if j.spillSel = 0 && b.spill = 0xFFFF then some 0 else (spillOf l p inst).map Spill.length

/-- Checks of a binding against the other sections (R44, R45, R59, R76, R156, R241). -/
def bindingIn (l : List Sec) (p : Nat) (b : Binding) : List Nat :=
  let e := partEnt l p
  let owned (a : Nat) : Bool := e.hasTag (eaTag a)
  let m := if b.sharded then shardMapOf l p b.shardMap else none
  let t := if b.scaleMode = 1 || b.scaleMode = 2 then scalesOf l p b.scaleTable else none
  bad (!owned b.base || (b.stateBase != 0 && !owned b.stateBase) || (b.layout = 1 && !owned b.trailerBase) ||
      m.any (fun m => m.shards.length * m.shardRows < b.rowCount)) 0x0A ++
  bad ((b.sharded && m.isNone) || ((b.scaleMode = 1 || b.scaleMode = 2) && t.isNone) ||
      (b.scaleMode = 2 && (match m, t with | some m, some t => m.shards.any (fun x => x.scaleIndex ≥ t.length) | _, _ => false)) ||
      (b.spill != 0xFFFF && (spillOf l p b.spill).isNone) || (b.plaus != 0xFFFF && (plausOf l p b.plaus).isNone)) 0x0B ++
  (if b.update = 0 then [] else
    (l.filter (fun x => x.type == 6 && x.owner == p)).flatMap (fun x =>
      match x.body with
      | .jig j => if j.kind = 4 then (match pairSegment l p b j with | some n => spillReason b j n | none => []) else []
      | _ => []))

def shardsIn (l : List Sec) (p : Nat) (m : ShardMap) : List Nat :=
  let e := partEnt l p
  let owned (a : Nat) : Bool := e.hasTag (eaTag a)
  let n := (stacksOf l).length
  bad (m.shards.any (fun x => !owned x.primary || (x.replica != 0 && !owned x.replica)) || m.redirects.any (fun r => !owned r.addr)) 0x0A ++
  bad (m.shards.any (fun x => x.pStack ≥ n || (x.rStack != 0xFF && x.rStack ≥ n)) || m.redirects.any (fun r => r.stack ≥ n)) 0x0B

/-- The shares of merge buffer on some bench of a jig exceed 8 MiB (R60). -/
def sharesOver (l : List Sec) (j : Jig) : Bool :=
  (setBits j.benchMask).any (fun b =>
    (l.foldl (fun a x => match x.body with | .jig k => if k.glues && k.benchMask.testBit b then a + k.mergeShare else a | _ => a) 0) > 8 * 2 ^ 20)

def jigIn (l : List Sec) (p : Nat) (j : Jig) : List Nat :=
  let e := partEnt l p
  let mask := if e.enabled then e.benchMask else 0
  let st := stacksOf l
  let wrong (i f : Nat) : Bool := match st[i]? with | some x => f != x.nearFace && !x.altFaces.testBit f | none => false
  let byte (k : Nat) : Nat := j.faces.getD k 0
  bad (j.benchMask &&& (0xFF ^^^ mask) != 0 || (List.range 64).any (fun k => k ≥ 4 * st.length && byte k != 0)) 0x0A ++
  bad ((List.range 64).any (fun k => wrong (k / 4) (fld (byte k) 1 0) || wrong (k / 4) (fld (byte k) 3 2)) ||
    (j.spillSel != 0 && (spillOf l p (j.spillSel - 1)).isNone)) 0x0B ++
  bad (j.glues && sharesOver l j) 0x0D

/-- Checks of one section of the configuration that would result, against its other sections. -/
def sectionIn (l : List Sec) (x : Sec) : List Nat :=
  match x.body with
  | .quotas es =>
    bad ((es.zipIdx).any (fun y =>
      let e := partEnt l y.2
      y.1.2 > 8 * (if e.enabled then popcount e.benchMask else 0))) 0x0D
  | .binding b => bindingIn l x.owner b
  | .shardMap m => shardsIn l x.owner m
  | .jig j => jigIn l x.owner j
  | .spill sp =>
    let others := l.filterMap (fun y => match y.body with | .spill z => if y.owner = x.owner then some (z.base, z.base + z.length) else none | _ => none)
    bad (!(partEnt l x.owner).hasTag (eaTag sp.base) || !disjoint others) 0x0A
  | _ => []

/-- The first failing section of a list in key order, and its reason. -/
def firstBad (f : Sec → List Nat) : List Sec → Option (Nat × Sec)
  | [] => none
  | x :: xs => match minReason (f x) with | some r => some (r, x) | none => firstBad f xs

end Sys2Proof.Machine
end

