-- ==== Sys2Proof/Machine/Txn.lean ====
section
/-! DEFINITION. Configuration transactions: BEGIN, STAGE, COMMIT, ROLLBACK, validation, the switch, epochs, expiry, and the
Kettle's own transaction (R30, R38, R62 to R70, R172, R202, R236, R272, R278, R285, R287, R295, R374, R386, R413). -/

namespace Sys2Proof.Machine

/-! ### Commands of partitions (R62, R63, R67, R371, R397) -/

/-- A window register of a partition can be written: the window exists and no partition reset is in progress (R95, R432). -/
def State.windowOpen (s : State) (p : Nat) : Bool := p < s.maxParts && !(s.part p).busy

/-- A command is refused: its reason alone changes; no TXN_DONE is posted. -/
def State.txnRefuse (s : State) (p reason : Nat) : State := s.upPart p (fun x => { x with reason := reason, sect := 0xFFF })

/-- A command ends: its reason and TXN_DONE (R67). Commands: 1 BEGIN, 2 STAGE, 3 COMMIT, 4 ROLLBACK. -/
def State.txnDone (s : State) (p command reason sect : Nat) : State :=
  (s.upPart p (fun x => { x with reason := reason, sect := sect })).event p 0x0003 command reason

/-- BEGIN. -/
def State.txnBegin (s : State) (p : Nat) : State :=
  if !s.windowOpen p then s
  else if s.cfg.txn.state != .idle then s.txnRefuse p 0x0F
  else if !s.cfg.regionValid then s.txnRefuse p 0x13
  else if s.clk.onFastRc then s.txnRefuse p 0x14
  else if s.kettle.beginHold then s.txnRefuse p 0x15
  else ((s.upCfg (fun c => { c with regionLocked := true, txn := { state := .opened, owner := p } })).txnRefuse p 0)

/-- The reads of a STAGE are given up. -/
def State.endStageReads (s : State) : State := s.quitReads .stage

/-- The lines of the image being staged. -/
def Txn.lines (t : Txn) : List Nat := if t.length > 2 ^ 26 then [] else linesOf t.addr t.length

/-- Ask for the lines of the image that are neither held nor asked for, through the owner's host face (R63). -/
def State.askStage (s : State) : State :=
  let t := s.cfg.txn
  s.ask .stage t.owner none (s.hostFace t.owner) t.lines none

/-- STAGE takes its address and length now (R441) and starts to read. PART_TXN_STATUS.reason keeps the previous command's reason
while a STAGE or a COMMIT is in progress, and after TXN_EXPIRED (DESIGN CHOICE: R72 gives the reason of a command that has ended only;
log 50). -/
def State.txnStage (s : State) (p : Nat) : State :=
  if !s.windowOpen p then s
  else if s.cfg.txn.state = .idle || s.cfg.txn.owner ≠ p then s.txnRefuse p 0x10
  else if s.cfg.txn.state ≠ .opened then s.txnRefuse p 0x0F
  else
    let x := s.part p
    (s.upTxn (fun t => { t with state := .staging, addr := x.stageAddr, length := x.stageLen, failed := false })).askStage

/-- Stage the sections of an image that passed its checks (R38, R63). -/
def Txn.take (t : Txn) (i : Image) (v : Variant) : Txn :=
  let new := i.sections v
  { t with staged := if i.kind = 0 then new else overlay t.staged new
           fullStaged := t.fullStaged || i.kind = 0
           imageId := if i.kind = 0 then i.imageId else t.imageId
           index := i.entries.map Entry.key }

/-- STAGE_DONE: once every line has come, or the read has failed, the image is checked (R63); it waits while the region cannot be reached
(R364). Sections staged before take no room from the 64 MiB: R31 and R59 speak of one image (log 50: DESIGN CHOICE). -/
def State.stageDone (s : State) : State :=
  let t := s.cfg.txn
  if t.state ≠ .staging || (!(s.face 0).up && !t.failed) then s else
  let finish (s : State) (reason sect : Nat) : State :=
    (s.upTxn (fun t => { t with state := .opened, failed := false })).endStageReads.txnDone t.owner 2 reason sect
  if t.failed then finish s 0x11 0xFFF
  else if t.length > 2 ^ 26 then finish s 0x01 0xFFF
  else
    match s.getBytes .stage t.addr t.length with
    | none => s.askStage
    | some (_, true) => finish s 0x11 0xFFF
    | some (v, false) =>
      let i : Image := ⟨v, t.length⟩
      match i.check s.fuses t.owner with
      | (0, _) => finish (s.upTxn (fun t => t.take i s.variant)) 0 0xFFF
      | (r, k) => finish s r k

/-- COMMIT starts the validation. -/
def State.txnCommit (s : State) (p : Nat) : State :=
  if !s.windowOpen p then s
  else if s.cfg.txn.state = .idle || s.cfg.txn.owner ≠ p then s.txnRefuse p 0x10
  else if s.cfg.txn.state ≠ .opened then s.txnRefuse p 0x0F
  else s.upTxn (fun t => { t with state := .validating, failed := false })

/-- The transaction ends: IDLE, nothing staged (R62). -/
def State.txnEnd (s : State) : State := s.endStageReads.upTxn (fun _ => {})

def State.txnRollback (s : State) (p : Nat) : State :=
  if !s.windowOpen p then s
  else if s.cfg.txn.state = .idle || s.cfg.txn.owner ≠ p then s.txnRefuse p 0x10
  else if s.cfg.txn.state ≠ .opened then s.txnRefuse p 0x0F
  else s.txnEnd.txnDone p 4 0 0xFFF

/-- TXN_EXPIRED: an open transaction without a command for 1 s (R67). -/
def State.txnExpired (s : State) : State :=
  if s.cfg.txn.state = .opened then s.txnEnd.event s.cfg.txn.owner 0x0004 0 0 else s

/-- A write of PART_TXN_CMD (R72). -/
def State.txnCommand (s : State) (p cmd : Nat) : State :=
  match cmd with
  | 1 => s.txnBegin p
  | 2 => s.txnStage p
  | 3 => s.txnCommit p
  | 4 => s.txnRollback p
  | _ => s

/-! ### IN_USE (R64, R287) -/

/-- What a live order names: its records; in stage 2 those of the epoch of its fetch, and one held at a pause what its header names now. -/
def State.naming (s : State) (o : Order) : Order :=
  if o.pinned || o.crowded then o else match o.name with
    | some n => s.withRecords (if o.phase == .stage2 then o.book else s.cfg.live) o n
    | none => o

/-- A live order that waits at a ring head on a paused binding names nothing (R64). -/
def State.named (s : State) (p : Nat) (f : Order → Bool) : Bool :=
  (s.liveOf p).any (fun o => !s.waitsOnPause o && f (s.naming o))

/-- A binding is paused and drained (R70). -/
def State.pausedDrained (s : State) (p n : Nat) : Bool := (s.part p).paused.any (fun x => x == (n, true))

/-- The bindings that an order names. -/
def Order.records (o : Order) : List Binding := o.binding.toList ++ o.aux.toList

/-- A section of the live configuration that the commit replaces or deletes is in use. -/
def State.sectionInUse (s : State) (x : Sec) : Bool :=
  let p := x.owner
  match x.type with
  | 4 => !s.pausedDrained p x.inst && s.named p (fun o => o.bindNo == x.inst || o.auxNo == x.inst)
  | 6 => s.named p (fun o => (o.name.bind jigKind).isSome && o.f 10 2 == x.inst)
  | 7 => s.named p (fun o => (o.op == 0x03 && o.f 56 1 == 2 && o.f 58 2 == x.inst) ||
      o.records.any (fun b => (b.scaleMode == 1 || b.scaleMode == 2) && b.scaleTable == x.inst))
  | 8 => s.named p (fun o => o.records.any (fun b => b.plaus == x.inst))
  | 0xC => s.named p (fun o => o.records.any (fun b => b.spill == x.inst) || (o.op == 0x04 && o.jig.any (fun j => j.spillSel == x.inst + 1)))
  | _ => false

/-- A session of the partition steeps. -/
def State.steeps (s : State) (p : Nat) : Bool := s.ctxs.any (fun c => c.p == p && c.state == .steeping)

/-- A binding of the live configuration names a shard map and is not paused and drained (R287). -/
def State.mapInUse (s : State) (p map : Nat) : Bool :=
  s.cfg.live.any (fun y => y.type == 4 && y.owner == p && !s.pausedDrained p y.inst &&
    (match y.body with | .binding b => b.shardMap == map | _ => false))

/-- The sections of the live configuration that a transaction replaces or deletes. -/
def Txn.replaced (t : Txn) (live : List Sec) : List Sec :=
  live.filter (fun x => t.fullStaged || t.staged.any (fun y => x.sameKey y))

/-- Keys whose change is refused with IN_USE (R64, R287). -/
def State.inUse (s : State) (new : List Sec) : List Nat :=
  let t := s.cfg.txn
  let old := t.replaced s.cfg.live
  let secs := (old.filter s.sectionInUse).map Sec.key
  let maps := if t.owner = 0xFE then [] else
    ((old ++ t.staged).filter (fun x => x.type == 5 && s.mapInUse x.owner x.inst)).map Sec.key
  let parts := (List.range 8).filter (fun p => partEnt s.cfg.live p != partEnt new p && (!(s.liveOf p).isEmpty || s.steeps p))
  let ways := (List.range 8).filter (fun p => wayMask s.cfg.live p != wayMask new p && !(s.liveOf p).isEmpty)
  secs ++ maps ++ (if parts.isEmpty then [] else [1 * 2 ^ 24]) ++ (if ways.isEmpty then [] else [2 * 2 ^ 24])

/-- The outcome of a validation: the reason, 0 for none, and the key of the failing section (R38, R59, R64). A delta image that
deletes a global section is refused like a full image without it, with 0x12 (DESIGN CHOICE: R38 and R59 name only the full image;
log 50). -/
def State.validate (s : State) (new : List Sec) : Nat × Option Nat :=
  let t := s.cfg.txn
  if (!s.cfg.committed && !t.fullStaged) || globals.any (fun g => (secOf new g 0 0).isNone) then (0x12, none)
  else
    let use := s.inUse new
    let worst := match use with | [] => none | k :: ks => some (ks.foldl min k)
    match firstBad (sectionIn new) new, worst with
    | none, none => (0, none)
    | some (r, x), none => (r, some x.key)
    | none, some k => (0x0E, some k)
    | some (r, x), some k => if k < x.key then (0x0E, some k) else (r, some x.key)

/-! ### The switch (R65, R66, R202, R236, R272, R278, R295, R344, R374, R386, R413) -/

/-- The oldest epoch under which a tile still runs. -/
def State.oldestTile (s : State) : Nat :=
  s.orders.foldl (fun m o => o.tiles.foldl (fun m x => if x.inUse then min m x.epoch else m) m) s.cfg.epoch

/-- CFG_EPOCH_OLDEST advances once the last tile of the older epoch is done (R65). -/
def State.retire (s : State) : State := s.upCfg (fun c => { c with oldest := max c.oldest s.oldestTile })

/-- Chest ways of a partition that the commit adds or removes. -/
def wayChange (old new : List Sec) (p : Nat) : Nat := wayMask old p ^^^ wayMask new p

/-- Bindings of a partition that a transaction replaces or deletes. -/
def Txn.rebound (t : Txn) (live : List Sec) (p : Nat) : List Nat :=
  ((t.replaced live).filter (fun x => x.type == 4 && x.owner == p)).map Sec.inst

/-- Lines that the switch drops: of rebound bindings, and in ways added or removed. Saucer lines have no way; those of a
partition whose ways change all go. -/
def State.switchLine (s : State) (new : List Sec) (p : Nat) (c : CLine) : Bool :=
  (s.cfg.txn.rebound s.cfg.live p).any (fun b => c.binds.contains b) || (wayChange s.cfg.live new p).testBit c.way

def State.switchSLine (s : State) (new : List Sec) (p : Nat) (x : SLine) : Bool :=
  (s.cfg.txn.rebound s.cfg.live p).any (fun b => x.binds.contains b) || wayChange s.cfg.live new p != 0

/-- A warming session whose home bench its partition loses warms on another, or is parked where there is none (log 27: DESIGN CHOICE). -/
def State.moveWarming (s : State) (p : Nat) : State :=
  (s.ctxs.filter (fun c => c.p == p && c.state == .warming && !(s.partBenches p).contains c.home)).foldl (fun s c =>
    if (s.homes p).any (fun b => s.slotsOn b < 8) then
      let home := s.chooseHome p
      (s.upCtx p c.session (fun c => { c with home := home, contextIn := false })).powerUp home
    else s.dropSlot p c.session) s

/-- Sections of the partitions after the switch: tags, benches, Chests, sessions. A bench that belongs to no partition any more is held
powered, and clock-gated (R14, R380). -/
def State.switchPart (s : State) (old new : List Sec) (p : Nat) : State :=
  let a := partEnt old p
  let b := partEnt new p
  if a = b then s else
  let s1 := s.clearTags p b.hasTag
  -- a bench that changes hands starts empty
  let moved := (setBits (a.benchMask ^^^ b.benchMask)).filter (· < 8)
  let s2 := moved.foldl (fun s x => s.upBench x (fun y => { y.emptied with power := if (s.ownerOf x).isNone then .running else y.power })) s1
  (s2.moveWarming p).upPart p (fun x => if x.chest.enable then { x with chest := { x.chest with serving := setBits b.benchMask } } else x)

/-- Windows keep their fraction across a commit where their range is unchanged (R272). -/
def keepWindows (ws : List Window) (old new : List StackEnt) : List Window :=
  (List.range 16).map (fun i =>
    let w := ws.getD i {}
    match new[i]? with
    | none => { w with v := 256, admitted := 0 }
    | some x =>
      let v := (old.zipIdx).find? (fun y => y.1.base == x.base && y.1.length == x.length)
      { w with v := match v with | some y => (ws.getD y.2 {}).v | none => 256 })

/-- The effects of the first commit: faces 1 to 3 train at the rates of the plan, the self-test of bring-up starts, and a
drain begun before it is announced (R344, R386, R413). -/
def State.firstCommit (s : State) : State :=
  let bring := s.clk.step = 3
  let test := bring && (policyOf s.cfg.live).bringTest
  let s0 := s.upClk (fun c => { c with runFace := c.heldFace })
  let s1 := [1, 2, 3].foldl (fun s f => if s.facePresent f then s.trainFace f else s) s0
  let s2 := if bring then s1.upClk (fun c => { c with step := if test then 6 else 7 }) else s1
  let s3 := if test then s2.upKettle (fun k => { k with bringTest := List.range s.variant.benchCount }) else s2
  if s3.drain.owed && s3.draining then
    (s3.upDrain (fun d => { d with owed := false, ms := 0 })).dieEvent s3.enabledParts 0x0013 s3.drain.cause 0
  else s3

/-- What the new configuration makes stale goes: lines of the Chests and Saucers, resident sets of changed bindings, and scale
state of replaced tables (R66, R236). -/
def State.switchDrop (s : State) : State :=
  let t := s.cfg.txn
  let old := s.cfg.live
  let new := t.result old
  let gone := t.replaced old
  let s1 := ((List.range 8).foldl (fun s p => s.dropCached p (s.switchLine new p) (s.switchSLine new p)) s).dropResidents
    (fun _ r => (t.rebound old r.p).contains r.bind)
  let old (p table : Nat) : Bool := gone.any (fun y => y.type == 7 && y.owner == p && y.inst == table)
  let s2 := (List.range 8).foldl (fun s p => s.dropScales p (fun u => old p u.table)) s1
  { s2 with ctxs := s2.ctxs.map (fun (c : Ctx) => { c with scales := c.scales.filter (fun x => !old c.p x.table) }) }

/-- The staged sections are the live configuration, under the next epoch (R62, R65); tiles that run keep the stack map they started
under (R66). -/
def State.install (s : State) : State :=
  let t := s.cfg.txn
  let new := t.result s.cfg.live
  { s with
    windows := keepWindows s.windows s.stacks (stacksOf new)
    cfg := { s.cfg with epoch := s.cfg.epoch + 1, before := s.stacks, committed := true, live := new
                        imageId := if t.fullStaged then t.imageId else s.cfg.imageId, txn := { t with switched := true } } }

/-- What follows a switch: the partitions, the filters of the staged maps, the clock plan, the owner's epoch, and the Chests of
benches that now serve. `old` is the configuration before, `first` that there was none. -/
def State.afterInstall (s : State) (old : List Sec) (first : Bool) : State :=
  let t := s.cfg.txn
  let new := s.cfg.live
  let s1 := ((List.range 8).foldl (fun s p => s.switchPart old new p) s).trimShares
  let s2 := (t.staged.filter (fun x => x.type == 5)).foldl (fun s x => s.resetFilters x.owner x.inst) s1
  let plan := planOf new
  let s3 := if t.staged.any (fun x => x.type == 0xB && !x.isDelete) then
      s2.upClk (fun c => { c with heldDepth := plan.depth, heldRate := plan.rate, heldFace := plan.faces }) else s2
  let s4 := if t.owner = 0xFE then s3.upMig (fun g => { g with phase := 3, epoch := s3.cfg.epoch })
    else s3.upPart t.owner (fun x => { x with txnEpoch := s3.cfg.epoch })
  let s5 := (if first then s4.firstCommit else s4).retire
  (List.range 8).foldl (fun s p => s.serve p) s5

/-- The switch: the epoch advances and the new configuration is live; windows whose level it changes say so (R275). -/
def State.switchOver (s : State) : State := (s.switchDrop.withLevels State.install).afterInstall s.cfg.live (!s.cfg.committed)

/-- A passed transaction switches once at most one epoch is live and the lines it invalidates have no pending write
(R65, R66). -/
def State.advanceSwitch (s : State) : State :=
  let t := s.cfg.txn
  if t.state ≠ .switching || t.switched then s
  else
    let new := t.result s.cfg.live
    if s.cfg.oldest ≠ s.cfg.epoch || (List.range 8).any (fun p => s.cachedPending p (s.switchLine new p) (s.switchSLine new p)) then s
    else s.switchOver

/-- VALIDATION_DONE: it waits while the region cannot be reached (R62, R64, R65, R285, R364). -/
def State.validationDone (s : State) : State :=
  let t := s.cfg.txn
  if t.state ≠ .validating || (!(s.face 0).up && !t.failed) then s else
  if s.cfg.regionBad then s.readRegion else
  let (r, key) := if t.failed then (0x11, none) else s.validate (t.result s.cfg.live)
  if r = 0 then (s.upTxn (fun t => { t with state := .switching, switched := false })).advanceSwitch
  else if t.owner = 0xFE then s.txnEnd.abandonMig
  else
    let sect := match key with | some k => (t.index.findIdx? (· == k)).getD 0xFFF | none => 0xFFF
    s.txnEnd.txnDone t.owner 3 r sect

/-- SWITCH_DONE: the previous epoch has retired and the invalidations are done (R62). -/
def State.switchDone (s : State) : State :=
  let s1 := s.advanceSwitch
  let t := s1.cfg.txn
  if t.state = .switching && t.switched && s1.cfg.oldest = s1.cfg.epoch then
    (if t.owner = 0xFE then s1.txnEnd else s1.txnEnd.txnDone t.owner 3 0 0xFFF)
  else s1

/-- EPOCH_RETIRE: the last tile of the old epoch is done (R65). -/
def State.epochRetire (s : State) : State := s.retire.advanceSwitch

/-! ### The Kettle's transaction (R68, R285) -/

/-- The map of the migration with its rows' redirects inserted in ascending row order (R285). -/
def ShardMap.redirected (m : ShardMap) (rows : List MigRow) : ShardMap :=
  { m with redirects := sortBy (fun a b => decide (a.row ≤ b.row)) (m.redirects ++ rows.map (fun r => (⟨r.row, r.stack, r.target⟩ : Redirect))) }

/-- MIGRATE_SWITCH: once the die is IDLE the Kettle opens its transaction and commits the redirects. -/
def State.migrateSwitch (s : State) : State :=
  let g := s.mig
  if g.phase ≠ 2 || s.cfg.txn.state ≠ .idle || !s.cfg.committed then s else
  match shardMapOf s.cfg.live g.p g.map with
  | none => s.abandonMig
  | some m => s.upTxn (fun _ => { state := .validating, owner := 0xFE, staged := [⟨5, g.p, g.map, .shardMap (m.redirected g.rows)⟩] })

end Sys2Proof.Machine
end

