-- ==== Sys2Proof/Machine/Kettle.lean ====
section
/-! DEFINITION. The Kettle: the tick, sensors, throttle, wear, bench power, self-test, spare rows, suspect benches and drains
(R326 to R341 of 12_integrity.md, R379 and R380, R392 to R401 and R405 to R413, R424 to R430). -/

namespace Sys2Proof.Machine

/-! ### Sensors (R394) -/

def State.sensorPresent (s : State) (n : Nat) : Bool :=
  if n < 24 then s.benchPresent (n / 3) else if n < 28 then s.facePresent (n - 24) else n < 32

/-- The filtered temperature of a sensor: the mean of its last 8 samples, rounded down to 1/16 degree; 0 before the first. -/
def Kettle.filtered (k : Kettle) (n : Nat) : Int :=
  if k.samples.isEmpty then 0 else ((k.samples.map (fun x => x.getD n 0)).foldl (· + ·) 0) / (k.samples.length : Int)

def State.temp (s : State) (n : Nat) : Int := if s.sensorPresent n then s.kettle.filtered n else 0

/-- The sensors present. -/
def State.sensors (s : State) : List Nat := (List.range 32).filter s.sensorPresent

/-- The hottest filtered sensor. -/
def State.hottest (s : State) : Int := s.sensors.foldl (fun m n => max m (s.kettle.filtered n)) (s.kettle.filtered 31)

/-- The range of a rail in mV (R421). -/
def railRange : Nat → Nat × Nat
  | 0 => (720, 800)
  | 1 => (820, 900)
  | 2 => (720, 800)
  | 3 => (720, 800)
  | 4 => (920, 980)
  | 5 => (770, 840)
  | _ => (1710, 1890)

/-- A rail after a sample (R424, R430). -/
def Rail.sampled (r : Rail) (n mv amps16 : Nat) : Rail :=
  let (lo, hi) := railRange n
  { mv := mv, amps16 := min amps16 0xFFFF, lowLast := mv < lo, highLast := mv > hi, low := mv < lo && r.lowLast, high := mv > hi && r.highLast }

/-- A rail reads outside its range at this sample and the last, and its flag was not set. -/
def Rail.strays (old new : Rail) : Bool :=
  (new.lowLast || new.highLast) && (old.lowLast || old.highLast) && !(old.low || old.high)

/-! ### Wear (R398 to R401) -/

/-- A fraction of life in 1/65,536, to the nearest (R398; the worked example of R400: 1.2 % of 5 % is 15,729). -/
def lifeFrac (a b : Nat) : Nat := min 65535 ((a * 65536 + b / 2) / b)

def median5 (l : List Nat) : Nat := (sortNat l).getD (l.length / 2) 0

/-- Largest slowdown of a ring oscillator against its baseline, 5 % being 1. -/
def ageingOf (base : List Nat) (readings : List (List Nat)) : Nat :=
  ((base.zip readings).map (fun (b, r) => if b = 0 then 0 else lifeFrac ((b - median5 r) * 20) b)).foldl max 0

def spareRows : Store → Nat
  | .chest => 32
  | .saucer => 2
  | .tile => 8
  | .operand => 8
  | .acc => 4
  | .merge => 8
  | .cupboard => 16

def benchStores : List Store := [.chest, .saucer, .tile, .operand, .acc, .merge]

/-- The spares component, from the repairs in force. -/
def sparesOf (l : List LogEnt) : Nat :=
  let bench (b : Nat) : Nat :=
    (benchStores.map (fun st => lifeFrac (storeRemaps l st b) (spareRows st))).foldl max (lifeFrac (popcount (retiredMask l b)) 5)
  ((List.range 8).map bench).foldl max (lifeFrac (storeRemaps l .cupboard 0) 16)

/-- The lanes component, from the modules that have trained. -/
def State.lanesOf (s : State) : Nat :=
  let one (m : Modl) : Nat := if !m.trained then 0 else if m.half ≠ 0 then 65535 else lifeFrac (max m.repaired.1 m.repaired.2) 2
  ((s.faces.flatMap Face.mods).map one).foldl max 0

def State.upWear (s : State) (f : Wear → Wear) : State := { s with wear := f s.wear }

/-- The wear gauge follows a remap, a retirement or a training (R394). -/
def State.gauge (s : State) : State :=
  let sp := sparesOf s.repairs
  let ln := if (s.faces.flatMap Face.mods).any Modl.trained then s.lanesOf else s.wear.lanes
  s.upWear (fun w => { w with spares := sp, lanes := ln })

/-- W: the largest component. -/
def Wear.index (w : Wear) : Nat := max (max w.ageing w.spares) (max w.lanes w.thermal)

/-- A quotient of R400; none where the divisor is 0 or less. -/
def quot (a : Nat) (d : Int) : Nat := if d ≤ 0 then 0xFFFFFFFF else min 0xFFFFFFFF (a / d.toNat)

/-- The prediction at a record (R400): life, lower, upper and confidence. -/
def predict (rs : List WearRec) : Nat × Nat × Nat × Nat :=
  let n := rs.length
  let w (i : Nat) : Nat := match rs[i]? with | some r => r.index | none => Config.missingWear n
  let u := 65535 - w 0
  if n < 24 then (0xFFFFFFFF, 0xFFFFFFFF, 0xFFFFFFFF, 0)
  else if n < 168 then
    let life := quot (u * n) ((w 0 : Int) - w (n - 1))
    if life = 0xFFFFFFFF then (life, life, life, 0) else (life, life / 2, min 0xFFFFFFFF (life * 2), 0)
  else
    let k := min 6 (n / 168)
    let d := (List.range k).map (fun j => (w (168 * j) : Int) - w (168 * (j + 1)))
    (quot (u * (168 * k)) ((w 0 : Int) - w (168 * k)), quot (u * 168) (d.foldl max (d.getD 0 0)), quot (u * 168) (d.foldl min (d.getD 0 0)), if k = 6 then 2 else 1)

/-- A record is written to the wear store: the last 1,024 are kept, and the prediction is made (R399, R400). -/
def Wear.write (w : Wear) (r : WearRec) : Wear :=
  let rs := (r :: w.records).take 1024
  let (a, b, c, d) := predict rs
  { w with records := rs, life := a, lower := b, upper := c, conf := d }

/-- Deferred writes are made once every rail reads in range (R424). -/
def State.writeDeferred (s : State) : State :=
  if s.railsBad then s else
  let room := 256 - s.log.length
  { s with log := s.log ++ s.logDue.take room, logDue := s.logDue.drop room,
           wear := s.wear.deferred.foldl Wear.write { s.wear with deferred := [] } }

/-- The powered hour of the newest record, written or deferred. -/
def Wear.lastHour (w : Wear) : Nat := ((w.deferred.getLast?).orElse (fun _ => w.records.head?)).elim 0 WearRec.hours

/-- WEAR_RECORD: the record of a powered hour (R399); the ring oscillators are sampled with it (R394). -/
def State.wearRecord (s : State) (readings : List (List Nat)) : State :=
  if !s.alive || s.wear.seconds / 3600 ≤ s.wear.lastHour then s else
  let n := if s.variant = .l4 then 8 else 16
  let s1 := s.upWear (fun w => { w with ageing := ageingOf (s.fuses.oscBase.take n) readings })
  let w := s1.wear
  let r : WearRec := ⟨w.seconds / 3600, w.index, w.ageing, w.spares, w.lanes, w.thermal, w.seconds, w.cycles⟩
  if s1.railsBad then s1.upWear (fun w => { w with deferred := w.deferred ++ [r] }) else s1.upWear (fun w => w.write r)

/-- Thermal cycles of the hottest filtered sensor: a fall of 30 degrees and then a rise of 30 degrees (R398). -/
def State.thermalCycle (s : State) : State :=
  let t := s.hottest
  let k := s.kettle
  let hi := max t (k.hotMax.getD t)
  let lo := min t (k.hotMin.getD t)
  if !k.falling then
    if t ≤ hi - 480 then s.upKettle (fun k => { k with falling := true, hotMax := some hi, hotMin := some t })
    else s.upKettle (fun k => { k with hotMax := some hi, hotMin := none })
  else if t ≥ lo + 480 then
    (s.upKettle (fun k => { k with falling := false, hotMax := some t, hotMin := none })).upWear
      (fun w => { w with cycles := satAdd w.cycles 1 0xFFFFFFFF, thermal := lifeFrac (w.cycles + 1) 20000 })
  else s.upKettle (fun k => { k with hotMin := some lo })

/-! ### SENSOR_SAMPLE (R394, R397, R424) -/

/-- A trip: latched and driven, BEGIN held, and the die reset of code 0x07 (R397, R428). -/
def State.thermalTrip (s : State) : State :=
  ((({ s with panel := { s.panel with tripN := true } }).upKettle (fun k => { k with trip := true, beginHold := true, cool := 0 })).klog 0x0100
    (Config.klogArg 0x0100 0 s.wear.seconds) (Config.klogArg 0x0100 1 s.wear.seconds)).beginReset 0x07 false

/-- A rail strays: logged, and the die reset of code 0x08 (R424). -/
def State.railStrays (s : State) (n mv : Nat) : State := (s.klog 0x0103 n mv).beginReset 0x08 false

/-- SENSOR_SAMPLE: temperatures in 1/16 degree of the 32 sensors, and mV and 1/16 A of the 7 rails. -/
def State.sensorSample (s : State) (temps : List Int) (rails : List (Nat × Nat)) : State :=
  if !s.alive then s else
  let wasHot := !s.kettle.samples.isEmpty && s.hottest ≥ 1760
  let old := (List.range 7).map (fun n => s.kettle.rails.getD n {})
  let new := (old.zipIdx).map (fun (r, i) => let x := rails.getD i (r.mv, r.amps16); r.sampled i x.1 x.2)
  let mw := rails.foldl (fun a x => a + x.1 * x.2) 0
  let s1 := s.upKettle (fun k =>
    { k with samples := (((List.range 32).map (fun i => temps.getD i 0)) :: k.samples).take 8, rails := new,
             powerSum := k.powerSum + mw, powerN := k.powerN + 1 })
  let s2 := s1.thermalCycle.writeDeferred
  let s3 := if !wasHot && s2.hottest ≥ 1760 then s2.thermalTrip else s2
  (((old.zip new).zipIdx).filter (fun x => x.1.1.strays x.1.2)).foldl (fun s x => s.railStrays x.2 x.1.2.mv) s3

/-- THERMAL_CLEAR: every sensor has stayed below T for 10 ticks (R397). -/
def State.thermalClear (s : State) : State :=
  if s.alive && s.kettle.beginHold && s.kettle.cool ≥ 10 then s.upKettle (fun k => { k with beginHold := false }) else s

/-! ### The tick (R393) -/

/-- The sensors that govern a bench's throttle (R395). -/
def benchSensors (b : Nat) : List Nat := [3 * b, 3 * b + 1, 3 * b + 2, 24, 25, 26, 27, 28, 29, 30, 31]

/-- The next throttle level (R395): `t` and `T` in 1/16 degree, `P` and `C` in W. -/
def nextLevel (level : Nat) (t T : Int) (P C : Nat) : Nat :=
  if t ≥ T || P > C then min 7 (level + 1)
  else if t < T - 48 && P * 16 < C * 15 then level - 1
  else level

def State.benchTemp (s : State) (b : Nat) : Int :=
  ((benchSensors b).filter s.sensorPresent).foldl (fun m n => max m (s.kettle.filtered n)) (s.kettle.filtered 31)

/-- The throttle levels after a tick, at the die power of the tick. -/
def State.nextLevels (s : State) (power : Nat) : List Nat :=
  (List.range 8).map (fun b =>
    let l := s.kettle.level.getD b 0
    if s.benchPresent b && (s.bench b).power == .running then nextLevel l (s.benchTemp b) (s.kettle.throttleC * 16 : Nat) power s.kettle.cap else l)

/-- Milliseconds and powered seconds (R399). -/
def Wear.tick (w : Wear) : Wear :=
  if w.millis + 1 ≥ 1000 then { w with millis := 0, seconds := (w.seconds + 1) % 2 ^ 32 } else { w with millis := w.millis + 1 }

def Drain.tick (d : Drain) : Drain := if d.inForce && !d.owed then { d with ms := d.ms + 1 } else d

/-- Minutes left of the unlock, down to the last, which MON_UNLOCK_EXPIRE ends (R409). -/
def Mon.tick (m : Mon) : Mon :=
  if !m.unlocked || m.minutes = 0 then m
  else if m.minuteMs + 1 ≥ 60000 && m.minutes > 1 then { m with minutes := m.minutes - 1, minuteMs := 0 }
  else { m with minuteMs := m.minuteMs + 1 }

/-- ATTN is sampled at a tick: 20 equal samples in a row that differ from the debounced state change it (R394). -/
def Panel.sample (x : Panel) (pressed : Bool) : Panel :=
  if pressed = x.attn then { x with attnSame := 0 }
  else if x.attnSame + 1 ≥ 20 then { x with attn := pressed, attnSame := 0 }
  else { x with attnSame := x.attnSame + 1 }

/-- KETTLE_TICK: filtered samples, throttle levels, bench idleness, shard filtering; self-tests and wear records follow as
commands of their own (R393). -/
def State.kettleTick (s : State) : State :=
  if !s.alive then s else
  let k := s.kettle
  let power := if k.powerN = 0 then k.power else k.powerSum / (k.powerN * 16000)
  let cool := s.sensors.all (fun n => k.filtered n < (k.throttleC * 16 : Nat))
  let levels := s.nextLevels power
  let hot := levels.any (· != 0)
  let idle := (List.range 8).map (fun b => if s.benchBusy b then 0 else k.idle.getD b 0 + 1)
  let s1 := { s with
    kettle := { k with ms := k.ms + 1, power := min power 0xFFFF, powerSum := 0, powerN := 0, cool := if cool then k.cool + 1 else 0, level := levels,
                       hotLevel := if hot then 60000 else k.hotLevel - 1, idle := idle }
    wear := s.wear.tick
    drain := s.drain.tick
    mon := s.mon.tick
    panel := s.panel.sample (Config.attnPin k.ms) }
  s1.filterTick

/-- The word that goes with an error code of Yelir (R411): syntax, locked, range, busy, fault or absent. -/
def errWord : Nat → List Nat
  | 1 => [115, 121, 110, 116, 97, 120]
  | 2 => [108, 111, 99, 107, 101, 100]
  | 3 => [114, 97, 110, 103, 101]
  | 4 => [98, 117, 115, 121]
  | 5 => [102, 97, 117, 108, 116]
  | 6 => [97, 98, 115, 101, 110, 116]
  | _ => []

/-! ### Bench power (R380) -/

/-- BENCH_POWER_GATE: a bench of a partition, idle for 100 ms, without resident sets and not under test. -/
def State.powerGate (s : State) (b : Nat) : State :=
  let x := s.bench b
  if s.alive && s.benchPresent b && x.power == .running && !x.reset && (s.ownerOf b).isSome && !s.suspect b && s.kettle.idle.getD b 0 ≥ 100 &&
      !s.benchBusy b && x.residents.isEmpty && x.wc.isEmpty && s.kettle.testBench != some b && !s.kettle.bringTest.contains b then
    (s.upBench b (fun x => { x.emptied with power := .gated })).upKettle (fun k => { k with level := k.level.set b 0 })
  else s

/-- BENCH_POWER_UP_DONE: the bench returns with every store invalid, at level 0. -/
def State.powerUpDone (s : State) (b : Nat) : State :=
  if (s.bench b).power == .powering then
    (s.upBench b (fun x => { x.emptied with power := .running })).upKettle (fun k => { k with level := k.level.set b 0 })
  else s

/-! ### Drains (R338, R402 to R406, R413) -/

/-- A drain starts. One in force keeps its cause, unless a bench becomes suspect. Before the next commit, or under a
die-reset sequence, DRAIN_STARTED is owed (R413). -/
def State.startDrain (s : State) (cause : Nat) : State :=
  let owed := !s.cfg.committed || s.rstDie.isSome
  let post (s : State) : State := if owed then s else s.dieEvent s.enabledParts 0x0013 cause 0
  if s.drain.inForce then
    if cause = 1 && s.drain.cause ≠ 1 then post (s.upDrain (fun d => { d with cause := 1, owed := d.owed || owed })) else s
  else
    (post { s with drain := { inForce := true, cause := cause, owed := owed, refused := s.drain.refused, ack := s.drain.ack } }).drainParks

/-- A cancel: of a drain of cause 0 or 2 (R406). -/
def State.cancelDrain (s : State) : State :=
  if !s.drain.inForce then s
  else if s.drain.cause = 1 then s.upDrain (fun d => { d with refused := true })
  else { s with drain := { refused := s.drain.refused } }

/-- The acknowledgement: a 1 written sets the bit, in a drain or not, and the end of a drain clears it (R9, R415; log 50: DEDUCED). -/
def State.ackDrain (s : State) : State := s.upDrain (fun d => { d with ack := true })

/-- DRAIN_DONE: no order is live, no session steeps or warms, no migration is in progress; blue lights (R338, R405). -/
def State.drainDone (s : State) : State :=
  let d := s.drain
  if d.inForce && !d.owed && !d.done && s.rstDie.isNone && s.orders.isEmpty && s.mig.phase = 0 &&
      s.ctxs.all (fun c => c.state != .steeping && c.state != .warming) then
    (s.upDrain (fun d => { d with done := true, blue := true })).dieEvent s.enabledParts 0x0014 0 0
  else s.drainParks

/-- BLUE_TIMEOUT: 30 s without an acknowledgement (R405). -/
def State.blueTimeout (s : State) : State :=
  let d := s.drain
  if d.inForce && !d.owed && !d.ack && !d.blue then s.upDrain (fun d => { d with blue := true }) else s

/-! ### Bench resets (R94, R336, R384) -/

/-- The order has tiles on a bench: in its tile buffers, its accumulator store or its merge buffer. -/
def Order.onBench (o : Order) (b : Nat) : Bool :=
  o.tiles.any (fun t => t.bench == b && !t.consumed) || o.shares.contains b || o.scoreTiles.any (fun t => t.bench == b) ||
  o.sels.any (fun x => x.1 == b)

/-- Tiles of the accumulator store that an order put or is to put there, or reads from there, on its session's home bench: what an
ACC_LOAD or an ACC_STORE that has begun names, and what a SCORE with keep has kept (R94). -/
def State.accOn (s : State) (o : Order) (b : Nat) : Bool :=
  match s.ctx? o.p o.session with
  | none => false
  | some c => c.home == b && c.state != .parked &&
      (match o.name with
        | some .accLoad | some .accStore => o.phase == .running || o.phase == .halted
        | _ => c.tiles.any (fun x => x.own == some o.id))

/-- The orders a reset of a bench ends: those with tiles on it, and halted ones whose tiles run on it (R94). -/
def State.losesBench (s : State) (o : Order) (b : Nat) : Bool :=
  o.onBench b || s.accOn o b || (o.moves && o.phase == .halted && (s.orderBenches o).contains b)

/-- What an order that lives on has in the operand memory and the accumulator store of a bench goes with its reset (R216). -/
def Order.clearBench (o : Order) (b : Nat) : Order :=
  { o with queries := o.queries.filter (fun x => x.1 != b), rooms := o.rooms.filter (· != b) }

/-- Sessions whose home bench it was are parked without saving; their halted orders end, and their other running orders
begin their stage 3 again. -/
def State.benchSession (s : State) (b : Nat) (c : Ctx) : State :=
  let halted := (s.sessionOrders c.p c.session).filter (fun o => o.phase == .halted)
  let s1 := halted.foldl (fun s o => s.endOrder o.id 0x31 b) s
  let s2 := (s1.rewindOthers c.p c.session s1.nextId).upCtx c.p c.session (fun c =>
    { c with haltedOrder := false, preemptOrder := none, accSaved := false, headerDue := false })
  (s2.dropSlot c.p c.session).releaseIf c.p c.session

/-- What a bench's write-combining buffer holds is written. -/
def State.flushWc (s : State) (b : Nat) : State := (s.bench b).wc.foldl (fun s e => s.flushEntry b e) s

/-- The effects of a bench reset on orders, sessions and stores (R94, R216, R266). -/
def State.resetBench (s : State) (b : Nat) : State :=
  let ended := (s.orders.filter (fun o => s.losesBench o b && o.status.isNone)).foldl (fun s o => s.endOrder o.id 0x31 b) s
  let homes := ended.ctxs.filter (fun c => c.home == b && c.state != .parked)
  let s1 := (homes.foldl (fun s c => s.benchSession b c) ended).flushWc b
  let s2 := { s1 with orders := s1.orders.map (fun (o : Order) => o.clearBench b) }.upBench b (fun x => { x.emptied with array := none, power := .running })
  (s2.enabledParts.foldl (fun s p => s.serve p) s2).settleEnded

/-- A running test is given up, one of the bring-up's too; every store of the bench is invalid (R332, R390). -/
def State.abortTest (s : State) (b : Nat) : State :=
  if s.kettle.testBench = some b then
    (s.upBench b Bench.emptied).upKettle (fun k => { k with testBench := none, testAborts := satAdd k.testAborts 1 255 })
  else if s.kettle.bringTest.contains b then
    let s1 := (s.upBench b Bench.emptied).upKettle (fun k => { k with bringTest := k.bringTest.erase b, testAborts := satAdd k.testAborts 1 255 })
    if s1.kettle.bringTest.isEmpty then s1.upClk (fun c => { c with step := 7 }) else s1
  else s

/-- A bench goes into reset; a test of it is given up first (R390). -/
def State.putReset (s : State) (b : Nat) : State := ((s.abortTest b).resetBench b).upBench b (fun x => { x with reset := true })

/-- BENCH_RESET: the benches of the mask go into reset (R384, R390). -/
def State.benchReset (s : State) (mask : Nat) : State :=
  if s.rstDie.isSome then s else
  ((setBits mask).filter s.benchPresent).foldl (fun s b => s.putReset b) s

/-- BENCH_RESET_DONE: the orders of the bench have stopped. -/
def State.benchResetDone (s : State) (b : Nat) : State :=
  if !(s.bench b).reset || s.orders.any (fun o => o.onBench b) then s
  else
    let s1 := s.upBench b (fun x => { x with reset := false })
    s1.enabledParts.foldl (fun s p => s.serve p) s1

/-- Orders past stage 2 whose tiles run on a bench that takes no more of them end with ABORTED (R94, R336). -/
def State.abortOn (s : State) (b : Nat) : State :=
  (s.orders.filter (fun o => o.moves && o.status.isNone && o.phase != .stage2 && o.phase != .waiting && (s.orderBenches o).contains b)).foldl
    (fun s o => s.endOrder o.id 0x31 b) s

/-- A bench becomes suspect: reset, held clock-gated, logged with replace, and a drain of cause 1 (R336). -/
def State.makeSuspect (s : State) (b cause : Nat) : State :=
  if !s.benchPresent b || s.suspect b then s
  else ((((s.abortOn b).putReset b).logRepair (.suspectBench b cause)).gauge).startDrain 1

/-- A bench becomes suspect at its third on-die witness failure as sender within 24 powered hours (R336). -/
def State.suspects (s : State) : State :=
  ((List.range 8).filter (fun b => (s.kettle.senders.filter (fun x => x.1 == b)).length ≥ 3)).foldl (fun s b => s.makeSuspect b 4) s

/-- BENCH_SUSPECT: the Kettle finds one of the causes. -/
def State.benchSuspect (s : State) (b cause : Nat) : State :=
  if s.alive && 1 ≤ cause && cause ≤ 4 then s.makeSuspect b cause else s

/-! ### Self-test (R331, R332, R388) -/

/-- A bench is idle in the sense of R331 for 10 ms; one assigned to no partition is. -/
def State.benchIdle (s : State) (b : Nat) : Bool := (s.ownerOf b).isNone || (!s.benchBusy b && s.kettle.idle.getD b 0 ≥ 10)

/-- A test starts: the bench is powered, its stores and resident sets go. -/
def State.startTest (s : State) (b : Nat) : State :=
  ((s.flushWc b).upBench b (fun x => { x.emptied with power := .running })).upKettle (fun k => { k with testBench := some b })

/-- No test starts while the die drains, a die reset is pending, a migration runs or another test runs. -/
def State.mayTest (s : State) : Bool :=
  s.kettle.testBench.isNone && s.kettle.bringTest.isEmpty && !s.draining && s.rstDie.isNone && s.mig.phase = 0

/-- The bench whose test is due: tested least recently, the lower number on a tie. -/
def State.testDue (s : State) : Option Nat :=
  let due (b : Nat) : Bool := s.benchPresent b && !(s.bench b).reset && !s.suspect b && s.benchIdle b && s.wear.seconds ≥ s.kettle.tested.getD b 0 + 3600
  match (List.range 8).filter due with
  | [] => none
  | b :: rest => some (rest.foldl (fun m x => if s.kettle.tested.getD x 0 < s.kettle.tested.getD m 0 then x else m) b)

/-- SELFTEST_START: the bench chosen is tested at throttle level 0; a failing row of it takes the slot instead (R331, R333, R413). -/
def State.selftestStart (s : State) : State :=
  if !s.alive || !(policyOf s.cfg.live).idleTest || !s.mayTest then s else
  match s.testDue with
  | none => s
  | some b => if s.kettle.level.getD b 0 ≠ 0 || s.kettle.failing.any (fun x => x.1 != .cupboard && x.2.1 == b) then s else s.startTest b

/-- The store that a march of R332 covers. -/
def marchStore : Nat → Option Store
  | 0x10 => some .chest
  | 0x11 => some .saucer
  | 0x12 => some .tile
  | 0x13 => some .operand
  | 0x14 => some .acc
  | 0x15 => some .merge
  | _ => none

/-- The parts of a test that the variant has (R332). -/
def Variant.testPart (v : Variant) (code : Nat) : Bool :=
  match code with
  | 0x00 | 0x01 | 0x04 | 0x10 | 0x11 | 0x12 => true
  | 0x02 | 0x13 | 0x14 => v.hasStrainer
  | 0x03 | 0x15 => v.hasGlue
  | _ => false

/-- A memory row is failing (R333). -/
def Kettle.fails (k : Kettle) (r : Store × Nat × Nat) : Kettle :=
  { k with failing := if k.failing.contains r then k.failing else k.failing ++ [r] }

/-- A memory row yields an error, corrected or parity: at the fourth within 24 powered hours it is failing (R333). -/
def State.rowError (s : State) (st : Store) (b row : Nat) : State :=
  let now := s.wear.seconds
  let s1 := s.upKettle (fun k => { k with rowErrs := (k.rowErrs.filter (fun x => now < x.2 + dayOf)) ++ [((st, b, row), now)] })
  if (s1.kettle.rowErrs.filter (fun x => x.1 == (st, b, row))).length ≥ 4 then s1.upKettle (fun k => k.fails (st, b, row)) else s1

/-- The result of a test of a bench: 0 passed, else the part that failed and, for a march, the row. -/
def State.testResult (s : State) (b code row : Nat) : State :=
  let s1 := s.upKettle (fun k => { k with tested := k.tested.set b s.wear.seconds, testLast := b, testFailed := code != 0, testCode := if code = 0 then k.testCode else code })
  if code = 0 then s1
  else match marchStore code with
    | some st => s1.upKettle (fun k => k.fails (st, b, row))
    | none => (s1.dieEvent s1.enabledParts 0x0016 b code).makeSuspect b 1

/-- SELFTEST_DONE: of the bench under test, or at bring-up of the lowest bench whose test runs (R332, R386, R388). -/
def State.selftestDone (s : State) (code row : Nat) : State :=
  if !s.alive || !s.variant.testPart code then s else
  match s.kettle.testBench, s.kettle.bringTest with
  | some b, _ => (s.upKettle (fun k => { k with testBench := none })).testResult b code row
  | none, b :: rest =>
    let s1 := s.upKettle (fun k => { k with bringTest := rest })
    (if rest.isEmpty then s1.upClk (fun c => { c with step := 7 }) else s1).testResult b code row
  | none, [] => s

/-! ### Spare rows (R333, R334, R337) -/

def storeOf : Nat → Option Store
  | 0 => some .chest
  | 1 => some .saucer
  | 2 => some .tile
  | 3 => some .operand
  | 4 => some .acc
  | 5 => some .merge
  | 6 => some .cupboard
  | _ => none

/-- The Chest way of a memory row: 1 MiB, 1,024 rows, to a way. -/
def wayOfRow (row : Nat) : Nat := row / 1024

/-- Spares used of those that a row may take: two to a Chest way, else those of its store. -/
def State.spareLeft (s : State) (st : Store) (b row : Nat) : Bool :=
  if st = .chest then
    (s.repairs.filter (fun e => match e with | .remap .chest c r => c == b && wayOfRow r == wayOfRow row | _ => false)).length < 2
  else storeRemaps s.repairs st b < spareRows st

/-- A row can be remapped: not a second time, with a spare and a free log entry. -/
def State.remappable (s : State) (st : Store) (b row : Nat) : Bool :=
  !s.repairs.contains (.remap st b row) && s.spareLeft st b row && s.repairs.length < 256

/-- The bench number under which a store's rows are logged; the Cupboard's rows belong to none. -/
def ownerBench (st : Store) (b : Nat) : Nat := if st = .cupboard then 0 else b

/-- The stores of a variant that have memory rows (R416). -/
def Variant.hasStore (v : Variant) : Store → Bool
  | .operand | .acc => v.hasStrainer
  | .merge => v.hasGlue
  | _ => true

def State.repaired (s : State) (st : Store) (b row : Nat) : State :=
  s.upKettle (fun k => { k with failing := k.failing.filter (· != (st, b, row)), rowErrs := k.rowErrs.filter (fun x => x.1 != (st, b, row)) })

def State.remapRow (s : State) (st : Store) (b row : Nat) : State := (((s.logRepair (.remap st b row)).repaired st b row)).gauge

/-- A Chest way is retired once its write-throughs are complete (R189, R334, R335). -/
def State.retireWay (s : State) (b row : Nat) : State :=
  let w := wayOfRow row
  if (retiredMask s.repairs b).testBit w then s.repaired .chest b row
  else if (s.bench b).chest.any (fun c => c.way == w && c.pending.isSome) then s
  else
    let s1 := ((s.upBench b (fun x => { x with chest := x.chest.filter (fun c => c.way != w) })).logRepair (.retire b w)).repaired .chest b row
    let n := popcount (retiredMask s1.repairs b)
    let s2 := (if n = 5 && !logReplace s1.repairs then s1.logRepair .replace else s1).gauge
    s2.dieEvent (s2.ownerOf b).toList 0x0017 (b * 256 + w) n

/-- The Cupboard becomes suspect: the slot of the failing row is withdrawn, and a drain of cause 1 starts (R337). -/
def State.cupboardSuspect (s : State) (row : Nat) : State :=
  let hit := s.ctxs.find? (fun c => c.index == row)
  let s1 := match hit with | some c => s.contextEccError c.p c.session | none => s
  let s2 := if s1.repairs.contains (.withdrawn row) then s1 else s1.logRepair (.withdrawn row)
  (((if s2.repairs.contains (.suspectDie 5) then s2 else s2.logRepair (.suspectDie 5)).repaired .cupboard 0 row).gauge).startDrain 1

/-- SPARE_REMAP: a failing row of a bench store, at the bench's idle slot; a failing Cupboard row that can be remapped waits for the
next die reset (R333, R334, R337). -/
def State.spareRemap (s : State) (store b row : Nat) : State :=
  match (if s.alive then storeOf store else none) with
  | none => s
  | some st =>
    if !s.kettle.failing.contains (st, ownerBench st b, row) then s
    else if st = .cupboard then (if s.remappable .cupboard 0 row then s else s.cupboardSuspect row)
    else if !s.benchPresent b || !s.benchIdle b || s.kettle.testBench = some b || !s.variant.hasStore st || (st = .chest && row ≥ 16384) then s
    else if s.remappable st b row then s.remapRow st b row
    else if st = .chest then s.retireWay b row
    else (s.repaired st b row).makeSuspect b 3

/-- The failing Cupboard rows remapped at a die reset (R333); one that no spare is left for makes the die suspect. -/
def State.remapCupboard (s : State) : State :=
  (s.kettle.failing.filter (fun x => x.1 == .cupboard)).foldl (fun s x =>
    if s.remappable .cupboard 0 x.2.2 then s.remapRow .cupboard 0 x.2.2 else s.cupboardSuspect x.2.2) s

/-- INT_HEALTH.cause: the cause of the last suspect bench, or of the Cupboard (R336, R337, R341). -/
def causeOf (l : List LogEnt) : Nat :=
  l.foldl (fun c e => match e with | .suspectBench _ k => k | .suspectDie k => k | _ => c) 0

end Sys2Proof.Machine
end

