-- ==== Sys2Proof/Machine/Resets.lean ====
section
/-! DEFINITION. Die resets, partition resets and the loss of a face (R94, R95, R153, R313, R327, R340, R364, R384, R385, R390,
R397, R435). -/

namespace Sys2Proof.Machine

/-! ### Die reset -/

/-- DIE_RESET_ERROR: an uncorrectable error in a structure with a die-reset code (R326, R327). -/
def State.dieResetError (s : State) (code : Nat) : State := if 1 ≤ code && code ≤ 8 then s.beginReset code false else s

/-- DIE_RESET_REQUEST (R385). -/
def State.dieResetRequest (s : State) : State := s.beginReset 0 true

/-- A DIE_RESET_PENDING for a face that is up is not acknowledged, or waits in its ring to be written (R327 step 3). -/
def State.pendingUnacked (s : State) : Bool :=
  s.writes.any (fun w => w.isPending && (s.face w.face).up) ||
  s.enabledParts.any (fun p => (s.pq p 33).enabled && (s.face (s.hostFace p)).up && (s.pq p 33).held.any (fun r => r.bytes % 2 ^ 16 == pendingCode))

/-- The drain after a die reset: while the repair log holds suspect the die drains again from the first fetch; else one of cause 0 or 2
outlasts a requested reset, a trip and a rail excursion, and ends with a reset that an error in a structure forces (R338, R340, R406,
R413, R429; log 32: DEDUCED, which of these rows goes before which). -/
def State.drainAfter (s : State) (r : DieRst) : Drain :=
  if logSuspect s.repairs then { inForce := true, cause := 1, owed := true, refused := s.drain.refused }
  else if s.drain.cause = 1 || (!r.requested && r.code ≤ 6) then { refused := s.drain.refused }
  else s.drain

/-- The monitor after a die reset: locked; a command that waits for the narrow path ends with err 4 (R409, R411). -/
def Mon.afterReset (m : Mon) : Mon :=
  { m with unlocked := false, running := false, runGot := [], runLeft := 0, out := if m.running then m.out ++ [.err 4 (errWord 4), .prompt] else m.out }

/-- The Kettle after a die reset: its state is kept; tests under way and idle times end, and the counter of aborted tests is cleared as
the other INT_ counters are (R435). -/
def Kettle.afterReset (k : Kettle) : Kettle := { k with testBench := none, bringTest := [], idle := List.replicate 8 0, testAborts := 0 }

/-- What the die reset clears (R384, R435): everything but the Kettle and its state, wear, the clocks' judgements,
CLK_PLAN_HELD, INT_LAST_RESET, the fuses and the repair log. -/
def State.cleared (s : State) (r : DieRst) : State :=
  { pending := s.pending, fuses := s.fuses, log := s.log, logDue := s.logDue, wear := s.wear, tap := s.tap, panel := s.panel, nextId := s.nextId,
    clk := { s.clk with count := 0, step := if s.clk.step = 6 then 7 else s.clk.step }.takeSpread,
    kettle := s.kettle.afterReset, drain := s.drainAfter r, mon := s.mon.afterReset,
    rstLast := if r.requested then 2 else 1,
    ints := if r.requested then { lastCount := s.ints.lastCount, lastCode := s.ints.lastCode }
            else { lastCount := satAdd s.ints.lastCount 1 0xFFFF, lastCode := r.code } }

/-- DIE_RESET: step 4 of R327, once the events are acknowledged and no switch of the core or control domain hangs (R390).
Failing Cupboard rows are remapped (R333), and face 0 trains (R385). -/
def State.dieReset (s : State) : State :=
  match s.rstDie with
  | none => s
  | some r =>
    if s.pendingUnacked || s.clk.switching.any (fun x => x.1 ≤ 1) then s else
    let s1 := s.cleared r
    let s2 := if r.requested then s1 else s1.klog 0x0101 (Config.klogArg 0x0101 0 s1.wear.seconds) (Config.klogArg 0x0101 1 s1.wear.seconds)
    let s3 := s2.remapCupboard
    if s3.clk.step ≥ 3 then s3.trainFace 0 else s3

/-! ### Partition reset (R94, R95) -/

/-- A transfer of a partition is not complete. -/
def State.inFlight (s : State) (p : Nat) : Bool := s.reads.any (fun r => r.part == p) || s.writes.any (fun w => w.part == p)

/-- The owner's transaction is rolled back unless it is SWITCHING (R67). -/
def State.resetTxn (s : State) (p : Nat) : State :=
  if s.cfg.txn.owner = p && s.cfg.txn.state != .idle && s.cfg.txn.state != .switching then s.txnEnd else s

/-- The order has a tile under way: its consumer has tiles that it has not ended (R94). A Strainer's step is one command. -/
def Order.underWay (o : Order) : Bool := o.phase == .running && o.status.isNone && !o.quiet

/-- An order stops at a tile boundary: what it has written is on its way, and no completion follows (R94). Its tracker entries stay
for the rows whose writes are under way. -/
def State.stopOrder (s : State) (o : Order) : State :=
  let s1 := (s.flushOrder o.id).removeOrder o
  ((s1.part o.p).tracks.filter (fun t => t.order == o.id)).foldl (fun s t => s.untrackDone o.p o.id t.bind t.row) s1

/-- The orders of a partition that have no tile under way stop. -/
def State.stopOrders (s : State) (p : Nat) : State :=
  ((s.liveOf p).filter (fun o => !o.underWay)).foldl (fun s o => s.stopOrder o) s

/-- The load filters of a partition's shards begin again (R94). -/
def State.clearWindow (s : State) (p : Nat) : State :=
  { s with filters := s.filters.map (fun (x : Filter) => if x.p = p then { x with last := 0, f := 0, hot := false, hotMs := 0 } else x) }

/-- The partition fetches, walks and waits for nothing of its own any more. -/
def State.quitPart (s : State) (p : Nat) : State :=
  s.quitWhere (fun c => match c with | .ring q _ | .pool q | .save q _ => q == p | _ => false) (fun _ => true)

/-- A partition reset begins: rings, counters, faults and wakes go, the transaction is rolled back, a migration is dropped, and orders
stop at their tile boundaries (R94). What tiles under way use stays until they are done. -/
def State.beginPartReset (s : State) (p : Nat) : State :=
  let s1 := (((s.resetTxn p).dropMig p).quitPart p).clearWindow p
  let s2 := s1.upPart p (fun x => { txnEpoch := x.txnEpoch, busy := true, chest := x.chest, roots := x.roots,
                                    tracks := x.tracks.filter (fun t => s1.orders.any (fun o => o.id == t.order)) })
  ((s2.partBenches p).foldl (fun s b => s.flushWc b) s2).stopOrders p

/-- PART_RESET. While the partition's transaction is SWITCHING the reset waits for its end, and acts on the configuration that
results (R67). -/
def State.partReset (s : State) (p : Nat) : State :=
  if !s.windowOpen p || s.rstDie.isSome then s
  else if s.cfg.txn.owner = p && s.cfg.txn.state = .switching then s.upPart p (fun x => { x with busy := true, done := false, resetDue := true })
  else s.beginPartReset p

/-- A reset that waited for a switch begins. -/
def State.resetsDue (s : State) : State :=
  ((List.range 8).filter (fun p => (s.part p).resetDue && !(s.cfg.txn.owner = p && s.cfg.txn.state = .switching))).foldl
    (fun s p => s.beginPartReset p) s

/-- The last of a partition goes: contexts, Chests and Saucers, translations, filters and registers (R94). -/
def State.clearPart (s : State) (p : Nat) : State :=
  let benches := s.partBenches p
  let s1 := (s.dropPartTranslations p).clearWindow p
  { s1 with
    ctxs := s1.ctxs.filter (fun c => c.p != p)
    benches := (s1.benches.zipIdx).map (fun ((b : Bench), i) => if benches.contains i then { b.emptied with array := none } else b) }.upPart p
    (fun x => { txnEpoch := x.txnEpoch, done := true })

/-- PART_RESET_DONE: no tile of the partition is under way and every transfer issued for it is complete; its state is cleared and
done sets (R95). -/
def State.partResetDone (s : State) (p : Nat) : State :=
  if !s.resetting p then s else
  let s1 := s.stopOrders p
  if !(s1.liveOf p).isEmpty then s1 else
  let s2 := s1.dropPartTranslations p
  if s2.inFlight p then s2 else s2.clearPart p

/-! ### A face stays down for 1 s (R94, R103, R364) -/

def WriteFor.orderOf : WriteFor → Option Nat
  | .order i => some i
  | .rowOf i .. => some i
  | .desc i => some i
  | _ => none

/-- The order that a read is for; a walk's read is for the order that needs the translation. -/
def State.readOrder (s : State) (c : Consumer) : Option Nat :=
  match c with
  | .walk w => (s.walks.find? (fun x => x.id == w)).bind (fun x => match x.for_ with | .order o .. => some o | .skip o => o | _ => none)
  | c => c.order?

/-- An order waits to have its records pinned, which the configuration region must be reached for (R32, R364). -/
def State.waitsForPins (s : State) (o : Order) : Bool := o.phase == .waiting && !o.pinned && !o.pins.isEmpty && !s.waitsOnPause o

/-- Orders that need a face: with a request on it that waits, and on face 0 those that wait to be pinned. -/
def State.needing (s : State) (f : Nat) : List Nat :=
  ((if f = 0 then (s.orders.filter s.waitsForPins).map Order.id else []) ++
   (s.reads.filter (fun r => r.face == f)).flatMap (fun r => r.wants.filterMap (fun w => s.readOrder w.1)) ++
   (s.writes.filter (fun w => w.face == f)).flatMap (fun w => w.owners.filterMap WriteFor.orderOf)).eraseDups

/-- Writes of orders behind the face are given up, but not those of descriptors (R142); cached lines that waited for them go. -/
def State.dropLost (s : State) (f : Nat) (os : List Nat) : State :=
  let lost (w : WriteReq) : Bool := w.face == f && (match w.own with | .desc _ => false | x => (x.orderOf).any os.contains)
  let ids := (s.writes.filter lost).map WriteReq.id
  { s with
    writes := s.writes.filter (fun w => !lost w)
    benches := s.benches.map (fun (b : Bench) =>
      { b with chest := b.chest.filter (fun c => !c.pending.any ids.contains), saucer := b.saucer.filter (fun c => !c.pending.any ids.contains) }) }

/-- Requests on the face of partitions that are being reset are given up (R95). -/
def State.dropBusy (s : State) (f : Nat) : State :=
  { s with reads := s.reads.filter (fun r => !(r.face == f && s.resetting r.part)), writes := s.writes.filter (fun w => !(w.face == f && s.resetting w.part)) }

/-- A transaction that needs the face fails: staging through it, and validation through face 0. -/
def State.txnLost (s : State) (f : Nat) : State :=
  let t := s.cfg.txn
  if (t.state == .staging && (f = 0 || f = s.hostFace t.owner)) || (t.state == .validating && f = 0) then s.upTxn (fun t => { t with failed := true }) else s

/-- FACE_LOST_TIMEOUT: orders that need the face complete with FACE_LOST, and the submission rings behind it are disabled
with cause 5. An order that comes to need it later ends when the command is given again. -/
def State.faceLost (s : State) (f : Nat) : State :=
  if (s.face f).up || !(s.face f).downPosted then s else
  let os := s.needing f
  let s1 := os.foldl (fun s o => s.endOrder o 0x32 f) s
  let lost := (s1.orders.filter (fun o => o.status == some (0x32, f))).map Order.id
  let s2 := ((s1.dropLost f lost).dropBusy f).txnLost f
  let s3 := s2.upFace f (fun x => { x with lost := true })
  (s3.partsBehind f).foldl (fun s p => ((List.range 16).filter (fun q => (s.sq p q).enabled)).foldl (fun s q => (s.ringError p q 5).quitReads (.ring p q)) s) s3.settleEnded

end Sys2Proof.Machine
end

