-- ==== Sys2Proof/Machine/RegRead.lean ====
section
/-! DEFINITION. What every register reads, and who may reach it (R9 to R11, R24, R71 to R77, R96, R104, R154, R190, R232, R267,
R289, R290, R318, R341, R365, R391, R403, R414, R415, R430, R431 to R439). -/

namespace Sys2Proof.Machine

/-- A word from its fields: high bit, low bit and value. -/
def pack (fs : List (Nat × Nat × Nat)) : Nat := fs.foldl (fun a f => a + ((f.2.2 % 2 ^ (f.1 + 1 - f.2.1)) <<< f.2.1)) 0

/-- A mask of the numbers below `n` that satisfy a test. -/
def maskOf (n : Nat) (f : Nat → Bool) : Nat := (List.range n).foldl (fun a i => if f i then a + 2 ^ i else a) 0

def lo32 (v : Nat) : Nat := v % 2 ^ 32
def hi32 (v : Nat) : Nat := (v >>> 32) % 2 ^ 32

/-! ### Identity (R24, R438) -/

def hkReg (s : State) (off : Nat) : Option Nat :=
  let v := s.variant
  match off with
  | 0x00 => some (pack [(31, 16, 0x1A7C), (15, 12, 5), (11, 8, v.code), (7, 4, s.fuses.major), (3, 0, s.fuses.minor)])
  | 0x04 => some (pack [(23, 20, 8), (19, 16, s.maxParts), (15, 12, v.moduleCount), (11, 8, v.faceCount), (7, 4, v.benchCount), (2, 2, b2n v.hasStrainer),
      (1, 1, b2n v.hasGlue), (0, 0, b2n v.hasStrainer)])
  | 0x08 => some (pack [(21, 16, 2 ^ v.moduleCount - 1), (11, 8, 2 ^ v.faceCount - 1), (7, 0, 2 ^ v.benchCount - 1)])
  | 0x0C => some (pack [(23, 16, 8 * v.benchCount), (15, 0, 0x4000)])
  | 0x10 => some (pack [(27, 24, if v.hasStrainer then 2 else 0), (23, 16, if v.hasStrainer then 8 else 0), (15, 8, if v.hasGlue then 8 else 0), (7, 0, 16)])
  | 0x14 => some 0x00010001
  | 0x18 => some (lo32 s.fuses.serial)
  | 0x1C => some (fld s.fuses.serial 47 32)
  | _ => none

/-! ### Configuration (R71) -/

def TxnState.code : TxnState → Nat
  | .idle => 0
  | .opened => 1
  | .staging => 2
  | .validating => 3
  | .switching => 4

def cfgReg (s : State) (off : Nat) : Option Nat :=
  let c := s.cfg
  match off with
  | 0x1000 => some (lo32 c.regionBase + b2n c.regionValid)
  | 0x1004 => some (fld c.regionBase 47 32)
  | 0x1008 => some (lo32 c.epoch)
  | 0x100C => some (lo32 c.oldest)
  | 0x1010 => some (if c.txn.state = .idle then 0xFF else c.txn.owner)
  | 0x1014 => some (lo32 c.imageId)
  | 0x1018 => some (hi32 c.imageId)
  | _ => none

/-! ### Clocks and resets (R391) -/

def Clk.status (c : Clk) : Nat :=
  pack [(31, 24, c.forced), (16, 16, b2n c.kettleLock), (15, 15, b2n c.controlLock), (14, 14, b2n c.coreLock), (13, 13, b2n c.xbLost), (12, 12, b2n c.xbStable),
    (11, 11, b2n c.xaFailed), (10, 10, b2n c.xaLost), (9, 9, b2n c.xaStable), (7, 6, c.kslowSrc), (5, 4, c.kfastSrc), (3, 2, c.controlSrc), (1, 0, c.coreSrc)]

/-- The core loop now spreads. -/
def Clk.spreads (c : Clk) : Bool := c.coreLock && c.runDepth != 0

def Clk.planHeld (c : Clk) : Nat := pack [(19, 16, c.heldFace), (13, 8, c.heldRate), (4, 4, b2n c.spreads), (3, 0, c.heldDepth)]

/-- The power state of a bench as CLK_BENCH_POWER codes it (R14, R336, R380). -/
def State.powerCode (s : State) (b : Nat) : Nat :=
  if !s.benchPresent b then 3
  else if !s.panel.pwrGood then 0
  else if (s.ownerOf b).isNone || s.suspect b then (if s.kettle.testBench = some b || s.kettle.bringTest.contains b then 0 else 1)
  else match (s.bench b).power with
    | .gated | .powering => 2
    | .running =>
      if s.benchBusy b || !(s.bench b).wc.isEmpty || s.kettle.testBench = some b || s.kettle.bringTest.contains b then 0 else 1

def clkReg (s : State) (off : Nat) : Option Nat :=
  match off with
  | 0x2000 => some s.clk.status
  | 0x2004 => some s.clk.planHeld
  | 0x2008 => some (lo32 s.stamp)
  | 0x200C => some (hi32 s.stamp)
  | 0x2010 => some ((List.range 8).foldl (fun a b => a + s.powerCode b * 4 ^ b) 0)
  | 0x2100 => some 0
  | 0x2104 => some (pack [(17, 16, s.rstLast), (8, 8, b2n s.rstDie.isSome), (7, 0, maskOf 8 (fun b => (s.bench b).reset))])
  | _ => none

/-! ### Faces (R365) -/

def ModState.code : ModState → Nat
  | .down => 0
  | .training => 1
  | .held => 2
  | .inService => 3

def State.faceState (s : State) (f : Nat) : Nat :=
  let ms := (s.face f).mods.take s.variant.moduleCount
  if (s.face f).up then (if ms.all (fun m => m.slots = 2) then 2 else 3)
  else if ms.any (fun m => m.state == .training || m.state == .held) then 1 else 0

def State.faceStatus (s : State) (f : Nat) : Nat :=
  let x := s.face f
  pack [(27, 22, maskOf 6 (fun m => (s.modl f m).slots = 1)), (21, 16, maskOf 6 (fun m => (s.modl f m).slots ≠ 0)), (11, 8, x.slotTable.length),
    (5, 5, b2n x.fast), (4, 4, 1), (1, 0, s.faceState f)]

def Modl.status (m : Modl) : Nat :=
  pack [(31, 24, m.retrains), (18, 16, m.repaired.1 + m.repaired.2), (14, 8, m.lanes), (7, 6, m.half), (3, 0, m.state.code)]

/-- Registers of a face not present exist and read 0. -/
def faceReg (s : State) (off : Nat) : Option Nat :=
  let f := (off - 0x3000) / 0x400
  let o := (off - 0x3000) % 0x400
  let x := s.face f
  let v : Option Nat :=
    if o = 0 then some (s.faceStatus f)
    else if o = 4 then some 0
    else if 0x10 ≤ o && o < 0x28 then some (s.modl f ((o - 0x10) / 4)).status
    else match o with
      | 0x40 => some x.crcErrors
      | 0x44 => some x.replays
      | 0x48 => some (pack [(31, 16, x.decodeErrs), (15, 0, x.protoErrs)])
      | 0x4C => some x.narrow
      | 0x50 => some x.regSeq
      | _ => none
  if s.facePresent f then v else v.map (fun _ => 0)

/-! ### Kettle, panel, monitor (R403, R414, R415, R430) -/

/-- The lamps: green and amber as SVC_STATUS codes them, and blue (R403). -/
def State.lamps (s : State) : Nat × Nat × Bool :=
  let replace := logReplace s.repairs
  let rest : Nat × Nat × Bool :=
    if s.drain.inForce then (if s.drain.blue then (0, b2n replace, true) else (0, 2, false))
    else if !s.cfg.committed || !s.kettle.bringTest.isEmpty then (2, 0, false)
    else if replace then (1, 1, false)
    else (1, 0, false)
  if !s.panel.pwrGood then (0, 0, false)
  else if s.clk.halted || s.kettle.beginHold then (0, 3, false)
  else if s.panel.statusDisplay then (rest.1, 3, rest.2.2)
  else rest

/-- The number of flashes of the status display (R404). -/
def State.displayCode (s : State) : Nat :=
  if s.kettle.trip then 7 else if s.drain.inForce then 6 else if logSuspect s.repairs then 5 else if logReplace s.repairs then 4
  else if s.kettle.hotLevel ≠ 0 then 3 else if s.wear.lower < 8760 && s.wear.conf ≠ 0 then 2 else 1

def Rail.word (r : Rail) : Nat := pack [(31, 16, r.amps16), (14, 14, b2n r.high), (13, 13, b2n r.low), (11, 0, r.mv)]

def State.svcStatus (s : State) : Nat :=
  let (g, a, b) := s.lamps
  pack [(11, 11, b2n s.kettle.trip), (10, 10, b2n s.panel.statusDisplay), (9, 9, b2n s.drain.forcedBlue), (8, 8, b2n b), (7, 6, a), (5, 4, g),
    (1, 1, b2n s.panel.cable), (0, 0, b2n s.panel.attn)]

def Drain.word (d : Drain) : Nat :=
  pack [(31, 24, min 255 (d.ms / 1000)), (11, 8, if d.inForce then d.cause else 0xF), (4, 4, b2n d.refused), (1, 1, b2n d.ack), (0, 0, b2n d.inForce)]

/-- A component in 1/256 (R414). -/
def frac256 (w : Nat) : Nat := min 255 (w / 256)

def ktlReg (s : State) (off : Nat) : Option Nat :=
  let k := s.kettle
  let w := s.wear
  if 0x4040 ≤ off && off < 0x405C then some ((k.rails.getD ((off - 0x4040) / 4) {}).word)
  else if 0x4080 ≤ off && off < 0x4100 then
    let n := (off - 0x4080) / 4
    some (if s.sensorPresent n then pack [(31, 31, 1), (15, 0, toTwos 16 (s.temp n))] else 0)
  else match off with
    | 0x4000 => some (pack [(31, 16, s.fuses.fwMajor), (15, 0, s.fuses.fwMinor)])
    | 0x4004 => some (pack [(1, 1, b2n s.fuses.digestSet), (0, 0, b2n s.fuses.secureLoad)])
    | 0x4008 => some (lo32 w.seconds)
    | 0x400C => some (pack [(31, 16, k.cap), (15, 0, k.power)])
    | 0x4010 => some (pack [(23, 16, 110), (7, 0, k.throttleC)])
    | 0x4014 => some ((List.range 8).foldl (fun a b => a + (k.level.getD b 0) * 8 ^ b) 0)
    | 0x4018 => some (pack [(31, 24, frac256 w.ageing), (23, 16, frac256 w.spares), (15, 8, frac256 w.lanes), (7, 0, frac256 w.thermal)])
    | 0x401C => some (pack [(31, 16, w.index), (1, 0, w.conf)])
    | 0x4020 => some w.life
    | 0x4024 => some w.lower
    | 0x4028 => some w.upper
    | 0x402C => some w.cycles
    | 0x4100 => some s.svcStatus
    | 0x4104 => some s.drain.word
    | 0x4200 => some (pack [(15, 8, s.mon.minutes), (0, 0, b2n s.mon.unlocked)])
    | 0x4204 => some s.mon.rate
    | 0x4208 => some (pack [(31, 16, s.mon.commands), (15, 8, s.mon.writes), (1, 1, b2n s.mon.running), (0, 0, b2n s.mon.connected)])
    | _ => none

/-! ### Integrity (R341) -/

/-- INT_SELFTEST. -/
def State.selftestWord (s : State) : Nat :=
  let k := s.kettle
  let running := k.testBench.isSome || !k.bringTest.isEmpty
  let current := match k.testBench with | some b => b | none => k.bringTest.headD 0
  pack [(31, 31, b2n running), (30, 30, b2n k.testFailed), (23, 16, k.testCode), (15, 8, k.testAborts), (7, 4, if running then current else 0), (3, 0, k.testLast)]

def intReg (s : State) (off : Nat) : Option Nat :=
  let i := s.ints
  let l := s.repairs
  if 0x5020 ≤ off && off < 0x5040 then
    let b := (off - 0x5020) / 4
    some (if s.benchPresent b then pack [(31, 16, retiredMask l b), (15, 8, remapCount l b), (4, 0, popcount (retiredMask l b))] else 0)
  else match off with
    | 0x5000 => some (pack [(23, 16, suspectMask l), (15, 8, causeOf l), (2, 2, b2n s.drain.inForce), (1, 1, b2n (logReplace l)), (0, 0, b2n (logSuspect l))])
    | 0x5004 => some (pack [(31, 16, i.lastCount), (7, 0, i.lastCode)])
    | 0x5008 => some i.ecc
    | 0x500C => some i.uncorrected
    | 0x5010 => some i.foreign
    | 0x5014 => some (pack [(31, 16, i.witDie), (15, 0, i.witMem)])
    | 0x5018 => some (pack [(31, 16, i.poisonMade), (15, 0, i.poisonRead)])
    | 0x501C => some s.selftestWord
    | 0x5040 => some (pack [(24, 16, s.log.length), (7, 0, storeRemaps l .cupboard 0)])
    | _ => none

/-! ### Stacks (R289) -/

def shdReg (s : State) (off : Nat) : Option Nat :=
  if off = 0x6100 then some s.ints.throttleIgnored
  else if off < 0x6100 then
    let e := (off - 0x6000) / 16
    let w := s.window e
    match s.stacks[e]? with
    | none => some 0
    | some x =>
      let (n, d) := s.phi x.nearFace
      match (off - 0x6000) % 16 with
      | 0 => some (lo32 w.lines)
      | 4 => some (hi32 w.lines)
      | 8 => some (pack [(29, 28, s.level e), (24, 16, n * 256 / d), (8, 0, w.v)])
      | _ => some w.peak
  else none

/-- A global register's value; none at an unassigned offset (R431, R436). -/
def globalReg (s : State) (off : Nat) : Option Nat :=
  if off < 0x1000 then hkReg s off
  else if off < 0x2000 then cfgReg s off
  else if off < 0x3000 then clkReg s off
  else if off < 0x4000 then faceReg s off
  else if off < 0x5000 then ktlReg s off
  else if off < 0x6000 then intReg s off
  else shdReg s off

/-! ### Partition windows (R437) -/

/-- A fault holds an order at stage 2 or 3 (R137, R303). -/
def Order.heldEarly (o : Order) : Bool := (o.phase == .stage2 || o.phase == .stage3) && !o.faults.isEmpty

/-- The order at the head of a ring waits for a slot, a wake, a fence or the end of a fault, or on a paused binding (R104, R137,
R303). -/
def State.ringWaits (s : State) (p q : Nat) (paused : Bool) : Bool :=
  (s.liveOf p).any (fun o => o.q == q && o.status.isNone &&
    ((o.phase == .waiting && s.waitsOnPause o == paused) || (!paused && o.heldEarly)))

def sqReg (s : State) (p q o : Nat) : Option Nat :=
  let x := s.sq p q
  match o with
  | 0x00 => some (pack [(31, 12, fld x.base 31 12), (0, 0, b2n x.enabled)])
  | 0x04 => some (pack [(31, 24, eaTag x.base), (15, 0, fld x.base 47 32)])
  | 0x08 => some (pack [(11, 8, x.cq), (4, 0, x.log2)])
  | 0x0C => some (fld x.head 15 0)
  | 0x10 => some (fld x.tail 15 0)
  | 0x14 => some (pack [(13, 13, b2n (x.enabled && !(s.pq p (16 + x.cq)).enabled)), (12, 8, min 16 (s.liveOn p q)), (7, 4, x.cause), (3, 3, b2n (s.ringWaits p q false)),
      (2, 2, b2n (s.ringWaits p q true)), (1, 1, b2n x.error), (0, 0, b2n x.enabled)])
  | _ => none

def pqReg (s : State) (p r o : Nat) : Option Nat :=
  let x := s.pq p r
  match o with
  | 0x00 => some (pack [(31, 12, fld x.base 31 12), (0, 0, b2n x.enabled)])
  | 0x04 => some (pack [(31, 24, eaTag x.base), (15, 0, fld x.base 47 32)])
  | 0x08 => some (fld x.log2 4 0)
  | 0x0C => some (pack [(16, 16, b2n x.phase), (15, 0, x.tail)])
  | 0x10 => some (fld x.head 15 0)
  | 0x14 => some (pack [(31, 16, if r = 33 then x.lost else 0), (7, 4, x.cause), (1, 1, b2n x.error), (0, 0, b2n x.enabled)])
  | 0x18 => some (pack [(31, 16, x.holdoff), (15, 8, x.threshold), (0, 0, b2n x.irqEn)])
  | _ => none

/-- Descriptor shadows in use, and streams with faulted set (R142, R154). Shadows that FACE_LOST left count as both: they are done and
faulted. Those of a parked session's halted order stay in use (log 50: DESIGN CHOICE; R81 drops them at the park, R153 keeps the streams
live and protected). -/
def State.streamCounts (s : State) (p : Nat) : Nat × Nat :=
  let xs := (s.liveOf p).flatMap Order.streams
  let lost := (s.part p).orphans.length
  (xs.length + lost, (xs.filter Stream.faulted).length + lost)

/-- A Glue-up order waits for its jig's share on a bench of one of its tiles, which another order holds there (R243, R267). -/
def State.waitsShare (s : State) (o : Order) : Bool :=
  o.phase == .running && o.status.isNone && !o.merging &&
  (List.range o.tileCount).any (fun t => match o.tileSpan t with
    | some (_, _, pos) =>
      let b := s.tileBench o t pos
      !o.isDelivered t && !o.shares.contains b && s.orders.any (fun y => y.id != o.id && y.p == o.p && y.f 10 2 == o.f 10 2 && s.hasShare y b)
    | none => false)

/-- A Glue-up order holds a share before its merge point. -/
def State.scattering (s : State) (o : Order) : Bool := !o.merging && o.shares.any (s.hasShare o)

def State.glueWord (s : State) (p : Nat) : Nat :=
  let os := (s.liveOf p).filter (fun o => o.op == 0x04 || o.op == 0x05)
  pack [(23, 16, (os.filter Order.merging).length), (15, 8, (os.filter s.waitsShare).length), (7, 0, (os.filter s.scattering).length)]

/-- The partition's ways less those retired on a bench of it (R42, R190). -/
def State.effMask (s : State) (p : Nat) : Nat :=
  (s.partBenches p).foldl (fun m b => m &&& s.effWays p b) (wayMask s.cfg.live p)

def winReg (s : State) (p o : Nat) : Option Nat :=
  let x := s.part p
  let e := s.pe p
  if 0x8000 ≤ o && o < 0x8080 then some 0
  else if 0x1000 ≤ o && o < 0x1800 then
    let r := s.root p ((o - 0x1000) / 8)
    some (if o % 8 = 0 then lo32 r.1 + b2n r.2 else fld r.1 47 32)
  else if 0x400 ≤ o && o < 0x600 then sqReg s p ((o - 0x400) / 0x20) (o % 0x20)
  else if 0x600 ≤ o && o < 0x800 then pqReg s p (16 + (o - 0x600) / 0x20) (o % 0x20)
  else if 0x800 ≤ o && o < 0x820 then pqReg s p 32 (o % 0x20)
  else if 0x820 ≤ o && o < 0x840 then pqReg s p 33 (o % 0x20)
  else match o with
    | 0x00 => some (pack [(31, 23, e.tagCount), (22, 15, e.tagBase), (14, 7, e.benchMask), (6, 5, e.hostFace), (4, 4, b2n e.enabled), (2, 0, p)])
    | 0x04 => some (pack [(23, 16, (quotaOf s.cfg.live p).2), (15, 0, (quotaOf s.cfg.live p).1)])
    | 0x08 => some (pack [(31, 24, x.badHints), (23, 16, (s.ctxs.filter (fun c => c.p == p && (c.state == .warming || c.state == .steeping))).length),
        (15, 0, (s.ctxs.filter (fun c => c.p == p)).length)])
    | 0x0C => some x.slice
    | 0x10 => some 0
    | 0x14 => some (pack [(1, 1, b2n x.busy), (0, 0, b2n x.done)])
    | 0x18 => some (pack [(25, 16, (s.streamCounts p).2), (9, 0, (s.streamCounts p).1)])
    | 0x20 => some (b2n x.chest.enable)
    | 0x24 => some (pack [(31, 16, s.effMask p), (3, 3, b2n x.chest.refused), (2, 2, b2n x.chest.invDone), (1, 1, b2n x.chest.invBusy),
        (0, 0, b2n (x.chest.enable || !x.chest.serving.isEmpty))])
    | 0x28 => some (pack [(31, 16, x.chest.lostLines), (15, 0, x.chest.refetched)])
    | 0x30 => some (pack [(31, 16, x.scale.entry), (15, 0, x.scale.table)])
    | 0x34 => some (pack [(31, 16, x.scale.sats), (15, 15, b2n x.scale.flagged), (14, 14, b2n x.scale.clipped), (13, 8, toTwos 6 x.scale.offset), (7, 6, x.scale.seq), (5, 0, x.scale.peak)])
    | 0x38 => some x.scale.unders
    | 0x40 => some (s.glueWord p)
    | 0x44 => some x.spillLast
    | 0x48 => some (pack [(31, 16, x.eccUnc), (15, 0, x.eccCor)])
    | 0x50 => some (pack [(31, 9, fld x.mig.poolBase 31 9), (0, 0, b2n x.mig.enable)])
    | 0x54 => some (pack [(31, 24, eaTag x.mig.poolBase), (15, 0, fld x.mig.poolBase 47 32)])
    | 0x58 => some 0
    | 0x5C => some (pack [(31, 24, min 255 x.mig.proposals.length), (23, 16, x.mig.skipped), (15, 5, if s.mig.phase ≠ 0 && s.mig.p = p then s.mig.rows.length else 0),
        (4, 4, b2n x.mig.acceptIgnored), (3, 3, b2n x.mig.poolError), (1, 0, if s.mig.p = p then s.mig.phase else 0)])
    | 0x60 => some x.mig.used
    | 0x70 => some 0
    | 0x74 => some (pack [(31, 16, x.lastUs), (2, 2, b2n x.badTag), (0, 0, b2n x.invTags.isEmpty)])
    | 0x78 => some 0
    | 0x7C => some (pack [(26, 16, x.faults.length), (0, 0, b2n x.badCmd)])
    | 0x80 => some (pack [(27, 16, s.dirShareOf p), (12, 0, s.rangeShareOf p)])
    | 0x84 => some x.misses
    | 0xF0 => some x.scratch.toNat
    | 0x200 => some 0
    | 0x204 => some (pack [(31, 24, x.reason), (23, 12, x.sect), (4, 4, b2n (s.cfg.txn.state != .idle && s.cfg.txn.owner != p)),
        (3, 0, if s.cfg.txn.owner = p then s.cfg.txn.state.code else 0)])
    | 0x208 => some (lo32 x.stageAddr)
    | 0x20C => some (fld x.stageAddr 47 32)
    | 0x210 => some x.stageLen
    | 0x214 => some (lo32 x.txnEpoch)
    | _ => none

/-! ### Access (R74, R75, R431 to R433) -/

/-- Where an offset lies: a global register, or an offset of a window. -/
def regWindow (off : Nat) : Option (Nat × Nat) := if off < 0x10000 || off ≥ 0x90000 then none else some ((off - 0x10000) / 0x10000, off % 0x10000)

/-- The value of the register at an offset; none at an unassigned one. -/
def regAt (s : State) (off : Nat) : Option Nat :=
  match regWindow off with
  | some (p, o) => if p < s.maxParts then winReg s p o else none
  | none => if off < 0x7000 then globalReg s off else none

/-- R74: the requester reaches global registers and its own window. -/
def State.admits (s : State) (f p off : Nat) : Bool :=
  ((s.enabled p && s.hostFace p == f) || (p == 0 && f == 0 && !s.cfg.committed)) &&
  (match regWindow off with | some (w, _) => w == p | none => true)

/-- An access that R74 does not admit: counted, and posted where the requester is enabled. -/
def State.foreign (s : State) (f p off : Nat) : State :=
  let s1 := s.upInts (fun i => { i with foreign := satAdd i.foreign 1 0xFFFFFFFF })
  if s.enabled p then s1.event p 0x0001 off f else s1

/-- The HI word that a LO word latches (R433). -/
def hiOf (off : Nat) : Option Nat :=
  if off = 0x2008 then some 0x200C else if off = 0x1014 then some 0x1018
  else if 0x6000 ≤ off && off < 0x6100 && off % 16 = 0 then some (off + 4) else none

def isHi (off : Nat) : Bool := off == 0x200C || off == 0x1018 || (0x6000 ≤ off && off < 0x6100 && off % 16 == 4)

def State.findLatch (s : State) (f p off : Nat) : Option Latch := s.latches.find? (fun l => l.face == f && l.part == p && l.offset == off)

def State.setLatch (s : State) (f p off v : Nat) : State :=
  { s with latches := s.latches.filter (fun l => !(l.face == f && l.part == p && l.offset == off)) ++ [⟨f, p, off, v⟩] }

def State.takeLatch (s : State) (f p off : Nat) : State := { s with latches := s.latches.filter (fun l => !(l.face == f && l.part == p && l.offset == off)) }

/-- What a read of a register answers (R10, R74, R431, R433). -/
def regValue (s : State) (f p off : Nat) : Nat :=
  match regAt s off with
  | none => 0
  | some v =>
    if !s.admits f p off then 0
    else if isHi off then (match s.findLatch f p off with | some l => l.value | none => v)
    else v

/-- What a read of a register changes: the latch of R433, or the count of R74. -/
def State.regRead (s : State) (f p off : Nat) : State :=
  match regAt s off with
  | none => s
  | some _ =>
    if !s.admits f p off then s.foreign f p off
    else match hiOf off with
      | some h => s.setLatch f p h ((regAt s h).getD 0)
      | none => if isHi off then s.takeLatch f p off else s

end Sys2Proof.Machine
end

