-- ==== Sys2Proof/Machine/Regs.lean ====
section
/-! DEFINITION. Register writes: the access codes of R9 and the conditions of R440 (R11, R30, R71 to R75, R95, R101, R102, R172,
R282, R289, R290, R308, R311, R318, R391, R406, R407, R409, R414, R415, R439 to R441). -/

namespace Sys2Proof.Machine

/-! ### Global registers -/

/-- CFG_REGION (R30): ignored from the first BEGIN to the next die reset. -/
def State.regionLo (s : State) (v : Nat) : State :=
  s.upCfg (fun c => if c.regionLocked then c else { c with regionBase := c.regionBase / 2 ^ 32 * 2 ^ 32 + fld v 31 21 * 2 ^ 21, regionValid := v.testBit 0 })

def State.regionHi (s : State) (v : Nat) : State :=
  s.upCfg (fun c => if c.regionLocked then c else { c with regionBase := c.regionBase % 2 ^ 32 + fld v 15 0 * 2 ^ 32 })

/-- CLK_STATUS: its two W1C bits (R391). -/
def State.clearLost (s : State) (v : Nat) : State :=
  s.upClk (fun c => { c with xaLost := c.xaLost && !v.testBit 10, xbLost := c.xbLost && !v.testBit 13 })

/-- RST_CTRL (R391). -/
def State.rstCtrl (s : State) (v : Nat) : State :=
  if fld v 31 24 ≠ 0x5A then s else if v.testBit 0 then s.dieResetRequest else s.benchReset (fld v 15 8)

/-- FACE_CTRL: the modules of the mask that are present retrain (R346, R440). -/
def State.retrain (s : State) (f mask : Nat) : State :=
  ((List.range 6).filter (fun m => mask.testBit m && s.modPresent f m)).foldl (fun s m => s.retrainMod f m) s

/-- KTL_POWER.cap_w (R414, R440). -/
def State.setCap (s : State) (v : Nat) : State :=
  let c := fld v 31 16
  s.upKettle (fun k => if 100 ≤ c && c ≤ k.capReset then { k with cap := c } else k)

def State.setThrottleC (s : State) (v : Nat) : State :=
  let c := fld v 7 0
  s.upKettle (fun k => if 85 ≤ c && c ≤ 100 then { k with throttleC := c } else k)

/-- SVC_DRAIN (R405, R406, R415). -/
def State.svcDrain (s : State) (v : Nat) : State :=
  let s1 := if v.testBit 4 then s.upDrain (fun d => { d with refused := false }) else s
  let s2 := if v.testBit 3 then s1.cancelDrain else s1
  if v.testBit 1 then s2.ackDrain else s2

/-- MON_UNLOCK (R409, R415). -/
def State.setUnlock (s : State) (v : Nat) : State :=
  if fld v 31 24 ≠ 0xA5 then s else s.upMon (fun m => { m with unlocked := v.testBit 0, minutes := fld v 15 8, minuteMs := 0 })

/-- MON_UNLOCK_EXPIRE (R409). -/
def State.unlockExpire (s : State) : State :=
  if s.mon.unlocked && s.mon.minutes ≠ 0 then s.upMon (fun m => { m with unlocked := false, minutes := 0, minuteMs := 0 }) else s

/-- MON_UART.rate; codes 6 and 7 are ignored (R407). -/
def State.setRate (s : State) (r : Nat) : State := if r < 6 then s.upMon (fun m => { m with rate := r }) else s

/-- SHD_STACK_PEAK.lines of a defined entry; 0 is ignored (R289). -/
def State.setPeak (s : State) (e v : Nat) : State :=
  let n := fld v 15 0
  if n = 0 || e ≥ s.stacks.length then s else s.upWindow e (fun w => { w with peak := n })

/-- A write of a global register by the primary; read-only registers ignore it. -/
def State.globalWrite (s : State) (off v : Nat) : State :=
  if 0x3000 ≤ off && off < 0x4000 then (if (off - 0x3000) % 0x400 = 4 then s.retrain ((off - 0x3000) / 0x400) (fld v 5 0) else s)
  else if 0x6000 ≤ off && off < 0x6100 then (if off % 16 = 12 then s.setPeak ((off - 0x6000) / 16) v else s)
  else match off with
    | 0x1000 => s.regionLo v
    | 0x1004 => s.regionHi v
    | 0x2000 => s.clearLost v
    | 0x2100 => s.rstCtrl v
    | 0x400C => s.setCap v
    | 0x4010 => s.setThrottleC v
    | 0x4104 => s.svcDrain v
    | 0x4200 => s.setUnlock v
    | 0x4204 => s.setRate (fld v 2 0)
    | _ => s

/-! ### Windows -/

/-- A doorbell that moves the tail (R101). -/
def State.doorbellOk (s : State) (p q tail : Nat) : Bool :=
  let x := s.sq p q
  s.cfg.committed && s.kettle.bringTest.isEmpty && !(s.part p).busy && x.enabled && tail < x.size &&
  (x.tail + x.size - x.head) % x.size ≤ (tail + x.size - x.head) % x.size

/-- PART_DB: the tail, and the hint of a doorbell that is accepted (R87, R101). -/
def State.partDb (s : State) (p q v : Nat) : State :=
  let s1 := s.doorbell p q (fld v 15 0)
  if s.doorbellOk p q (fld v 15 0) then s1.hint p (fld v 31 16) else s1

/-- PART_CHEST_CTRL: invalidate leaves enable as it was (R172, R440). -/
def State.chestCtrl (s : State) (p v : Nat) : State :=
  if v.testBit 1 then s.chestInvalidate p else if v.testBit 0 then s.chestEnable p else s.chestDisable p

/-- PART_MIG_ACCEPT with go (R290). -/
def State.migAcceptWord (s : State) (p v : Nat) : State := if v.testBit 31 then s.migAccept p (fld v 23 16) (fld v 11 0) else s

/-- PART_FAULT_CMD (R308). -/
def State.faultCmd (s : State) (p v : Nat) : State :=
  match fld v 31 30 with
  | 1 => s.faultResume p (fld v 9 0)
  | 2 => s.faultAbort p (fld v 9 0)
  | _ => s

/-- W1C bits of a window. -/
def State.clearMig (s : State) (p v : Nat) : State :=
  s.upPart p (fun x => { x with mig := { x.mig with acceptIgnored := x.mig.acceptIgnored && !v.testBit 4, poolError := x.mig.poolError && !v.testBit 3 } })

def State.clearRefused (s : State) (p v : Nat) : State :=
  s.upPart p (fun x => { x with chest := { x.chest with refused := x.chest.refused && !v.testBit 3 } })

/-- PART_STAGE: address and length of the next STAGE (R72). -/
def State.stageLo (s : State) (p v : Nat) : State := s.upPart p (fun x => { x with stageAddr := x.stageAddr / 2 ^ 32 * 2 ^ 32 + fld v 31 6 * 64 })
def State.stageHi (s : State) (p v : Nat) : State := s.upPart p (fun x => { x with stageAddr := x.stageAddr % 2 ^ 32 + fld v 15 0 * 2 ^ 32 })

/-- A write of a submission ring's block. -/
def State.sqWrite (s : State) (p q o v : Nat) : State :=
  match o with
  | 0x00 => s.sqBaseLo p q v
  | 0x04 => s.ringBaseHi p q v
  | 0x08 => s.sqCfg p q v
  | 0x14 => s.ringStatus p q v
  | _ => s

/-- A write of a produced ring's block. -/
def State.pqWrite (s : State) (p r o v : Nat) : State :=
  match o with
  | 0x00 => s.pqBaseLo p r v
  | 0x04 => s.ringBaseHi p r v
  | 0x08 => s.pqSize p r v
  | 0x10 => s.pqHead p r (fld v 15 0)
  | 0x14 => s.ringStatus p r v
  | 0x18 => s.pqIrq p r v
  | _ => s

/-- A write of a window register while no partition reset is in progress. -/
def State.windowWrite (s : State) (p o v : Nat) : State :=
  if 0x8000 ≤ o && o < 0x8080 then (if o % 8 = 0 then s.partDb p ((o - 0x8000) / 8) v else s)
  else if 0x1000 ≤ o && o < 0x1800 then (if o % 8 = 0 then s.setRootLo p ((o - 0x1000) / 8) v else s.setRootHi p ((o - 0x1000) / 8) v)
  else if 0x400 ≤ o && o < 0x600 then s.sqWrite p ((o - 0x400) / 0x20) (o % 0x20) v
  else if 0x600 ≤ o && o < 0x800 then s.pqWrite p (16 + (o - 0x600) / 0x20) (o % 0x20) v
  else if 0x800 ≤ o && o < 0x820 then s.pqWrite p 32 (o % 0x20) v
  else if 0x820 ≤ o && o < 0x840 then s.pqWrite p 33 (o % 0x20) v
  else match o with
    | 0x0C => s.upPart p (fun x => { x with slice := fld v 15 0 })
    | 0x10 => if v.testBit 0 then s.partReset p else s
    | 0x20 => s.chestCtrl p v
    | 0x24 => s.clearRefused p v
    | 0x50 => s.migPoolLo p v
    | 0x54 => s.migPoolHi p v
    | 0x58 => s.migAcceptWord p v
    | 0x5C => s.clearMig p v
    | 0x70 => s.invalTag p (fld v 7 0)
    | 0x74 => s.upPart p (fun x => { x with badTag := x.badTag && !v.testBit 2 })
    | 0x78 => s.faultCmd p v
    | 0x7C => s.upPart p (fun x => { x with badCmd := x.badCmd && !v.testBit 0 })
    | 0xF0 => s.upPart p (fun x => { x with scratch := BitVec.ofNat 32 v })
    | 0x200 => s.txnCommand p (fld v 3 0)
    | 0x208 => s.stageLo p v
    | 0x20C => s.stageHi p v
    | 0x210 => s.upPart p (fun x => { x with stageLen := fld v 26 0 })
    | _ => s

/-- PART_RESET_STATUS.done is W1C, also during a partition reset (R95). -/
def State.clearDone (s : State) (p v : Nat) : State := if v.testBit 0 then s.upPart p (fun x => { x with done := false }) else s

/-- The primary may write PART_RESET in any window (R75). -/
def State.mayReset (s : State) (f p off : Nat) : Bool :=
  p == 0 && s.admits f 0 0 && (match regWindow off with | some (_, o) => o == 0x10 | none => false)

/-- A register write of a partition through a face (R9 to R11, R74, R75, R95, R431, R440). -/
def State.regWrite (s : State) (f p off : Nat) (value : Word) : State :=
  let v := value.toNat
  match regAt s off with
  | none => s
  | some _ =>
    if !s.admits f p off && !s.mayReset f p off then s.foreign f p off
    else match regWindow off with
      | none => if p ≠ 0 then s.event p 0x0002 off v else s.globalWrite off v
      | some (w, o) =>
        if o = 0x14 then s.clearDone w v
        else if (s.part w).busy then s
        else s.windowWrite w o v

end Sys2Proof.Machine
end

