-- ==== Sys2Proof/Machine/Yelir.lean ====
section
/-! DEFINITION. The service panel and the Yelir monitor (R402 to R413, R419). Replies are their values, as the text of a
reply is not laid down (log 10). Commands are numbered in the order of R410: 1 id, 2 peek, 3 poke, 4 cupboard, 5 wear,
6 temps, 7 clocks, 8 events, 9 cutlist, 10 selftest, 11 drain status, 12 drain start, 13 drain cancel, 14 drain reset. -/

namespace Sys2Proof.Machine

/-! ### The panel (R402 to R405) -/

/-- A short press starts the status display; the button is released again. -/
def State.attnPress (s : State) : State :=
  if s.alive then s.upPanel (fun p => { p with attn := false, attnSame := 0, statusDisplay := true }) else s

/-- A hold reaches 3 s: without a drain in force one of cause 0 starts. -/
def State.attnHold3 (s : State) : State :=
  if !s.alive then s
  else
    let s1 := s.upPanel (fun p => { p with attn := true, attnSame := 0 })
    if s.drain.inForce then s1 else s1.startDrain 0

/-- A hold that began in a drain with blue dark reaches 10 s: blue is forced. -/
def State.attnHold10 (s : State) (beganInDrain : Bool) : State :=
  if !s.alive then s
  else
    let s1 := s.upPanel (fun p => { p with attn := true, attnSame := 0 })
    if s.drain.inForce && beganInDrain && !s.drain.blue then s1.upDrain (fun d => { d with blue := true, forcedBlue := true }) else s1

def State.statusEnd (s : State) : State := s.upPanel (fun p => { p with statusDisplay := false })

/-! ### The test access port (R419) -/

/-- The level of a lamp's signal, low when lit, by the lamp's code: 0 off, 1 steady; one that blinks is a free value (R403, R419). -/
def State.lampLevel (s : State) (code n : Nat) : Bool :=
  if code = 0 then true else if code = 1 then false else Config.level s.nextId n

/-- The service signals as the die has them, from bit 0: PWR_GOOD, THERM_TRIP_N, ATTN_N, CABLE_PRES_N, LED_GREEN_N, LED_AMBER_N,
LED_BLUE_N, UART_TX, UART_RX (R419). The levels of the serial line are free values (log 13). -/
def State.pinLevels (s : State) : List Bool :=
  let (g, a, b) := s.lamps
  [s.panel.pwrGood, !s.panel.tripN, !s.panel.attn, !s.panel.cable, s.lampLevel g 4, s.lampLevel a 5, s.lampLevel (b2n b) 6,
   Config.level s.nextId 7, Config.level s.nextId 8]

/-- The service signals that the die drives: the trip, the lamps and UART_TX (R419). -/
def pinOut (n : Nat) : Bool := n = 1 || (4 ≤ n && n ≤ 7)

/-- The service signals: under EXTEST the boundary register drives the outputs (R419). -/
def State.serviceSignals (s : State) : Nat :=
  maskOf 9 (fun n => if s.tap.driving && pinOut n then s.tap.boundary.testBit n else s.pinLevels.getD n false)

/-- One of the mandatory instructions: 0 BYPASS, 1 SAMPLE, 2 PRELOAD, 3 EXTEST. PRELOAD loads the boundary register, SAMPLE captures the
service signals, EXTEST drives the outputs from the register (log 13). -/
def State.boundaryScan (s : State) (op value : Nat) : State :=
  let s := s.fresh
  let pins := { s with tap := { s.tap with driving := false } }.serviceSignals
  match op with
  | 0 => { s with tap := { s.tap with op := 0, bypass := value.testBit 0, driving := false } }
  | 1 => { s with tap := { s.tap with op := 1, boundary := pins, driving := false } }
  | 2 => { s with tap := { s.tap with op := 2, boundary := value, driving := false } }
  | 3 => { s with tap := { s.tap with op := 3, driving := true } }
  | _ => s

/-! ### The line (R407, R408, R412) -/

def State.say (s : State) (o : List YOut) : State := s.upMon (fun m => { m with out := m.out ++ o })

/-- A reply's last lines: the status, and a prompt for the next command. -/
def State.sayOk (s : State) : State := s.say [.ok, .prompt]
def State.sayErr (s : State) (code : Nat) : State := s.say [.err code (errWord code), .prompt]

def State.sayReply (s : State) (cmd : Nat) (vs : List Nat) : State := s.say [.reply cmd vs, .ok, .prompt]

/-- Cable present: the banner and a prompt. -/
def State.cablePresent (s : State) : State :=
  if !s.alive || s.panel.cable then s
  else (s.upPanel (fun p => { p with cable := true })).upMon (fun m =>
    { m with connected := true, line := [], tooLong := false, sawCr := false, out := [.banner, .prompt] })

/-- The running command ends. A poke that has been issued completes in full (R412). -/
def State.endRun (s : State) : State :=
  let keep := s.narrows.filter (fun (n : NarrowReq) => n.modl.isSome || (n.write.isSome && n.issued))
  let s1 := { s with narrows := keep.map (fun (n : NarrowReq) => { n with stale := true }) }
  s1.upMon (fun m => { m with running := false, runGot := [], runLeft := 0 })

/-- Cable gone: the line is discarded, output stops, the running command ends. -/
def State.cableRemoved (s : State) : State :=
  if !s.panel.cable then s
  else (s.upPanel (fun p => { p with cable := false })).endRun.upMon (fun m => { m with connected := false, line := [], tooLong := false, sawCr := false })

/-! ### Commands (R409 to R411) -/

/-- Yelir takes a command: connected, and no other command runs. -/
def State.yReady (s : State) : Bool := s.alive && s.mon.connected && !s.mon.running

def State.hours (s : State) : Nat := s.wear.seconds / 3600

def State.yId (s : State) : State :=
  (s.performed 1 0 false).sayReply 1 [s.variant.code, s.fuses.major, s.fuses.minor, (hkReg s 0).getD 0, s.fuses.fwMajor, s.fuses.fwMinor, s.cfg.imageId, s.cfg.epoch,
    s.hours, b2n s.mon.unlocked]

/-- An address that peek and poke take: aligned to 8 bytes, and in a STACK_MAP range after the first commit. -/
def State.narrowOk (s : State) (addr : Nat) : Bool := addr < 2 ^ 48 && addr % 8 = 0 && (!s.cfg.committed || (stackIx s.stacks addr).isSome)

/-- Start a narrow access of the running command, through the face of R268 or face 0 (R176, R410). The Kettle issues no other: when it
scrubs poisoned lines, and what a face's start-up and self-test access, the spec does not say (log 50: DESIGN CHOICE). -/
def State.startNarrow (s : State) (addr : Nat) (write : Option Nat) : State :=
  let tag := (freeTag (s.narrows.map NarrowReq.tag) 4096 0).getD 0
  ({ s with narrows := s.narrows ++ [({ face := s.nearFace addr, tag := tag, addr := addr, write := write } : NarrowReq)] }.upMon (fun m => { m with runAddr := addr })).pumpNarrow

def State.yPeek (s : State) (addr words : Nat) : State :=
  if !s.mon.unlocked then s.sayErr 2
  else if words = 0 || words > 64 || !(List.range words).all (fun i => s.narrowOk (addr + 8 * i)) then s.sayErr 3
  else if s.rstDie.isSome then s.sayErr 4
  else ((s.performed 2 addr false).upMon (fun m => { m with running := true, runCmd := 2, runGot := [], runLeft := words })).startNarrow addr none

/-- A poke is performed when its write is issued (R412). -/
def State.yPoke (s : State) (addr value : Nat) : State :=
  if !s.mon.unlocked then s.sayErr 2
  else if !s.narrowOk addr || value ≥ 2 ^ 64 then s.sayErr 3
  else if s.rstDie.isSome then s.sayErr 4
  else (s.upMon (fun m => { m with running := true, runCmd := 3, runGot := [], runLeft := 1 })).startNarrow addr (some value)

def State.yCupboard (s : State) (arg : Option (Nat × Nat)) : State :=
  if !s.mon.unlocked then s.sayErr 2
  else match arg with
    | none =>
      let used (p : Nat) : Nat := (s.ctxs.filter (fun c => c.p == p)).length
      let active (p : Nat) : Nat := (s.ctxs.filter (fun c => c.p == p && (c.state == .warming || c.state == .steeping))).length
      let withdrawn := (s.repairs.filter (fun e => match e with | .withdrawn _ => true | _ => false)).length
      (s.performed 4 0 false).sayReply 4 ((16384 - withdrawn) :: (List.range s.maxParts).flatMap (fun p => [used p, active p]))
    | some (p, n) =>
      match s.ctx? p n with
      | none => s.sayErr 6
      | some c => (s.performed 4 0 false).sayReply 4 [s.contextBytes c]

def State.yWear (s : State) : State :=
  let w := s.wear
  let bench (b : Nat) : List Nat := [popcount (retiredMask s.repairs b), remapCount s.repairs b]
  (s.performed 5 0 false).sayReply 5 ([w.ageing, w.spares, w.lanes, w.thermal, w.index, w.life, w.lower, w.upper, w.conf, s.hours] ++
    (List.range s.variant.benchCount).flatMap bench)

def State.yTemps (s : State) : State :=
  (s.performed 6 0 false).sayReply 6 ((List.range 32).map (fun n => toTwos 16 (s.temp n)) ++ s.kettle.level ++ [s.kettle.power, s.kettle.cap, b2n s.kettle.trip])

def State.yClocks (s : State) : State := (s.performed 7 0 false).sayReply 7 [s.clk.status, s.clk.planHeld]

def State.yEvents (s : State) (n : Option Nat) : State :=
  let k := n.getD 16
  if k = 0 || k > 64 then s.sayErr 3
  else (s.performed 8 0 false).sayReply 8 ((s.kettle.log.take k).reverse.flatMap (fun e => [e.secs, e.code, e.arg0, e.arg1]))

def State.yCutlist (s : State) : State :=
  let c := s.cfg
  (s.performed 9 0 false).sayReply 9 ([c.imageId, c.epoch, c.oldest, if c.txn.state = .idle then 0xFF else c.txn.owner, c.txn.state.code] ++
    s.enabledParts.flatMap (fun p => [p, (s.pe p).benchMask, s.hostFace p]))

def State.ySelftest (s : State) (b : Option Nat) : State :=
  match b with
  | none =>
    let since (b : Nat) : Nat := (s.wear.seconds - s.kettle.tested.getD b 0) / 3600
    (s.performed 10 0 false).sayReply 10 (s.selftestWord :: (List.range s.variant.benchCount).map since)
  | some b =>
    if !s.mon.unlocked then s.sayErr 2
    else if !s.benchPresent b then s.sayErr 6
    else if !s.mayTest || (s.bench b).reset || ((s.ownerOf b).isSome && s.benchBusy b) then s.sayErr 4
    else ((s.performed 10 0 true).startTest b).sayOk

def State.yDrainStatus (s : State) : State :=
  let d := s.drain
  let (g, a, b) := s.lamps
  (s.performed 11 0 false).sayReply 11 [b2n d.inForce, if d.inForce then d.cause else 0xF, b2n d.ack, d.ms / 1000, g, a, b2n b]

def State.yDrainStart (s : State) : State := if !s.mon.unlocked then s.sayErr 2 else ((s.performed 12 0 true).startDrain 2).sayOk
def State.yDrainCancel (s : State) : State := if !s.mon.unlocked then s.sayErr 2 else ((s.performed 13 0 true).cancelDrain).sayOk

def State.yDrainReset (s : State) : State :=
  if !s.mon.unlocked then s.sayErr 2
  else if s.rstDie.isSome then s.sayErr 4
  else ((s.performed 14 0 true).beginReset 0 true).sayOk

/-! ### Narrow replies (R359, R411) -/

/-- The running command ends with an error. -/
def State.failRun (s : State) (code : Nat) : State := (s.upMon (fun m => { m with running := false, runGot := [], runLeft := 0 })).sayErr code

/-- The data of a narrow read goes to the peek that waits for it. -/
def State.peekData (s : State) (status value : Nat) : State :=
  if status ≠ 0 then s.failRun 5
  else
    let m := s.mon
    if m.runLeft ≤ 1 then (s.upMon (fun m => { m with running := false, runGot := [], runLeft := 0 })).sayReply 2 (m.runGot ++ [value])
    else (s.upMon (fun m => { m with runGot := m.runGot ++ [value], runLeft := m.runLeft - 1 })).startNarrow (m.runAddr + 8) none

/-- A face down for 1 s ends the command that waits on it (R411, R413). -/
def State.narrowLost (s : State) (f : Nat) : State :=
  let mine (n : NarrowReq) : Bool := n.face == f && n.modl.isNone
  let waits := s.mon.running && s.narrows.any (fun n => mine n && !n.stale)
  let s1 := { s with narrows := s.narrows.filter (fun n => !mine n) }
  if waits then s1.failRun 4 else s1

/-- YELIR_BREAK: the output of a read command stops and the command ends with ok (R408). -/
def State.yBreak (s : State) : State :=
  if !s.alive || !s.mon.connected || !s.mon.running || s.mon.runCmd ≠ 2 then s
  else
    let got := s.mon.runGot
    s.endRun.sayReply 2 got

/-! ### Parsing (R408) -/

/-- Tokens of a line: runs of characters between spaces. -/
def tokens : List Nat → List (List Nat)
  | [] => []
  | c :: cs =>
    if c = 32 then tokens cs
    else match cs, tokens cs with
      | [], _ => [[c]]
      | d :: _, ts => if d = 32 then [c] :: ts else match ts with | t :: rest => (c :: t) :: rest | [] => [[c]]

def digitOf (base c : Nat) : Option Nat :=
  let d := if 48 ≤ c && c ≤ 57 then c - 48 else if 97 ≤ c && c ≤ 102 then c - 87 else if 65 ≤ c && c ≤ 70 then c - 55 else 99
  if d < base then some d else none

/-- Digits of a number, with underscores between; at least one digit. -/
def digits (base : Nat) : List Nat → Option Nat → Option Nat
  | [], v => v
  | c :: cs, v =>
    if c = 95 then digits base cs v
    else match digitOf base c with
      | some d => digits base cs (some (v.getD 0 * base + d))
      | none => none

/-- A number: decimal, or hexadecimal after 0x. -/
def number : List Nat → Option Nat
  | 48 :: 120 :: ds => digits 16 ds none
  | ds => digits 10 ds none

/-- A command as a line names it. -/
inductive YCmd where
  | id
  | peek (addr words : Nat)
  | poke (addr value : Nat)
  | cupboard (arg : Option (Nat × Nat))
  | wear
  | temps
  | clocks
  | events (n : Option Nat)
  | cutlist
  | selftest (b : Option Nat)
  | drainStatus
  | drainStart
  | drainCancel
  | drainReset
  deriving DecidableEq, Repr

/-- The words of R410, as ASCII codes. -/
def wordId : List Nat := [105, 100]
def wordPeek : List Nat := [112, 101, 101, 107]
def wordPoke : List Nat := [112, 111, 107, 101]
def wordCupboard : List Nat := [99, 117, 112, 98, 111, 97, 114, 100]
def wordWear : List Nat := [119, 101, 97, 114]
def wordTemps : List Nat := [116, 101, 109, 112, 115]
def wordClocks : List Nat := [99, 108, 111, 99, 107, 115]
def wordEvents : List Nat := [101, 118, 101, 110, 116, 115]
def wordCutlist : List Nat := [99, 117, 116, 108, 105, 115, 116]
def wordSelftest : List Nat := [115, 101, 108, 102, 116, 101, 115, 116]
def wordDrain : List Nat := [100, 114, 97, 105, 110]
def wordStatus : List Nat := [115, 116, 97, 116, 117, 115]
def wordStart : List Nat := [115, 116, 97, 114, 116]
def wordCancel : List Nat := [99, 97, 110, 99, 101, 108]
def wordReset : List Nat := [114, 101, 115, 101, 116]

/-- Parse the tokens of a line; none is err 1. -/
def parseCmd (ts : List (List Nat)) : Option YCmd :=
  match ts with
  | [] => none
  | w :: args =>
    let nums := args.map number
    if w = wordId then (if args.isEmpty then some .id else none)
    else if w = wordPeek then
      match nums with
      | [some a] => some (.peek a 1)
      | [some a, some n] => some (.peek a n)
      | _ => none
    else if w = wordPoke then
      match nums with
      | [some a, some v] => some (.poke a v)
      | _ => none
    else if w = wordCupboard then
      match nums with
      | [] => some (.cupboard none)
      | [some p, some n] => some (.cupboard (some (p, n)))
      | _ => none
    else if w = wordWear then (if args.isEmpty then some .wear else none)
    else if w = wordTemps then (if args.isEmpty then some .temps else none)
    else if w = wordClocks then (if args.isEmpty then some .clocks else none)
    else if w = wordEvents then
      match nums with
      | [] => some (.events none)
      | [some n] => some (.events (some n))
      | _ => none
    else if w = wordCutlist then (if args.isEmpty then some .cutlist else none)
    else if w = wordSelftest then
      match nums with
      | [] => some (.selftest none)
      | [some b] => some (.selftest (some b))
      | _ => none
    else if w = wordDrain then
      match args with
      | [] => some .drainStatus
      | [a] =>
        if a = wordStatus then some .drainStatus else if a = wordStart then some .drainStart
        else if a = wordCancel then some .drainCancel else if a = wordReset then some .drainReset else none
      | _ => none
    else none

def State.perform (s : State) : YCmd → State
  | .id => s.yId
  | .peek a n => s.yPeek a n
  | .poke a v => s.yPoke a v
  | .cupboard arg => s.yCupboard arg
  | .wear => s.yWear
  | .temps => s.yTemps
  | .clocks => s.yClocks
  | .events n => s.yEvents n
  | .cutlist => s.yCutlist
  | .selftest b => s.ySelftest b
  | .drainStatus => s.yDrainStatus
  | .drainStart => s.yDrainStart
  | .drainCancel => s.yDrainCancel
  | .drainReset => s.yDrainReset

/-- Yelir performs a command; the faces grant what it queued (R16). -/
def State.yRun (s : State) (c : YCmd) : State := pump (s.perform c)

/-- A command given whole: performed where Yelir takes one. -/
def State.yCommand (s : State) (c : YCmd) : State := if s.yReady then s.yRun c else s

/-- A line ends: it is parsed and its command runs; an empty line brings a prompt. -/
def State.yLine (s : State) (long : Bool) (l : List Nat) : State :=
  if long then s.sayErr 1
  else if (tokens l).isEmpty then s.say [.prompt]
  else match parseCmd (tokens l) with
    | none => s.sayErr 1
    | some c => s.yRun c

/-- YELIR_CHAR: a character from the UART (R408). -/
def State.yChar (s : State) (c : Nat) : State :=
  if !s.alive || !s.mon.connected then s
  else if s.mon.running then (if c = 3 then s.yBreak else s.upMon (fun m => { m with sawCr := false }))
  else if c = 10 && s.mon.sawCr then (s.say [.echo c]).upMon (fun m => { m with sawCr := false })
  else
    let s1 := s.say [.echo c]
    if c = 13 || c = 10 then
      (s1.upMon (fun m => { m with line := [], tooLong := false, sawCr := c = 13 })).yLine s.mon.tooLong s.mon.line
    else if c = 8 || c = 127 then s1.upMon (fun m => { m with line := m.line.dropLast, sawCr := false })
    else if s.mon.line.length ≥ 128 then s1.upMon (fun m => { m with tooLong := true, sawCr := false })
    else s1.upMon (fun m => { m with line := m.line ++ [c], sawCr := false })

end Sys2Proof.Machine
end

