-- ==== Sys2Proof/Machine/Faces.lean ====
section
/-! DEFINITION. What arrives on a module of a face: flits, messages, and the end of training (R309, R345 to R363). -/

namespace Sys2Proof.Machine

/-! ### Walk lines (R299 to R311) -/

/-- A walk has made its range: what waits for it and is given by no command goes on. -/
def State.walkDone (s : State) (w : Walk) : State :=
  match w.for_ with
  | .ring p r => if r < 16 then s else s.pumpRing p r
  | .back o => if (s.order? o).isNone then s.pumpOrphans w.part else s
  | .skip none => s.poolStep w.part
  | _ => s

/-- A walk ends in a fault (R306, R307): the order finds it when it looks the page up again; a ring fails with cause 1; what
writes no record skips the page. -/
def State.walkFault (s : State) (w : Walk) (perm outside : Bool) : State :=
  match w.for_ with
  | .order o .. =>
    let key := pageKey (w.tag <<< 56 + w.va) w.write
    s.upOrder o (fun o => { o with xfaults := (key, perm, outside) :: o.xfaults })
  | .ring p r => s.ringError p r 1
  | .skip o =>
    let s1 := { s with skips := s.skips ++ [⟨w.part, o, w.tag, w.va / 4096⟩] }
    if o.isNone then s1.poolStep w.part else s1
  | .back _ => s

/-- The bag, query or tile that poison met by a walk names (R127, R324). -/
def Order.walkDetail (o : Order) (t : Nat) : Nat :=
  match o.tileSpan t with
  | some (first, _, _) => o.poisonDetail t first
  | none => 0

/-- Poison returned for a page table: nothing is cached, the order that needed the translation ends with POISONED, and a ring
fails with cause 2 (R309). The Kettle's own walks skip the page. -/
def State.walkPoison (s : State) (w : Walk) : State :=
  match w.for_ with
  | .order o _ _ t => s.endOrder o 0x10 (((s.order? o).map (fun x => x.walkDetail t)).getD 0)
  | .ring p r => s.ringError p r 2
  | .skip (some o) => s.endOrder o 0x10 0
  | .skip none => s.walkFault w false false
  | .back o => s.endOrder o 0x10 0

/-- A face's walker gives its free places to the walks that wait, the partitions in turn (R78, R298). -/
def State.grantFace (s : State) (f : Nat) : Nat → State
  | 0 => s
  | n + 1 =>
    match s.nextWalk? f with
    | none => s
    | some w =>
      match (s.upFace f (fun x => { x with walkTurn := w.part })).rewalk w with
      | (s1, .fault a b) => State.grantFace (s1.walkFault w a b) f n
      | (s1, _) => State.grantFace s1 f n

def State.grantWalks (s : State) : State := (List.range 4).foldl (fun s f => s.grantFace f s.walks.length) s

/-- The line of a table returns to its walk. -/
def State.walkData (s : State) (id : Nat) (line : Line) (bad : Bool) : State :=
  match s.walks.find? (fun w => w.id == id) with
  | none => s
  | some w =>
    if bad && !w.stale then (s.endWalk id).walkPoison w
    else
      match (if w.stale then s.rewalk w else s.walkLine w line.toNat) with
      | (s1, .going) => s1
      | (s1, .done) => s1.walkDone w
      | (s1, .fault p o) => s1.walkFault w p o

/-! ### DATA (R165, R169, R316, R357) -/

/-- A row line read for an order fills the Chest of its bench under the effective mask of the binding, with the row writes that were
sent after the read (R171); poison is not kept. A line of a PREFETCH that the Saucer holds moves to the Chest (R316). -/
def State.fillRow (s : State) (o b l : Nat) (bytes : Line) (bad : Bool) (since : List Passed) (pre : Bool) : State :=
  match s.order? o with
  | none => s
  | some x =>
    match x.rowBinding with
    | none => s
    | some y =>
      let mine := since.filter (fun w => w.line == l)
      let ways := s.bindWays x.p b y
      let z := s.bench b
      if bad || mine.any Passed.poison || z.chest.any (fun c => c.line == l) || !s.serves x.p b || ways = 0 then s else
      match z.saucer.find? (fun c => c.line == l) with
      | none =>
        let wait := ((mine.filter (fun w => s.writes.any (fun y => y.id == w.write))).getLast?).map Passed.write
        s.upBench b (fun z => z.fill ways l (mine.foldl (fun v w => mergeLine v w.mask w.bytes) bytes) wait [x.rowBindNo])
      | some v => if pre && !v.bad then s.upBench b (fun z => (z.look ways l x.rowBindNo).2) else s

/-- A line that a read returned goes to a consumer. -/
def State.handOver (s : State) (r : ReadReq) (c : Consumer) (l : Nat) (bytes : Line) (bad : Bool) : State :=
  let keep (s : State) : State := { s with held := s.held ++ [{ cons := c, line := l, bytes := bytes, poisoned := bad, bench := r.bench }] }
  match c with
  | .walk w => s.walkData w bytes bad
  | .row o b w slot => (keep (s.fillRow o b l bytes bad r.since false)).enterRow o b w slot
  | .prefetch o b _ => s.fillRow o b l bytes bad r.since true
  | .pool p => (keep s).poolStep p
  | .stage => if bad then s.upTxn (fun t => { t with failed := true }) else keep s
  | .ring .. | .desc _ | .order _ | .tile .. | .bags .. | .upd .. | .mig _ | .save .. => keep s

/-- A read that met poison is counted; a row's is counted by the order that uses it (R324). -/
def State.countPoison (s : State) (cs : List Consumer) (bad : Bool) : State :=
  let row (c : Consumer) : Bool := match c with | .row .. => true | _ => false
  if bad && (cs.isEmpty || !cs.all row) then s.upInts (fun i => { i with poisonRead := satAdd i.poisonRead 1 0xFFFF }) else s

/-- Status 2 of DATA and WACK is counted (R357). -/
def State.decodeError (s : State) (f status : Nat) : State :=
  if status = 2 then s.upFace f (fun x => { x with decodeErrs := satAdd x.decodeErrs 1 0xFFFF }) else s

/-- A message of Harkom that waits on a module goes: the host has answered it (log 7). -/
def State.answered (s : State) (f m : Nat) (p : Msg → Bool) : State :=
  s.upMod f m (fun x => { x with txMsgs := x.txMsgs.filter (fun y => !p y) })

/-- DATA: one line of an outstanding read. A tag or index that is not outstanding is a protocol error. -/
def State.dataIn (s : State) (f m tag index status : Nat) (line : Line) : State :=
  match s.reads.find? (fun r => r.face == f && r.modl == some m && r.tag == tag) with
  | none => s.protocolError f m
  | some r =>
    if !r.left.contains index || status > 2 then s.protocolError f m else
    let cs := (r.wants.filter (fun w => w.2 == index)).map Prod.fst
    let s1 := (s.decodeError f status).countPoison cs (status != 0)
    let left := r.left.erase index
    let s2 := if left.isEmpty then { s1 with reads := s1.reads.filter (fun x => x.id != r.id) } else s1.setRead r.id (fun x => { x with left := left })
    let s3 := s2.answered f m (fun y => match y with | .rd _ _ t => t == tag | _ => false)
    pump (cs.foldl (fun s c => s.handOver r c (r.line + index) line (status != 0)) s3).grantWalks.settleEnded

/-! ### WACK (R104, R126, R142, R173, R357) -/

/-- Shadows that FACE_LOST left are freed once their write-backs are acknowledged (R142). -/
def State.backAcked (s : State) (p o : Nat) : State :=
  if (s.order? o).isSome || s.backPending o then s
  else s.upPart p (fun x => { x with orphans := x.orphans.filter (fun y => !(y.order == o && y.sent)) })

/-- A write is acknowledged for one of those it was made for. -/
def State.ackFor (s : State) (w : WriteReq) : WriteFor → State
  | .record p r => s.recordAcked p r w.id w.intr
  | .rowOf o bind row _ => s.untrackDone w.part o bind row
  | .desc o => s.backAcked w.part o
  | _ => s

/-- The first output of an order that has a byte in a line. -/
def Order.outputOn (o : Order) (line : Nat) : Nat :=
  match (o.outSent.filter (fun x => (pieceLines x.2).contains line)).map Prod.fst with
  | [] => 0
  | x :: xs => xs.foldl min x

/-- A write is lost for one of those it was made for. -/
def State.lostFor (s : State) (w : WriteReq) : WriteFor → State
  | .record p r => s.recordLost p r w
  | .order o => s.endOrder o 0x10 (((s.order? o).map (fun x => x.outputOn w.line)).getD 0)
  | .mig row => match s.mig.rows.find? (fun r => r.row == row) with
    | some r =>
      let s1 := s.rowPoisoned s.mig.p s.mig.bind row r.old
      if s.mig.phase = 1 then s1.dropMigRow r else s1
    | none => s
  | x => s.ackFor w x

/-- WACK status 2 loses the write: a row write as a write-through lost in the Chest (R173), the others each in its way. -/
def State.writeLost (s : State) (w : WriteReq) : State :=
  let s1 := if w.owners.any WriteFor.isRow then s.lineLost w.part w.line w.bytes w.owners ((w.space.map Space.line).getD 0) else s
  w.owners.foldl (fun s x => s.lostFor w x) s1

/-- The last of the other row writes to a written line that are under way (R173). -/
def State.nextOn (s : State) (w : WriteReq) : Option Nat :=
  ((s.writes.filter (fun x => x.id != w.id && x.part == w.part && x.line == w.line && x.owners.any WriteFor.isRow)).getLast?).map WriteReq.id

/-- WACK: a write is done, or lost. Requests held back under R350 go once the old table's writes are done. -/
def State.wackIn (s : State) (f m tag status : Nat) : State :=
  match s.writes.find? (fun w => w.face == f && w.modl == some m && w.tag == tag) with
  | none => s.protocolError f m
  | some w =>
    if status ≠ 0 && status ≠ 2 then s.protocolError f m else
    let s1 := s.decodeError f status
    let s2 := { s1 with writes := s1.writes.filter (fun x => x.id != w.id), benches := s1.benches.map (fun (b : Bench) => b.acked w.id (s1.nextOn w)) }
    let s3 := (s2.upFace f (fun x => { x with oldWrites := x.oldWrites.erase w.id })).answered f m
      (fun y => match y with | .wr _ t _ _ _ => t == tag | _ => false)
    (pump (if status = 2 then (s3.writeLost w).settleEnded else w.owners.foldl (fun s x => s.ackFor w x) s3)).pumpNarrow

/-! ### Registers, narrow accesses, throttle, snoops (R272, R358, R359) -/

/-- REG_RD: answered after the earlier REG_WR, with the value that the read finds. -/
def State.regRdIn (s : State) (f m p offset tag : Nat) : State :=
  (s.regRead f p offset).queueMsg f m (.regData tag (BitVec.ofNat 32 (regValue s f p offset)))

/-- REG_WR: performed in the order of its numbers; one performed before is acknowledged again. -/
def State.regWrIn (s : State) (f m p offset seq : Nat) (value : Word) : State :=
  let e := (s.face f).regSeq
  if seq = e then ((s.upFace f (fun x => { x with regSeq := (e + 1) % 65536 })).regWrite f p offset value).queueMsg f m (.regAck seq)
  else if (e + 65536 - seq) % 65536 ≤ 32768 then s.queueMsg f m (.regAck seq)
  else s.protocolError f m

/-- NDATA: the data of a narrow read. -/
def State.ndataIn (s : State) (f m tag status value : Nat) : State :=
  match s.narrows.find? (fun n => n.face == f && n.modl == some m && n.tag == tag && n.write.isNone) with
  | none => s.protocolError f m
  | some n =>
    if status > 2 then s.protocolError f m else
    let s1 := { s with narrows := s.narrows.erase n }.answered f m (fun y => match y with | .nrd t _ => t == tag | _ => false)
    if n.stale then s1 else s1.peekData status value

/-- NWACK: a narrow write is done. Requests held back under R350 may go. -/
def State.nwackIn (s : State) (f m tag status : Nat) : State :=
  match s.narrows.find? (fun n => n.face == f && n.modl == some m && n.tag == tag && n.write.isSome) with
  | none => s.protocolError f m
  | some n =>
    if status ≠ 0 && status ≠ 2 then s.protocolError f m else
    let s1 := { s with narrows := s.narrows.erase n }.answered f m (fun y => match y with | .nwr t _ _ => t == tag | _ => false)
    (pump (if n.stale then s1
      else if status ≠ 0 then s1.failRun 5
      else (s1.upMon (fun x => { x with running := false, runGot := [], runLeft := 0 })).sayOk)).pumpNarrow

/-! ### Messages and flits (R351 to R354, R360, R361) -/

/-- Words of a message that the host sends. -/
def InMsg.words : InMsg → Nat
  | .pad | .wack .. | .nwack .. => 1
  | .data .. => 33
  | .throttle .. | .regWr .. | .ndata .. => 3
  | .regRd .. | .credit .. | .snp .. => 2

/-- Credits of a message that the host sends; PAD and CREDIT take none (R361). -/
def InMsg.credits : InMsg → Nat
  | .pad | .credit .. => 0
  | x => wordCredits x.words

/-- A message arrives on a module: one beyond its credits is a protocol error, and its buffer is owed back. A module that is
not in service carries no traffic. -/
def State.credited (s : State) (f m : Nat) (x : InMsg) (act : State → State) : State :=
  let y := s.modl f m
  if y.state ≠ .inService then s
  else if y.avail.getD x.chan 0 < x.credits then s.protocolError f m
  else act (s.usedBuffer f m x.chan x.credits)

/-- Perform one message. -/
def State.receive (s : State) (f m : Nat) (x : InMsg) : State :=
  s.credited f m x (fun s => match x with
    | .pad => s
    | .data tag index status line => s.dataIn f m tag index status line
    | .wack tag status => s.wackIn f m tag status
    | .throttle v addr => s.throttle addr v
    | .regRd p offset tag => s.regRdIn f m p offset tag
    | .regWr p offset seq value => s.regWrIn f m p offset seq value
    | .credit a b c d => s.creditIn f m [a, b, c, d]
    | .snp _ tag => s.snoop f m tag
    | .ndata tag status value => s.ndataIn f m tag status value
    | .nwack tag status => s.nwackIn f m tag status)

/-- Perform the messages that have come whole, in their order. -/
def State.takeMsgs (s : State) (f m : Nat) : Nat → State
  | 0 => s
  | n + 1 =>
    if (s.modl f m).state ≠ .inService then s else
    match parseMsg (s.modl f m).rxWords with
    | .need => s
    | .error => s.protocolError f m
    | .got x rest => State.takeMsgs ((s.upMod f m (fun y => { y with rxWords := rest })).receive f m x) f m n

/-- The receiver discards a flit and asks for the expected one (R353). -/
def State.discardFlit (s : State) (f m : Nat) (crc : Bool) : State :=
  (s.upMod f m (fun y => { y with rxNak := true })).upFace f (fun y => { y with crcErrors := satAdd y.crcErrors (b2n crc) 0xFFFFFFFF })

/-- A flit with a good CRC: its acknowledgement, then its payload where it is the next normal flit. -/
def State.goodFlit (s : State) (f m v : Nat) : State :=
  if fld v 31 24 ≠ 0 || fld v 23 22 ≥ 2 then s.protocolError f m else
  let s1 := s.ackNak f m (fld v 19 10) (v.testBit 20)
  if (s1.modl f m).state ≠ .inService then s1 else
  match judgeFlit (s1.modl f m) v with
  | .bad => s1.discardFlit f m false
  | .null => s1
  | .accept =>
    let s2 := s1.upMod f m (fun y => { y with rxSeq := fld v 9 0, rxNak := false, rxWords := y.rxWords ++ wordsOf (v >>> 32) 62 })
    s2.takeMsgs f m ((s2.modl f m).rxWords.length + 1)

/-- FLIT: a flit arrives on a module in service, which sends one in turn (log 7). -/
def State.flitIn (s : State) (f m v : Nat) : State :=
  if (s.modl f m).state ≠ .inService then s
  else (if crc32c (v % 2 ^ (8 * 252)) 252 ≠ leAt v 252 4 then s.discardFlit f m true else s.goodFlit f m v).sendFlit f m

/-! ### Training (R345 to R348) -/

/-- TRAINING_DONE: the data lanes that failed in each direction, the width that the far end reports, and whether both ends support
32 GT/s, which the module takes where the plan names it (R50, R344, R345); then the wear gauge, and the write-backs that waited for the
face (R142). A half counts the redundant lanes of the direction that uses more. DEDUCED (log 54). -/
def State.trainingDone (s : State) (f m : Nat) (failIn failOut farHalf : Nat) (fast : Bool) : State :=
  if !s.modPresent f m then s else
  let wasUp := (s.face f).up
  let spares (h : Nat) : Nat := max (halfSpares failIn h) (halfSpares failOut h)
  let s1 := (s.trained f m (ownHalf failIn failOut (s.modl f m).limit) farHalf (spares 0, spares 1) (fast && (f = 0 || s.clk.runFace.testBit f))).gauge
  if !wasUp && (s1.face f).up then (List.range 8).foldl State.pumpOrphans s1 else s1

/-- FACE_LOST_TIMEOUT: orders and rings behind the face, and a monitor command that waits for it, on one that has not been up
since the reset too (R364, R411). -/
def State.faceLostTimeout (s : State) (f : Nat) : State :=
  if (s.face f).up then s else (s.faceLost f).narrowLost f

end Sys2Proof.Machine
end

