-- ==== Sys2Proof/Machine/Messages.lean ====
section
/-! DEFINITION. Meanings. Flits and messages of the faces, and their training. -/

namespace Sys2Proof.Machine

/-- FLIT (R353). -/
def execFlit (f m : Nat) (bytes : BitVec 2048) (s : State) : Host.Outcome State Fault Refusal :=
  .next (pump (s.flitIn f m bytes.toNat))

/-- LINK_DOWN (R346). -/
def execLinkDown (f m : Nat) (s : State) : Host.Outcome State Fault Refusal :=
  .next (pump (s.retrainMod f m))

/-- TRAINING_DONE: the masks of the data lanes that failed in each half, inbound and outbound (R345, R347). -/
def execTrainingDone (f m lowerIn upperIn farHalf lowerOut upperOut : Nat) (fast : Bool) (s : State) :
    Host.Outcome State Fault Refusal :=
  .next (pump (s.trainingDone f m (laneMask lowerIn upperIn) (laneMask lowerOut upperOut) farHalf fast))

/-- FACE_LOST_TIMEOUT (R364). -/
def execFaceLostTimeout (f : Nat) (s : State) : Host.Outcome State Fault Refusal :=
  .next (pump (s.faceLostTimeout f))

/-- REG_RD (R358). -/
def execRegRd (f m p offset tag : Nat) (s : State) : Host.Outcome State Fault Refusal :=
  .next (pump (s.receive f m (.regRd p offset tag)))

/-- REG_WR (R358). -/
def execRegWr (f m p offset seq : Nat) (value : Word) (s : State) : Host.Outcome State Fault Refusal :=
  .next (pump (s.receive f m (.regWr p offset seq value)))

/-- DATA (R357). -/
def execDataMsg (f m tag index status : Nat) (line : Line) (s : State) : Host.Outcome State Fault Refusal :=
  .next (pump (s.receive f m (.data tag index status line)))

/-- WACK (R357). -/
def execWack (f m tag status : Nat) (s : State) : Host.Outcome State Fault Refusal :=
  .next (pump (s.receive f m (.wack tag status)))

/-- THROTTLE (R272). -/
def execThrottle (f m fraction addr : Nat) (s : State) : Host.Outcome State Fault Refusal :=
  .next (pump (s.receive f m (.throttle fraction addr)))

/-- CREDIT (R361). -/
def execCredit (f m c0 c1 c2 c3 : Nat) (s : State) : Host.Outcome State Fault Refusal :=
  .next (pump (s.receive f m (.credit c0 c1 c2 c3)))

/-- SNP (R359). -/
def execSnp (f m addr tag : Nat) (s : State) : Host.Outcome State Fault Refusal :=
  .next (pump (s.receive f m (.snp addr tag)))

/-- NDATA (R359). -/
def execNdata (f m tag status value : Nat) (s : State) : Host.Outcome State Fault Refusal :=
  .next (pump (s.receive f m (.ndata tag status value)))

/-- NWACK (R359). -/
def execNwack (f m tag status : Nat) (s : State) : Host.Outcome State Fault Refusal :=
  .next (pump (s.receive f m (.nwack tag status)))

end Sys2Proof.Machine
end

