-- ==== Sys2Proof/Machine/Panel.lean ====
section
/-! DEFINITION. Meanings. The service panel, the test access port and the Yelir monitor. -/

namespace Sys2Proof.Machine

/-- ATTN_PRESS (R402). -/
def execAttnPress (s : State) : Host.Outcome State Fault Refusal :=
  .next (s.attnPress)

/-- ATTN_HOLD_3S (R402). -/
def execAttnHold3s (s : State) : Host.Outcome State Fault Refusal :=
  .next (pump s.attnHold3)

/-- ATTN_HOLD_10S (R402). -/
def execAttnHold10s (beganInDrain : Bool) (s : State) : Host.Outcome State Fault Refusal :=
  .next (s.attnHold10 beganInDrain)

/-- STATUS_DISPLAY_END (R404). -/
def execStatusDisplayEnd (s : State) : Host.Outcome State Fault Refusal :=
  .next (s.statusEnd)

/-- CABLE_PRESENT (R408). -/
def execCablePresent (s : State) : Host.Outcome State Fault Refusal :=
  .next (s.cablePresent)

/-- CABLE_REMOVED (R412). -/
def execCableRemoved (s : State) : Host.Outcome State Fault Refusal :=
  .next (s.cableRemoved)

/-- YELIR_CHAR (R408). -/
def execYelirChar (c : Nat) (s : State) : Host.Outcome State Fault Refusal :=
  .next (s.yChar c)

/-- YELIR_BREAK (R408). -/
def execYelirBreak (s : State) : Host.Outcome State Fault Refusal :=
  .next (s.yBreak)

/-- ID (R410). -/
def execYId (s : State) : Host.Outcome State Fault Refusal :=
  .next (s.yCommand .id)

/-- PEEK (R410). -/
def execYPeek (addr words : Nat) (s : State) : Host.Outcome State Fault Refusal :=
  .next (s.yCommand (.peek addr words))

/-- POKE (R410). -/
def execYPoke (addr value : Nat) (s : State) : Host.Outcome State Fault Refusal :=
  .next (s.yCommand (.poke addr value))

/-- CUPBOARD (R410). -/
def execYCupboard (arg : Option (Nat × Nat)) (s : State) : Host.Outcome State Fault Refusal :=
  .next (s.yCommand (.cupboard arg))

/-- WEAR (R410). -/
def execYWear (s : State) : Host.Outcome State Fault Refusal :=
  .next (s.yCommand .wear)

/-- TEMPS (R410). -/
def execYTemps (s : State) : Host.Outcome State Fault Refusal :=
  .next (s.yCommand .temps)

/-- CLOCKS (R410). -/
def execYClocks (s : State) : Host.Outcome State Fault Refusal :=
  .next (s.yCommand .clocks)

/-- EVENTS (R410). -/
def execYEvents (n : Option Nat) (s : State) : Host.Outcome State Fault Refusal :=
  .next (s.yCommand (.events n))

/-- CUTLIST (R410). -/
def execYCutlist (s : State) : Host.Outcome State Fault Refusal :=
  .next (s.yCommand .cutlist)

/-- SELFTEST (R410). -/
def execYSelftest (b : Option Nat) (s : State) : Host.Outcome State Fault Refusal :=
  .next (s.yCommand (.selftest b))

/-- DRAIN_STATUS (R410). -/
def execYDrainStatus (s : State) : Host.Outcome State Fault Refusal :=
  .next (s.yCommand .drainStatus)

/-- DRAIN_START (R410). -/
def execYDrainStart (s : State) : Host.Outcome State Fault Refusal :=
  .next (s.yCommand .drainStart)

/-- DRAIN_CANCEL (R406). -/
def execYDrainCancel (s : State) : Host.Outcome State Fault Refusal :=
  .next (s.yCommand .drainCancel)

/-- DRAIN_RESET (R410). -/
def execYDrainReset (s : State) : Host.Outcome State Fault Refusal :=
  .next (s.yCommand .drainReset)

/-- MON_UNLOCK_EXPIRE (R409). -/
def execMonUnlockExpire (s : State) : Host.Outcome State Fault Refusal :=
  .next (s.unlockExpire)

/-- BOUNDARY_SCAN (R419). -/
def execBoundaryScan (op : Nat) (value : Nat) (s : State) : Host.Outcome State Fault Refusal :=
  .next (s.boundaryScan op value)

end Sys2Proof.Machine
end

