-- ==== Sys2Proof/Machine/Power.lean ====
section
/-! DEFINITION. Meanings. Power, clocks and crystals (R366 to R392). -/

namespace Sys2Proof.Machine

/-- PWR_GOOD_HIGH (R386). -/
def execPwrGoodHigh (s : State) : Host.Outcome State Fault Refusal :=
  .next (s.pwrGoodHigh)

/-- PWR_GOOD_LOW (R384). -/
def execPwrGoodLow (s : State) : Host.Outcome State Fault Refusal :=
  .next (s.pwrGoodLow)

/-- XA_OSCILLATION (R368). -/
def execXaOscillation (s : State) : Host.Outcome State Fault Refusal :=
  .next (s.xaOscillation)

/-- XA_WINDOW (R368). -/
def execXaWindow (count : Nat) (s : State) : Host.Outcome State Fault Refusal :=
  .next (s.xaWindow count)

/-- XA_EDGE_TIMEOUT (R370). -/
def execXaEdgeTimeout (s : State) : Host.Outcome State Fault Refusal :=
  .next (s.xaEdgeTimeout)

/-- XA_FAIL_TIMEOUT (R371). -/
def execXaFailTimeout (s : State) : Host.Outcome State Fault Refusal :=
  .next (s.xaFailTimeout)

/-- XTAL_STABLE_COUNT (R369). -/
def execXtalStableCount (xb : Bool) (s : State) : Host.Outcome State Fault Refusal :=
  .next (s.xtalStableCount xb)

/-- XTAL_AMPLITUDE_LOST (R370). -/
def execXtalAmplitudeLost (xb : Bool) (s : State) : Host.Outcome State Fault Refusal :=
  .next (s.xtalAmplitudeLost xb)

/-- LOOP_LOCK (R372). -/
def execLoopLock (loop : Nat) (s : State) : Host.Outcome State Fault Refusal :=
  .next (s.loopLock loop)

/-- SWITCH_FORCED (R382). -/
def execSwitchForced (domain : Nat) (s : State) : Host.Outcome State Fault Refusal :=
  .next (pump (s.switchForced domain))

/-- LOOP_LOCK_LOST (R372). -/
def execLoopLockLost (loop : Nat) (s : State) : Host.Outcome State Fault Refusal :=
  .next (s.loopLockLost loop)

end Sys2Proof.Machine
end

