-- ==== Sys2Proof/Machine/Registers.lean ====
section
/-! DEFINITION. Meanings. Register writes with and without a row of their own, rings, Chests, translations and resets. -/

namespace Sys2Proof.Machine

/-- A command on a partition's window: nothing happens where the window does not exist or its reset is in progress (R95, R432). -/
def State.inWindow (s : State) (p : Nat) (f : State → State) : State := if s.windowOpen p then f s else s

/-- The low word of a ring's base with enable clear, as a write that only disables gives it (R102). -/
def State.ringBase (s : State) (p r : Nat) : Nat := (if r < 16 then (s.sq p r).base else (s.pq p r).base) % 2 ^ 32 / 4096 * 4096

/-- A read of a register that latches the word above it (R433); other reads are no command of this row. -/
def State.loRead (s : State) (f p off : Nat) : State := if (hiOf off).isSome then s.regRead f p off else s

/-- REGISTER_WRITE (R9). -/
def execRegisterWrite (f p offset : Nat) (value : Word) (s : State) : Host.Outcome State Fault Refusal :=
  .next (pump (s.regWrite f p offset value))

/-- LATCHED_LO_READ (R433). -/
def execLatchedLoRead (f p offset : Nat) (s : State) : Host.Outcome State Fault Refusal :=
  .next (s.loRead f p offset)

/-- PART_DB (R101). -/
def execPartDb (p q : Nat) (value : Word) (s : State) : Host.Outcome State Fault Refusal :=
  .next (pump (s.inWindow p (fun s => s.partDb p q value.toNat)))

/-- RING_ENABLE (R102). -/
def execRingEnable (p r : Nat) (value : Word) (s : State) : Host.Outcome State Fault Refusal :=
  .next (pump (s.inWindow p (fun s => s.baseLo p r (value.toNat ||| 1))))

/-- RING_DISABLE (R102). -/
def execRingDisable (p r : Nat) (s : State) : Host.Outcome State Fault Refusal :=
  .next (pump (s.inWindow p (fun s => s.baseLo p r (s.ringBase p r))))

/-- PART_CQ_HEAD (R99). -/
def execPartCqHead (p r head : Nat) (s : State) : Host.Outcome State Fault Refusal :=
  .next (pump (s.inWindow p (fun s => s.pqHead p r head)))

/-- IRQ_HOLDOFF (R104). -/
def execIrqHoldoff (p r : Nat) (s : State) : Host.Outcome State Fault Refusal :=
  .next (s.irqHoldoff p r)

/-- PART_RESET (R94). -/
def execPartReset (p : Nat) (s : State) : Host.Outcome State Fault Refusal :=
  .next (pump (s.partReset p))

/-- PART_RESET_DONE (R95). -/
def execPartResetDone (p : Nat) (s : State) : Host.Outcome State Fault Refusal :=
  .next (pump (s.partResetDone p).grantWalks)

/-- CHEST_INVALIDATE (R172). -/
def execChestInvalidate (p : Nat) (s : State) : Host.Outcome State Fault Refusal :=
  .next (s.inWindow p (fun s => s.chestInvalidate p))

/-- INVALIDATE_DONE (R172). -/
def execInvalidateDone (p : Nat) (s : State) : Host.Outcome State Fault Refusal :=
  .next (s.invalidateDone p)

/-- CHEST_ENABLE (R172). -/
def execChestEnable (p : Nat) (s : State) : Host.Outcome State Fault Refusal :=
  .next (s.inWindow p (fun s => s.chestEnable p))

/-- CHEST_DISABLE (R172). -/
def execChestDisable (p : Nat) (s : State) : Host.Outcome State Fault Refusal :=
  .next (s.inWindow p (fun s => s.chestDisable p))

/-- PART_INVAL_TAG (R311). -/
def execPartInvalTag (p t : Nat) (s : State) : Host.Outcome State Fault Refusal :=
  .next (s.inWindow p (fun s => s.invalTag p t))

/-- PART_TAG_ROOT_LO (R294). -/
def execPartTagRootLo (p t : Nat) (value : Word) (s : State) : Host.Outcome State Fault Refusal :=
  .next (s.inWindow p (fun s => s.setRootLo p t value.toNat))

/-- INVAL_DONE (R312). -/
def execInvalDone (p : Nat) (s : State) : Host.Outcome State Fault Refusal :=
  .next (s.invalDone p)

/-- FAULT_RESUME (R308). -/
def execFaultResume (p id : Nat) (s : State) : Host.Outcome State Fault Refusal :=
  .next (s.inWindow p (fun s => s.faultResume p id))

/-- FAULT_ABORT (R308). -/
def execFaultAbort (p id : Nat) (s : State) : Host.Outcome State Fault Refusal :=
  .next (pump (s.inWindow p (fun s => s.faultAbort p id)))

/-- MIG_POOL_ENABLE (R282). -/
def execMigPoolEnable (p : Nat) (value : Word) (s : State) : Host.Outcome State Fault Refusal :=
  .next (pump (s.inWindow p (fun s => s.migPoolLo p (value.toNat ||| 1))))

/-- PART_MIG_ACCEPT (R281). -/
def execPartMigAccept (p map shard : Nat) (s : State) : Host.Outcome State Fault Refusal :=
  .next (s.inWindow p (fun s => s.migAccept p map shard))

/-- DIE_RESET_REQUEST (R385). -/
def execDieResetRequest (s : State) : Host.Outcome State Fault Refusal :=
  .next (pump s.dieResetRequest)

/-- BENCH_RESET (R384). -/
def execBenchReset (mask : Nat) (s : State) : Host.Outcome State Fault Refusal :=
  .next (pump (s.benchReset mask))

/-- BENCH_RESET_DONE (R384). -/
def execBenchResetDone (b : Nat) (s : State) : Host.Outcome State Fault Refusal :=
  .next (s.benchResetDone b)

/-- RETRAIN (R346). -/
def execRetrain (f mask : Nat) (s : State) : Host.Outcome State Fault Refusal :=
  .next (pump (s.retrain f mask))

/-- SVC_DRAIN_CANCEL (R406). -/
def execSvcDrainCancel (s : State) : Host.Outcome State Fault Refusal :=
  .next (s.cancelDrain)

/-- SVC_DRAIN_ACK (R405). -/
def execSvcDrainAck (s : State) : Host.Outcome State Fault Refusal :=
  .next (s.ackDrain)

/-- MON_UNLOCK (R409). -/
def execMonUnlock (value : Word) (s : State) : Host.Outcome State Fault Refusal :=
  .next (s.setUnlock value.toNat)

/-- MON_UART (R407). -/
def execMonUart (rate : Nat) (s : State) : Host.Outcome State Fault Refusal :=
  .next (s.setRate rate)

end Sys2Proof.Machine
end

