-- ==== Sys2Proof/Machine/Transactions.lean ====
section
/-! DEFINITION. Meanings. The configuration transaction (R62 to R68). -/

namespace Sys2Proof.Machine

/-- BEGIN (R62). -/
def execTxnBegin (p : Nat) (s : State) : Host.Outcome State Fault Refusal :=
  .next (s.txnBegin p)

/-- STAGE (R63). -/
def execStage (p : Nat) (s : State) : Host.Outcome State Fault Refusal :=
  .next (pump (s.txnStage p))

/-- STAGE_DONE (R63). -/
def execStageDone (s : State) : Host.Outcome State Fault Refusal :=
  .next (pump s.stageDone)

/-- COMMIT (R64). -/
def execCommit (p : Nat) (s : State) : Host.Outcome State Fault Refusal :=
  .next (s.txnCommit p)

/-- VALIDATION_DONE (R65). -/
def execValidationDone (s : State) : Host.Outcome State Fault Refusal :=
  .next (pump s.validationDone)

/-- SWITCH_DONE (R62). -/
def execSwitchDone (s : State) : Host.Outcome State Fault Refusal :=
  .next (pump (s.switchDone.resetsDue))

/-- EPOCH_RETIRE (R65). -/
def execEpochRetire (s : State) : Host.Outcome State Fault Refusal :=
  .next (pump s.epochRetire)

/-- ROLLBACK (R62). -/
def execRollback (p : Nat) (s : State) : Host.Outcome State Fault Refusal :=
  .next (pump (s.txnRollback p))

/-- TXN_EXPIRED (R67). -/
def execTxnExpired (s : State) : Host.Outcome State Fault Refusal :=
  .next (pump s.txnExpired)

end Sys2Proof.Machine
end

