-- ==== Sys2Proof/Machine/Upkeep.lean ====
section
/-! DEFINITION. Meanings. The Kettle: its tick, samples, wear, migration, bench power, tests, repairs, drains and resets. -/

namespace Sys2Proof.Machine

/-- KETTLE_TICK (R393). -/
def execKettleTick (s : State) : Host.Outcome State Fault Refusal :=
  .next s.kettleTick

/-- SENSOR_SAMPLE (R394). -/
def execSensorSample (temps : List Int) (rails : List (Nat × Nat)) (s : State) : Host.Outcome State Fault Refusal :=
  .next (pump (s.sensorSample temps rails))

/-- THERMAL_CLEAR (R397). -/
def execThermalClear (s : State) : Host.Outcome State Fault Refusal :=
  .next (s.thermalClear)

/-- WEAR_RECORD (R399). -/
def execWearRecord (readings : List (List Nat)) (s : State) : Host.Outcome State Fault Refusal :=
  .next (s.wearRecord readings)

/-- MIGRATE_DECISION (R279). -/
def execMigrateDecision (p map shard : Nat) (s : State) : Host.Outcome State Fault Refusal :=
  .next (pump (s.migDecision p map shard))

/-- MIGRATE_COPY_DONE (R283). -/
def execMigrateCopyDone (s : State) : Host.Outcome State Fault Refusal :=
  .next (pump s.migCopy)

/-- MIGRATE_SWITCH (R285). -/
def execMigrateSwitch (s : State) : Host.Outcome State Fault Refusal :=
  .next (s.migrateSwitch)

/-- MIGRATE_RELEASE (R286). -/
def execMigrateRelease (s : State) : Host.Outcome State Fault Refusal :=
  .next (pump s.migRelease)

/-- BENCH_POWER_GATE (R380). -/
def execBenchPowerGate (b : Nat) (s : State) : Host.Outcome State Fault Refusal :=
  .next (s.powerGate b)

/-- BENCH_POWER_UP_DONE (R380). -/
def execBenchPowerUpDone (b : Nat) (s : State) : Host.Outcome State Fault Refusal :=
  .next (s.powerUpDone b)

/-- SELFTEST_START (R331). -/
def execSelftestStart (s : State) : Host.Outcome State Fault Refusal :=
  .next (pump s.selftestStart)

/-- SELFTEST_DONE (R332). -/
def execSelftestDone (code row : Nat) (s : State) : Host.Outcome State Fault Refusal :=
  .next (pump (s.selftestDone code row))

/-- SELFTEST_ABORT (R332). -/
def execSelftestAbort (b : Nat) (s : State) : Host.Outcome State Fault Refusal :=
  .next (s.abortTest b)

/-- SPARE_REMAP (R333). -/
def execSpareRemap (store b row : Nat) (s : State) : Host.Outcome State Fault Refusal :=
  .next (pump (s.spareRemap store b row))

/-- BENCH_SUSPECT (R336). -/
def execBenchSuspect (b cause : Nat) (s : State) : Host.Outcome State Fault Refusal :=
  .next (pump (s.benchSuspect b cause))

/-- DRAIN_DONE (R338). -/
def execDrainDone (s : State) : Host.Outcome State Fault Refusal :=
  .next (pump s.drainDone)

/-- BLUE_TIMEOUT (R405). -/
def execBlueTimeout (s : State) : Host.Outcome State Fault Refusal :=
  .next (s.blueTimeout)

/-- DIE_RESET_ERROR (R327). -/
def execDieResetError (code : Nat) (s : State) : Host.Outcome State Fault Refusal :=
  .next (pump (s.dieResetError code))

/-- DIE_RESET (R385). -/
def execDieReset (s : State) : Host.Outcome State Fault Refusal :=
  .next (pump s.dieReset)

/-- CONTEXT_ECC_ERROR (R82). -/
def execContextEccError (p session : Nat) (s : State) : Host.Outcome State Fault Refusal :=
  .next (s.contextEccError p session)

end Sys2Proof.Machine
end

