-- ==== Sys2Proof/Machine/WorkOrders.lean ====
section
/-! DEFINITION. Meanings. Work orders: fetching, their operations, tiles, faults, sessions and completion. -/

namespace Sys2Proof.Machine

/-- ORDER_FETCH (R100). -/
def execOrderFetch (p q : Nat) (s : State) : Host.Outcome State Fault Refusal :=
  .next (pump (s.orderFetch p q))

/-- ORDER_PROCEED (R125). -/
def execOrderProceed (o : Nat) (s : State) : Host.Outcome State Fault Refusal :=
  .next (pump (s.orderProceed o))

/-- GATHER_POOL (R108). -/
def execGatherPool (o t : Nat) (s : State) : Host.Outcome State Fault Refusal :=
  .next (pump (s.gatherPool o t).suspects)

/-- RECALL (R209). -/
def execRecall (o b : Nat) (s : State) : Host.Outcome State Fault Refusal :=
  .next (pump (s.recall o b).suspects)

/-- SCORE (R111). -/
def execScore (o b : Nat) (s : State) : Host.Outcome State Fault Refusal :=
  .next (pump (s.score o b))

/-- SCATTER_MERGE (R113). -/
def execScatterMerge (o t : Nat) (s : State) : Host.Outcome State Fault Refusal :=
  .next (pump (s.scatterTile o t))

/-- APPEND_ROWS (R261). -/
def execAppendRows (o t : Nat) (s : State) : Host.Outcome State Fault Refusal :=
  .next (pump (s.appendTile o t))

/-- PREFETCH (R316). -/
def execPrefetch (o t : Nat) (s : State) : Host.Outcome State Fault Refusal :=
  .next (pump (s.prefetchTile o t))

/-- ADVISE (R317). -/
def execAdvise (o : Nat) (s : State) : Host.Outcome State Fault Refusal :=
  .next (pump (s.advise o))

/-- COPY_ROWS (R115). -/
def execCopyRows (o t : Nat) (s : State) : Host.Outcome State Fault Refusal :=
  .next (pump (s.copyRows o t))

/-- PARK (R89). -/
def execPark (o : Nat) (s : State) : Host.Outcome State Fault Refusal :=
  .next (pump (s.parkOrder o))

/-- WAKE (R118). -/
def execWake (o : Nat) (s : State) : Host.Outcome State Fault Refusal :=
  .next (s.wake o)

/-- FENCE (R133). -/
def execFence (o : Nat) (s : State) : Host.Outcome State Fault Refusal :=
  .next (s.fence o)

/-- READ_STATS (R121). -/
def execReadStats (o : Nat) (s : State) : Host.Outcome State Fault Refusal :=
  .next (pump (s.readStats o))

/-- TABLE_PAUSE (R120). -/
def execTablePause (o : Nat) (s : State) : Host.Outcome State Fault Refusal :=
  .next (s.tablePause o)

/-- TABLE_RESUME (R120). -/
def execTableResume (o : Nat) (s : State) : Host.Outcome State Fault Refusal :=
  .next (s.tableResume o)

/-- ACC_LOAD (R122). -/
def execAccLoad (o : Nat) (s : State) : Host.Outcome State Fault Refusal :=
  .next (pump (s.accLoad o))

/-- ACC_STORE (R122). -/
def execAccStore (o : Nat) (s : State) : Host.Outcome State Fault Refusal :=
  .next (pump (s.accStore o))

/-- TILE_DELIVER (R145). -/
def execTileDeliver (o t : Nat) (s : State) : Host.Outcome State Fault Refusal :=
  .next (pump (s.tileDeliver o t))

/-- TILE_CONSUMED (R146). -/
def execTileConsumed (o t : Nat) (s : State) : Host.Outcome State Fault Refusal :=
  .next (pump (s.tileConsumed o t))

/-- FAULT_RECORD_WRITE (R150). -/
def execFaultRecordWrite (o : Nat) (s : State) : Host.Outcome State Fault Refusal :=
  .next (pump (s.faultRecord o))

/-- STREAM_QUIESCE (R150). -/
def execStreamQuiesce (o : Nat) (s : State) : Host.Outcome State Fault Refusal :=
  .next (pump (s.streamQuiesce o))

/-- MERGE_POINT (R252). -/
def execMergePoint (o : Nat) (s : State) : Host.Outcome State Fault Refusal :=
  .next (pump (s.mergePoint o).suspects)

/-- WC_FLUSH (R264). -/
def execWcFlush (b : Nat) (s : State) : Host.Outcome State Fault Refusal :=
  .next (pump (s.wcFlush b))

/-- SESSION_STEEPING (R83). -/
def execSessionSteeping (p session : Nat) (s : State) : Host.Outcome State Fault Refusal :=
  .next (s.sessionSteeping p session)

/-- SESSION_PARKED (R83). -/
def execSessionParked (p session : Nat) (s : State) : Host.Outcome State Fault Refusal :=
  .next (pump (s.sessionParked p session))

/-- SLICE_EXPIRE (R85). -/
def execSliceExpire (p : Nat) (s : State) : Host.Outcome State Fault Refusal :=
  .next (s.sliceExpire p)

/-- HINT_IDLE (R87). -/
def execHintIdle (p session : Nat) (s : State) : Host.Outcome State Fault Refusal :=
  .next (s.hintIdle p session)

/-- ORDER_COMPLETE (R126). -/
def execOrderComplete (o : Nat) (s : State) : Host.Outcome State Fault Refusal :=
  .next (pump (s.orderComplete o).grantWalks)

/-- READ_LIMITER_INTERVAL (R274). -/
def execReadLimiterInterval (e : Nat) (s : State) : Host.Outcome State Fault Refusal :=
  .next (s.limiterInterval e)

end Sys2Proof.Machine
end

