-- ==== Sys2Proof/Machine/Dispatch.lean ====
section
/-! DEFINITION. The command table: one arm per row of spec/opcode_table.json, one direct call of its meaning. -/

namespace Sys2Proof.Machine

def exec (i : Instr) (s : State) : Host.Outcome State Fault Refusal :=
  match i with
  | .pwrGoodHigh => Sys2Proof.Machine.execPwrGoodHigh s
  | .pwrGoodLow => Sys2Proof.Machine.execPwrGoodLow s
  | .xaOscillation => Sys2Proof.Machine.execXaOscillation s
  | .xaWindow count => Sys2Proof.Machine.execXaWindow count s
  | .xaEdgeTimeout => Sys2Proof.Machine.execXaEdgeTimeout s
  | .xaFailTimeout => Sys2Proof.Machine.execXaFailTimeout s
  | .xtalStableCount xb => Sys2Proof.Machine.execXtalStableCount xb s
  | .xtalAmplitudeLost xb => Sys2Proof.Machine.execXtalAmplitudeLost xb s
  | .loopLock loop => Sys2Proof.Machine.execLoopLock loop s
  | .switchForced domain => Sys2Proof.Machine.execSwitchForced domain s
  | .kettleTick => Sys2Proof.Machine.execKettleTick s
  | .sensorSample temps rails => Sys2Proof.Machine.execSensorSample temps rails s
  | .thermalClear => Sys2Proof.Machine.execThermalClear s
  | .wearRecord readings => Sys2Proof.Machine.execWearRecord readings s
  | .migrateDecision p map shard => Sys2Proof.Machine.execMigrateDecision p map shard s
  | .migrateCopyDone => Sys2Proof.Machine.execMigrateCopyDone s
  | .migrateSwitch => Sys2Proof.Machine.execMigrateSwitch s
  | .migrateRelease => Sys2Proof.Machine.execMigrateRelease s
  | .benchPowerGate b => Sys2Proof.Machine.execBenchPowerGate b s
  | .benchPowerUpDone b => Sys2Proof.Machine.execBenchPowerUpDone b s
  | .selftestStart => Sys2Proof.Machine.execSelftestStart s
  | .selftestDone code row => Sys2Proof.Machine.execSelftestDone code row s
  | .selftestAbort b => Sys2Proof.Machine.execSelftestAbort b s
  | .spareRemap store b row => Sys2Proof.Machine.execSpareRemap store b row s
  | .benchSuspect b cause => Sys2Proof.Machine.execBenchSuspect b cause s
  | .drainDone => Sys2Proof.Machine.execDrainDone s
  | .blueTimeout => Sys2Proof.Machine.execBlueTimeout s
  | .dieResetError code => Sys2Proof.Machine.execDieResetError code s
  | .dieReset => Sys2Proof.Machine.execDieReset s
  | .contextEccError p session => Sys2Proof.Machine.execContextEccError p session s
  | .attnPress => Sys2Proof.Machine.execAttnPress s
  | .attnHold3s => Sys2Proof.Machine.execAttnHold3s s
  | .attnHold10s beganInDrain => Sys2Proof.Machine.execAttnHold10s beganInDrain s
  | .statusDisplayEnd => Sys2Proof.Machine.execStatusDisplayEnd s
  | .cablePresent => Sys2Proof.Machine.execCablePresent s
  | .cableRemoved => Sys2Proof.Machine.execCableRemoved s
  | .yelirChar c => Sys2Proof.Machine.execYelirChar c s
  | .yelirBreak => Sys2Proof.Machine.execYelirBreak s
  | .yId => Sys2Proof.Machine.execYId s
  | .yPeek addr words => Sys2Proof.Machine.execYPeek addr words s
  | .yPoke addr value => Sys2Proof.Machine.execYPoke addr value s
  | .yCupboard arg => Sys2Proof.Machine.execYCupboard arg s
  | .yWear => Sys2Proof.Machine.execYWear s
  | .yTemps => Sys2Proof.Machine.execYTemps s
  | .yClocks => Sys2Proof.Machine.execYClocks s
  | .yEvents n => Sys2Proof.Machine.execYEvents n s
  | .yCutlist => Sys2Proof.Machine.execYCutlist s
  | .ySelftest b => Sys2Proof.Machine.execYSelftest b s
  | .yDrainStatus => Sys2Proof.Machine.execYDrainStatus s
  | .yDrainStart => Sys2Proof.Machine.execYDrainStart s
  | .yDrainCancel => Sys2Proof.Machine.execYDrainCancel s
  | .yDrainReset => Sys2Proof.Machine.execYDrainReset s
  | .monUnlockExpire => Sys2Proof.Machine.execMonUnlockExpire s
  | .flit f m bytes => Sys2Proof.Machine.execFlit f m bytes s
  | .linkDown f m => Sys2Proof.Machine.execLinkDown f m s
  | .trainingDone f m lowerIn upperIn farHalf lowerOut upperOut fast => Sys2Proof.Machine.execTrainingDone f m lowerIn upperIn farHalf lowerOut upperOut fast s
  | .faceLostTimeout f => Sys2Proof.Machine.execFaceLostTimeout f s
  | .regRd f m p offset tag => Sys2Proof.Machine.execRegRd f m p offset tag s
  | .regWr f m p offset seq value => Sys2Proof.Machine.execRegWr f m p offset seq value s
  | .dataMsg f m tag index status line => Sys2Proof.Machine.execDataMsg f m tag index status line s
  | .wack f m tag status => Sys2Proof.Machine.execWack f m tag status s
  | .throttle f m fraction addr => Sys2Proof.Machine.execThrottle f m fraction addr s
  | .credit f m c0 c1 c2 c3 => Sys2Proof.Machine.execCredit f m c0 c1 c2 c3 s
  | .snp f m addr tag => Sys2Proof.Machine.execSnp f m addr tag s
  | .ndata f m tag status value => Sys2Proof.Machine.execNdata f m tag status value s
  | .nwack f m tag status => Sys2Proof.Machine.execNwack f m tag status s
  | .boundaryScan op value => Sys2Proof.Machine.execBoundaryScan op value s
  | .registerWrite f p offset value => Sys2Proof.Machine.execRegisterWrite f p offset value s
  | .latchedLoRead f p offset => Sys2Proof.Machine.execLatchedLoRead f p offset s
  | .txnBegin p => Sys2Proof.Machine.execTxnBegin p s
  | .stage p => Sys2Proof.Machine.execStage p s
  | .stageDone => Sys2Proof.Machine.execStageDone s
  | .commit p => Sys2Proof.Machine.execCommit p s
  | .validationDone => Sys2Proof.Machine.execValidationDone s
  | .switchDone => Sys2Proof.Machine.execSwitchDone s
  | .epochRetire => Sys2Proof.Machine.execEpochRetire s
  | .rollback p => Sys2Proof.Machine.execRollback p s
  | .txnExpired => Sys2Proof.Machine.execTxnExpired s
  | .partDb p q value => Sys2Proof.Machine.execPartDb p q value s
  | .ringEnable p r value => Sys2Proof.Machine.execRingEnable p r value s
  | .ringDisable p r => Sys2Proof.Machine.execRingDisable p r s
  | .partCqHead p r head => Sys2Proof.Machine.execPartCqHead p r head s
  | .irqHoldoff p r => Sys2Proof.Machine.execIrqHoldoff p r s
  | .partReset p => Sys2Proof.Machine.execPartReset p s
  | .partResetDone p => Sys2Proof.Machine.execPartResetDone p s
  | .chestInvalidate p => Sys2Proof.Machine.execChestInvalidate p s
  | .invalidateDone p => Sys2Proof.Machine.execInvalidateDone p s
  | .chestEnable p => Sys2Proof.Machine.execChestEnable p s
  | .chestDisable p => Sys2Proof.Machine.execChestDisable p s
  | .partInvalTag p t => Sys2Proof.Machine.execPartInvalTag p t s
  | .partTagRootLo p t value => Sys2Proof.Machine.execPartTagRootLo p t value s
  | .invalDone p => Sys2Proof.Machine.execInvalDone p s
  | .faultResume p id => Sys2Proof.Machine.execFaultResume p id s
  | .faultAbort p id => Sys2Proof.Machine.execFaultAbort p id s
  | .migPoolEnable p value => Sys2Proof.Machine.execMigPoolEnable p value s
  | .partMigAccept p map shard => Sys2Proof.Machine.execPartMigAccept p map shard s
  | .dieResetRequest => Sys2Proof.Machine.execDieResetRequest s
  | .benchReset mask => Sys2Proof.Machine.execBenchReset mask s
  | .benchResetDone b => Sys2Proof.Machine.execBenchResetDone b s
  | .retrain f mask => Sys2Proof.Machine.execRetrain f mask s
  | .svcDrainCancel => Sys2Proof.Machine.execSvcDrainCancel s
  | .svcDrainAck => Sys2Proof.Machine.execSvcDrainAck s
  | .monUnlock value => Sys2Proof.Machine.execMonUnlock value s
  | .monUart rate => Sys2Proof.Machine.execMonUart rate s
  | .orderFetch p q => Sys2Proof.Machine.execOrderFetch p q s
  | .orderProceed o => Sys2Proof.Machine.execOrderProceed o s
  | .gatherPool o t => Sys2Proof.Machine.execGatherPool o t s
  | .recallRows o b => Sys2Proof.Machine.execRecall o b s
  | .score o b => Sys2Proof.Machine.execScore o b s
  | .scatterMerge o t => Sys2Proof.Machine.execScatterMerge o t s
  | .appendRows o t => Sys2Proof.Machine.execAppendRows o t s
  | .prefetch o t => Sys2Proof.Machine.execPrefetch o t s
  | .advise o => Sys2Proof.Machine.execAdvise o s
  | .copyRows o t => Sys2Proof.Machine.execCopyRows o t s
  | .park o => Sys2Proof.Machine.execPark o s
  | .wake o => Sys2Proof.Machine.execWake o s
  | .fence o => Sys2Proof.Machine.execFence o s
  | .readStats o => Sys2Proof.Machine.execReadStats o s
  | .tablePause o => Sys2Proof.Machine.execTablePause o s
  | .tableResume o => Sys2Proof.Machine.execTableResume o s
  | .accLoad o => Sys2Proof.Machine.execAccLoad o s
  | .accStore o => Sys2Proof.Machine.execAccStore o s
  | .tileDeliver o t => Sys2Proof.Machine.execTileDeliver o t s
  | .tileConsumed o t => Sys2Proof.Machine.execTileConsumed o t s
  | .faultRecordWrite o => Sys2Proof.Machine.execFaultRecordWrite o s
  | .streamQuiesce o => Sys2Proof.Machine.execStreamQuiesce o s
  | .mergePoint o => Sys2Proof.Machine.execMergePoint o s
  | .wcFlush b => Sys2Proof.Machine.execWcFlush b s
  | .sessionSteeping p session => Sys2Proof.Machine.execSessionSteeping p session s
  | .sessionParked p session => Sys2Proof.Machine.execSessionParked p session s
  | .sliceExpire p => Sys2Proof.Machine.execSliceExpire p s
  | .hintIdle p session => Sys2Proof.Machine.execHintIdle p session s
  | .orderComplete o => Sys2Proof.Machine.execOrderComplete o s
  | .readLimiterInterval e => Sys2Proof.Machine.execReadLimiterInterval e s
  | .loopLockLost loop => Sys2Proof.Machine.execLoopLockLost loop s

end Sys2Proof.Machine
end

