-- ==== Sys2Proof/Machine/Errors.lean ====
section
/-! DEFINITION. Errors of the on-die stores: what each leaves in the state until a read finds it (R21, R33, R82, R173, R202, R216, R265,
R267, R319, R321, R323, R326), and the count of errors that makes a memory row failing (R333). Those that a command of the table brings are with it. -/

namespace Sys2Proof.Machine

/-- A corrected error is counted (R326, R341). -/
def State.corrected (s : State) : State := s.upInts (fun i => { i with ecc := satAdd i.ecc 1 0xFFFFFFFF })

/-- A corrected error of a bench's merge buffer is counted by its partition too (R265, R267). -/
def State.mergeCorrected (s : State) (b : Nat) : State :=
  (s.ownerOf b).toList.foldl (fun s p => s.upPart p (fun x => { x with eccCor := satAdd x.eccCor 1 0xFFFF })) s.corrected

/-- Data of a tile buffer: elements, bag lengths and rows held for a tile. -/
def Consumer.isInput : Consumer → Bool
  | .tile .. | .bags .. | .row .. => true
  | _ => false

/-- The block that an error struck once, and that was fetched again, is still in use. -/
def State.inBuffer (s : State) (c : Consumer) : Bool :=
  match c with
  | .tile o t => (s.order? o).any (fun x => !x.isConsumed t)
  | .row o b w slot => (s.order? o).any (fun x => x.dup.any (fun d => d.1 == b && d.2.1 == w && d.2.2.1 == slot))
  | .bags o _ => (s.order? o).isSome
  | _ => false

/-- What an error takes out of the tile buffers: the block, and of a row every line of it, as a row is read whole (R188). -/
def Held.goesWith (h x : Held) : Bool :=
  match h.cons with
  | .row .. => x.cons == h.cons
  | _ => x == h

/-- Held input data is dropped, to be fetched again; a second error poisons it (R326). -/
def State.inputStruck (s : State) (h : Held) : State :=
  let old := s.struck.filter (fun x => s.inBuffer x.1)
  let s1 := s.upInts (fun i => i.parity 1)
  if old.contains (h.cons, h.line) then
    { s1 with held := s.held.map (fun (x : Held) => if x = h then { x with poisoned := true } else x), struck := old.erase (h.cons, h.line) }
  else { s1 with held := s.held.filter (fun x => !h.goesWith x), struck := old ++ [(h.cons, h.line)] }

/-- Data of an order that a tile buffer holds until it is written: outputs and rows. -/
def WriteFor.isOutput : WriteFor → Bool
  | .order _ | .rowOf .. => true
  | _ => false

/-- Output data that awaits its write is written poisoned. Every order with data in it ends; rows are reported, and no bench keeps the
line (R173, R324, R326). -/
def State.outputStruck (s : State) (w : WriteReq) : State :=
  if !w.owners.any WriteFor.isOutput then s else
  let s1 := (s.upInts (fun i => i.parity 1)).setWrite w.id (fun x => { x with poison := true })
  let s2 := if w.owners.any WriteFor.isRow then (s1.partBenches w.part).foldl (fun s b => s.upBench b (fun x => x.dropLine w.line)) s1 else s1
  let s3 := (s2.lostRows w.part ((w.space.map Space.line).getD 0) w.owners).foldl (fun s x => s.rowPoisoned w.part x.1 x.2.1 x.2.2) s2
  w.owners.eraseDups.foldl (fun s x => match x with
    | .order o => s.endOrder o 0x10 (((s.order? o).map (fun x => x.outputOn w.line)).getD 0)
    | .rowOf o .. => s.endOrder o 0x10 0
    | _ => s) s3

/-- An uncorrectable error of the merge buffer poisons the fragment it strikes (R265). -/
def State.fragStruck (s : State) (o : Order) (f : Frag) : State :=
  (((s.upInts (fun i => i.parity 1)).upPart o.p (fun x => { x with eccUnc := satAdd x.eccUnc 1 0xFFFF }))).upOrder o.id (fun o =>
    { o with frags := o.frags.map (fun (x : Frag) => if x = f then { x with poisoned := true } else x) })

/-- What an error of the accumulator store leaves: a score tile, a selection tile, or a tile kept or loaded, poisoned (R216). -/
def State.accStruck (s : State) (k : Strike) : State :=
  match k with
  | .scoreTile o b t =>
    if (s.order? o).any (fun x => x.scoreTiles.any (fun y => y.bench == b && y.t == t)) then
      (s.upInts (fun i => i.parity 1)).upOrder o (fun x =>
        { x with scoreTiles := x.scoreTiles.map (fun (y : ScoreTile) => if y.bench = b ∧ y.t = t then { y with poisoned := true } else y) })
    else s
  | .selTile o b i =>
    if (s.order? o).any (fun x => x.sels.any (fun y => y.1 == b) && i < ceilDiv x.topK 128) then
      (s.upInts (fun i => i.parity 1)).upOrder o (fun x => { x with badSels := if x.badSels.contains (b, i) then x.badSels else x.badSels ++ [(b, i)] })
    else s
  | .keptTile p n slot =>
    if (s.ctx? p n).any (fun c => c.tiles.any (fun y => y.slot == slot)) then
      (s.upInts (fun i => i.parity 1)).upCtx p n (fun c =>
        { c with tiles := c.tiles.map (fun (y : AccTile) => if y.slot = slot then { y with poisoned := true } else y) })
    else s
  | _ => s

/-- A parity error in the stationary block of an order: its bench reads the query rows again before its next step (R203, R326; log 44:
DEDUCED, as R202 has it of resident rows). -/
def State.queryStruck (s : State) (o b : Nat) : State :=
  if (s.order? o).any (fun x => x.queries.any (fun y => y.1 == b)) then
    (s.upInts (fun i => i.parity 1)).upOrder o (fun x => { x with queries := x.queries.filter (fun y => y.1 != b) })
  else s

/-- The store and the bench of an error that counts towards the failure of a memory row: one that is corrected, or a parity error (R333).
None where nothing is at the place. -/
def State.strikePlace (s : State) (k : Strike) : Option (Store × Nat) :=
  match k with
  | .corrected place => place.bind (fun x => (storeOf x.1).map (fun st => (st, ownerBench st x.2)))
  | .mergeCorrected b => some (.merge, b)
  | .chest b i => if i < (s.bench b).chest.length then some (.chest, b) else none
  | .saucer b i => if i < (s.bench b).saucer.length then some (.saucer, b) else none
  | .input i => (s.held[i]?).bind (fun h => if h.cons.isInput then some (.tile, h.bench.getD 0) else none)
  | .output w => (s.writes.find? (fun x => x.id == w && x.modl.isNone && x.owners.any WriteFor.isOutput)).map (fun x => (.tile, x.bench.getD 0))
  | .resident b i row => if ((s.bench b).residents[i]?).any (fun r => r.rows.any (fun y => y.1 == row)) then some (.operand, b) else none
  | .query o b => if (s.order? o).any (fun x => x.queries.any (fun y => y.1 == b)) then some (.operand, b) else none
  | _ => none

/-- One error strikes. Where nothing is at the place, nothing happens. -/
def State.strike (s : State) (k : Strike) : State :=
  match k with
  | .corrected _ => s.corrected
  | .mergeCorrected b => s.mergeCorrected b
  | .chest b i => s.upBench b (fun x => { x with chest := x.chest.modify i (fun c => { c with bad := true }) })
  | .saucer b i => s.upBench b (fun x => { x with saucer := x.saucer.modify i (fun c => { c with bad := true }) })
  | .input i => match s.held[i]? with
    | some h => if h.cons.isInput then s.inputStruck h else s
    | none => s
  | .output w => match s.writes.find? (fun x => x.id == w && x.modl.isNone) with
    | some x => s.outputStruck x
    | none => s
  | .resident b i row => s.upBench b (fun x => { x with residents := x.residents.modify i (fun r =>
      { r with bad := if r.bad.contains row || !r.rows.any (fun y => y.1 == row) then r.bad else r.bad ++ [row] }) })
  | .query o b => s.queryStruck o b
  | .scoreTile .. | .selTile .. | .keptTile .. => s.accStruck k
  | .fragment o b lane row => match s.order? o with
    | some x => match x.frags.find? (fun f => f.bench == b && f.lane == lane && f.row == row && f.spilled.isNone) with
      | some f => s.fragStruck x f
      | none => s
    | none => s
  | .sent o b key => s.upOrder o (fun x => { x with struck := if x.struck.contains (b, key) then x.struck else x.struck ++ [(b, key)] })
  | .shadow o => if (s.order? o).any (fun x => !x.streams.isEmpty) then s.endOrder o 0x10 0 else s
  | .outEntry p i => s.upPart p (fun x => { x with outLog := x.outLog.eraseIdx i })
  | .sample i => { s with sampler := s.sampler.modify i (fun x => { x with p := 8, count := 0 }) }
  | .region => s.upCfg (fun c => { c with regionBad := true })

/-- An error strikes, and counts towards the failure of its memory row, where the die has one there (R326, R333). -/
def State.strikeRow (s : State) (x : Strike × Nat) : State :=
  match s.strikePlace x.1 with
  | some (st, b) =>
    if s.variant.hasStore st && (st = .cupboard || s.benchPresent b) && (x.2 < 16384 || (st != .chest && st != .cupboard)) then
      (s.strike x.1).rowError st b x.2
    else s.strike x.1
  | none => s.strike x.1

end Sys2Proof.Machine
end

