-- ==== Sys2Proof/Machine/Idle.lean ====
section
/-! DEFINITION. What happens when no command waits (R383; log 5): an edge of the core clock, and the errors that strike at it (R326;
log 44). -/

namespace Sys2Proof.Machine

/-- The core domain has a clock: its source runs and no switch of it hangs (R372, R381, R383). -/
def Clk.coreRuns (c : Clk) : Bool := !(c.switching.any (fun x => x.1 = 0)) && (c.coreSrc = 0 || c.coreLock)

/-- One edge of the core clock is counted (R383). -/
def State.edge (s : State) : State := { s.fresh with clk := { s.clk with count := s.clk.count + 1 } }

/-- One edge of the core clock, while it runs, and the errors that strike at it. DESIGN CHOICE (log 5, log 44). -/
def idle (s : State) : State :=
  if s.panel.pwrGood && s.clk.coreRuns then pump ((Config.strikes s.nextId).foldl State.strikeRow s.edge).settleEnded else s

end Sys2Proof.Machine
end

