-- ==== Sys2Proof/Safety.lean ====
section
/-! DEFINITION. What counts as a safe step, in the terms the statements use: the step goes on, the banks of the die keep
their sizes, outstanding requests are told apart by their tags, what no command or almost none may change, and what training decides of a module. -/

namespace Sys2Proof.Machine

/-- The step goes on. -/
def StepGoesOn (s : State) : Prop := ∃ t, step s = .next t

/-- The state after some commands, one after another; none where one of them stops. -/
def execAll : List Instr → State → Option State
  | [], s => some s
  | c :: cs, s =>
    match exec c s with
    | .next t => execAll cs t
    | _ => none

/-- The banks have the sizes of the largest variant: 8 partitions and benches, 16 windows, 4 faces of 6 modules (R1, R13, R43). -/
def State.sized (s : State) : Prop :=
  s.parts.length = 8 ∧ s.benches.length = 8 ∧ s.windows.length = 16 ∧ s.faces.map (fun x => x.mods.length) = [6, 6, 6, 6]

/-- What training decides of a module, as against what its traffic moves. -/
def Modl.width (m : Modl) : ModState × Nat × Nat × (Nat × Nat) × Nat × Bool × Nat :=
  (m.state, m.lanes, m.half, m.repaired, m.retrains, m.trained, m.limit)

/-- Two requests that an answer could not tell apart: one number of the model, or one tag on one module (R357). -/
def ReadReq.clash (a b : ReadReq) : Prop := a.id = b.id ∨ (a.face = b.face ∧ a.modl = b.modl ∧ a.modl.isSome ∧ a.tag = b.tag)
def WriteReq.clash (a b : WriteReq) : Prop := a.id = b.id ∨ (a.face = b.face ∧ a.modl = b.modl ∧ a.modl.isSome ∧ a.tag = b.tag)

/-- No two outstanding reads clash and no two outstanding writes clash; their tags are among the 4,096 of a module (R357),
and the next number of the model is new. -/
structure State.tagsOk (s : State) : Prop where
  reads : s.reads.Pairwise (fun a b => ¬a.clash b)
  readTag : ∀ r ∈ s.reads, r.id < s.nextId ∧ r.tag < 4096
  writes : s.writes.Pairwise (fun a b => ¬a.clash b)
  writeTag : ∀ w ∈ s.writes, w.id < s.nextId ∧ w.tag < 4096

/-- What no command changes: the queue and the fuses stay, the banks keep their sizes, the repair log is only added
to (R333, R384), and requests stay told apart (R357). -/
structure Kept (s t : State) : Prop where
  pending : t.pending = s.pending
  fuses : t.fuses = s.fuses
  sized : s.sized → t.sized
  log : s.log <+: t.log
  tags : s.tagsOk → t.tagsOk

/-- What only a passed commit, a die reset and power change beside: the live configuration and its epoch (R62, R65, R384). None but
a die reset and power change the core-cycle count (R383, R384). -/
structure Same (s t : State) : Prop extends Kept s t where
  live : t.cfg.live = s.cfg.live
  epoch : t.cfg.epoch = s.cfg.epoch
  count : t.clk.count = s.clk.count

end Sys2Proof.Machine
end

