-- ==== Sys2Proof/Certificates/Slice0/Obligations.lean ====
section
/-! DEFINITION. The statements about the model, for the provers. `pump` in them is what the faces grant, at the end of a
command, of the requests that wait (R16, log 52). -/

open Sys2Proof Sys2Proof.Machine

/-- For every command c and state s, a step of s with c put at the front of its queue is exec of c on s; and whatever waits
behind c waits still while c runs. -/
def Obligations.StepRunsTheFrontCommand : Prop :=
  ∀ (c : Instr) (rest : List Instr) (s : State), step { s with pending := c :: rest } = exec c { s with pending := rest }

/-- On an empty queue a step goes on: while power is good and the core clock runs it adds 1 to the core-cycle count, modulo 2^64,
and to the next number of the model, and the errors of the on-die stores that strike at that edge, whichever they are, act on
that state; they leave the live configuration and its epoch, the queue, the fuses, the bank sizes, every entry of the repair
log and the core-cycle count as they were. Otherwise it changes nothing. That a step on an empty queue is one edge, and that
errors strike at edges, is the model's choice (log 5, log 44). -/
def Obligations.IdleEdgeIsCounted : Prop :=
  ∀ s : State, s.pending = [] →
    (s.panel.pwrGood = true → s.clk.coreRuns = true →
      let e := { s with clk := { s.clk with count := s.clk.count + 1 }, nextId := s.nextId + 1 }
      ∃ t, step s = .next t ∧ Same e t ∧ t.clk.count = s.clk.count + 1 ∧
        t = pump ((Config.strikes s.nextId).foldl State.strikeRow e).settleEnded) ∧
    (s.panel.pwrGood = false ∨ s.clk.coreRuns = false → step s = .next s)

/-- State.reset has 8 partitions, 8 benches, 16 windows and 4 faces of 6 modules, its outstanding requests are told apart,
nothing waits, and a step from it goes on. -/
def Obligations.ResetMeetsTheInvariants : Prop :=
  State.reset.sized ∧ State.reset.tagsOk ∧ State.reset.pending = [] ∧ StepGoesOn State.reset

/-- For every message that the host sends, with every field at every value that R356 gives it room for, the words R356 lays out
for it, followed by anything, are read as that message, and what follows is left. -/
def Obligations.HostMessagesReadBack : Prop :=
  ∀ (m : InMsg) (rest : List Nat), m.fits = true → parseMsg (m.wire ++ rest) = .got m rest

/-- Whatever the command and the state: the next state has the same waiting commands and the same fuses, its banks keep their
sizes, every entry of the repair log is still there in its place, and requests that were told apart are still told apart. -/
def Obligations.EveryCommandKeepsTheDie : Prop :=
  ∀ (c : Instr) (s t : State), exec c s = .next t → Kept s t

/-- From every state in which no two outstanding reads of one module, and no two outstanding writes of one module, have the same
tag, each tag is below 4,096 and no two requests have one number, a step leads only to states of which the same holds. -/
def Obligations.OutstandingTagsStayDistinct : Prop :=
  ∀ s t : State, s.tagsOk → step s = .next t → t.tagsOk

/-- Of all commands only VALIDATION_DONE, SWITCH_DONE, EPOCH_RETIRE, DIE_RESET and PWR_GOOD_LOW can change the live cut list,
CFG_EPOCH or the core-cycle count; every other command leaves all three as they are, in every state. -/
def Obligations.OnlySwitchesChangeTheConfiguration : Prop :=
  ∀ (c : Instr) (s t : State), exec c s = .next t →
    c ∉ [.validationDone, .switchDone, .epochRetire, .dieReset, .pwrGoodLow] →
    t.cfg.live = s.cfg.live ∧ t.cfg.epoch = s.cfg.epoch ∧ t.clk.count = s.clk.count

/-- PWR_GOOD_LOW while power is good leads to the state after reset with the fuses, the repair log and the records of the wear
store as they were, the cap at the thermal design power, and the queue and the next number of the model as they were. Once
power is off it changes nothing (log 4). -/
def Obligations.PowerOffClearsAllButFusesAndLog : Prop :=
  ∀ s : State,
    (s.panel.pwrGood = true → ∃ t, exec .pwrGoodLow s = .next t ∧ t.wear.records = s.wear.records ∧ t.wear.deferred = [] ∧
      t = { State.reset with pending := s.pending, fuses := s.fuses, log := s.log, nextId := s.nextId, wear := t.wear,
                             kettle := { cap := s.variant.tdp, capReset := s.variant.tdp } }) ∧
    (s.panel.pwrGood = false → exec .pwrGoodLow s = .next s)

/-- PWR_GOOD_HIGH with power off: bring-up step 2 begins where the firmware is good, and step 1 halts where it is not; the wear
store is read, the cap is the thermal design power, and a die whose log holds a suspect entry drains with cause 1. Nothing
else changes. -/
def Obligations.PowerOnBeginsBringUp : Prop :=
  ∀ s : State, s.panel.pwrGood = false →
    ∃ t, exec .pwrGoodHigh s = .next t ∧ t.panel.pwrGood = true ∧
      (s.fuses.fwGood = true → t.clk = { s.clk with step := 2 }) ∧
      (s.fuses.fwGood = false → t.clk = { s.clk with step := 1, halted := true }) ∧
      (logSuspect s.log = true → t.drain.inForce = true ∧ t.drain.cause = 1) ∧ (logSuspect s.log = false → t.drain = s.drain) ∧
      t = { s with panel := { s.panel with pwrGood := true }, kettle := { s.kettle with cap := s.variant.tdp, capReset := s.variant.tdp },
                   wear := s.wear.restored, drain := t.drain, clk := t.clk }

/-- XA_OSCILLATION while XA is not judged stable begins the check. On T8 and S8, after it, and after any number of runs of fewer
than 8 agreeing windows that a window that does not agree each ended (none, at bring-up), a last run of agreeing windows
judges XA stable exactly when it has 8 windows or more, and it then stays stable for the windows beyond. Judging XA stable
enables the core and control loops, and nothing but the clock state changes. -/
def Obligations.XaIsJudgedByEightWindows : Prop :=
  (∀ s : State, s.alive = true → s.clk.xaStable = false →
    exec .xaOscillation s = .next { s with clk := { s.clk with xaOsc := true, xaRun := 0 } }) ∧
  (∀ (s : State) (runs : List (List Nat × Nat)) (last : List Nat), s.alive = true → s.variant ≠ .l4 → s.clk.xaStable = false →
    (∀ r ∈ runs, r.1.length < 8 ∧ (∀ x ∈ r.1, 15650 ≤ x ∧ x ≤ 15807) ∧ (r.2 < 15650 ∨ 15807 < r.2)) →
    (∀ x ∈ last, 15650 ≤ x ∧ x ≤ 15807) →
    ∃ t, execAll (.xaOscillation :: (runs.flatMap (fun r => r.1 ++ [r.2]) ++ last).map Instr.xaWindow) s = some t ∧
      t.clk.xaStable = decide (8 ≤ last.length) ∧
      (t.clk.xaStable = true → t.clk.coreEn = true ∧ t.clk.controlEn = true) ∧
      (8 ≤ last.length → ∀ n, 15415 ≤ n → n ≤ 16043 → exec (.xaWindow n) t = .next t) ∧ t = { s with clk := t.clk })

/-- On T8 and S8, once XA is judged stable, a window below 15,415 or above 16,043, or no edge for 256 fast-RC cycles, and on L4
the loss of its amplitude, lose XA: xa_lost is set, XA is to be judged again, both its loops stop, and a domain that ran on
its loop has a switch to the fast RC that hangs. On L4 the same loses XB with the Kettle loop, whose fast domain goes to the
fast RC and whose slow domain to the slow RC. Nothing but the clock state changes; a window within the bounds changes
nothing. XA_FAIL_TIMEOUT while XA is not judged stable and xa_failed is clear sets xa_failed; if bring-up waited in step 2
for XA, step 3 begins on the fast RC and every module of face 0 that is present and down trains. Where XA is stable it
changes nothing. -/
def Obligations.XaIsLostOrFails : Prop :=
  (
    ∀ s : State, s.alive = true →
      (s.clk.xaStable = true →
        ∀ c : Instr, (s.variant ≠ .l4 ∧ ((∃ n, c = .xaWindow n ∧ s.clk.xaOsc = true ∧ (n < 15415 ∨ 16043 < n)) ∨ c = .xaEdgeTimeout)) ∨
            (s.variant = .l4 ∧ c = .xtalAmplitudeLost false) →
          ∃ t, exec c s = .next t ∧ t.clk.xaStable = false ∧ t.clk.xaLost = true ∧ t.clk.xaRun = 0 ∧
            t.clk.coreEn = false ∧ t.clk.controlEn = false ∧ t.clk.coreLock = false ∧ t.clk.controlLock = false ∧
            (s.clk.coreSrc = 1 → (0, 0) ∈ t.clk.switching) ∧ (s.clk.controlSrc = 1 → (1, 0) ∈ t.clk.switching) ∧
            t.clk.coreSrc = s.clk.coreSrc ∧ t.clk.controlSrc = s.clk.controlSrc ∧ t = { s with clk := t.clk }) ∧
      (s.clk.xaStable = true → s.variant ≠ .l4 → ∀ n, 15415 ≤ n → n ≤ 16043 → exec (.xaWindow n) s = .next s) ∧
      (s.variant = .l4 → s.clk.xbStable = true →
        ∃ t, exec (.xtalAmplitudeLost true) s = .next t ∧ t.clk.xbStable = false ∧ t.clk.xbLost = true ∧
          t.clk.kettleEn = false ∧ t.clk.kettleLock = false ∧ (s.clk.kfastSrc = 1 → (2, 0) ∈ t.clk.switching) ∧
          (s.clk.kslowSrc = 3 → (3, 2) ∈ t.clk.switching) ∧ t = { s with clk := t.clk })) ∧
  (
    ∀ s : State, s.alive = true →
      (s.clk.xaStable = false → s.clk.xaFailed = false →
        (s.clk.step ≠ 2 → exec .xaFailTimeout s = .next { s with clk := { s.clk with xaFailed := true } }) ∧
        (s.clk.step = 2 → exec .xaFailTimeout s = .next ({ s with clk := { s.clk with xaFailed := true, step := 3 } }.trainFace 0))) ∧
      (s.clk.xaStable = true → exec .xaFailTimeout s = .next s))

/-- On L4, XTAL_STABLE_COUNT of XA, once its amplitude detector has reported oscillation, judges XA stable and enables the core
and control loops; of XB it judges XB stable, enables the Kettle loop and moves the Kettle slow domain to XB. Only the clock
state changes. On T8 and S8 it changes nothing. -/
def Obligations.CrystalsOfL4AreJudgedByCount : Prop :=
  ∀ s : State, s.alive = true →
    (s.variant = .l4 → s.clk.xaOsc = true → s.clk.xaStable = false →
      exec (.xtalStableCount false) s = .next { s with clk := { s.clk with xaStable := true, coreEn := true, controlEn := true } }) ∧
    (s.variant = .l4 → s.clk.xbStable = false →
      ∃ t, exec (.xtalStableCount true) s = .next t ∧ t.clk.xbStable = true ∧ t.clk.kettleEn = true ∧ t.clk.kslowSrc = 3 ∧
        (∀ x, (3, x) ∉ t.clk.switching) ∧ (∀ d x, d ≠ 3 → ((d, x) ∈ t.clk.switching ↔ (d, x) ∈ s.clk.switching)) ∧
        t = { s with clk := { s.clk with xbStable := true, kettleEn := true, kslowSrc := 3, switching := t.clk.switching } }) ∧
    (s.variant ≠ .l4 → ∀ xb, exec (.xtalStableCount xb) s = .next s)

/-- LOOP_LOCK of an enabled loop that is not locked locks it and moves its domain to it, ending a switch of that domain that
hung; the Kettle loop exists on L4 only. When that puts core and control on their loops in bring-up step 2, step 3 begins and
face 0 trains. LOOP_LOCK_LOST clears the lock and leaves the source (the model's reading of R372). SWITCH_FORCED of a domain
with a switch that hangs puts the domain on the new source, ends the switch, adds 1 to CLK_STATUS.forced up to 255, and posts
CLK_MUX_FORCED with the domain and source codes to the primary and the Kettle log; before the event nothing but the clock
state changes. With no such switch it only has the faces grant requests that wait, as after every command that may queue one. -/
def Obligations.DomainsTakeTheirSources : Prop :=
  (
    ∀ s : State, s.alive = true →
      (s.clk.coreEn = true → s.clk.coreLock = false →
        exec (.loopLock 0) s = .next
          (s.upClk (fun c => { c with coreLock := true, coreSrc := 1, switching := c.switching.filter (fun x => x.1 != 0) })).endStep2) ∧
      (s.clk.controlEn = true → s.clk.controlLock = false →
        exec (.loopLock 1) s = .next
          (s.upClk (fun c => { c with controlLock := true, controlSrc := 1, switching := c.switching.filter (fun x => x.1 != 1) })).endStep2) ∧
      (s.variant = .l4 → s.clk.kettleEn = true → s.clk.kettleLock = false →
        exec (.loopLock 2) s = .next
          (s.upClk (fun c => { c with kettleLock := true, kfastSrc := 1, switching := c.switching.filter (fun x => x.1 != 2) }))) ∧
      (s.endStep2 = if s.clk.step = 2 ∧ s.clk.coreSrc = 1 ∧ s.clk.controlSrc = 1
        then (s.upClk (fun c => { c with step := 3 })).trainFace 0 else s) ∧
      exec (.loopLockLost 0) s = .next (s.upClk (fun c => { c with coreLock := false })) ∧
      exec (.loopLockLost 1) s = .next (s.upClk (fun c => { c with controlLock := false })) ∧
      exec (.loopLockLost 2) s = .next (s.upClk (fun c => { c with kettleLock := false }))) ∧
  (
    ∀ (s : State) (d src : Nat), s.alive = true → d < 4 →
      (s.clk.switching.find? (fun x => x.1 == d) = some (d, src) →
        ∃ u : State, exec (.switchForced d) s = .next (pump (u.dieEvent s.primary 0x0012 d src)) ∧
          u = { s with clk := u.clk } ∧ u.clk.forced = min 255 (s.clk.forced + 1) ∧ (∀ x, (d, x) ∉ u.clk.switching) ∧
          (∀ e x, e ≠ d → ((e, x) ∈ u.clk.switching ↔ (e, x) ∈ s.clk.switching)) ∧
          u.clk.coreSrc = (if d = 0 then src else s.clk.coreSrc) ∧ u.clk.controlSrc = (if d = 1 then src else s.clk.controlSrc) ∧
          u.clk.kfastSrc = (if d = 2 then src else s.clk.kfastSrc) ∧ u.clk.kslowSrc = (if d = 3 then src else s.clk.kslowSrc)) ∧
      (s.clk.switching.find? (fun x => x.1 == d) = none → exec (.switchForced d) s = .next (pump s)))

/-- R395, with the sensors that the function benchTemp of the model reads for t (R394) and the power P of the tick rounded to
whole watts: log 29 (DEDUCED). -/
def Obligations.ThrottleFollowsTheRule : Prop :=
  ∀ (s : State) (b : Nat), b < 8 →
    ((s.bench b).power = .powering → ∃ u, exec (.benchPowerUpDone b) s = .next u ∧ u.kettle.level.getD b 0 = 0) ∧
    (s.alive = true →
    let P := if s.kettle.powerN = 0 then s.kettle.power else s.kettle.powerSum / (s.kettle.powerN * 16000)
    let t := s.benchTemp b
    let T : Int := 16 * (s.kettle.throttleC : Int)
    let l := s.kettle.level.getD b 0
    ∃ u, exec .kettleTick s = .next u ∧ u.kettle.level.getD b 0 =
      if s.benchPresent b = true ∧ (s.bench b).power = .running then
        if t ≥ T ∨ P > s.kettle.cap then min 7 (l + 1)
        else if t < T - 16 * 3 ∧ 16 * P < 15 * s.kettle.cap then max 0 (l - 1)
        else l
      else l)

/-- KETTLE_TICK on a running Kettle adds a millisecond to the Kettle's and the wear store's time, a powered second at every
1,000, and one to the drain that has been announced; it halves the sampler after handing it to the migration decisions. It
leaves every register of every partition but the proposals and accepts of migrations, the number of lines of every window,
and everything else that is not the Kettle's as it was. -/
def Obligations.KettleTickFrame : Prop :=
  ∀ s : State, s.alive = true →
    ∃ t, exec .kettleTick s = .next t ∧ t.kettle.ms = s.kettle.ms + 1 ∧
      (s.wear.millis + 1 ≥ 1000 → t.wear = { s.wear with millis := 0, seconds := (s.wear.seconds + 1) % 2 ^ 32 }) ∧
      (s.wear.millis + 1 < 1000 → t.wear = { s.wear with millis := s.wear.millis + 1 }) ∧
      t.drain = { s.drain with ms := if s.drain.inForce ∧ !s.drain.owed then s.drain.ms + 1 else s.drain.ms } ∧
      t.sampleRead = s.sampler ∧ t.sampler = s.sampler.map (fun x => { x with count := x.count / 2 }) ∧
      (∀ p, ∃ ps as, t.part p = { s.part p with mig := { (s.part p).mig with proposals := ps, accepts := as } }) ∧
      (∀ e, (t.window e).lines = (s.window e).lines ∧ (t.window e).v = (s.window e).v ∧ (t.window e).admitted = (s.window e).admitted) ∧
      t = { s with kettle := t.kettle, wear := t.wear, drain := t.drain, mon := t.mon, filters := t.filters, parts := t.parts, panel := t.panel,
                   windows := t.windows, sampler := t.sampler, sampleRead := t.sampleRead }

/-- SENSOR_SAMPLE on a running Kettle keeps the last 8 samples of all 32 sensors, and of each of the 7 rails its voltage and
current with its flags: low and high read below and above the range at this sample and the one before. A sample that brings
the hottest filtered sensor to 110 degrees or more, when it was below, latches the trip, drives THERM_TRIP_N, holds BEGIN and
starts the die reset of code 7 unless one is under way. A rail that reads outside its range at this sample and did at the one
before, and whose flags were clear, is logged under 0x0103 with its number and voltage and starts the die reset of code 8,
unless one is under way or the trip begins at the same sample. While the sensors stay below and no rail read outside its
range at the sample before, it changes nothing but the Kettle, the wear store and the repair log. The faces then grant
requests that wait. THERMAL_CLEAR ends the hold of BEGIN when it has lasted and every sensor has been below T for 10 ticks in
a row, and changes nothing else; before that it changes nothing. The trip latch stays. That an excursion which lasts on is
logged once is the model's reading (log 29). -/
def Obligations.SampleTripsAndHoldEnds : Prop :=
  (
    ∀ (s : State) (temps : List Int) (rails : List (Nat × Nat)), s.alive = true → temps.length = 32 →
      ∃ t, exec (.sensorSample temps rails) s = .next (pump t) ∧ t.kettle.samples = (temps :: s.kettle.samples).take 8 ∧
        ((s.kettle.samples = [] ∨ s.hottest < 1760) → t.hottest ≥ 1760 →
          t.panel.tripN = true ∧ t.kettle.trip = true ∧ t.kettle.beginHold = true ∧ (s.rstDie = none → t.rstDie = some ⟨7, false⟩)) ∧
        (∀ n mv a, n < 7 → rails[n]? = some (mv, a) →
          let old := s.kettle.rails.getD n {}
          let out := mv < (railRange n).1 ∨ (railRange n).2 < mv
          t.kettle.rails.getD n {} = { mv := mv, amps16 := min a 0xFFFF, lowLast := decide (mv < (railRange n).1),
                                       highLast := decide ((railRange n).2 < mv), low := decide (mv < (railRange n).1) && old.lowLast,
                                       high := decide ((railRange n).2 < mv) && old.highLast } ∧
          (out → old.lowLast = true ∨ old.highLast = true → old.low = false → old.high = false →
            ⟨s.wear.seconds, 0x0103, n, mv⟩ ∈ t.kettle.log ∧ t.rstDie.isSome = true ∧
            (s.rstDie = none → t.hottest < 1760 ∨ (s.kettle.samples ≠ [] ∧ 1760 ≤ s.hottest) → t.rstDie = some ⟨8, false⟩))) ∧
        (t.hottest < 1760 → (∀ n, n < 7 → (s.kettle.rails.getD n {}).lowLast = false ∧ (s.kettle.rails.getD n {}).highLast = false) →
          t = { s with kettle := t.kettle, wear := t.wear, log := t.log, logDue := t.logDue })) ∧
  (
    ∀ s : State, s.alive = true → s.kettle.beginHold = true →
      (s.kettle.cool ≥ 10 → exec .thermalClear s = .next (s.upKettle (fun k => { k with beginHold := false }))) ∧
      (s.kettle.cool < 10 → exec .thermalClear s = .next s))

/-- WEAR_RECORD once a powered hour more has passed than the newest record has: with every rail in range, the record of this
hour, its four components and its index, the largest of them, heads the store, which keeps the last 1,024; with a rail out of
range the record waits. Nothing but the wear store changes, and within the same hour nothing does. -/
def Obligations.WearRecordIsKept : Prop :=
  ∀ (s : State) (readings : List (List Nat)), s.alive = true →
    (s.wear.lastHour < s.wear.seconds / 3600 →
      ∃ t r, exec (.wearRecord readings) s = .next t ∧ t = { s with wear := t.wear } ∧
        r.hours = s.wear.seconds / 3600 ∧ r.seconds = s.wear.seconds ∧ r.cycles = s.wear.cycles ∧
        r.ageing = ageingOf (s.fuses.oscBase.take (if s.variant = .l4 then 8 else 16)) readings ∧
        r.spares = s.wear.spares ∧ r.lanes = s.wear.lanes ∧ r.thermal = s.wear.thermal ∧
        r.ageing ≤ r.index ∧ r.spares ≤ r.index ∧ r.lanes ≤ r.index ∧ r.thermal ≤ r.index ∧
        (r.index = r.ageing ∨ r.index = r.spares ∨ r.index = r.lanes ∨ r.index = r.thermal) ∧
        (s.railsBad = false → t.wear.records = (r :: s.wear.records).take 1024 ∧ t.wear.deferred = s.wear.deferred) ∧
        (s.railsBad = true → t.wear.records = s.wear.records ∧ t.wear.deferred = s.wear.deferred ++ [r])) ∧
    (s.wear.seconds / 3600 ≤ s.wear.lastHour → exec (.wearRecord readings) s = .next s)

/-- BENCH_POWER_GATE of a bench that runs, belongs to a partition, is neither suspect nor in reset nor under test, has been idle
for 100 ms and holds no resident set or combined write makes it power-gated, its stores invalid, at throttle level 0.
BENCH_POWER_UP_DONE of one that powers up makes it run with every store invalid, at level 0. Every other bench and all else
stays. -/
def Obligations.BenchPowerIsGatedAndReturns : Prop :=
  ∀ (s : State) (b : Nat), b < s.benches.length →
    (s.alive = true → s.benchPresent b = true → (s.bench b).power = .running → (s.bench b).reset = false → (s.ownerOf b).isSome →
      s.suspect b = false → s.kettle.idle.getD b 0 ≥ 100 → s.benchBusy b = false → (s.bench b).residents = [] → (s.bench b).wc = [] →
      s.kettle.testBench ≠ some b → b ∉ s.kettle.bringTest →
      ∃ t, exec (.benchPowerGate b) s = .next t ∧
        t.bench b = { s.bench b with power := .gated, chest := [], plru := [], saucer := [], cold := [], wc := [], residents := [], loaded := none } ∧
        (∀ c, c ≠ b → t.bench c = s.bench c) ∧ t.kettle = { s.kettle with level := s.kettle.level.set b 0 } ∧
        t = { s with benches := t.benches, kettle := t.kettle }) ∧
    ((s.bench b).power = .powering →
      ∃ t, exec (.benchPowerUpDone b) s = .next t ∧
        t.bench b = { s.bench b with power := .running, chest := [], plru := [], saucer := [], cold := [], wc := [], residents := [], loaded := none } ∧
        (∀ c, c ≠ b → t.bench c = s.bench c) ∧ t.kettle = { s.kettle with level := s.kettle.level.set b 0 } ∧
        t = { s with benches := t.benches, kettle := t.kettle })

/-- SELFTEST_START, where tests are on and none is barred, puts the bench that is due, at throttle level 0 and without a failing
row, under test with every store invalid. SELFTEST_DONE of a part that the variant has ends the test: it records the bench
and the time; a pass changes nothing more, a failed march names the row as failing, and any other failure posts SELFTEST_FAIL
and makes the bench suspect with cause 1. The faces then grant requests that wait. SELFTEST_ABORT of the bench under test
ends the test, counts it and leaves every store of the bench invalid; of a bench under the test of bring-up it does the same,
and bring-up reaches step 7 when that was the last. -/
def Obligations.SelfTestRunsAndReports : Prop :=
  ∀ (s : State) (b : Nat), s.alive = true →
    ((policyOf s.cfg.live).idleTest = true → s.mayTest = true → s.testDue = some b → s.kettle.level.getD b 0 = 0 →
      (∀ x ∈ s.kettle.failing, x.1 ≠ .cupboard → x.2.1 ≠ b) →
      exec .selftestStart s = .next (pump (((s.flushWc b).upBench b (fun x => { x.emptied with power := .running })).upKettle
        (fun k => { k with testBench := some b })))) ∧
    (∀ (code row : Nat), s.kettle.testBench = some b → s.variant.testPart code = true →
      ∃ u : State, u = s.upKettle (fun k => { k with testBench := none, tested := k.tested.set b s.wear.seconds, testLast := b, testFailed := code != 0, testCode := if code = 0 then k.testCode else code }) ∧
        (code = 0 → exec (.selftestDone code row) s = .next (pump u)) ∧
        (∀ st, marchStore code = some st → ∃ t, exec (.selftestDone code row) s = .next (pump t) ∧ (st, b, row) ∈ t.kettle.failing ∧
          t = { u with kettle := { u.kettle with failing := t.kettle.failing } }) ∧
        (code ≠ 0 → marchStore code = none →
          exec (.selftestDone code row) s = .next (pump ((u.dieEvent u.enabledParts 0x0016 b code).makeSuspect b 1)))) ∧
    (s.kettle.testBench = some b →
      exec (.selftestAbort b) s = .next ((s.upBench b Bench.emptied).upKettle
        (fun k => { k with testBench := none, testAborts := min 255 (k.testAborts + 1) }))) ∧
    (s.kettle.testBench ≠ some b → b ∈ s.kettle.bringTest →
      ∃ t, exec (.selftestAbort b) s = .next t ∧ t.kettle = { s.kettle with bringTest := s.kettle.bringTest.erase b, testAborts := min 255 (s.kettle.testAborts + 1) } ∧
        t.benches = (s.upBench b Bench.emptied).benches ∧ t.clk = (if s.kettle.bringTest.erase b = [] then { s.clk with step := 7 } else s.clk) ∧
        t = { s with kettle := t.kettle, benches := t.benches, clk := t.clk })

/-- SPARE_REMAP of a failing row of a bench store that the variant has, at an idle slot of a bench that is not under test, that
is not remapped yet and for which a spare row and a free log entry are left, writes the remap to the repair log (or, while a
rail is out of range, holds it until the rails return), takes the row off the failing ones with its counted errors, and sets
the spares component from the repairs in force. Nothing else changes, but that the faces grant requests that wait. That a
repair held for the rails is in force at once, in the repairs and in the spares component, is the model's reading (log 30). -/
def Obligations.SpareRowIsTaken : Prop :=
  ∀ (s : State) (k b row : Nat) (st : Store), s.alive = true → storeOf k = some st → st ≠ .cupboard → s.benchPresent b = true →
    s.benchIdle b = true → s.kettle.testBench ≠ some b → (st = .chest → row < 16384) → s.remappable st b row = true →
    (st, b, row) ∈ s.kettle.failing → s.variant.hasStore st = true →
    ∃ t, exec (.spareRemap k b row) s = .next (pump t) ∧
      (s.railsBad = false → t.log = s.log ++ [.remap st b row] ∨ (256 ≤ s.log.length ∧ t.logDue = s.logDue ++ [.remap st b row])) ∧
      (s.railsBad = true → t.log = s.log ∧ t.logDue = s.logDue ++ [.remap st b row]) ∧
      .remap st b row ∈ t.repairs ∧ (st, b, row) ∉ t.kettle.failing ∧ t.wear.spares = sparesOf t.repairs ∧
      t = { s with log := t.log, logDue := t.logDue, kettle := { s.kettle with failing := t.kettle.failing, rowErrs := t.kettle.rowErrs }, wear := t.wear }

/-- BENCH_SUSPECT with cause 1 to 4 of a present bench that is not suspect: the bench is put into reset, suspect and its cause
are written to the repair log or wait for the rails, and the bench is suspect from then on. Where no drain is in force one of
cause 1 starts and posts DRAIN_STARTED, sessions parking as it says; a drain in force of another cause takes cause 1 and
posts DRAIN_STARTED; one of cause 1 stays as it is. Before the first commit and under a die reset DRAIN_STARTED is owed
instead. A bench already suspect changes nothing but that the faces grant requests that wait. SVC_DRAIN_CANCEL of a drain of
cause 1 only sets cancel_refused. -/
def Obligations.SuspectBenchIsHeldAndDrains : Prop :=
  ∀ (s : State) (b cause : Nat), s.alive = true → s.benchPresent b = true → s.sized → 1 ≤ cause → cause ≤ 4 →
    (s.suspect b = false →
      ∃ u : State, exec (.benchSuspect b cause) s = .next (pump (u.startDrain 1)) ∧ (u.bench b).reset = true ∧
        .suspectBench b cause ∈ u.repairs ∧ u.suspect b = true ∧
        let owed := !u.cfg.committed || u.rstDie.isSome
        let started := fun (x : State) => if owed then x else x.dieEvent x.enabledParts 0x0013 1 0
        (u.drain.inForce = false →
          u.startDrain 1 = (started { u with drain := { inForce := true, cause := 1, owed := owed, refused := u.drain.refused, ack := u.drain.ack } }).drainParks) ∧
        (u.drain.inForce = true → u.drain.cause ≠ 1 →
          u.startDrain 1 = started { u with drain := { u.drain with cause := 1, owed := u.drain.owed || owed } } ∧
          (u.startDrain 1).drain.inForce = true ∧ (u.startDrain 1).drain.cause = 1) ∧
        (u.drain.inForce = true → u.drain.cause = 1 → u.startDrain 1 = u)) ∧
    (s.suspect b = true → exec (.benchSuspect b cause) s = .next (pump s)) ∧
    (∀ t : State, t.drain.inForce = true → t.drain.cause = 1 →
      exec .svcDrainCancel t = .next { t with drain := { t.drain with refused := true } })

/-- DRAIN_DONE in an announced drain with no order live, no session steeping or warming, no migration and no die reset pending
lights blue and posts DRAIN_DONE once to every enabled partition. BLUE_TIMEOUT lights blue in an announced drain that is not
acknowledged. SVC_DRAIN_ACK acknowledges a drain in force. SVC_DRAIN_CANCEL ends a drain of cause 0 or 2 and, of cause 1,
only sets cancel_refused. Each leaves all but the drain, the event and the grants of the faces as it was. -/
def Obligations.DrainsEndAndShow : Prop :=
  ∀ s : State, s.drain.inForce = true →
    (s.drain.owed = false → s.drain.done = false → s.rstDie = none → s.orders = [] → s.mig.phase = 0 →
      (∀ c ∈ s.ctxs, c.state ≠ .steeping ∧ c.state ≠ .warming) →
      exec .drainDone s = .next (pump ({ s with drain := { s.drain with done := true, blue := true } }.dieEvent s.enabledParts 0x0014 0 0))) ∧
    (s.drain.owed = false → s.drain.ack = false →
      exec .blueTimeout s = .next { s with drain := { s.drain with blue := true } }) ∧
    (s.drain.ack = true → exec .blueTimeout s = .next s) ∧
    exec .svcDrainAck s = .next { s with drain := { s.drain with ack := true } } ∧
    (s.drain.cause ≠ 1 → exec .svcDrainCancel s = .next { s with drain := { refused := s.drain.refused } }) ∧
    (s.drain.cause = 1 → exec .svcDrainCancel s = .next { s with drain := { s.drain with refused := true } })

/-- DIE_RESET_ERROR with a structure code from 1 to 8, and DIE_RESET_REQUEST with code 0, start the sequence unless one is under
way: DIE_RESET_PENDING goes to every enabled partition and the Kettle log. DIE_RESET, once that is acknowledged on every face
that is up and no switch of the core or control domain hangs, clears every order, session, ring, partition, bench,
translation and the configuration, zeroes the core-cycle count, records the code unless it was requested, starts the drain of
cause 1 again while the repair log holds suspect, else ends a drain at a reset that an error in a structure forces and lets
one of cause 0 or 2 outlast any other (which of the rows goes before which is the model's reading, log 32), and keeps fuses,
powered time, crystals, CLK_PLAN_HELD and, in its place, every entry of the repair log. -/
def Obligations.DieResetRunsItsSteps : Prop :=
  ∀ s : State,
    (s.rstDie = none → s.panel.pwrGood = true →
      (∀ code, 1 ≤ code → code ≤ 8 → exec (.dieResetError code) s = .next (pump
        ((s.enabledParts.foldl (fun (x : State) p => x.pendingTo code p) { s with rstDie := some ⟨code, false⟩ }).klog 0x0015 code 0))) ∧
      exec .dieResetRequest s = .next (pump
        ((s.enabledParts.foldl (fun (x : State) p => x.pendingTo 0 p) { s with rstDie := some ⟨0, true⟩ }).klog 0x0015 0 0))) ∧
    (∀ r, s.rstDie = some r → s.pendingUnacked = false → (∀ x ∈ s.clk.switching, 1 < x.1) →
      s.kettle.failing = [] →
      ∃ t, exec .dieReset s = .next t ∧ t.rstDie = none ∧ t.orders = [] ∧ t.ctxs = [] ∧ t.parts = State.reset.parts ∧
        t.benches = State.reset.benches ∧ t.cfg = {} ∧ t.reads = [] ∧ t.writes = [] ∧ t.ranges = [] ∧ t.walks = [] ∧
        t.clk.count = 0 ∧ t.clk.xaStable = s.clk.xaStable ∧ t.clk.heldDepth = s.clk.heldDepth ∧ t.wear = s.wear ∧ t.log = s.log ∧
        t.fuses = s.fuses ∧
        (logSuspect s.repairs = true → t.drain.inForce = true ∧ t.drain.cause = 1 ∧ t.drain.owed = true) ∧
        (logSuspect s.repairs = false → t.drain = if s.drain.cause = 1 ∨ (r.requested = false ∧ r.code ≤ 6) then { refused := s.drain.refused } else s.drain) ∧
        t.rstLast = (if r.requested then 2 else 1) ∧
        (r.requested = true → t.ints.lastCount = s.ints.lastCount ∧ t.ints.lastCode = s.ints.lastCode) ∧
        (r.requested = false → t.ints.lastCount = min 0xFFFF (s.ints.lastCount + 1) ∧ t.ints.lastCode = r.code))

/-- BENCH_RESET by the primary, outside a die reset, puts each present bench of the mask into reset in ascending order, and the
faces then grant requests that wait. Putting bench b into reset gives up a test of it; ends every order with work on it whose
status was not decided with ABORTED and detail b; parks every session whose home it was; writes out its write-combining
buffer and leaves its Chest, Saucer, merge buffer, resident sets, loaded block, array, operand memory and accumulator places
empty; lets waiting sessions have the slots; and leaves the bench in reset. BENCH_RESET_DONE, once no order has work on the
bench any more, takes it out of reset; before, it changes nothing. -/
def Obligations.BenchResetStopsItsWork : Prop :=
  ∀ s : State,
    (∀ mask, s.rstDie = none →
      exec (.benchReset mask) s = .next (pump (((setBits mask).filter s.benchPresent).foldl (fun x b => x.putReset b) s))) ∧
    (∀ b, b < 8 → s.sized →
      let a := s.abortTest b
      ∃ e h z : State,
        e = (a.orders.filter (fun o => a.losesBench o b && o.status.isNone)).foldl (fun x o => x.endOrder o.id 0x31 b) a ∧
        (∀ o ∈ a.orders, a.losesBench o b = true → (∀ x ∈ a.orders, x.id = o.id → x.status = none) →
          ∀ x ∈ e.orders, x.id = o.id → x.status = some (0x31, b) ∧ x.phase = .ending) ∧
        h = (e.ctxs.filter (fun c => c.home == b && c.state != .parked)).foldl (fun x c => x.benchSession b c) e ∧
        (∀ c ∈ h.ctxs, c.home = b → c.state = .parked) ∧
        z = ({ h.flushWc b with orders := (h.flushWc b).orders.map (fun (o : Order) => o.clearBench b) }).upBench b
          (fun x => { x.emptied with array := none, power := .running }) ∧
        (let x := z.bench b
         x.chest = [] ∧ x.plru = [] ∧ x.saucer = [] ∧ x.wc = [] ∧ x.residents = [] ∧ x.loaded = none ∧ x.array = none ∧ x.power = .running) ∧
        (∀ o ∈ z.orders, (∀ q ∈ o.queries, q.1 ≠ b) ∧ b ∉ o.rooms) ∧
        s.putReset b = ((z.enabledParts.foldl (fun x p => x.serve p) z).settleEnded).upBench b (fun x => { x with reset := true }) ∧
        ((s.putReset b).bench b).reset = true) ∧
    (∀ b, b < s.benches.length →
      ((s.bench b).reset = true → (∀ o ∈ s.orders, o.onBench b = false) →
        ∃ u, exec (.benchResetDone b) s = .next (u.enabledParts.foldl (fun x p => x.serve p) u) ∧
          u = s.upBench b (fun x => { x with reset := false })) ∧
      ((∃ o ∈ s.orders, o.onBench b = true) → exec (.benchResetDone b) s = .next s))

/-- CONTEXT_ECC_ERROR of a session ends every live order of it with POISONED unless its status was decided, sets poisoned, frees
the slot and lets waiting sessions have it. Of no session it changes nothing. That it also ends a release in progress, and so
the PARK orders that wait for it, is the model's choice (log 39); a Cupboard context is no bench store, so INT_UNCORRECTED is
not counted (log 44). -/
def Obligations.ContextErrorPoisonsTheSession : Prop :=
  ∀ (s : State) (p n : Nat),
    ((s.ctx? p n).isSome →
      ∃ u v : State, u = (s.sessionOrders p n).foldl (fun x o => x.endOrder o.id 0x10 0) s ∧
        v = u.upCtx p n (fun c => { c with poisoned := true, haltedOrder := false, preemptOrder := none, accSaved := false, releasing := false }) ∧
        exec (.contextEccError p n) s = .next ((v.dropSlot p n).serve p)) ∧
    (s.ctx? p n = none → exec (.contextEccError p n) s = .next s)

/-- On a running Kettle ATTN_PRESS releases the button and starts the status display; ATTN_HOLD_3S starts a drain of cause 0
where none is in force, and is only a held button otherwise; ATTN_HOLD_10S that began in a drain with blue dark lights blue
and sets forced_blue, and is only a held button otherwise; STATUS_DISPLAY_END ends the display. Nothing else changes, but
that the faces grant requests that wait after a hold of 3 s. That attn goes false at a press, is true after a hold, and that
the run of equal samples begins again with both, is the model's reading (log 32). -/
def Obligations.AttentionButtonActs : Prop :=
  ∀ s : State, s.alive = true →
    let held := s.upPanel (fun p => { p with attn := true, attnSame := 0 })
    exec .attnPress s = .next (s.upPanel (fun p => { p with attn := false, attnSame := 0, statusDisplay := true })) ∧
    exec .statusDisplayEnd s = .next (s.upPanel (fun p => { p with statusDisplay := false })) ∧
    (s.drain.inForce = true → exec .attnHold3s s = .next (pump held)) ∧
    (s.drain.inForce = false → exec .attnHold3s s = .next (pump (held.startDrain 0))) ∧
    (∀ began, s.drain.inForce = true ∧ began = true ∧ s.drain.blue = false → exec (.attnHold10s began) s =
      .next (held.upDrain (fun d => { d with blue := true, forcedBlue := true }))) ∧
    (∀ began, ¬(s.drain.inForce = true ∧ began = true ∧ s.drain.blue = false) → exec (.attnHold10s began) s = .next held)

/-- CABLE_PRESENT of an absent cable on a running Kettle connects Yelir, which says its banner and a prompt. CABLE_REMOVED
disconnects it, discards the line and ends the running command; a poke that was issued is not recalled. MON_UNLOCK with the
key takes the bit and the minutes, and without it is ignored. MON_UNLOCK_EXPIRE of a bounded unlock locks again. MON_UART
takes codes 0 to 5 and ignores others. BOUNDARY_SCAN moves the port and the model's next number alone: BYPASS shifts a bit,
PRELOAD loads the boundary register, EXTEST has it drive the trip, the lamps and UART_TX, and SAMPLE captures the nine
service signals, PWR_GOOD high when good and THERM_TRIP_N, ATTN_N, CABLE_PRES_N and the lamps low when asserted or lit; a
lamp that blinks and the serial line have free levels. The order of the register's bits and what each instruction leaves is
the model's choice (log 13). -/
def Obligations.ServicePortsAct : Prop :=
  ∀ s : State,
    (s.alive = true → s.panel.cable = false → ∃ t, exec .cablePresent s = .next t ∧ t.panel.cable = true ∧ t.mon.connected = true ∧
      t.mon.line = [] ∧ t.mon.out = [.banner, .prompt] ∧ t.mon.running = s.mon.running ∧ t.mon.unlocked = s.mon.unlocked ∧
      t = { s with panel := t.panel, mon := t.mon }) ∧
    (s.panel.cable = true → ∃ t, exec .cableRemoved s = .next t ∧ t.panel.cable = false ∧ t.mon.connected = false ∧ t.mon.line = [] ∧
      t.mon.running = false ∧ t.mon.unlocked = s.mon.unlocked ∧ t.mon.minutes = s.mon.minutes ∧
      (∀ n ∈ s.narrows, n.write.isSome → n.issued = true → ∃ m ∈ t.narrows, m.tag = n.tag ∧ m.addr = n.addr ∧ m.write = n.write) ∧
      t = { s with panel := t.panel, mon := t.mon, narrows := t.narrows }) ∧
    (∀ v : Word, exec (.monUnlock v) s = .next (if v.extractLsb 31 24 = 0xA5#8 then s.upMon (fun m =>
      { m with unlocked := v.toNat.testBit 0, minutes := (v.extractLsb 15 8).toNat, minuteMs := 0 }) else s)) ∧
    (s.mon.unlocked = true → s.mon.minutes ≠ 0 →
      exec .monUnlockExpire s = .next (s.upMon (fun m => { m with unlocked := false, minutes := 0, minuteMs := 0 }))) ∧
    (s.mon.unlocked = true → s.mon.minutes = 0 → exec .monUnlockExpire s = .next s) ∧
    (∀ r, exec (.monUart r) s = .next (if r ≤ 5 then s.upMon (fun m => { m with rate := r }) else s)) ∧
    (∀ v, exec (.boundaryScan 0 v) s = .next { s with nextId := s.nextId + 1, tap := { s.tap with op := 0, bypass := v.testBit 0, driving := false } } ∧
      exec (.boundaryScan 2 v) s = .next { s with nextId := s.nextId + 1, tap := { s.tap with op := 2, boundary := v, driving := false } } ∧
      (∃ u, exec (.boundaryScan 3 v) s = .next u ∧ u = { s with nextId := s.nextId + 1, tap := { s.tap with op := 3, driving := true } } ∧
        ∀ n, n = 1 ∨ (4 ≤ n ∧ n ≤ 7) → u.serviceSignals.testBit n = s.tap.boundary.testBit n) ∧
      ∃ b, exec (.boundaryScan 1 v) s = .next { s with nextId := s.nextId + 1, tap := { s.tap with op := 1, boundary := b, driving := false } } ∧
        b < 2 ^ 9 ∧ b.testBit 0 = s.panel.pwrGood ∧ b.testBit 1 = !s.panel.tripN ∧ b.testBit 2 = !s.panel.attn ∧ b.testBit 3 = !s.panel.cable ∧
        (s.lamps.1 = 0 → b.testBit 4 = true) ∧ (s.lamps.1 = 1 → b.testBit 4 = false) ∧
        (s.lamps.2.1 = 0 → b.testBit 5 = true) ∧ (s.lamps.2.1 = 1 → b.testBit 5 = false) ∧ b.testBit 6 = !s.lamps.2.2)

/-- YELIR_CHAR of the printable characters of a line and of the CR, or LF, that ends it, on a connected Yelir that runs nothing
and has an empty line, echoes every one. A line of more than 128 characters, and one that spells no command, then answers err
1 with the word syntax; an empty line answers a prompt; and a line that spells a command gives the state that the command
itself gives. The words of R410, separated by spaces, spell the commands, with numbers in decimal or, after 0x, in
hexadecimal. An LF after a CR is echoed and no more; characters 8 and 127 take the last character back; characters while a
command runs are discarded. YELIR_BREAK, and the character 3, end a peek that runs with what it has read, and no other
command. -/
def Obligations.LinesRunTheirCommands : Prop :=
  (∀ (s : State) (l : List Nat) (e : Nat), s.alive = true → s.mon.connected = true → s.mon.running = false → s.mon.line = [] →
    s.mon.tooLong = false → (∀ c ∈ l, 32 ≤ c ∧ c ≤ 126) → e = 13 ∨ (e = 10 ∧ (s.mon.sawCr = false ∨ l ≠ [])) →
    let u := s.upMon (fun m => { m with out := m.out ++ l.map YOut.echo ++ [.echo e], sawCr := decide (e = 13) })
    let run := execAll (l.map Instr.yelirChar ++ [.yelirChar e]) s
    (128 < l.length → run = some (u.upMon (fun m => { m with out := m.out ++ [.err 1 [115, 121, 110, 116, 97, 120], .prompt] }))) ∧
    (l.length ≤ 128 → tokens l = [] → run = some (u.upMon (fun m => { m with out := m.out ++ [.prompt] }))) ∧
    (l.length ≤ 128 → tokens l ≠ [] → parseCmd (tokens l) = none →
      run = some (u.upMon (fun m => { m with out := m.out ++ [.err 1 [115, 121, 110, 116, 97, 120], .prompt] }))) ∧
    (∀ c, l.length ≤ 128 → parseCmd (tokens l) = some c → ∃ t, run = some t ∧
      exec (match c with
        | .id => .yId | .peek a n => .yPeek a n | .poke a v => .yPoke a v | .cupboard x => .yCupboard x | .wear => .yWear
        | .temps => .yTemps | .clocks => .yClocks | .events n => .yEvents n | .cutlist => .yCutlist | .selftest b => .ySelftest b
        | .drainStatus => .yDrainStatus | .drainStart => .yDrainStart | .drainCancel => .yDrainCancel | .drainReset => .yDrainReset) u =
          .next t)) ∧
  (parseCmd [wordId] = some .id ∧ parseCmd [wordWear] = some .wear ∧ parseCmd [wordTemps] = some .temps ∧ parseCmd [wordClocks] = some .clocks ∧
    parseCmd [wordCutlist] = some .cutlist ∧ parseCmd [wordCupboard] = some (.cupboard none) ∧ parseCmd [wordEvents] = some (.events none) ∧
    parseCmd [wordSelftest] = some (.selftest none) ∧ parseCmd [wordDrain] = some .drainStatus ∧
    parseCmd [wordDrain, wordStatus] = some .drainStatus ∧ parseCmd [wordDrain, wordStart] = some .drainStart ∧
    parseCmd [wordDrain, wordCancel] = some .drainCancel ∧ parseCmd [wordDrain, wordReset] = some .drainReset ∧
    (∀ x a, number x = some a → parseCmd [wordPeek, x] = some (.peek a 1) ∧ parseCmd [wordEvents, x] = some (.events (some a)) ∧
      parseCmd [wordSelftest, x] = some (.selftest (some a))) ∧
    (∀ x y a b, number x = some a → number y = some b → parseCmd [wordPeek, x, y] = some (.peek a b) ∧
      parseCmd [wordPoke, x, y] = some (.poke a b) ∧ parseCmd [wordCupboard, x, y] = some (.cupboard (some (a, b)))) ∧
    (∀ w r, w ≠ [] → 32 ∉ w → tokens w = [w] ∧ tokens (32 :: r) = tokens r ∧ tokens (w ++ 32 :: r) = w :: tokens r) ∧
    (∀ ds, ds ≠ [] → (∀ d ∈ ds, d < 10) → number (ds.map (48 + ·)) = some (ds.foldl (fun v d => v * 10 + d) 0)) ∧
    (∀ ds, ds ≠ [] → (∀ d ∈ ds, d < 16) →
      number (48 :: 120 :: ds.map (fun d => if d < 10 then 48 + d else 87 + d)) = some (ds.foldl (fun v d => v * 16 + d) 0))) ∧
  (∀ s : State, s.alive = true → s.mon.connected = true →
    (s.mon.running = false → ∀ c, c = 8 ∨ c = 127 → exec (.yelirChar c) s =
      .next (s.upMon (fun m => { m with out := m.out ++ [.echo c], line := m.line.dropLast, sawCr := false }))) ∧
    (s.mon.running = false → s.mon.sawCr = true →
      exec (.yelirChar 10) s = .next (s.upMon (fun m => { m with out := m.out ++ [.echo 10], sawCr := false }))) ∧
    (s.mon.running = true → ∀ c, c ≠ 3 → exec (.yelirChar c) s = .next (s.upMon (fun m => { m with sawCr := false }))) ∧
    (s.mon.running = true → s.mon.runCmd = 2 → ∃ t, exec .yelirBreak s = .next t ∧ exec (.yelirChar 3) s = .next t ∧
      t.mon = { s.mon with running := false, runGot := [], runLeft := 0, out := s.mon.out ++ [.reply 2 s.mon.runGot, .ok, .prompt] } ∧
      t = { s with mon := t.mon, narrows := t.narrows }) ∧
    (s.mon.running = false ∨ s.mon.runCmd ≠ 2 → exec .yelirBreak s = .next s))

/-- ID, CUPBOARD, WEAR, TEMPS, CLOCKS, EVENTS, CUTLIST, SELFTEST without a bench and DRAIN_STATUS, taken by a connected Yelir
that runs nothing, answer their values, ok and a prompt, and count one command. CUPBOARD needs the unlock, and with arguments
a session that exists, else the answers are err 2 and err 6; EVENTS takes 1 to 64, else err 3. Nothing outside the monitor
changes, but that the faces grant requests that wait. -/
def Obligations.ReadCommandsReply : Prop :=
  ∀ s : State, s.yReady = true →
    let reply := fun (k : Nat) (vs : List Nat) => pump (s.upMon (fun m =>
      { m with commands := min 0xFFFF (m.commands + 1), out := m.out ++ [.reply k vs, .ok, .prompt] }))
    let err := fun (e : Nat) => pump (s.upMon (fun m => { m with out := m.out ++ [.err e (errWord e), .prompt] }))
    exec .yId s = .next (reply 1 [s.variant.code, s.fuses.major, s.fuses.minor, (hkReg s 0).getD 0, s.fuses.fwMajor, s.fuses.fwMinor,
      s.cfg.imageId, s.cfg.epoch, s.wear.seconds / 3600, if s.mon.unlocked then 1 else 0]) ∧
    (∀ a, s.mon.unlocked = false → exec (.yCupboard a) s = .next (err 2)) ∧
    (s.mon.unlocked = true → exec (.yCupboard none) s = .next (reply 4
      ((16384 - (s.repairs.filter (fun e => match e with | .withdrawn _ => true | _ => false)).length) :: (List.range s.maxParts).flatMap (fun p =>
        [(s.ctxs.filter (fun c => c.p == p)).length, (s.ctxs.filter (fun c => c.p == p && (c.state == .warming || c.state == .steeping))).length])))) ∧
    (∀ p n c, s.mon.unlocked = true → s.ctx? p n = some c → exec (.yCupboard (some (p, n))) s = .next (reply 4 [s.contextBytes c])) ∧
    (∀ p n, s.mon.unlocked = true → s.ctx? p n = none → exec (.yCupboard (some (p, n))) s = .next (err 6)) ∧
    (exec .yWear s = .next (reply 5 ([s.wear.ageing, s.wear.spares, s.wear.lanes, s.wear.thermal, s.wear.index, s.wear.life,
      s.wear.lower, s.wear.upper, s.wear.conf, s.wear.seconds / 3600] ++
      (List.range s.variant.benchCount).flatMap (fun b => [popcount (retiredMask s.repairs b), remapCount s.repairs b])))) ∧
    exec .yTemps s = .next (reply 6 ((List.range 32).map (fun n => toTwos 16 (s.temp n)) ++ s.kettle.level ++
      [s.kettle.power, s.kettle.cap, if s.kettle.trip then 1 else 0])) ∧
    exec .yClocks s = .next (reply 7 [s.clk.status, s.clk.planHeld]) ∧
    (∀ n : Option Nat, 1 ≤ n.getD 16 → n.getD 16 ≤ 64 → exec (.yEvents n) s =
      .next (reply 8 ((s.kettle.log.take (n.getD 16)).reverse.flatMap (fun e => [e.secs, e.code, e.arg0, e.arg1])))) ∧
    (∀ n : Option Nat, n.getD 16 = 0 ∨ 64 < n.getD 16 → exec (.yEvents n) s = .next (err 3)) ∧
    (exec .yCutlist s = .next (reply 9 ([s.cfg.imageId, s.cfg.epoch, s.cfg.oldest,
      if s.cfg.txn.state = .idle then 0xFF else s.cfg.txn.owner, s.cfg.txn.state.code] ++
      s.enabledParts.flatMap (fun p => [p, (s.pe p).benchMask, s.hostFace p])))) ∧
    (exec (.ySelftest none) s = .next (reply 10 (s.selftestWord ::
      (List.range s.variant.benchCount).map (fun b => (s.wear.seconds - s.kettle.tested.getD b 0) / 3600)))) ∧
    exec .yDrainStatus s = .next (reply 11 [if s.drain.inForce then 1 else 0, if s.drain.inForce then s.drain.cause else 0xF,
      if s.drain.ack then 1 else 0, s.drain.ms / 1000, s.lamps.1, s.lamps.2.1, if s.lamps.2.2 then 1 else 0])

/-- PEEK, POKE, SELFTEST with a bench, DRAIN_START, DRAIN_CANCEL and DRAIN_RESET of a locked Yelir answer err 2 and change
nothing else. Unlocked, the three drain commands and a test of a free bench are counted, entered in the Kettle log with the
command and address 0, and do what the panel, the cancel, the reset request and a self-test do; the answer is ok. PEEK and
POKE of addresses out of range answer err 3; in range the command runs and its first narrow access starts; a PEEK is counted
then. -/
def Obligations.WriteCommandsNeedTheUnlock : Prop :=
  ∀ s : State, s.yReady = true →
    (s.mon.unlocked = false → ∀ c : Instr, ((∃ a w, c = .yPeek a w) ∨ (∃ a v, c = .yPoke a v) ∨ (∃ b, c = .ySelftest (some b)) ∨
      c = .yDrainStart ∨ c = .yDrainCancel ∨ c = .yDrainReset) → exec c s = .next (pump (s.upMon (fun m => { m with out := m.out ++ [.err 2 (errWord 2), .prompt] })))) ∧
    (s.mon.unlocked = true →
      ∃ w : Nat → Nat → State,
        (∀ k a, w k a = (s.upMon (fun m => { m with commands := min 0xFFFF (m.commands + 1), writes := min 255 (m.writes + 1) })).upKettle
          (fun x => { x with log := (⟨s.wear.seconds, 0x0102, Config.klogArg 0x0102 k 0, a⟩ :: x.log).take 256 })) ∧
        exec .yDrainStart s = .next (pump ((w 12 0).startDrain 2).sayOk) ∧
        exec .yDrainCancel s = .next (pump (w 13 0).cancelDrain.sayOk) ∧
        (s.rstDie = none → exec .yDrainReset s = .next (pump ((w 14 0).beginReset 0 true).sayOk)) ∧
        (s.rstDie.isSome → exec .yDrainReset s = .next (pump (s.sayErr 4))) ∧
        (∀ b, s.benchPresent b = false → exec (.ySelftest (some b)) s = .next (pump (s.sayErr 6))) ∧
        (∀ b, s.benchPresent b = true → s.mayTest = true → (s.bench b).reset = false → (s.ownerOf b).isSome = true ∧ s.benchBusy b = false →
          exec (.ySelftest (some b)) s = .next (pump ((w 10 0).startTest b).sayOk)) ∧
        (∀ a n, (n = 0 ∨ 64 < n ∨ a % 8 ≠ 0 ∨ 2 ^ 48 ≤ a) → exec (.yPeek a n) s = .next (pump (s.sayErr 3))) ∧
        (∀ a v, a % 8 ≠ 0 ∨ 2 ^ 48 ≤ a → exec (.yPoke a v) s = .next (pump (s.sayErr 3))) ∧
        (∀ a n, 1 ≤ n → n ≤ 64 → (∀ i, i < n → s.narrowOk (a + 8 * i) = true) → s.rstDie = none → exec (.yPeek a n) s =
          .next (pump ((s.upMon (fun m => { m with commands := min 0xFFFF (m.commands + 1), running := true, runCmd := 2, runGot := [], runLeft := n })).startNarrow a none))) ∧
        (∀ a v, s.narrowOk a = true → v < 2 ^ 64 → s.rstDie = none → exec (.yPoke a v) s =
          .next (pump ((s.upMon (fun m => { m with running := true, runCmd := 3, runGot := [], runLeft := 1 })).startNarrow a (some v)))))

/-- The widths of a module are those of the failed lanes that TRAINING_DONE brings, and the retraining at half counts as a
retrain: log 54 (DEDUCED, DESIGN CHOICE). An order that comes to need a face after its loss ends when the command is given
again: log 35. -/
def Obligations.ModulesRetrainAndTrain : Prop :=
  ∀ (s : State) (f m : Nat), s.sized →
    let x := s.modl f m
    let others := fun (t : State) => ∀ g n, g ≠ f ∨ n ≠ m → (t.modl g n).width = (s.modl g n).width
    let settled := fun (t : State) => (List.range 16).foldl (fun (y : State) e => y.slowed e (((List.range 16).map s.level).getD e 0)) t
    (s.modPresent f m = true → x.state = .inService → ∃ r q : State,
      (r.modl f m).width = (.training, x.lanes, x.half, x.repaired, min 255 (x.retrains + 1), x.trained, 0) ∧ others r ∧
      (∀ y ∈ r.reads, y.face = f → y.modl ≠ some m) ∧ (∀ y ∈ r.writes, y.face = f → y.modl ≠ some m) ∧
      (∀ y ∈ s.reads, y.face = f → y.modl = some m → ∃ z ∈ r.reads, z.id = y.id ∧ z.nth = y.nth ∧ z.line = y.line ∧ z.lines = y.lines ∧
        z.left = List.range y.lines ∧ z.modl = none) ∧
      (∀ y ∈ s.writes, y.face = f → y.modl = some m → { y with modl := none } ∈ r.writes) ∧
      (∀ y ∈ s.narrows, y.face = f → y.modl = some m → { y with modl := none, old := false } ∈ r.narrows) ∧
      q = (x.txCtl.map Prod.snd ++ x.txMsgs.filter Msg.isControl).foldl (fun (y : State) c => y.queueMsg f (((y.face f).lowest).getD 0) c)
        (r.resend f).pumpNarrow ∧
      (q.modl f m).width = (r.modl f m).width ∧ others q ∧
      ((∃ n, n ≠ m ∧ (s.modl f n).slots ≠ 0) ∨ (s.face f).downPosted = true → exec (.linkDown f m) s = .next (pump (settled q))) ∧
      ((∀ n, n ≠ m → (s.modl f n).slots = 0) → (s.face f).downPosted = false → ∃ t : State,
        exec (.linkDown f m) s = .next t ∧
        t = pump (settled ((q.upFace f (fun y => { y with downPosted := true, lost := false })).dieEvent (q.partsBehind f) 0x0010 f 0)) ∧
        (t.modl f m).state = .training ∧ others t ∧ (t.face f).up = false ∧ (t.face f).downPosted = true ∧
        t.kettle.log.head? = some ⟨q.wear.seconds, 0x0010, f, 0⟩)) ∧
    (s.modPresent f m = true → x.state = .down → x.trained = true → exec (.linkDown f m) s =
      .next (pump (s.upMod f m (fun y => { y with state := .training, retrains := min 255 (y.retrains + 1) })))) ∧
    (s.modPresent f m = false ∨ x.state = .training ∨ x.state = .held ∨ (x.state = .down ∧ x.trained = false) →
      exec (.linkDown f m) s = .next (pump s)) ∧
    (m < 6 → exec (.retrain f (2 ^ m)) s = exec (.linkDown f m) s) ∧ exec (.retrain f 0) s = .next (pump s) ∧
    (∀ (lowerIn upperIn far lowerOut upperOut : Nat) (fast : Bool),
      let failIn := laneMask lowerIn upperIn
      let failOut := laneMask lowerOut upperOut
      let own := ownHalf failIn failOut x.limit
      let rep := (max (halfSpares failIn 0) (halfSpares failOut 0), max (halfSpares failIn 1) (halfSpares failOut 1))
      let half := if own = far then own else 3
      let lanes := if half = 0 then 64 else if half = 3 then 0 else 32
      let orphans := fun (y : State) => if (s.face f).up = false ∧ (y.face f).up = true then (List.range 8).foldl State.pumpOrphans y else y
      (s.modPresent f m = false → exec (.trainingDone f m lowerIn upperIn far lowerOut upperOut fast) s = .next (pump s)) ∧
      (s.modPresent f m = true → x.state = .down ∨ x.state = .inService → ∃ t, exec (.trainingDone f m lowerIn upperIn far lowerOut upperOut fast) s = .next t ∧
        t.wear = { s.wear with spares := t.wear.spares, lanes := t.wear.lanes } ∧ ∀ g n, (t.modl g n).width = (s.modl g n).width) ∧
      (s.modPresent f m = true → x.state = .training ∨ x.state = .held →
        (own = 0 → far = 1 ∨ far = 2 → ∃ t, exec (.trainingDone f m lowerIn upperIn far lowerOut upperOut fast) s = .next t ∧ others t ∧
          (t.modl f m).width = (.training, x.lanes, x.half, rep, min 255 (x.retrains + 1), x.trained, far)) ∧
        (far = 0 → own = 1 ∨ own = 2 → ∃ t, exec (.trainingDone f m lowerIn upperIn far lowerOut upperOut fast) s = .next t ∧ others t ∧
          (t.modl f m).width = (.held, x.lanes, x.half, rep, x.retrains, x.trained, x.limit)) ∧
        (¬ (own = 0 ∧ (far = 1 ∨ far = 2)) → ¬ (far = 0 ∧ (own = 1 ∨ own = 2)) → ∃ u v w : State,
          (u.modl f m).width = (if lanes = 0 then .down else .inService, lanes, half, rep, x.retrains, true, 0) ∧ others u ∧
          (u.face f).fast = (if (s.face f).up then (s.face f).fast else fast && (decide (f = 0) || s.clk.runFace.testBit f)) ∧
          v = (if lanes ≠ (if x.trained then x.lanes else 64) ∧ (u.face f).up then u.dieEvent (u.degradedTo f) 0x000F (f * 256 + m) lanes else u) ∧
          ((s.face f).up = true ∨ (v.face f).up = false → w = pump v) ∧
          ((s.face f).up = false → (v.face f).up = true → ∃ y z : State,
            y = (pump ((v.upFace f (fun y => { y with regSeq := 0, lost := false, downPosted := false, oldWrites := [] })).resend f)).pumpNarrow ∧
            z = (if (s.face f).downPosted then y.dieEvent (y.partsBehind f) 0x0011 f 0 else y) ∧
            (z.modl f m).width = (u.modl f m).width ∧ others z ∧ (z.face f).up = true ∧ (z.face f).lost = false ∧ (z.face f).downPosted = false ∧
            w = (z.partsBehind f).foldl (fun (y : State) p => (List.range 18).foldl (fun (y : State) i => y.pumpRing p (16 + i)) y) z) ∧
          exec (.trainingDone f m lowerIn upperIn far lowerOut upperOut fast) s = .next (pump (orphans (settled w).gauge))))) ∧
    ((s.face f).up = true → exec (.faceLostTimeout f) s = .next (pump s)) ∧
    ((s.face f).up = false → (s.face f).downPosted = false → exec (.faceLostTimeout f) s = .next (pump (s.narrowLost f))) ∧
    (f < 4 → (s.face f).up = false → (s.face f).downPosted = true → ∃ e d : State,
      (∀ i ∈ s.needing f, ∀ o ∈ s.orders, o.id = i → (∀ y ∈ s.orders, y.id = i → y.status = none) →
        ∃ y ∈ e.orders, y.id = i ∧ y.status = some (0x32, f) ∧ y.phase = .ending) ∧
      (∀ o ∈ s.orders, o.id ∉ s.needing f → o ∈ e.orders) ∧
      d = ((e.dropLost f ((e.orders.filter (fun o => o.status == some (0x32, f))).map Order.id)).dropBusy f).txnLost f ∧
      ((d.upFace f (fun y => { y with lost := true })).face f).lost = true ∧
      exec (.faceLostTimeout f) s = .next (pump ((((d.upFace f (fun y => { y with lost := true })).partsBehind f).foldl (fun (y : State) p =>
        ((List.range 16).filter (fun q => (y.sq p q).enabled)).foldl (fun (y : State) q => (y.ringError p q 5).quitReads (.ring p q)) y)
          (d.upFace f (fun y => { y with lost := true })).settleEnded).narrowLost f)))

/-- FLIT on a module out of service changes nothing but that the faces grant what waits. In service a wrong CRC discards the
flit, and a reserved field or kind is a protocol error. Else its acknowledgement is acted on first; a null flit and one out
of sequence go no further, and the next normal flit appends its 62 payload words to those that wait. Each message that stands
whole at their front, in the words of R356, is performed as the command of its message is. In the end one flit is sent: the
first of those that a nak asks for, with its own number and payload and replayed set, which counts a replay; else, where
something is ready and fewer than 256 flits wait for their acknowledgement, a normal flit with the next number, which is
kept; else a null flit, which is not. An acknowledgement frees the kept flits up to its number; a nak has those after it sent
again in order, and the eighth in a row with one number makes the module retrain. -/
def Obligations.FlitsCarryMessages : Prop :=
  ∀ (s : State) (f m : Nat),
    (∀ b : BitVec 2048, (s.modl f m).state ≠ .inService → exec (.flit f m b) s = .next (pump s)) ∧
    (∀ b : BitVec 2048, (s.modl f m).state = .inService →
      let v := b.toNat
      let good := crc32c (v % 2 ^ (8 * 252)) 252 = leAt v 252 4
      let a := s.ackNak f m (fld v 19 10) (v.testBit 20)
      (¬good → exec (.flit f m b) s = .next (pump ((s.discardFlit f m true).sendFlit f m))) ∧
      (good → (fld v 31 24 ≠ 0 ∨ 2 ≤ fld v 23 22) → exec (.flit f m b) s = .next (pump ((s.protocolError f m).sendFlit f m))) ∧
      (good → fld v 31 24 = 0 → fld v 23 22 < 2 → (a.modl f m).state ≠ .inService → exec (.flit f m b) s = .next (pump (a.sendFlit f m))) ∧
      (good → fld v 31 24 = 0 → fld v 23 22 = 1 → (a.modl f m).state = .inService → exec (.flit f m b) s = .next (pump (a.sendFlit f m))) ∧
      (good → fld v 31 24 = 0 → fld v 23 22 = 0 → (a.modl f m).state = .inService →
        (fld v 9 0 ≠ ((a.modl f m).rxSeq + 1) % 1024 → exec (.flit f m b) s = .next (pump ((a.discardFlit f m false).sendFlit f m))) ∧
        (fld v 9 0 = ((a.modl f m).rxSeq + 1) % 1024 →
          let u := a.upMod f m (fun y => { y with rxSeq := fld v 9 0, rxNak := false, rxWords := y.rxWords ++ wordsOf (v >>> 32) 62 })
          exec (.flit f m b) s = .next (pump ((u.takeMsgs f m ((u.modl f m).rxWords.length + 1)).sendFlit f m))))) ∧
    (∀ (x : InMsg) (rest : List Nat) (n : Nat), x.fits = true → (s.modl f m).state = .inService → (s.modl f m).rxWords = x.wire ++ rest →
      s.takeMsgs f m (n + 1) = State.takeMsgs ((s.upMod f m (fun y => { y with rxWords := rest })).receive f m x) f m n) ∧
    ((s.modl f m).state = .inService →
      let x := s.modl f m
      let y := (s.sendFlit f m).modl f m
      let ready := x.txWords ≠ [] ∨ (∃ o ∈ x.owed, o ≠ 0) ∨ (nextMsg x.txMsgs x.credits).isSome
      (∀ k ks, x.txAgain = k :: ks → y.txAgain = ks ∧ y.txKept = x.txKept ∧ y.txSeq = x.txSeq ∧ y.txMsgs = x.txMsgs ∧
        y.txLast = wordsOf (flitBits (flitHeader k.1 x.rxSeq x.rxNak true 0) k.2) 64 ∧
        ((s.sendFlit f m).face f).replays = min 0xFFFFFFFF ((s.face f).replays + 1)) ∧
      (x.txAgain = [] → ¬ready ∨ 256 ≤ x.txKept.length → y = { x with
        txLast := wordsOf (flitBits (flitHeader x.txSeq x.rxSeq x.rxNak false 1) (List.replicate 62 0)) 64 }) ∧
      (x.txAgain = [] → ready → x.txKept.length < 256 → ∃ payload : List Nat, payload.length = 62 ∧ y.txSeq = (x.txSeq + 1) % 1024 ∧
        y.txKept = x.txKept ++ [(y.txSeq, payload)] ∧
        y.txLast = wordsOf (flitBits (flitHeader y.txSeq x.rxSeq x.rxNak false 0) payload) 64)) ∧
    ((s.modl f m).state = .inService → ∀ (ack : Nat) (nak : Bool) (before after : List (Nat × List Nat)) (k : Nat × List Nat),
      let x := s.modl f m
      let y := (s.ackNak f m ack nak).modl f m
      x.txKept = before ++ k :: after → k.1 = ack → (∀ z ∈ before, z.1 ≠ ack) → (∀ z ∈ after, z.1 ≠ ack) →
        (nak = false → y.txKept = after ∧ y.nakRun = 0) ∧
        (nak = true → x.nakRun = 0 ∨ x.nakAck ≠ ack ∨ x.nakRun < 7 → y.txKept = after ∧ y.txAgain = after ∧ y.nakAck = ack ∧
          y.nakRun = if x.nakRun ≠ 0 ∧ x.nakAck = ack then x.nakRun + 1 else 1) ∧
        (nak = true → 7 ≤ x.nakRun → x.nakAck = ack → y.state = .training))

/-- A message command on a module out of service changes nothing, and one beyond the credits of its channel is a protocol error.
With credit, SNP queues its answer; CREDIT adds to the credits of the four channels, but is a protocol error where a channel
that has sent would pass what was advertised; THROTTLE before the first commit, or of an address in no window, is counted as
ignored, and else sets the rate fraction of the window, 0 as 1, and posts the changes of level. -/
def Obligations.MessagesTakeCredit : Prop :=
  ∀ (s : State) (f m x y z w : Nat) (value : Word) (line : Line),
    let msgs : List (Instr × Nat × Nat) := [(.regRd f m x y z, 0, 1), (.regWr f m x y z value, 0, 1), (.dataMsg f m x y z line, 0, 5), (.wack f m x y, 0, 1),
      (.throttle f m x y, 0, 1), (.snp f m x y, 1, 1), (.ndata f m x y z, 3, 1), (.nwack f m x y, 3, 1)]
    ((s.modl f m).state ≠ .inService → (∀ c ∈ msgs, exec c.1 s = .next (pump s)) ∧ exec (.credit f m x y z w) s = .next (pump s)) ∧
    ((s.modl f m).state = .inService → ∀ c ∈ msgs, (s.modl f m).avail.getD c.2.1 0 < c.2.2 → exec c.1 s = .next (pump (s.protocolError f m))) ∧
    ((s.modl f m).state = .inService → 1 ≤ (s.modl f m).avail.getD 1 0 → ∀ line tag,
      exec (.snp f m line tag) s = .next (pump ((s.usedBuffer f m 1 1).upMod f m (fun y => { y with txMsgs := y.txMsgs ++ [.snpRsp tag] })))) ∧
    ((s.modl f m).state = .inService → 1 ≤ (s.modl f m).avail.getD 0 0 → ∀ v addr,
      let u := s.usedBuffer f m 0 1
      (s.cfg.committed = false ∨ stackIx s.stacks addr = none → exec (.throttle f m v addr) s =
        .next (pump (u.upInts (fun i => { i with throttleIgnored := min 0xFFFF (i.throttleIgnored + 1) })))) ∧
      (∀ e, s.cfg.committed = true → stackIx s.stacks addr = some e → exec (.throttle f m v addr) s =
        .next (pump (u.withLevels (fun t => t.upWindow e (fun w => { w with v := max 1 v })))))) ∧
    ((s.modl f m).state = .inService → ∀ a b c d : Nat,
      let u := s.usedBuffer f m 0 0
      let got (i : Nat) : Nat := (u.modl f m).credits.getD i 0 + [a, b, c, d].getD i 0
      ((∃ i, i < 4 ∧ (u.modl f m).spent.getD i false = true ∧ (u.modl f m).advertised.getD i 0 < got i) →
        exec (.credit f m a b c d) s = .next (pump (u.protocolError f m))) ∧
      ((∀ i, i < 4 → (u.modl f m).spent.getD i false = true → got i ≤ (u.modl f m).advertised.getD i 0) →
        exec (.credit f m a b c d) s = .next (pump (u.upMod f m (fun y => { y with
          credits := (List.range 4).map got
          advertised := (List.range 4).map (fun i => if y.spent.getD i false then y.advertised.getD i 0 else got i) })))))

/-- On a module in service with credit: an answer whose tag no request of the module has, whose index is not outstanding, or
whose status is reserved, is a protocol error. DATA takes its index off the request, and the request off the list with the
last, counts a decode error or poison, hands the line to those who asked for it, and lets walks that wait begin. WACK takes
the write off, frees what it held back, and tells those it was made for that it is done, or lost with status 2. NDATA and
NWACK take the narrow access off; a monitor command that waits for it goes on or ends with ok, or with err 5, and a stale one
is forgotten. An answer to a write lets requests go that the slot table before held back. -/
def Obligations.AnswersFindTheirRequests : Prop :=
  ∀ (s : State) (f m tag : Nat), (s.modl f m).state = .inService →
    (5 ≤ (s.modl f m).avail.getD 0 0 → ∀ (index status : Nat) (line : Line),
      let u := s.usedBuffer f m 0 5
      let mine (r : ReadReq) : Bool := r.face == f && r.modl == some m && r.tag == tag
      (s.reads.find? mine = none → exec (.dataMsg f m tag index status line) s = .next (pump (u.protocolError f m))) ∧
      (∀ r, s.reads.find? mine = some r →
        (index ∉ r.left ∨ 2 < status → exec (.dataMsg f m tag index status line) s = .next (pump (u.protocolError f m))) ∧
        (index ∈ r.left → status ≤ 2 → ∃ v : State, exec (.dataMsg f m tag index status line) s =
            .next (pump (pump (((r.wants.filter (fun w => w.2 == index)).map Prod.fst).foldl
              (fun (x : State) c => x.handOver r c (r.line + index) line (status != 0)) v).grantWalks.settleEnded)) ∧
          v.reads = (if r.left.erase index = [] then s.reads.filter (fun x => x.id != r.id)
            else s.reads.map (fun x => if x.id = r.id then { x with left := r.left.erase index } else x)) ∧
          v = { s with reads := v.reads, ints := v.ints, faces := v.faces }))) ∧
    (1 ≤ (s.modl f m).avail.getD 0 0 → ∀ status,
      let u := s.usedBuffer f m 0 1
      let mine (w : WriteReq) : Bool := w.face == f && w.modl == some m && w.tag == tag
      (s.writes.find? mine = none → exec (.wack f m tag status) s = .next (pump (u.protocolError f m))) ∧
      (∀ w, s.writes.find? mine = some w →
        (status ≠ 0 → status ≠ 2 → exec (.wack f m tag status) s = .next (pump (u.protocolError f m))) ∧
        (status = 0 ∨ status = 2 → ∃ v : State, exec (.wack f m tag status) s =
            .next (pump (pump (if status = 2 then (v.writeLost w).settleEnded else w.owners.foldl (fun x y => x.ackFor w y) v)).pumpNarrow) ∧
          v.writes = s.writes.filter (fun x => x.id != w.id) ∧ v.benches = s.benches.map (fun (b : Bench) => b.acked w.id (s.nextOn w)) ∧
          v = { s with writes := v.writes, benches := v.benches, faces := v.faces }))) ∧
    (1 ≤ (s.modl f m).avail.getD 3 0 → ∀ (status value : Nat),
      let u := s.usedBuffer f m 3 1
      let mine (wr : Bool) (n : NarrowReq) : Bool := n.face == f && n.modl == some m && n.tag == tag && (n.write.isSome == wr)
      (s.narrows.find? (mine false) = none → exec (.ndata f m tag status value) s = .next (pump (u.protocolError f m))) ∧
      (s.narrows.find? (mine true) = none → exec (.nwack f m tag status) s = .next (pump (u.protocolError f m))) ∧
      (∀ n, s.narrows.find? (mine false) = some n → 2 < status → exec (.ndata f m tag status value) s = .next (pump (u.protocolError f m))) ∧
      (∀ n, s.narrows.find? (mine true) = some n → status ≠ 0 → status ≠ 2 → exec (.nwack f m tag status) s = .next (pump (u.protocolError f m))) ∧
      (∀ n, s.narrows.find? (mine false) = some n → status ≤ 2 → ∃ v : State, v.narrows = s.narrows.erase n ∧
        v = { s with narrows := v.narrows, faces := v.faces } ∧
        exec (.ndata f m tag status value) s = .next (pump (if n.stale then v else v.peekData status value))) ∧
      (∀ n, s.narrows.find? (mine true) = some n → status = 0 ∨ status = 2 → ∃ v : State, v.narrows = s.narrows.erase n ∧
        v = { s with narrows := v.narrows, faces := v.faces } ∧
        exec (.nwack f m tag status) s = .next (pump (pump (if n.stale then v else if status ≠ 0 then v.failRun 5 else
          v.upMon (fun x => { x with running := false, runGot := [], runLeft := 0, out := x.out ++ [.ok, .prompt] }))).pumpNarrow)))

/-- On a module in service with credit: REG_RD makes the read of the register and queues its value, in 32 bits, with the tag.
REG_WR with the next number makes the write and queues its acknowledgement; one of the 32,768 numbers before is acknowledged
again with no effect; a later one is a protocol error. LATCHED_LO_READ makes the read of a low word that latches, and of any
other offset changes nothing. -/
def Obligations.RegisterMessagesAreOrdered : Prop :=
  ∀ (s : State) (f m p off : Nat),
    ((s.modl f m).state = .inService → 1 ≤ (s.modl f m).avail.getD 0 0 →
      let u := s.usedBuffer f m 0 1
      let next := (u.face f).regSeq
      (∀ tag, exec (.regRd f m p off tag) s = .next (pump ((u.regRead f p off).queueMsg f m (.regData tag (BitVec.ofNat 32 (regValue u f p off)))))) ∧
      (∀ value : Word, exec (.regWr f m p off next value) s =
        .next (pump (((u.upFace f (fun x => { x with regSeq := (next + 1) % 65536 })).regWrite f p off value).queueMsg f m (.regAck next)))) ∧
      (∀ (seq : Nat) (value : Word), seq ≠ next → (next + 65536 - seq) % 65536 ≤ 32768 →
        exec (.regWr f m p off seq value) s = .next (pump (u.queueMsg f m (.regAck seq)))) ∧
      (∀ (seq : Nat) (value : Word), seq ≠ next → 32768 < (next + 65536 - seq) % 65536 →
        exec (.regWr f m p off seq value) s = .next (pump (u.protocolError f m)))) ∧
    ((hiOf off).isSome → exec (.latchedLoRead f p off) s = .next (s.regRead f p off)) ∧
    (∀ h, hiOf off = some h → (regAt s off).isSome → s.admits f p off = true →
      exec (.latchedLoRead f p off) s = .next (s.setLatch f p h ((regAt s h).getD 0))) ∧
    (hiOf off = none → exec (.latchedLoRead f p off) s = .next s)

/-- RING_ENABLE in an open window, of a ring that is disabled and whose size is 6 to 16, takes base bits 31 to 12 and enables the
ring with head and tail 0, a produced ring with phase 1 and lost 0, whose held records may then go; of another size it is an
error of cause 6, and of an enabled ring nothing. RING_DISABLE of a submission ring stops its fetching; of a produced ring it
clears enable, but a completion ring that a live order feeds stays as it is. A window that is closed takes neither. -/
def Obligations.RingsAreEnabledAndDisabled : Prop :=
  ∀ (s : State) (p r : Nat) (v : Word),
    (s.windowOpen p = false → exec (.ringEnable p r v) s = .next (pump s) ∧ exec (.ringDisable p r) s = .next (pump s)) ∧
    (s.windowOpen p = true → r < 16 →
      let base := (s.sq p r).base / 2 ^ 32 * 2 ^ 32 + v.toNat % 2 ^ 32 / 4096 * 4096
      ((s.sq p r).enabled = true → exec (.ringEnable p r v) s = .next (pump s)) ∧
      ((s.sq p r).enabled = false → 6 ≤ (s.sq p r).log2 → (s.sq p r).log2 ≤ 16 → ∃ t, exec (.ringEnable p r v) s = .next (pump t) ∧
        t = s.upSq p r (fun y => { y with base := y.base / 2 ^ 32 * 2 ^ 32 + v.toNat % 2 ^ 32 / 4096 * 4096, enabled := true, head := 0, tail := 0 }) ∧
        (p < s.parts.length → r < (s.part p).sq.length → (t.sq p r).base = base)) ∧
      ((s.sq p r).enabled = false → ((s.sq p r).log2 < 6 ∨ 16 < (s.sq p r).log2) → exec (.ringEnable p r v) s = .next (pump (s.ringError p r 6))) ∧
      (exec (.ringDisable p r) s = .next (pump ((s.upSq p r (fun y =>
        { y with enabled := false, base := y.base / 2 ^ 32 * 2 ^ 32 + (s.sq p r).base % 2 ^ 32 / 4096 * 4096 })).quitReads (.ring p r))))) ∧
    (s.windowOpen p = true → 16 ≤ r →
      ((s.pq p r).enabled = true → exec (.ringEnable p r v) s = .next (pump s)) ∧
      ((s.pq p r).enabled = false → 6 ≤ (s.pq p r).log2 → (s.pq p r).log2 ≤ 16 → exec (.ringEnable p r v) s =
        .next (pump ((s.upPq p r (fun y => { y with base := y.base / 2 ^ 32 * 2 ^ 32 + v.toNat % 2 ^ 32 / 4096 * 4096, enabled := true, head := 0, tail := 0, phase := true, lost := 0, lostSince := 0 })).pumpRing p r))) ∧
      ((s.pq p r).enabled = false → ((s.pq p r).log2 < 6 ∨ 16 < (s.pq p r).log2) → exec (.ringEnable p r v) s = .next (pump (s.ringError p r 6))) ∧
      (r < 32 → (s.pq p r).enabled = true → s.feeding p (r - 16) ≠ 0 → exec (.ringDisable p r) s = .next (pump s)) ∧
      (32 ≤ r ∨ (s.pq p r).enabled = false ∨ s.feeding p (r - 16) = 0 → exec (.ringDisable p r) s = .next (pump (s.upPq p r (fun y =>
        { y with enabled := false, base := y.base / 2 ^ 32 * 2 ^ 32 + (s.pq p r).base % 2 ^ 32 / 4096 * 4096 })))))

/-- PART_DB in an open window before the first commit or while benches are tested at bring-up changes nothing. Of a disabled ring
it is an error of cause 4, of a tail not below the ring size 3, and of a tail that would withdraw entries 7; these keep the
tail and do not disable the ring, and post RING_ERROR. Else the tail becomes bits 15 to 0, and the hint of bits 31 to 16 is
taken. PART_CQ_HEAD takes a head from the present head to the tail, and the held records may go; another head is ignored.
IRQ_HOLDOFF of an enabled completion or event ring with irq_enable and an entry beyond its head whose write, and those of all
before it, are acknowledged interrupts on its vector, and else changes nothing. -/
def Obligations.DoorbellsMoveForward : Prop :=
  ∀ (s : State) (p q : Nat), s.windowOpen p = true →
    (∀ v : Word,
      let tail := v.toNat % 2 ^ 16
      let size := 2 ^ (s.sq p q).log2
      let ahead := fun (x : Nat) => (x + size - (s.sq p q).head) % size
      (s.cfg.committed = false ∨ s.kettle.bringTest ≠ [] → exec (.partDb p q v) s = .next (pump s)) ∧
      (s.cfg.committed = true → s.kettle.bringTest = [] →
        ((s.sq p q).enabled = false → exec (.partDb p q v) s = .next (pump (s.ringError p q 4))) ∧
        ((s.sq p q).enabled = true → size ≤ tail → exec (.partDb p q v) s = .next (pump (s.ringError p q 3))) ∧
        ((s.sq p q).enabled = true → tail < size → ahead tail < ahead (s.sq p q).tail → exec (.partDb p q v) s = .next (pump (s.ringError p q 7))) ∧
        ((s.sq p q).enabled = true → tail < size → ahead (s.sq p q).tail ≤ ahead tail → exec (.partDb p q v) s =
          .next (pump ((s.upSq p q (fun y => { y with tail := tail })).hint p (v.toNat / 2 ^ 16)))))) ∧
    (q < 16 → ∀ cause, cause = 3 ∨ cause = 4 ∨ cause = 7 → s.ringError p q cause =
      (s.upSq p q (fun y => { y with error := true, cause := cause })).event p 0x0006 q cause) ∧
    (∀ r h, let x := s.pq p r
      let ahead := fun (i : Nat) => (i + 2 ^ x.log2 - x.head % 2 ^ x.log2) % 2 ^ x.log2
      (h < 2 ^ x.log2 → ahead h ≤ ahead x.tail → exec (.partCqHead p r h) s =
        .next (pump ((s.upPq p r (fun y => { y with head := h % 2 ^ 16 })).pumpRing p r))) ∧
      (2 ^ x.log2 ≤ h ∨ ahead x.tail < ahead h → exec (.partCqHead p r h) s = .next (pump s)) ∧
      (16 ≤ r → r ≤ 33 → r ≠ 32 → x.enabled = true → x.irqEn = true → x.flying.length < ahead x.tail →
        exec (.irqHoldoff p r) s = .next (s.interrupt p (r - 16) false)) ∧
      (x.enabled = false ∨ x.irqEn = false ∨ ahead x.tail ≤ x.flying.length ∨ r = 32 → exec (.irqHoldoff p r) s = .next s))

/-- PART_RESET of a window that is closed, or in a die-reset sequence, changes nothing; while the transaction of the partition is
switching it only sets busy and waits for the end of it. Else the rings, counters, faults and registers of the partition take
their reset values with busy set, but Chest, roots and row writes under way stay; its transaction ends, its migration is
dropped, its combined writes are sent, and its orders that have no tile under way are gone; other partitions keep theirs.
PART_RESET_DONE stops the orders whose tiles have ended. With one left, or a transfer outstanding, it only goes on; else
contexts, translations, and what its benches hold are gone, every register has its reset value and done is set. In each case
walks that wait may begin. -/
def Obligations.PartitionResetClears : Prop :=
  ∀ (s : State) (p : Nat),
    ((s.windowOpen p = false ∨ s.rstDie.isSome) → exec (.partReset p) s = .next (pump s)) ∧
    (s.windowOpen p = true → s.rstDie = none → s.cfg.txn.owner = p → s.cfg.txn.state = .switching →
      exec (.partReset p) s = .next (pump (s.upPart p (fun x => { x with busy := true, done := false, resetDue := true })))) ∧
    (s.windowOpen p = true → s.rstDie = none → ¬(s.cfg.txn.owner = p ∧ s.cfg.txn.state = .switching) →
      ∃ v w t : State, exec (.partReset p) s = .next (pump t) ∧ w = (v.partBenches p).foldl State.flushWc v ∧ t = w.stopOrders p ∧
        v = { s with parts := v.parts, reads := v.reads, held := v.held, cfg := v.cfg, mig := v.mig, filters := v.filters, latches := v.latches } ∧
        (p < s.parts.length → v.part p = { txnEpoch := (s.part p).txnEpoch, busy := true, chest := (s.part p).chest, roots := (s.part p).roots,
                                           tracks := (v.part p).tracks }) ∧
        (∀ q, q ≠ p → v.part q = s.part q) ∧ (s.cfg.txn.owner = p → v.cfg.txn.state = .idle) ∧
        (∀ c : Cfg, c = v.cfg → c.live = s.cfg.live ∧ c.epoch = s.cfg.epoch) ∧ (s.mig.p = p → v.mig.phase = 0) ∧
        (∀ x ∈ w.orders, x.p = p → x.underWay = false → t.order? x.id = none) ∧
        (∀ i, (w.order? i).isSome → (∀ x ∈ w.orders, x.p = p → x.underWay = false → x.id ≠ i) → (t.order? i).isSome)) ∧
    (s.resetting p = false → exec (.partResetDone p) s = .next (pump s.grantWalks)) ∧
    (s.resetting p = true →
      let u := s.stopOrders p
      let v := u.dropPartTranslations p
      ((∃ o ∈ u.orders, o.p = p) → exec (.partResetDone p) s = .next (pump u.grantWalks)) ∧
      ((∀ o ∈ u.orders, o.p ≠ p) → v.inFlight p = true → exec (.partResetDone p) s = .next (pump v.grantWalks)) ∧
      ((∀ o ∈ u.orders, o.p ≠ p) → v.inFlight p = false → ∃ t : State, exec (.partResetDone p) s = .next (pump t.grantWalks) ∧
        (p < s.parts.length → t.part p = { txnEpoch := (t.part p).txnEpoch, done := true }) ∧ (∀ q, q ≠ p → t.part q = u.part q) ∧
        t.ctxs = u.ctxs.filter (fun c => c.p != p) ∧ t.orders = u.orders ∧
        (∀ x ∈ t.ranges, x.2.part ≠ p) ∧ (∀ x ∈ t.dirs, x.2.part ≠ p) ∧ (∀ w ∈ t.walks, w.part ≠ p) ∧
        (∀ b ∈ u.partBenches p, (t.bench b).chest = [] ∧ (t.bench b).saucer = [] ∧ (t.bench b).wc = [] ∧ (t.bench b).residents = []) ∧
        (∀ r ∈ t.reads, r.part ≠ p) ∧ (∀ w ∈ t.writes, w.part ≠ p) ∧ t.cfg = u.cfg))

/-- In an open window: CHEST_INVALIDATE sets an invalidation going; INVALIDATE_DONE, once no write of the partition to a row is
pending, empties the Chests and Saucers of its benches and sets inv_done, and before that, or with none going, changes
nothing. CHEST_ENABLE with inv_done set enables the Chests of all its benches, and else only sets enable_refused.
CHEST_DISABLE of an enabled Chest clears enable and inv_done, and the benches with a tile at work go on serving until their
next boundary; of a disabled one it changes nothing. -/
def Obligations.ChestsAreInvalidatedBeforeUse : Prop :=
  ∀ (s : State) (p : Nat), s.windowOpen p = true →
    exec (.chestInvalidate p) s = .next (s.upPart p (fun x => { x with chest := { x.chest with invBusy := true } })) ∧
    ((s.part p).chest.invBusy = true → s.rowsSettled p = true → ∃ t, exec (.invalidateDone p) s = .next t ∧
      (∀ b ∈ s.partBenches p, (t.bench b).chest = [] ∧ (t.bench b).saucer = []) ∧
      (∀ b, b ∉ s.partBenches p → t.bench b = s.bench b) ∧
      t.parts = (s.upPart p (fun x => { x with chest := { x.chest with invBusy := false, invDone := true } })).parts ∧
      t = { s with benches := t.benches, parts := t.parts }) ∧
    ((s.part p).chest.invBusy = false ∨ s.rowsSettled p = false → exec (.invalidateDone p) s = .next s) ∧
    ((s.part p).chest.invDone = true → exec (.chestEnable p) s =
      .next (s.upPart p (fun x => if x.chest.invDone then { x with chest := { x.chest with enable := true, serving := s.partBenches p } }
        else { x with chest := { x.chest with refused := true } }))) ∧
    ((s.part p).chest.invDone = false → p < s.parts.length → ∃ t, exec (.chestEnable p) s = .next t ∧
      t.part p = { s.part p with chest := { (s.part p).chest with refused := true } } ∧ (∀ q, q ≠ p → t.part q = s.part q) ∧
      t = { s with parts := t.parts }) ∧
    ((s.part p).chest.enable = true → exec (.chestDisable p) s = .next (s.upPart p (fun x =>
      { x with chest := { x.chest with enable := false, invDone := false, serving := (s.part p).chest.serving.filter (fun b => !s.benchAtBoundary p b) } }))) ∧
    ((s.part p).chest.enable = false → exec (.chestDisable p) s = .next s)

/-- In an open window PART_INVAL_TAG of a tag outside the range of the partition only sets bad_tag. Of a tag in range no range,
no directory and no shadow of that tag is left, every walk for it is stale or has not begun, and the tag waits for inval_done
under a new number, once for the tag, the first such write setting the time; other partitions and tags keep theirs.
PART_TAG_ROOT_LO of a tag in range does the same after setting the low word of the root; outside it is ignored. INVAL_DONE,
where a tag waits and no read, write or combined write of the partition issued under a waiting tag before its write is
outstanding, and no order has a tile in use (but one that waits on a fault), a merge row or an output translated under it
before, empties the list and sets the time of the invalidation in µs; else it changes nothing. -/
def Obligations.TranslationsOfATagAreDropped : Prop :=
  ∀ (s : State) (p tag : Nat), s.windowOpen p = true →
    ((s.pe p).hasTag tag = false → exec (.partInvalTag p tag) s = .next (s.upPart p (fun x => { x with badTag := true })) ∧
      ∀ v, exec (.partTagRootLo p tag v) s = .next s) ∧
    ((s.pe p).hasTag tag = true → p < s.parts.length →
      (∃ t, exec (.partInvalTag p tag) s = .next t ∧
        (∀ x ∈ t.ranges, ¬(x.2.part = p ∧ x.2.tag = tag)) ∧ (∀ x ∈ t.dirs, ¬(x.2.part = p ∧ x.2.tag = tag)) ∧
        (∀ x ∈ s.ranges, ¬(x.2.part = p ∧ x.2.tag = tag) → x ∈ t.ranges) ∧ (∀ x ∈ s.dirs, ¬(x.2.part = p ∧ x.2.tag = tag) → x ∈ t.dirs) ∧
        (∀ w ∈ t.walks, w.part = p → w.tag = tag → w.stale = true ∨ w.queued = true) ∧
        (∀ o ∈ t.orders, o.p = p → (∀ r ∈ o.shadow, r.tag ≠ tag) ∧ ∀ x ∈ o.streams, ∀ r ∈ x.ranges, r.tag ≠ tag) ∧
        (∀ o ∈ s.orders, o.p ≠ p → o ∈ t.orders) ∧
        (t.part p).invGen = (s.part p).invGen + 1 ∧ (t.part p).invTags = (s.part p).invTags.filter (fun y => y.tag != tag) ++ [{ tag := tag, gen := (s.part p).invGen + 1 }] ∧
        ((s.part p).invTags = [] → (t.part p).invStart = s.clk.count) ∧ t.writes = s.writes ∧ t.benches = s.benches ∧
        (∀ q, q ≠ p → t.part q = s.part q)) ∧
      (∀ v : Word, exec (.partTagRootLo p tag v) s = exec (.partInvalTag p tag)
        (s.setRoot p tag ((s.root p tag).1 / 2 ^ 32 * 2 ^ 32 + v.toNat % 2 ^ 32 / 4096 * 4096) (v.toNat.testBit 0)))) ∧
    (let old : Space → Prop := fun y => (∃ r ∈ s.reads, r.part = p ∧ ∃ x, r.space = some x ∧ x.tag = y.tag ∧ x.gen < y.gen) ∨
        (∃ w ∈ s.writes, w.part = p ∧ ∃ x, w.space = some x ∧ x.tag = y.tag ∧ x.gen < y.gen) ∨
        (∃ b ∈ s.benches, ∃ e ∈ b.wc, e.part = p ∧ ∃ x, e.space = some x ∧ x.tag = y.tag ∧ x.gen < y.gen) ∨
        (∃ o ∈ s.orders, o.p = p ∧ ((∃ k ∈ o.tiles, k.inUse = true ∧ k.onTag y.tag = true ∧ k.gen < y.gen ∧ ∀ f ∈ o.faults, f.info.tile ≠ k.t) ∨
          (∃ k ∈ o.mergeTiles, k.2.onTag y.tag = true ∧ k.2.gen < y.gen) ∨ (∃ x ∈ o.outPa, x.2.1.tag = y.tag ∧ x.2.1.gen < y.gen)))
     ((s.part p).invTags ≠ [] → (∀ y ∈ (s.part p).invTags, ¬old y) → exec (.invalDone p) s = .next (s.upPart p (fun x => { x with invTags := [], lastUs := min (((s.clk.count - (s.part p).invStart).toNat + 2399) / 2400) 0xFFFF }))) ∧
     ((s.part p).invTags = [] ∨ (∃ y ∈ (s.part p).invTags, old y) → exec (.invalDone p) s = .next s))

/-- In an open window FAULT_RESUME and FAULT_ABORT of a fault that is not pending only set bad_cmd. Of a pending one they free
the fault. Abort of a fault that its order still has ends that fault and the order with FAULT_ABORTED, and settles what the
order wrote; of a fault on a write-back the stream is left unwritten. Resume drops the cached and shadowed translations of
the page, ends the fault alone, and discards what its stream had fetched from the tile of the fault; the order of a session
that a halt of its own parked, with no fault left, asks for a slot again. -/
def Obligations.FaultsAreAnswered : Prop :=
  ∀ (s : State) (p id : Nat), s.windowOpen p = true →
    ((∀ f ∈ (s.part p).faults, f.id ≠ id) → exec (.faultResume p id) s = .next (s.upPart p (fun x => { x with badCmd := true })) ∧
      exec (.faultAbort p id) s = .next (pump (s.upPart p (fun x => { x with badCmd := true })))) ∧
    (∀ f, (s.part p).faults.find? (fun f => f.id == id) = some f →
      let u := s.upPart p (fun x => { x with faults := x.faults.filter (fun g => g.id != id) })
      (f.order = none → exec (.faultAbort p id) s = .next (pump u) ∧ exec (.faultResume p id) s = .next u) ∧
      (∀ i, f.order = some i → (∀ o, u.order? i = some o → ∀ x ∈ o.faults, x.id ≠ some id) →
        exec (.faultAbort p id) s = .next (pump u) ∧ exec (.faultResume p id) s = .next u) ∧
      (∀ i o x, f.order = some i → u.order? i = some o → o.faults.find? (fun x => x.id == some id) = some x →
        (x.info.access ≠ 3 → exec (.faultAbort p id) s = .next (pump (((u.upOrder i (fun o => o.endFault x.info)).endOrder i 0x12 id).settle i))) ∧
        (x.info.access = 3 → exec (.faultAbort p id) s = .next (pump (((u.upOrder i (fun o =>
          let z := o.endFault x.info
          { z with streams := z.streams.map (fun (y : Stream) => if o.streamNo y.field = x.info.stream then { y with ended := true } else y) })).endOrder i 0x12 id).settle i))) ∧
        ∃ v w : State, v = ((u.dropPage (eaTag x.info.page) (eaVa x.info.page / 4096)).upOrder i
            (fun o => (o.endFault x.info).forgetPage x.info.page)).discardFrom i x.info.tile ∧
          w = (if o.phase = .stage2 then v.quitReads (.desc i) else v) ∧
          (∀ r ∈ w.ranges, r.2.covers (eaTag x.info.page) (eaVa x.info.page / 4096) = false) ∧
          (∀ y, w.order? i = some y → (∀ z ∈ y.faults, z.info ≠ x.info ∧ z ∈ o.faults) ∧ (∀ r ∈ y.shadow, r.covers (eaTag x.info.page) (eaVa x.info.page / 4096) = false)) ∧
          ((∀ c y, w.ctx? o.p o.session = some c → w.order? i = some y → ¬(c.state = .parked ∧ c.leave = 1 ∧ c.preemptOrder = some i ∧ y.faults = [])) →
            exec (.faultResume p id) s = .next w) ∧
          (∀ c y, w.ctx? o.p o.session = some c → w.order? i = some y → c.state = .parked → c.leave = 1 → c.preemptOrder = some i → y.faults = [] →
            exec (.faultResume p id) s = .next (w.askSlot o.p ⟨o.session, some i, false, none⟩))))

/-- REGISTER_WRITE always completes, with a next state that keeps the queue, the fuses and the live configuration. At an offset
that no register has it changes nothing. Where R74 does not admit the requester it is counted and posted as FOREIGN_ACCESS,
and nothing else happens, but for a reset of a window by the primary. An admitted write of a global register by another than
the primary posts GLOBAL_WRITE_IGNORED and nothing else; one of a window that is being reset changes nothing, but for the
done bit, which a 1 clears. Else a write of PART_SCRATCH, PART_SLICE, PART_STAGE and PART_STAGE_LEN sets the field; of
bad_tag, bad_cmd, enable_refused, accept_ignored and pool_error a 1 clears the bit and a 0 has no effect; and a write of
PART_DB, PART_TAG_ROOT_LO, PART_RESET, PART_CHEST_CTRL, PART_MIG_POOL_LO and the BASE_LO words of the rings with enable,
PART_MIG_ACCEPT, PART_INVAL_TAG, PART_FAULT_CMD, PART_TXN_CMD and PART_CQ_HEAD does what the command of that register does;
codes that name no command do nothing. A write by the primary of CFG_REGION sets base and valid until the first BEGIN locks
them; of CLK_STATUS a 1 clears the two lost bits; RST_CTRL acts only with confirm 0x5A and is a die reset request with bit 0,
else a reset of the benches of the mask; FACE_CTRL retrains the modules of its mask; KTL_POWER, KTL_THERMAL_CFG and
SHD_STACK_PEAK take a value within their bounds and ignore another; SVC_DRAIN acknowledges, cancels or clears cancel_refused
by its bits; MON_UNLOCK and MON_UART are their commands. Then the faces grant what waits. -/
def Obligations.RegisterWritesAreTheirCommands : Prop :=
  ∀ (s : State) (f p : Nat) (v : Word),
    (∀ off, ∃ t, exec (.registerWrite f p off v) s = .next t ∧ Same s t) ∧
    (∀ off, regAt s off = none → exec (.registerWrite f p off v) s = .next (pump s)) ∧
    (∀ off, (regAt s off).isSome → s.admits f p off = true → regWindow off = none → p ≠ 0 → exec (.registerWrite f p off v) s = .next (pump (s.event p 0x0002 off v.toNat))) ∧
    (∀ off o, (regAt s off).isSome → s.admits f p off = true → regWindow off = some (p, o) → (s.part p).busy = true → o ≠ 0x14 → exec (.registerWrite f p off v) s = .next (pump s)) ∧
    (∀ off, (regAt s off).isSome → s.admits f p off = true → regWindow off = some (p, 0x14) → exec (.registerWrite f p off v) s =
      .next (pump (if v.toNat.testBit 0 then s.upPart p (fun x => { x with done := false }) else s))) ∧
    (∀ off, (regAt s off).isSome → s.admits f p off = false → s.mayReset f p off = false →
      ∃ u : State, u = s.upInts (fun i => { i with foreign := min 0xFFFFFFFF (i.foreign + 1) }) ∧
        exec (.registerWrite f p off v) s = .next (pump (if s.enabled p then u.event p 0x0001 off f else u))) ∧
    (let n := v.toNat
     let w (o : Nat) : Nat := 0x10000 + 0x10000 * p + o
     let ok (o : Nat) : Prop := (regAt s (w o)).isSome ∧ s.admits f p (w o) = true
     let sets (o : Nat) (g : Part → Part) : Prop := ok o → exec (.registerWrite f p (w o) v) s = .next (pump (s.upPart p g))
     let sameAs (o : Nat) (c : Instr) : Prop := ok o → exec (.registerWrite f p (w o) v) s = exec c s
     let does (o : Nat) (c : Instr) : Prop := ok o → ∃ t, exec c s = .next t ∧ exec (.registerWrite f p (w o) v) s = .next (pump t)
     let none_ (o : Nat) : Prop := ok o → exec (.registerWrite f p (w o) v) s = .next (pump s)
     p < 8 → s.windowOpen p = true →
      (∀ q, q < 16 → sameAs (0x8000 + 8 * q) (.partDb p q v)) ∧
      (∀ tag, tag < 256 → does (0x1000 + 8 * tag) (.partTagRootLo p tag v)) ∧
      sets 0xF0 (fun x => { x with scratch := v }) ∧ sets 0x0C (fun x => { x with slice := n % 2 ^ 16 }) ∧
      sets 0x208 (fun x => { x with stageAddr := x.stageAddr / 2 ^ 32 * 2 ^ 32 + n / 64 * 64 }) ∧
      sets 0x20C (fun x => { x with stageAddr := x.stageAddr % 2 ^ 32 + n % 2 ^ 16 * 2 ^ 32 }) ∧
      sets 0x210 (fun x => { x with stageLen := n % 2 ^ 27 }) ∧
      sets 0x74 (fun x => { x with badTag := x.badTag && !n.testBit 2 }) ∧ sets 0x7C (fun x => { x with badCmd := x.badCmd && !n.testBit 0 }) ∧
      sets 0x24 (fun x => { x with chest := { x.chest with refused := x.chest.refused && !n.testBit 3 } }) ∧
      sets 0x5C (fun x => { x with mig := { x.mig with acceptIgnored := x.mig.acceptIgnored && !n.testBit 4, poolError := x.mig.poolError && !n.testBit 3 } }) ∧
      (n.testBit 0 = true → sameAs 0x10 (.partReset p)) ∧ (n.testBit 0 = false → none_ 0x10) ∧
      (n.testBit 1 = true → does 0x20 (.chestInvalidate p)) ∧ (n.testBit 1 = false → n.testBit 0 = true → does 0x20 (.chestEnable p)) ∧
      (n.testBit 1 = false → n.testBit 0 = false → does 0x20 (.chestDisable p)) ∧
      (n.testBit 0 = true → sameAs 0x50 (.migPoolEnable p v)) ∧
      (n.testBit 31 = true → does 0x58 (.partMigAccept p (fld n 23 16) (fld n 11 0))) ∧ (n.testBit 31 = false → none_ 0x58) ∧
      does 0x70 (.partInvalTag p (n % 256)) ∧ (fld n 31 30 = 1 → does 0x78 (.faultResume p (n % 1024))) ∧
      (fld n 31 30 = 2 → sameAs 0x78 (.faultAbort p (n % 1024))) ∧ (fld n 31 30 = 0 ∨ fld n 31 30 = 3 → none_ 0x78) ∧
      (n % 16 = 1 → does 0x200 (.txnBegin p)) ∧ (n % 16 = 2 → sameAs 0x200 (.stage p)) ∧ (n % 16 = 3 → does 0x200 (.commit p)) ∧
      (n % 16 = 4 → sameAs 0x200 (.rollback p)) ∧ (n % 16 = 0 ∨ 4 < n % 16 → none_ 0x200) ∧
      (∀ q, q < 16 → n.testBit 0 = true → sameAs (0x400 + 0x20 * q) (.ringEnable p q v)) ∧
      (∀ q, q < 16 → n.testBit 0 = true → sameAs (0x600 + 0x20 * q) (.ringEnable p (16 + q) v)) ∧
      (∀ q, q < 16 → sameAs (0x610 + 0x20 * q) (.partCqHead p (16 + q) (n % 2 ^ 16)))) ∧
    (let n := v.toNat
     let wr (off : Nat) : Host.Outcome State Fault Refusal := exec (.registerWrite f 0 off v) s
     let ok (off : Nat) : Prop := (regAt s off).isSome ∧ s.admits f 0 off = true
     (ok 0x1000 → wr 0x1000 = .next (pump (if s.cfg.regionLocked then s else s.upCfg (fun c =>
        { c with regionBase := c.regionBase / 2 ^ 32 * 2 ^ 32 + n / 2 ^ 21 * 2 ^ 21, regionValid := n.testBit 0 })))) ∧
      (ok 0x1004 → wr 0x1004 = .next (pump (if s.cfg.regionLocked then s else s.upCfg (fun c => { c with regionBase := c.regionBase % 2 ^ 32 + n % 2 ^ 16 * 2 ^ 32 })))) ∧
      (ok 0x2000 → wr 0x2000 = .next (pump (s.upClk (fun c => { c with xaLost := c.xaLost && !n.testBit 10, xbLost := c.xbLost && !n.testBit 13 })))) ∧
      (ok 0x2100 → (n / 2 ^ 24 ≠ 0x5A → wr 0x2100 = .next (pump s)) ∧ (n / 2 ^ 24 = 0x5A → n.testBit 0 = true → wr 0x2100 = exec .dieResetRequest s) ∧
        (n / 2 ^ 24 = 0x5A → n.testBit 0 = false → wr 0x2100 = exec (.benchReset (n / 2 ^ 8 % 2 ^ 8)) s)) ∧
      (∀ g, g < 4 → ok (0x3004 + 0x400 * g) → wr (0x3004 + 0x400 * g) = exec (.retrain g (n % 64)) s) ∧
      (ok 0x400C → wr 0x400C = .next (pump (if 100 ≤ n / 2 ^ 16 ∧ n / 2 ^ 16 ≤ s.kettle.capReset then s.upKettle (fun k => { k with cap := n / 2 ^ 16 }) else s))) ∧
      (ok 0x4010 → wr 0x4010 = .next (pump (if 85 ≤ n % 256 ∧ n % 256 ≤ 100 then s.upKettle (fun k => { k with throttleC := n % 256 }) else s))) ∧
      (ok 0x4104 → (n.testBit 1 = true → n.testBit 3 = false → n.testBit 4 = false → ∃ t, exec .svcDrainAck s = .next t ∧ wr 0x4104 = .next (pump t)) ∧
        (n.testBit 1 = false → n.testBit 3 = true → n.testBit 4 = false → ∃ t, exec .svcDrainCancel s = .next t ∧ wr 0x4104 = .next (pump t)) ∧
        (n.testBit 1 = false → n.testBit 3 = false → n.testBit 4 = true → wr 0x4104 = .next (pump (s.upDrain (fun d => { d with refused := false })))) ∧
        (n.testBit 1 = false → n.testBit 3 = false → n.testBit 4 = false → wr 0x4104 = .next (pump s))) ∧
      (ok 0x4200 → ∃ t, exec (.monUnlock v) s = .next t ∧ wr 0x4200 = .next (pump t)) ∧
      (ok 0x4204 → ∃ t, exec (.monUart (n % 8)) s = .next t ∧ wr 0x4204 = .next (pump t)) ∧
      (∀ e, e < 16 → ok (0x600C + 16 * e) → wr (0x600C + 16 * e) = .next (pump (if n % 2 ^ 16 = 0 ∨ s.stacks.length ≤ e then s
        else s.upWindow e (fun w => { w with peak := n % 2 ^ 16 })))))

/-- MIGRATE_DECISION of a shard whose proposal was not accepted and that was not hot for the hold time changes nothing, nor does
one of a partition whose reset acts, nor, during a drain, one that would start a migration. Else it spends the acceptance or
the hold time. With no row chosen, the binding paused or a migration in progress nothing more happens. With the policy set
for the partition or an acceptance, and targets for the rows, the migration starts, to a replica stack or to slots of the
pool that it uses up, and copies what it can; else MIGRATE_PROPOSAL is posted, with the rows or 0 without a target, and the
proposal is held. The rows chosen are at most the limits, each sampled twice or more in the shard and without a redirect. -/
def Obligations.MigrationsAreDecided : Prop :=
  ∀ (s : State) (p map shard : Nat),
    let k := policyOf s.cfg.live
    let accepted := (map, shard, true) ∈ (s.part p).mig.accepts
    let due := ∃ x ∈ s.filters, x.p = p ∧ x.map = map ∧ x.shard = shard ∧ x.hot = true ∧ k.holdMs ≤ x.hotMs
    let barred := s.draining = true ∧ (accepted ∨ k.auto.testBit p = true)
    ((¬accepted ∧ ¬due) ∨ s.resetting p = true ∨ barred → exec (.migrateDecision p map shard) s = .next (pump s)) ∧
    (accepted ∨ due → s.resetting p = false → ¬barred → ∀ m bind b x, shardMapOf s.cfg.live p map = some m → soleBinding s.cfg.live p map = some bind →
      bindingOf s.cfg.live p bind = some b → m.shards[shard]? = some x →
      ∃ u : State, (accepted → u = s.upPart p (fun y => { y with mig := { y.mig with accepts := y.mig.accepts.erase (map, shard, true) } })) ∧
        (¬accepted → u = { s with filters := s.filters.map (fun y => if y.p = p ∧ y.map = map ∧ y.shard = shard then { y with hotMs := 0 } else y) }) ∧
        let rows := u.chosenRows p bind shard m k
        rows.length ≤ k.rowsMax ∧ rows.length ≤ 1024 - m.redirects.length ∧
        (∀ r ∈ rows, (m.redirect? r).isNone = true ∧ ∃ y ∈ s.sampleRead, y.row = r ∧ y.p = p ∧ y.bind = bind ∧ 2 ≤ y.count ∧ r / m.shardRows = shard) ∧
        (rows = [] ∨ (∃ y ∈ (s.part p).paused, y.1 = bind) ∨ s.mig.phase ≠ 0 → exec (.migrateDecision p map shard) s = .next (pump u)) ∧
        (rows ≠ [] → (∀ y ∈ (s.part p).paused, y.1 ≠ bind) → s.mig.phase = 0 →
          let propose := fun (n : Nat) => (u.upPart p (fun y => { y with mig := { y.mig with
            proposals := if y.mig.proposals.contains (map, shard) then y.mig.proposals else y.mig.proposals ++ [(map, shard)] } })).event p 0x000D (map * 65536 + shard) n
          (u.targets p b m x rows = none → exec (.migrateDecision p map shard) s = .next (pump (propose 0))) ∧
          (¬accepted → k.auto.testBit p = false → (u.targets p b m x rows).isSome → exec (.migrateDecision p map shard) s = .next (pump (propose rows.length))) ∧
          (accepted ∨ k.auto.testBit p = true → ∀ places ent, u.targets p b m x rows = some (places, ent) → ∃ v : State,
            (ent = none → v = u) ∧
            (∀ e, ent = some e → v = u.upPart p (fun y => { y with mig := { y.mig with used := (y.mig.used + rows.length) % 2 ^ 32, pool := y.mig.pool.modify e (fun q => { q with next := q.next + rows.length }) } })) ∧
            exec (.migrateDecision p map shard) s = .next (pump (State.migCopy { v.fresh with mig :=
              { phase := 1, p := p, map := map, shard := shard, bind := bind, replica := ent.isNone, id := v.nextId,
                rows := (rows.zip places).map (fun y => { row := y.1, old := eaAdd x.primary (y.1 % m.shardRows * b.stride), target := y.2.1, stack := y.2.2 }) } })))))

/-- MIGRATE_COPY_DONE with every copy acknowledged makes the switch due. MIGRATE_SWITCH of a due migration on an idle die opens
the transaction of the Kettle with the redirects of its rows inserted in the map; if the map is gone the migration is given
up. MIGRATE_RELEASE, once the oldest epoch has reached that of the switch and no row is left, ends the migration and posts
MIGRATE_DONE; one that was given up ends without the event. In other phases each of the three changes nothing.
PART_MIG_ACCEPT takes a held proposal to a decision, and else only sets accept_ignored. MIG_POOL_ENABLE reads the pool anew,
unless a migration of the partition is in progress. -/
def Obligations.MigrationsCopySwitchAndRelease : Prop :=
  ∀ s : State,
    (s.mig.phase ≠ 1 → exec .migrateCopyDone s = .next (pump s)) ∧
    (∀ b, s.mig.phase = 1 → bindingOf s.cfg.live s.mig.p s.mig.bind = some b → s.mig.rows ≠ [] → (∀ r ∈ s.mig.rows, r.acked = true) →
      exec .migrateCopyDone s = .next (pump (s.upMig (fun g => { g with phase := 2 })))) ∧
    (s.mig.phase ≠ 2 ∨ s.cfg.txn.state ≠ .idle ∨ s.cfg.committed = false → exec .migrateSwitch s = .next s) ∧
    (s.mig.phase = 2 → s.cfg.txn.state = .idle → s.cfg.committed = true →
      (∀ m, shardMapOf s.cfg.live s.mig.p s.mig.map = some m → exec .migrateSwitch s = .next (s.upTxn (fun _ =>
        { state := .validating, owner := 0xFE, staged := [⟨5, s.mig.p, s.mig.map, .shardMap (m.redirected s.mig.rows)⟩] }))) ∧
      (shardMapOf s.cfg.live s.mig.p s.mig.map = none → exec .migrateSwitch s = .next s.abandonMig)) ∧
    (s.mig.phase ≠ 3 → exec .migrateRelease s = .next (pump s)) ∧
    (s.mig.phase = 3 → s.mig.abandoned = false → s.cfg.oldest < s.mig.epoch → exec .migrateRelease s = .next (pump s)) ∧
    (∀ b, s.mig.phase = 3 → bindingOf s.cfg.live s.mig.p s.mig.bind = some b → s.mig.rows = [] →
      (s.mig.abandoned = false → s.mig.epoch ≤ s.cfg.oldest → exec .migrateRelease s =
        .next (pump (State.event { s with mig := {} } s.mig.p 0x000E (s.mig.map * 65536 + s.mig.shard) s.mig.epoch))) ∧
      (s.mig.abandoned = true → exec .migrateRelease s = .next (pump { s with mig := {} }))) ∧
    (∀ p map shard, s.windowOpen p = true → exec (.partMigAccept p map shard) s = .next (s.upPart p (fun x =>
      if (map, shard) ∈ x.mig.proposals then { x with mig := { x.mig with proposals := x.mig.proposals.erase (map, shard), accepts := x.mig.accepts ++ [(map, shard, false)] } }
      else { x with mig := { x.mig with acceptIgnored := true } }))) ∧
    (∀ p (v : Word), s.windowOpen p = true →
      (s.mig.phase ≠ 0 → s.mig.p = p → exec (.migPoolEnable p v) s = .next (pump s)) ∧
      (s.mig.phase = 0 ∨ s.mig.p ≠ p → ∃ base, base = (s.part p).mig.poolBase / 2 ^ 32 * 2 ^ 32 + v.toNat % 2 ^ 32 / 512 * 512 ∧
        exec (.migPoolEnable p v) s = .next (pump (((s.upPart p (fun x => { x with mig := { x.mig with
          poolBase := base, enable := true, reading := true, pool := [], used := 0 } })).quitReads (.pool p)).poolStep p))))

/-- In an open window. BEGIN on an idle die, with a configuration region, off the fast RC and without the thermal hold, opens a
transaction of the partition and locks the region; else only its reason is 0x0F, 0x13, 0x14 or 0x15. STAGE, COMMIT and
ROLLBACK by a partition that does not own an open transaction give reason 0x10, or 0x0F while it is not OPEN. Of an OPEN one
STAGE takes its address and length and asks for the image, COMMIT starts the validation, and ROLLBACK ends it and posts
TXN_DONE. TXN_EXPIRED ends an OPEN one and posts TXN_ABORTED, and in another state changes nothing. -/
def Obligations.TransactionsOpenAndEnd : Prop :=
  ∀ (s : State) (p : Nat),
    (s.windowOpen p = false → (∀ c ∈ [Instr.txnBegin p, .commit p], exec c s = .next s) ∧ (∀ c ∈ [Instr.stage p, .rollback p], exec c s = .next (pump s))) ∧
    (s.windowOpen p = true →
      let refuse := fun (r : Nat) => s.upPart p (fun x => { x with reason := r, sect := 0xFFF })
      (s.cfg.txn.state ≠ .idle → exec (.txnBegin p) s = .next (refuse 0x0F)) ∧
      (s.cfg.txn.state = .idle → s.cfg.regionValid = false → exec (.txnBegin p) s = .next (refuse 0x13)) ∧
      (s.cfg.txn.state = .idle → s.cfg.regionValid = true → s.clk.onFastRc = true → exec (.txnBegin p) s = .next (refuse 0x14)) ∧
      (s.cfg.txn.state = .idle → s.cfg.regionValid = true → s.clk.onFastRc = false → s.kettle.beginHold = true → exec (.txnBegin p) s = .next (refuse 0x15)) ∧
      (s.cfg.txn.state = .idle → s.cfg.regionValid = true → s.clk.onFastRc = false → s.kettle.beginHold = false → exec (.txnBegin p) s =
        .next ((s.upCfg (fun c => { c with regionLocked := true, txn := { state := .opened, owner := p } })).upPart p (fun x => { x with reason := 0, sect := 0xFFF }))) ∧
      (s.cfg.txn.state = .idle ∨ s.cfg.txn.owner ≠ p → exec (.commit p) s = .next (refuse 0x10) ∧ (∀ c ∈ [Instr.stage p, .rollback p], exec c s = .next (pump (refuse 0x10)))) ∧
      (s.cfg.txn.state ≠ .idle → s.cfg.txn.owner = p → s.cfg.txn.state ≠ .opened → exec (.commit p) s = .next (refuse 0x0F) ∧ (∀ c ∈ [Instr.stage p, .rollback p], exec c s = .next (pump (refuse 0x0F)))) ∧
      (s.cfg.txn.state = .opened → s.cfg.txn.owner = p →
        exec (.stage p) s = .next (pump (s.upTxn (fun t => { t with state := .staging, addr := (s.part p).stageAddr, length := (s.part p).stageLen, failed := false })).askStage) ∧
        exec (.commit p) s = .next (s.upTxn (fun t => { t with state := .validating, failed := false })) ∧
        exec (.rollback p) s = .next (pump (((s.quitReads .stage).upTxn (fun _ => {})).txnDone p 4 0 0xFFF)))) ∧
    (s.cfg.txn.state = .opened → exec .txnExpired s = .next (pump (((s.quitReads .stage).upTxn (fun _ => {})).event s.cfg.txn.owner 0x0004 0 0))) ∧
    (s.cfg.txn.state ≠ .opened → exec .txnExpired s = .next (pump s))

/-- STAGE_DONE while no image is being staged, or while face 0 is down and no read has failed, changes nothing, and while lines
of it are missing asks for them again. An image whose read failed or is poisoned ends with 0x11, and one longer than 64 MiB
with 0x01. One that breaks a rule of its own ends with the reason and index of the first section that does, and its sections
are not taken. One that breaks none is taken, over what was staged or in place of it for a full image, and ends with 0. Each
end goes back to OPEN and posts TXN_DONE. -/
def Obligations.ImagesAreStagedWhole : Prop :=
  ∀ s : State,
    let t := s.cfg.txn
    let finish := fun (u : State) (reason sect : Nat) => ((u.upTxn (fun t => { t with state := .opened, failed := false })).quitReads .stage).txnDone t.owner 2 reason sect
    (t.state ≠ .staging ∨ ((s.face 0).up = false ∧ t.failed = false) → exec .stageDone s = .next (pump s)) ∧
    (t.state = .staging → t.failed = true → exec .stageDone s = .next (pump (finish s 0x11 0xFFF))) ∧
    (t.state = .staging → (s.face 0).up = true → t.failed = false → 2 ^ 26 < t.length → exec .stageDone s = .next (pump (finish s 0x01 0xFFF))) ∧
    (t.state = .staging → (s.face 0).up = true → t.failed = false → t.length ≤ 2 ^ 26 →
      (s.getBytes .stage t.addr t.length = none → exec .stageDone s = .next (pump s.askStage)) ∧
      (∀ v, s.getBytes .stage t.addr t.length = some (v, true) → exec .stageDone s = .next (pump (finish s 0x11 0xFFF))) ∧
      (∀ v r k, s.getBytes .stage t.addr t.length = some (v, false) → Image.check ⟨v, t.length⟩ s.fuses t.owner = (r, k) → r ≠ 0 →
        exec .stageDone s = .next (pump (finish s r k))) ∧
      (∀ v k, s.getBytes .stage t.addr t.length = some (v, false) → Image.check ⟨v, t.length⟩ s.fuses t.owner = (0, k) →
        exec .stageDone s = .next (pump (finish (s.upTxn (fun t => t.take ⟨v, t.length⟩ s.variant)) 0 0xFFF))))

/-- VALIDATION_DONE waits while face 0 is down and no read has failed. With a bad block in the configuration region it begins a
die reset. Of a transaction that fails it ends it with its reason and posts TXN_DONE, or gives the migration up. Of one that
passes, with one epoch live and no invalidated line waiting for its write, it switches: the epoch advances by one, the live
configuration is the staged sections over the old ones, or alone for a full image, and the configuration is committed; with
two epochs live it waits in SWITCHING, and EPOCH_RETIRE, once no tile of the old epoch runs, does the switch. SWITCH_DONE of
a switched transaction whose epoch is the oldest ends it and posts TXN_DONE with 0; in every state the partition resets that
no switch holds back any more begin. In other states the three change nothing else but the oldest epoch. -/
def Obligations.SwitchesInstallTheStagedSections : Prop :=
  ∀ s : State,
    let t := s.cfg.txn
    let new := t.result s.cfg.live
    let still := (List.range 8).any (fun p => s.cachedPending p (s.switchLine new p) (s.switchSLine new p))
    (t.state ≠ .validating ∨ ((s.face 0).up = false ∧ t.failed = false) → exec .validationDone s = .next (pump s)) ∧
    (t.state = .validating → (s.face 0).up = true → s.cfg.regionBad = true → exec .validationDone s = .next (pump s.readRegion)) ∧
    (t.state = .validating → s.cfg.regionBad = false → t.failed = true → t.owner ≠ 0xFE →
      exec .validationDone s = .next (pump (((s.quitReads .stage).upTxn (fun _ => {})).txnDone t.owner 3 0x11 0xFFF))) ∧
    (t.state = .validating → (s.face 0).up = true → s.cfg.regionBad = false → t.failed = false → t.owner ≠ 0xFE → ∀ r key, s.validate new = (r, some key) → r ≠ 0 →
      exec .validationDone s = .next (pump (((s.quitReads .stage).upTxn (fun _ => {})).txnDone t.owner 3 r ((t.index.findIdx? (· == key)).getD 0xFFF)))) ∧
    (t.state = .validating → (s.face 0).up = true → s.cfg.regionBad = false → t.failed = false → t.owner = 0xFE → (s.validate new).1 ≠ 0 →
      exec .validationDone s = .next (pump (((s.quitReads .stage).upTxn (fun _ => {})).abandonMig))) ∧
    (t.state = .validating → (s.face 0).up = true → s.cfg.regionBad = false → t.failed = false → (s.validate new).1 = 0 →
      (s.cfg.oldest = s.cfg.epoch → still = false → ∃ u, exec .validationDone s = .next (pump u) ∧
        u = ((s.upTxn (fun t => { t with state := .switching, switched := false })).switchDrop.withLevels State.install).afterInstall s.cfg.live (!s.cfg.committed) ∧
        u.cfg.live = new ∧ u.cfg.epoch = s.cfg.epoch + 1) ∧
      (s.cfg.oldest ≠ s.cfg.epoch ∨ still = true →
        exec .validationDone s = .next (pump (s.upTxn (fun t => { t with state := .switching, switched := false }))))) ∧
    (t.state = .switching → t.switched = false → s.oldestTile = s.cfg.epoch → s.cfg.oldest ≤ s.cfg.epoch → still = false →
      ∃ u, exec .epochRetire s = .next (pump u) ∧ u.cfg.live = new ∧ u.cfg.epoch = s.cfg.epoch + 1) ∧
    (t.state ≠ .switching ∨ t.switched = true → exec .epochRetire s = .next (pump (s.upCfg (fun c => { c with oldest := max c.oldest s.oldestTile })))) ∧
    (t.state = .switching → t.switched = true → s.cfg.oldest = s.cfg.epoch →
      (t.owner ≠ 0xFE → exec .switchDone s = .next (pump ((((s.quitReads .stage).upTxn (fun _ => {})).txnDone t.owner 3 0 0xFFF).resetsDue))) ∧
      (t.owner = 0xFE → exec .switchDone s = .next (pump (((s.quitReads .stage).upTxn (fun _ => {})).resetsDue)))) ∧
    (t.state ≠ .switching → exec .switchDone s = .next (pump s.resetsDue))

/-- Formalises R100, R103, R123 to R125, R133 and R141. That of two refused descriptor fields the first is reported is the
model's choice (log 55). -/
def Obligations.OrdersAreFetchedInTurn : Prop :=
  ∀ (s : State) (p q : Nat),
    (∀ o, (s.liveOf p).find? (fun o => o.q == q && o.phase == .stage2) = some o → exec (.orderFetch p q) s = .next (pump (s.stage2 o.id))) ∧
    ((s.liveOf p).find? (fun o => o.q == q && o.phase == .stage2) = none →
      (s.eligible p q = false → exec (.orderFetch p q) s = .next (pump s)) ∧
      (s.eligible p q = true → ∀ u x y, s.xlate p (eaAdd (s.sq p q).base (128 * (s.sq p q).head)) false (.ring p q) = (u, .fault x y) →
        exec (.orderFetch p q) s = .next (pump (u.ringError p q 1))) ∧
      (s.eligible p q = true → ∀ u pa wr, s.xlate p (eaAdd (s.sq p q).base (128 * (s.sq p q).head)) false (.ring p q) = (u, .ok pa wr) →
        (u.heldLine (.ring p q) (pa / 128) = none → exec (.orderFetch p q) s =
          .next (pump (u.ask (.ring p q) p none (u.hostFace p) [pa / 128] (u.spaceAt p (s.sq p q).base)))) ∧
        (∀ h, u.heldLine (.ring p q) (pa / 128) = some h → h.poisoned = true →
          exec (.orderFetch p q) s = .next (pump ((u.quitReads (.ring p q)).ringError p q 2))) ∧
        (∀ h, u.heldLine (.ring p q) (pa / 128) = some h → h.poisoned = false → u.nextRing p = some q →
          ∃ v : State, ∃ o : Order, exec (.orderFetch p q) s = .next (pump (v.stage2 u.nextId)) ∧ v.orders = u.orders ++ [o] ∧
            o.id = u.nextId ∧ o.p = p ∧ o.q = q ∧ o.slot = (u.sq p q).head ∧ o.cq = (u.sq p q).cq ∧ o.bytes = h.bytes ∧ o.epoch = u.cfg.epoch ∧ o.book = u.cfg.live.filter (fun y => y.owner == p) ∧
            o.phase = .stage2 ∧ o.status = none ∧ v.nextId = u.nextId + 1 ∧
            (p < u.parts.length → (v.part p).turn = (q + 1) % 16 ∧
              (q < (u.part p).sq.length → v.sq p q = { u.sq p q with head := ((u.sq p q).head + 1) % 2 ^ (u.sq p q).log2 }))))) ∧
    (∀ o, s.order? o.id = some o → o.status = none →
      (o.phase = .waiting → (s.fenceHeld o = true ∨ s.waitsOnPause o = true) → exec (.orderProceed o.id) s = .next (pump s)) ∧
      (o.phase = .waiting → s.fenceHeld o = false → o.pinned = true → o.moves = false →
        (o.op ≠ 0x0A → o.name ≠ some .pause → exec (.orderProceed o.id) s = .next (pump (s.upOrder o.id (fun o => { o with phase := .running })))) ∧
        (o.op = 0x0A ∨ o.name = some .pause → exec (.orderProceed o.id) s = .next (pump s))) ∧
      (o.phase = .waiting → s.fenceHeld o = false → o.pinned = true → o.moves = true → o.session = 0xFFFF →
        exec (.orderProceed o.id) s = .next (pump ((s.upOrder o.id (fun o => { o with phase := .stage3 })).stage3 o.id)))) ∧
    (∀ (o : Order) (n : OpName), s.order? o.id = some o → (s.liveOf p).find? (fun o => o.q == q && o.phase == .stage2) = some o → o.status = none →
      o.faulty = false → s.fenceHeld o = false →
      (o.name = none → exec (.orderFetch p q) s = .next (pump (s.endOrder o.id 0x3F 0))) ∧
      (o.name = some n →
        let w := s.withRecords o.book o n
        let own := s.headerFails w n ++ s.bodyFails w n
        let fits := ∀ x ∈ own, 3 < x.1
        let lowest := fun (l : List (ℕ × ℕ)) (c k : ℕ) => (c, k) ∈ l ∧ ∀ x ∈ l, c < x.1 ∨ (c = x.1 ∧ k ≤ x.2)
        let descs := (s.readDescs o.id (w.descs.filter (fun d => (s.pe o.p).hasTag (eaTag d.2))))
        (∀ k, lowest own 1 k → exec (.orderFetch p q) s = .next (pump (s.endOrder o.id 0x3F k))) ∧
        (fits → s.draining = true → exec (.orderFetch p q) s = .next (pump (s.endOrder o.id 0x22 0))) ∧
        (fits → s.draining = false → s.variant = .l4 → n ∈ [OpName.recall, .score, .accLoad, .accStore] → exec (.orderFetch p q) s = .next (pump (s.endOrder o.id 0x20 1))) ∧
        (fits → s.draining = false → s.variant = .s8 → n ∈ [OpName.scatter, .append] → exec (.orderFetch p q) s = .next (pump (s.endOrder o.id 0x20 2))) ∧
        (fits → s.draining = false → unitFails s.variant n = [] → (∀ u, descs = (u, none) → exec (.orderFetch p q) s = .next (pump u)) ∧
          ∀ u vs, descs = (u, some vs) →
            let xs := vs.map (fun (d : ℕ × ℕ × ℕ) => (readDesc d.1 d.2.1 d.2.2, d.2.2))
            let fails := own ++ xs.flatMap (fun x => descFails (s.pe o.p) n x.1 x.2) ++ countFails w n (xs.map Prod.fst)
            (∀ c k, lowest fails c k → (c = 1 ∨ c = 4 → exec (.orderFetch p q) s = .next (pump (u.endOrder o.id 0x3F k))) ∧
              (c = 5 → exec (.orderFetch p q) s = .next (pump (u.endOrder o.id 0x21 k)))) ∧
            (∀ l f a r b, fails = [] → w.descs = l ++ (f, a) :: r → (∀ x ∈ l, u.armedAt o.p x.2 = none) → (l.map Prod.snd).Nodup →
              u.armedAt o.p a = some b ∨ (u.armedAt o.p a = none ∧ a ∈ l.map Prod.snd ∧ b = 1) → exec (.orderFetch p q) s =
              .next (pump ((u.orderEvent w 0x0005 a b).endOrder o.id 0x23 f))) ∧
            (fails = [] → (∀ x ∈ w.descs, u.armedAt o.p x.2 = none) → (w.descs.map Prod.snd).Nodup →
              ((u.ctx? o.p o.session).any Ctx.poisoned = false → exec (.orderFetch p q) s = .next (pump (u.pass w (xs.map Prod.fst)))) ∧
              ((u.ctx? o.p o.session).any Ctx.poisoned = true → n ≠ .park → exec (.orderFetch p q) s = .next (pump (u.endOrder o.id 0x10 0))))))) ∧
    (∀ (o : Order) st k, s.order? o.id = some o → o.status = none → (s.endOrder o.id st k).order? o.id =
      some { o with status := some (st, k), phase := .ending, waitFor := [], outPa := [] }) ∧
    (∀ (o : Order) (n : OpName) (c : Option Ctx) (e : PartEnt) (j : Jig), (o.f 1 1 ≠ 1 → (1, 1) ∈ s.headerFails o n) ∧ (o.f 12 4 ≠ 0 → (1, 12) ∈ s.headerFails o n) ∧
      (o.f 60 4 = 0 ∨ 1048576 < o.f 60 4 → (1, 60) ∈ gatherFails o e) ∧ (o.f 32 8 = 0 → 65536 < o.f 64 4 → (5, 2) ∈ gatherFails o e) ∧
      (o.f 52 2 = 0 → (1, 52) ∈ strainerFails o e c) ∧
      (o.jig = some j → (j.qTile < o.f 52 2 → (5, 5) ∈ strainerFails o e c) ∧ (j.topK < o.f 54 2 → (5, 4) ∈ recallFails o e c)))

/-- At its action a FENCE is done once no order that it waits for is live, and waits else. TABLE_PAUSE makes its binding paused,
and an order that waits to have records of the binding pinned waits on the pause from then on; once no live order names it
and no migration of it is in progress the order is done, and before that it waits. TABLE_RESUME ends the pause, if any, and
is done. READ_STATS, with its page translated, writes its record, zeroes the counters it was told to, and is done; without
its context it ends with BAD_ORDER. -/
def Obligations.FencesPausesAndCountersAct : Prop :=
  ∀ (s : State) (o : Order), s.order? o.id = some o → s.controlReady o = true →
    (o.name = some .fence →
      ((∀ i ∈ o.waitFor, s.order? i = none) → exec (.fence o.id) s = .next (s.act o.id)) ∧
      ((∃ i ∈ o.waitFor, (s.order? i).isSome) → exec (.fence o.id) s = .next (s.upOrder o.id (fun o => { o with phase := .running })))) ∧
    (o.name = some .resume → exec (.tableResume o.id) s =
      .next ((s.upPart o.p (fun x => { x with paused := x.paused.filter (fun y => y.1 != o.bindNo) })).act o.id)) ∧
    (o.name = some .pause → ¬(s.mig.phase ≠ 0 ∧ s.mig.p = o.p ∧ s.mig.bind = o.bindNo) →
      ∃ u : State, u = (s.upOrder o.id (fun o => { o with phase := .running })).pauseBinding o.p o.bindNo ∧
        (u.bindingIdle o.p o.bindNo = false → exec (.tablePause o.id) s = .next u) ∧
        (u.bindingIdle o.p o.bindNo = true → exec (.tablePause o.id) s = .next (u.act o.id))) ∧
    (∀ (u : State) p n, ((u.part p).paused.any (fun x => x.1 == n) = true → u.pauseBinding p n = u) ∧
      ((u.part p).paused.any (fun x => x.1 == n) = false → u.pauseBinding p n = { u.upPart p (fun x => { x with paused := x.paused ++ [(n, false)] }) with
        orders := u.orders.map (fun x => if x.p = p ∧ (x.bindNo = n ∨ x.auxNo = n) then { x with crowded := false } else x) })) ∧
    (o.name = some .stats → o.pinned = true → o.faults = [] →
      (s.statsRecord o = none → exec (.readStats o.id) s = .next (pump (s.endOrder o.id 0x3F 4))) ∧
      (∀ v u t, s.statsRecord o = some v →
        s.needPages o.id { t := 0xFFFFFFFF, bench := s.lowBench o.p } [{ ea := o.f 32 8, len := o.statsSize, write := true, kind := 4 }] = (u, t, .ok) →
        exec (.readStats o.id) s =
          .next (pump (((u.writeStraight none o.p u.cfg.epoch (.order o.id) (t.pieces (o.f 32 8) o.statsSize) v (u.spaceAt o.p (o.f 32 8))).clearStats o).act o.id))))

/-- At its action a WAKE of a session that is warming or steeping is done, and of one that is leaving waits; of no session
without create it ends with BAD_ORDER. Of a parked session, and with create of none, it takes a slot that is free, where it
makes the context first, and the session warms with it on the home bench chosen; with no slot free but an idle session to
evict, which no other wake waits for, it joins the wakes that wait; with neither it ends with REFUSED_SIZE and limit 7. PARK
without release of a session that is gone is done; in mode 1 of a parked one it is done, and lets a session to be released
go; of a steeping one in mode 0 it waits for the orders of its session, in mode 1 for a SCATTER_MERGE or APPEND_ROWS under
way, and then makes the session leave. ADVISE of kind 1 drops the cached ranges that lie in its span, of kind 3 makes them
ordinary, and both are done; of the other kinds it walks pages into the cache as far as it can. -/
def Obligations.SessionOrdersAct : Prop :=
  ∀ (s : State) (o : Order), s.order? o.id = some o →
    (o.name = some .wake → s.controlReady o = true →
      let create := (o.f 24 1).testBit 0
      (∀ c, s.ctx? o.p o.session = some c → (c.state = .warming ∨ c.state = .steeping) → exec (.wake o.id) s = .next (s.act o.id)) ∧
      (∀ c, s.ctx? o.p o.session = some c → c.state = .leaving → exec (.wake o.id) s = .next s) ∧
      (s.ctx? o.p o.session = none → create = false → exec (.wake o.id) s = .next (s.endOrder o.id 0x3F 4)) ∧
      ((∃ c, s.ctx? o.p o.session = some c ∧ c.state = .parked) ∨ (s.ctx? o.p o.session = none ∧ create = true) → (∀ w ∈ (s.part o.p).waits, w.wake ≠ some o.id) →
        (s.freeSlot o.p = false → s.canWake o.p = true → exec (.wake o.id) s =
          .next ((s.upPart o.p (fun x => { x with waits := x.waits ++ [⟨o.session, none, false, some o.id⟩] })).serve o.p)) ∧
        (s.freeSlot o.p = false → s.canWake o.p = false → exec (.wake o.id) s = .next (s.endOrder o.id 0x21 7)) ∧
        (s.freeSlot o.p = true → ∀ c, s.ctx? o.p o.session = some c → exec (.wake o.id) s = .next ((s.startWarm o.p o.session none false).act o.id)) ∧
        (s.freeSlot o.p = true → s.ctx? o.p o.session = none → (s.ctxs.filter (fun c => c.p == o.p)).length < (quotaOf s.cfg.live o.p).1 →
          ∀ ix, freeTag (s.ctxs.map Ctx.index ++ s.repairs.filterMap (fun e => match e with | .withdrawn k => some k | _ => none)) 16384 0 = some ix →
          ∃ c : Ctx, c.p = o.p ∧ c.session = o.session ∧ c.index = ix ∧ c.tag = o.f 25 1 ∧ c.saveBase = o.f 32 8 ∧ c.saveLen = o.f 28 4 ∧ c.keyBind = o.f 40 2 ∧
            c.valBind = o.f 42 2 ∧ c.keyRows = 0 ∧ c.valRows = 0 ∧ c.fetched = 1 ∧
            exec (.wake o.id) s = .next ((State.startWarm { s with ctxs := s.ctxs ++ [c] } o.p o.session none false).act o.id)))) ∧
    (∀ (n : Nat) (w : Option Nat) (h : Bool) (c : Ctx), s.ctx? o.p n = some c → ∃ d, (s.startWarm o.p n w h).ctx? o.p n = some d ∧
      d = { c with state := .warming, home := s.chooseHome o.p, lastChange := s.clk.count, wakeOrder := w, contextIn := false, hinted := h && (s.sessionOrders o.p n).isEmpty, ctrs := d.ctrs }) ∧
    (o.name = some .park → s.controlReady o = true → (o.f 25 1).testBit 0 = false →
      let waits := s.upOrder o.id (fun o => { o with phase := .running })
      (s.ctx? o.p o.session = none → exec (.park o.id) s = .next (pump (s.act o.id))) ∧
      (∀ c, s.ctx? o.p o.session = some c → c.state = .parked → o.f 24 1 = 1 → exec (.park o.id) s = .next (pump ((s.act o.id).releaseIf o.p o.session))) ∧
      (∀ c, s.ctx? o.p o.session = some c → c.state = .steeping → o.f 24 1 = 0 →
        (s.parkWaits o = true → exec (.park o.id) s = .next (pump waits)) ∧
        (s.parkWaits o = false → exec (.park o.id) s = .next (pump (waits.leaveSlot o.p o.session 0)))) ∧
      (∀ c, s.ctx? o.p o.session = some c → c.state = .steeping → o.f 24 1 = 1 →
        (s.glueLive o.p o.session = true → exec (.park o.id) s = .next (pump waits)) ∧
        (s.glueLive o.p o.session = false → exec (.park o.id) s = .next (pump (waits.leaveSlot o.p o.session 0))))) ∧
    (o.name = some .advise → o.status = none → o.phase = .running → o.acted = false →
      let base := eaVa (o.f 24 8) / 4096
      let stop := base + o.f 32 8 / 4096
      let within := fun (r : Range) => r.part = o.p ∧ r.tag = eaTag (o.f 24 8) ∧ base ≤ r.page ∧ r.page + r.len ≤ stop
      (o.f 40 1 = 1 → ∃ t, exec (.advise o.id) s = .next (pump t) ∧ (∀ x, x ∈ t.ranges ↔ x ∈ s.ranges ∧ ¬within x.2) ∧
        t.orders = (s.upOrder o.id (fun o => { o with acted := true })).orders ∧ t = { s with ranges := t.ranges, orders := t.orders, benches := t.benches }) ∧
      (o.f 40 1 = 3 → ∃ t, exec (.advise o.id) s = .next (pump t) ∧
        t.ranges = s.ranges.map (fun x => if x.2.part == o.p && x.2.tag == eaTag (o.f 24 8) && decide (base ≤ x.2.page) && decide (x.2.page + x.2.len ≤ stop)
          then (x.1, { x.2 with hot := false }) else x) ∧
        t.orders = (s.upOrder o.id (fun o => { o with acted := true })).orders ∧ t = { s with ranges := t.ranges, orders := t.orders, benches := t.benches }) ∧
      (o.f 40 1 ≠ 1 → o.f 40 1 ≠ 3 → ∀ u done page,
        s.adviseStep o.id o.p (o.f 40 1 == 2) (eaTag (o.f 24 8)) (max base o.watermark) stop (s.rangeShareOf o.p / 2) 8192 = (u, done, page) →
        ∃ v : State, v = u.upOrder o.id (fun o => { o with acted := done, watermark := page }) ∧
          exec (.advise o.id) s = .next (pump (if done then v.clearSkips o.p (some o.id) else v))))

/-- For a running order and a delivered tile that is not worked, in its turn. GATHER_POOL, with room for its outputs, pools the
bags of the tile once every row has come and marks the tile worked, and else issues the rows still missing; with every tile
worked the rows of bags without a tile follow, it ends at a refused bag, and combined writes of a bench that has issued its
last are sent. COPY_ROWS out of the table writes every row of the tile to its place in the buffer, in the order of positions,
counts the positions and marks the tile worked; into the table it enters and writes the rows of the tile. PREFETCH tries each
distinct row of the tile that the table has and that it has not dealt with, counts what it warmed, and with every row dealt
with counts the defaults and marks the tile worked. Pooling a bag that lies whole in its tile: a row that fails its mark
posts WITNESS_BAD and ends the order with WITNESS_FAIL and the bag; else the row-ops of the bag make one partial, poisoned by
a poisoned row, default rows are counted, and the bag is written. Writing a bag sends the codes of its finished elements as
its output row, counted and added to its output tile, and a poisoned bag ends the order with POISONED and the bag. A row
copied out of the table is written to its place, one outside the table as zeros and a poisoned one with poison, which ends
the order with POISONED and the tile; a mark that fails ends it with WITNESS_FAIL. -/
def Obligations.RowReadersWorkTheirTiles : Prop :=
  ∀ (s : State) (o : Order) (b : Binding) (t : Nat) (tile : Tile) (first len pos : Nat),
    s.order? o.id = some o → o.status = none → o.phase = .running → o.binding = some b → o.tile? t = some tile → o.tileSpan t = some (first, len, pos) →
    tile.delivered = true → tile.worked = false →
    (o.name = some .gather → s.benchTurn o t = true → s.outRoom tile.bench = true →
      let fin := fun (v : State) => (((match v.order? o.id with
        | some x => if x.status.isNone && x.allWorked && !v.resetting o.p then v.gatherTail o.id b else v
        | none => v).badBagEnd o.id).settle o.id)
      (∀ rows, s.tileRows o tile b = some rows → (∀ r ∈ tile.slots, r.slot ∈ tile.got) →
        exec (.gatherPool o.id t) s = .next (pump (fin ((s.poolBags o.id tile first len b rows).tileWorked o.id t)).suspects)) ∧
      (s.tileRows o tile b = none ∨ (∃ r ∈ tile.slots, r.slot ∉ tile.got) → exec (.gatherPool o.id t) s = .next (pump (fin (s.issueRows o.id t)).suspects))) ∧
    (o.name = some .copy → s.mayReadRows o = true → s.copyTurn o tile = true →
      (o.f 52 1 ≠ 0 → s.outRoom tile.bench = false ∨ s.tileRows o tile b = none ∨ (∃ r ∈ tile.slots, r.slot ∉ tile.got) → exec (.copyRows o.id t) s = .next (pump (s.issueRows o.id t))) ∧
      (o.f 52 1 ≠ 0 → s.outRoom tile.bench = true → ∀ rows, s.tileRows o tile b = some rows → (∀ r ∈ tile.slots, r.slot ∈ tile.got) →
        ∃ u : State, u = (tile.elems.zipIdx).foldl (fun x y => x.copyOutRow o.id t b tile first rows y) s ∧
          exec (.copyRows o.id t) s = .next (pump (((u.countDefaults o.id (tile.elems.filter (fun i => (b.map i).isDefault)).length).upOrder o.id
            (fun o => { o with count := o.count + len })).tileWorked o.id t))) ∧
      (o.f 52 1 = 0 → ∀ u, s.prepRows o.id tile b o.bindNo (s.mapFor o.p b o.smap) tile.slots (tile.slots.any (fun r => o.later t r.row)) = (u, .ok) →
        exec (.copyRows o.id t) s = .next (pump (u.copyIn o.id t o b tile first len)))) ∧
    (o.name = some .prefetch → s.mayReadRows o = true → s.openBefore o t ≤ o.rowsAhead →
      let rows := (tile.elems.filter (· < b.rowCount)).eraseDups
      ∀ v : State, v = (rows.filter (fun r => !tile.got.contains r)).foldl (fun (x : State) r =>
          match x.prefetchRow o b tile (x.placeRow b (x.mapFor o.p b o.smap) o.jig r) with
          | (y, .wait) => y
          | (y, .done c) => y.upOrder o.id (fun o => match o.tile? t with
            | some z => let w := o.setTile { z with got := z.got ++ [r] }
                        { w with count := o.count + b2n c }
            | none => o)) s →
        ∀ z, (v.order? o.id).bind (fun o => o.tile? t) = some z →
          ((∀ r ∈ rows, r ∈ z.got) → exec (.prefetch o.id t) s = .next (pump (((v.countDefaults o.id (tile.elems.length - (tile.elems.filter (· < b.rowCount)).length)).tileWorked
            o.id t).clearSkips o.p (some o.id)))) ∧
          ((∃ r ∈ rows, r ∉ z.got) → exec (.prefetch o.id t) s = .next (pump v))) ∧
    (∀ (bag n : ℕ) (rows : List (RowAt × ℕ × ℕ × Bool)), o.bagParts first len = [(bag, first, n)] → o.emptyBags tile.t first len = [] → o.outDone = [] → o.parts = [] → o.struck = [] →
      o.bagList[bag]? = some (first, n) →
      let ps := (List.range n).map (fun i => (tile.elems.getD i 0, tile.weights.getD i f32zero))
      let used := rows.filter (fun r => ps.any (fun p => (b.map p.1).row? == some r.1.row))
      let bad := fun (r : RowAt × ℕ × ℕ × Bool) => r.2.2.2 || trPoisoned r.2.2.1
      let c := o.pool b (s.mapFor o.p b o.smap)
      (∀ r, (used.find? (fun r => !bad r && !markGood b r.2.1 r.2.2.1)) = some r →
        s.poolBags o.id tile first len b rows = (s.witnessBad (some o) o.p o.bindNo r.1.slot).endOrder o.id 0x11 bag) ∧
      (used.find? (fun r => !bad r && !markGood b r.2.1 r.2.2.1) = none → ∃ p : Partial, ∃ v : State,
        p = { c.part c.start n (c.rowOps b rows ps) (ps.map Prod.snd) with poisoned := used.any bad || (c.part c.start n (c.rowOps b rows ps) (ps.map Prod.snd)).poisoned } ∧
        s.poolBags o.id tile first len b rows = v.writeBag o.id b bag p ∧ v.writes = s.writes ∧ v.benches = s.benches ∧
        ∃ w, v.order? o.id = some w ∧ w.parts = [⟨bag, o.partKey bag first, tile.bench, n, p⟩] ∧
          w.defaults = o.defaults + (ps.filter (fun p => (b.map p.1).isDefault)).length +
            (ps.filter (fun p => used.any (fun r => trDefault r.2.2.1 && (b.map p.1).row? == some r.1.row))).length)) ∧
    (∀ (v : State) (bag : ℕ) (p : Partial), v.order? o.id = some o →
      let c := o.pool b (v.mapFor o.p b o.smap)
      let es := c.finish o.outFmt o.outScale p
      (p.poisoned = false → o.op = 0x01 → o.partialRows = false → ∃ w : State, v.writeBag o.id b bag p = w.checkBehind o.id (o.bagTile bag) Order.tileWhole ∧
        w = (v.writeOut o (v.bagOwner o bag) bag (o.outBytes b) (packCodes (elemBits o.outFmt) (es.map OutElem.code)) b.tableId false).upOrder o.id (fun x =>
          { (x.countOut es).addTile (x.bagTile bag) o.outFmt es with bagsOut := x.bagsOut + 1, outDone := if x.op = 0x02 then bag :: x.outDone else x.outDone, parts := x.parts.filter (fun y => y.bag != bag) })) ∧
      (p.poisoned = true → ∃ w : State, v.writeBag o.id b bag p = w.endOrder o.id 0x10 bag)) ∧
    (∀ (rows : List (RowAt × ℕ × ℕ × Bool)) (i k : ℕ),
      let put := fun (s : State) (v : ℕ) (poison : Bool) => (pieceWrites (tile.pieces (o.source false (first + k)) b.rowBytes) v).foldl (fun s y =>
        s.issueLine [.order o.id] o.p (s.viaAt (some tile.bench) tile.epoch y.1 (tile.under (o.f 24 8))) y.1 y.2.1 y.2.2 poison) s
      ((b.map i).row? = none → s.copyOutRow o.id t b tile first rows (i, k) = put s 0 false) ∧
      (∀ r y, (b.map i).row? = some r → rows.find? (fun y => y.1.row == r) = some y →
        (y.2.2.2 = false → trPoisoned y.2.2.1 = false → markGood b y.2.1 y.2.2.1 = true → trDefault y.2.2.1 = false → s.copyOutRow o.id t b tile first rows (i, k) = put s y.2.1 false) ∧
        (y.2.2.2 = false → trPoisoned y.2.2.1 = false → markGood b y.2.1 y.2.2.1 = false → s.copyOutRow o.id t b tile first rows (i, k) =
          (s.witnessBad (some o) o.p o.bindNo y.1.slot).endOrder o.id 0x11 t) ∧
        (y.2.2.2 = true ∨ trPoisoned y.2.2.1 = true → ∃ u : State, s.copyOutRow o.id t b tile first rows (i, k) = (put u y.2.1 true).endOrder o.id 0x10 t ∧ u.writes = s.writes ∧ u.reads = s.reads)))

/-- A SCORE, and a RECALL in its first phase, ready on a bench of its jig whose queries are read and whose next step no fault
holds, waits for room in the accumulator store, and with it begins its work there with step 0, or goes on, and makes the next
step of the bench. The next step of a bench takes its array when that is free, loads its stationary block there, drops
resident rows that were lost, reads the rows of the tile that are not resident, and scores a dimension block once every row
has come; with no step left the work there ends. Scoring ends the order with POISONED on a poisoned row and with WITNESS_FAIL
on one whose mark fails, and with POISONED and the tile where an error struck its sums; else the block of scores of every
query and candidate, added from the second dimension block on to the sums so far, is kept while blocks are left, and the last
one finishes the tile. A RECALL in its second phase pools the oldest delivered tile of the survivors, is done with the last
query row, and sends the combined writes of a bench that has issued its last. ACC_LOAD of a whole record in the session's
name writes its words to the slot, added to those there with accumulate, and counts it; an addition onto a tile that an error
struck, and a poisoned record, end the order with POISONED, and one whose checksum or header fails is posted as WITNESS_BAD
and ends it with WITNESS_FAIL. ACC_STORE writes the record of the slot, releases and clears the slot with bit 0 of its flags,
and ends the order with POISONED where the tile was. -/
def Obligations.StrainerOrdersStep : Prop :=
  ∀ (s : State) (o : Order), s.order? o.id = some o →
    (∀ b j x, o.jig = some j → o.aux = some x → o.status = none → o.phase = .running → o.stopping = false → o.stepHeld ((s.nextStep o b).map (fun y => y.2.2)) = false → o.phase2 = false →
      b ∈ setBits j.benchMask → s.sessionRuns o = true → s.benchReady b = true → s.mayReadRows o = true → s.resetting o.p = false → s.readHeader o.id b = (s, .ok) → s.readQueries o.id b = (s, .ok) →
      (o.name = some .score ∨ o.name = some .recall) →
      let fin := fun (z : State) => if o.name = some .score then pump z else pump z.suspects
      ∃ c : Instr, c = (if o.name = some .score then .score o.id b else .recallRows o.id b) ∧
        (s.roomOn o b = false → exec c s = .next (fin s)) ∧
        (s.roomOn o b = true → ∃ u : State, ∃ v : Order, u.order? o.id = some v ∧ exec c s = .next (fin (u.strainTile o.id b v j x)) ∧
          ∃ f : Order → Order, f = (fun y => { y with steps := if y.steps.any (fun z => z.1 == b) then y.steps else y.steps ++ [(b, 0)], rooms := if y.rooms.contains b then y.rooms else y.rooms ++ [b] }) ∧
            u = s.upOrder o.id f ∧ v = f o)) ∧
    (∀ b, o.name = some .recall → o.phase2 = true → exec (.recallRows o.id b) s = .next (pump (((s.recallPool o.id b).recallDone o.id).settle o.id).suspects)) ∧
    (∀ c, s.ctx? o.p o.session = some c → s.accReady o .accLoad c = true → o.saved = [] →
      (∀ held, held = ((c.tiles.find? (fun x => x.slot == o.accSlot o.count)).map AccTile.rows).getD 0 →
        o.accRows ≤ held ∨ s.storeUsed c.home o.id + (o.accRows - held) * 1024 ≤ storeBytes) →
      ∀ u v bad, s.readArea o.id c.home (o.accAt o.count) (tileBytes o.accRows) 5 = (u, some (v, bad)) →
        let slot := o.accSlot o.count
        (bad = true ∨ v.testBit 24 = true → exec (.accLoad o.id) s = .next (pump (u.endOrder o.id 0x10 slot))) ∧
        (bad = false → v.testBit 24 = false → tileGood v o.accRows o.session = false → exec (.accLoad o.id) s = .next (pump ((u.blockBad o (o.accAt o.count)).endOrder o.id 0x11 slot))) ∧
        (bad = false → v.testBit 24 = false → tileGood v o.accRows o.session = true → ∃ y : AccTile, y.slot = slot ∧ y.rows = o.accRows ∧ y.fp = o.accFp ∧
          y.vals = (if (o.f 39 1).testBit 0 then List.zipWith (addWord o.accFp) (c.slotOf o.id slot o.accRows o.accFp).vals (tileWords v o.accRows) else tileWords v o.accRows) ∧
          ∃ w : State, w = (u.upCtx o.p o.session (fun c => { c with tiles := c.tiles.filter (fun z => z.slot != y.slot) ++ [y] })).upOrder o.id
            (fun p => { p with count := o.count + 1, acted := decide (o.count + 1 = p.f 34 2) }) ∧
          exec (.accLoad o.id) s = .next (pump (if (o.f 39 1).testBit 0 = true ∧ (c.slotOf o.id slot o.accRows o.accFp).poisoned = true then w.endOrder o.id 0x10 slot else w)))) ∧
    (∀ c, s.ctx? o.p o.session = some c → s.accReady o .accStore c = true → o.saved = [] →
      ∀ u t1, s.needPages o.id { t := 0xFFFFFFFF, bench := c.home } [{ ea := o.accAt o.count, len := tileBytes o.accRows, write := true, kind := 4 }] = (u, t1, .ok) →
        ∃ v w : State, ∃ x : AccTile, x = c.slotOf o.id (o.accSlot o.count) o.accRows o.accFp ∧
          v = u.writeStraight (some c.home) o.p u.cfg.epoch (.order o.id) (t1.pieces (o.accAt o.count) (tileBytes o.accRows))
            (tileRecord (o.accSlot o.count) c.home o.accRows o.session x.poisoned (x.vals.any (wordInf x.fp)) x.vals) (u.spaceAt o.p (o.f 24 8)) ∧
          w = (if (o.f 39 1).testBit 0 then v.upCtx o.p o.session (fun c => { c with tiles := c.tiles.filter (fun y => y.slot != o.accSlot o.count), cleared := o.accSlot o.count :: c.cleared.erase (o.accSlot o.count) }) else v).upOrder o.id
            (fun p => { p with count := o.count + 1, acted := decide (o.count + 1 = p.f 34 2) }) ∧
          exec (.accStore o.id) s = .next (pump (if x.poisoned then w.endOrder o.id 0x10 (o.accSlot o.count) else w))) ∧
    (∀ b v j x, (s.nextStep v b = none → s.strainTile o.id b v j x = s.strainFinish o.id b) ∧
      (∀ k d t, s.nextStep v b = some (k, d, t) →
        (s.arrayFree v b = false → s.strainTile o.id b v j x = s) ∧
        (s.arrayFree v b = true →
          (∀ tile first l pos, v.tile? t = some tile → v.tileSpan t = some (first, l, pos) → tile.delivered = false → s.strainTile o.id b v j x = s.loadArray v j b) ∧
          (∀ tile first l pos, v.tile? t = some tile → v.tileSpan t = some (first, l, pos) → tile.delivered = true →
            ∃ w : State, w = (s.loadArray v j b).dropBadRows v b tile.elems ∧ s.strainTile o.id b v j x = w.strainRows o.id b d t first j x (tile.slots.filter (w.gathered v b)) tile)))) ∧
    (∀ b d t first j x slots (tile : Tile),
      (s.tileRows o { tile with slots := slots } x = none ∨ (∃ r ∈ slots, r.slot ∉ tile.got) → s.strainRows o.id b d t first j x slots tile = s.issueRows o.id t) ∧
      (∀ rows, s.tileRows o { tile with slots := slots } x = some rows → (∀ r ∈ slots, r.slot ∈ tile.got) → o.saved = [] → s.strainRows o.id b d t first j x slots tile =
        s.runStep o.id b (((o.steps.find? (fun y => y.1 == b)).map Prod.snd).getD 0) d tile first j x rows none)) ∧
    (∀ b n d first (tile : Tile) (j : Jig) (x : Binding) (rows : List (RowAt × ℕ × ℕ × Bool)),
      let bad := rows.find? (fun r => r.2.2.2 || trPoisoned r.2.2.1 || !markGood x r.2.1 r.2.2.1)
      (∀ r, bad = some r → (r.2.2.2 = true ∨ trPoisoned r.2.2.1 = true) → ∃ u : State, s.runStep o.id b n d tile first j x rows none = u.endOrder o.id 0x10 0) ∧
      (∀ r, bad = some r → r.2.2.2 = false → trPoisoned r.2.2.1 = false → s.runStep o.id b n d tile first j x rows none = (s.witnessBad (some o) o.p o.auxNo r.1.slot).endOrder o.id 0x11 0) ∧
      (bad = none → j.transposed = false → o.badSels = [] →
        let scored := s.candidates o b x tile rows
        let u := if j.resident then s.useSet o b else s
        let flagged := (tile.elems.filter (fun i => rows.any (fun r => r.1.row == i && trDefault r.2.2.1))).length
        let v := if d = 0 then u.countDefaults o.id ((scored.filter Option.isNone).length + flagged) else u
        let block := ((s.stationary o j b).map (queryCodes j)).map (fun q => scored.map (fun y => match y.map x.codes with | some k => blockScore j d k q | none => 0))
        let old := o.scoreTiles.find? (fun y => y.bench == b && y.t == tile.t)
        let sum := match old with | some y => List.zipWith (List.zipWith (addWord j.fpAcc)) y.vals block | none => block
        (d ≠ 0 → old.any ScoreTile.poisoned = true → s.runStep o.id b n d tile first j x rows none = v.endOrder o.id 0x10 tile.t) ∧
        (d = 0 → 1 < tile.left → s.runStep o.id b n d tile first j x rows none = (v.upOrder o.id (fun y => { y with
          scoreTiles := y.scoreTiles.filter (fun z => !(z.bench == b && z.t == tile.t)) ++ [{ bench := b, t := tile.t, fp := j.fpAcc, vals := block }] })).leaveStep o.id b n tile) ∧
        (d ≠ 0 → old.any ScoreTile.poisoned = false → 1 < tile.left → s.runStep o.id b n d tile first j x rows none = (v.upOrder o.id (fun y => { y with
          scoreTiles := y.scoreTiles.filter (fun z => !(z.bench == b && z.t == tile.t)) ++ [{ bench := b, t := tile.t, fp := j.fpAcc, vals := sum }] })).leaveStep o.id b n tile) ∧
        (d ≠ 0 → old.any ScoreTile.poisoned = false → tile.left ≤ 1 → ∃ w : State, w = v.upOrder o.id (fun y => { y with
          scoreTiles := y.scoreTiles.filter (fun z => !(z.bench == b && z.t == tile.t)), saved := y.saved.filter (fun z => !(z.2.1 == tile.t && z.2.2 == b)) }) ∧
          s.runStep o.id b n d tile first j x rows none = (w.finishTile o.id b tile first j.fpAcc scored sum).leaveStep o.id b n tile)))

/-- For a running order and a delivered tile that is not worked, in its turn on its bench. SCATTER_MERGE, with the pages of the
records it spills translated, puts each gradient row into its lane, writes those records, counts merges, spills and defaults
and marks the tile worked; APPEND_ROWS, once the rows of the tile are entered and read in each of its tables, writes them
after the rows that the table has. A position in the table is added to the fragment of its row in its lane, or starts one in
a free slot, or, with the lane full, spills the fragment added to longest ago under the next number of its lane; a position
outside the table counts as a default. MERGE_POINT, once every tile is consumed and the order may read rows, begins the merge
and applies one row, the next of an owner that no fault holds; with no such row it changes nothing more. A row is entered,
and once no write or read of its slot is under way and its lines, spilled fragments and state entry are there it is applied:
a poisoned row or state entry ends the order with POISONED and the row, a failed mark with WITNESS_FAIL; a poisoned fragment
sets the poisoned flag of the row and keeps its payload; else the rule of the binding on the merged gradient gives the new
row, written with the next version to all its places. An append writes the rows up to the first that is poisoned, which ends
the order with POISONED and the position. WC_FLUSH sends the oldest combined write of a bench: it leaves the buffer and waits
at its face with its mask and bytes. -/
def Obligations.GlueUpWorksItsTiles : Prop :=
  ∀ (s : State) (o : Order), s.order? o.id = some o →
    (∀ b t tile first len pos, o.status = none → o.phase = .running → o.binding = some b → o.tile? t = some tile → o.tileSpan t = some (first, len, pos) →
      tile.delivered = true → tile.worked = false → s.benchTurn o t = true →
      (∀ j v t2, o.name = some .scatter → o.jig = some j → o.faultAt t = false →
        s.needPages o.id tile ((s.scatter o b j tile first len).spills.map (fun y =>
          { ea := spillAt j (o.spill.getD ⟨0, 0⟩) b.elems y.2.bench y.2.lane y.1, len := spillBytes b.elems, write := true, kind := 6 })) = (v, t2, .ok) →
        exec (.scatterMerge o.id t) s = .next (pump (v.scattered o.id o b j t2 len (s.scatter o b j tile first len)))) ∧
      (∀ u, o.name = some .append → s.mayReadRows o = true →
        (s.appendTables o b).foldl (fun (st : State × Need) x => if st.2 = .stop then st else
          ((st.1.prepRows o.id tile x.bind x.no x.map (tile.slots.filter (fun r => r.aux == x.aux)) false).1,
            if (st.1.prepRows o.id tile x.bind x.no x.map (tile.slots.filter (fun r => r.aux == x.aux)) false).2 = .ok then st.2
            else (st.1.prepRows o.id tile x.bind x.no x.map (tile.slots.filter (fun r => r.aux == x.aux)) false).2)) (s, .ok) = (u, .ok) →
        exec (.appendRows o.id t) s = .next (pump (u.appendWrite o.id o tile first len (s.appendTables o b))))) ∧
    (∀ j, o.name = some .scatter → o.status = none → o.phase = .running → o.jig = some j → s.resetting o.p = false →
      let next := ((setBits j.benchMask).filterMap (fun b => o.rowsLeft.find? (fun r => rowOwner j r == b))).filter (fun r => !o.mergeHeld.any (fun x => x.1 == r))
      (o.watermark < o.tileCount ∨ s.mayReadRows o = false → exec (.mergePoint o.id) s = .next (pump s.suspects)) ∧
      (o.tileCount ≤ o.watermark → s.mayReadRows o = true → next = [] → exec (.mergePoint o.id) s = .next (pump (s.upOrder o.id (fun o => { o with merging := true })).suspects)) ∧
      (∀ r l, o.tileCount ≤ o.watermark → s.mayReadRows o = true → next = r :: l →
        let u := (s.upOrder o.id (fun o => { o with merging := true })).mergeRow o.id r
        (u.2 = true → exec (.mergePoint o.id) s = .next (pump u.1.suspects)) ∧ (u.2 = false → l = [] → exec (.mergePoint o.id) s = .next (pump u.1.suspects)))) ∧
    (∀ b e l, (s.bench b).wc = e :: l → exec (.wcFlush b) s = .next (pump (s.flushEntry b e))) ∧
    (∀ b, (s.bench b).wc = [] → exec (.wcFlush b) s = .next (pump s)) ∧
    (∀ b e, e.owns ≠ [] → e.owns.any WriteFor.isRow = false → s.flushEntry b e = { (s.upBench b (fun x => { x with wc := x.wc.erase e })).fresh with
      writes := s.writes ++ [{ id := s.nextId, own := e.owns.headD (.restore e.part), also := e.owns.tail, face := e.face, line := e.line, mask := e.mask, bytes := e.bytes, part := e.part, bench := some b, space := e.space }] }) ∧
    (∀ b e, e.owns ≠ [] → e.owns.any WriteFor.isRow = true → s.badCopy e.part e.line = false → ∃ w : WriteReq, w.owners = e.owns ∧ w.line = e.line ∧ w.mask = e.mask ∧ w.bytes = e.bytes ∧
      w.poison = false ∧ w.part = e.part ∧ w.face = e.face ∧ w.modl = none ∧ (s.flushEntry b e).writes = s.writes ++ [w] ∧ ((s.flushEntry b e).bench b).wc = ((s.bench b).wc.erase e)) ∧
    (∀ (x : Scat) j e bench pos row grad bad,
      let here := fun (f : Frag) => f.bench == bench && f.lane == laneOf j pos && f.spilled.isNone
      let fresh : Frag := { bench := bench, lane := laneOf j pos, row := row, count := 1, acc := List.zipWith fadd (List.replicate e f32zero) grad, lastPos := pos, poisoned := bad }
      ((∃ f ∈ x.frags, here f = true ∧ f.row = row) → x.add j e bench pos row grad bad = { x with joined := x.joined + 1, frags := x.frags.map (fun f =>
        if here f && f.row == row then { f with acc := List.zipWith fadd f.acc grad, count := f.count + 1, lastPos := pos, poisoned := f.poisoned || bad } else f) }) ∧
      ((∀ f ∈ x.frags, here f = true → f.row ≠ row) → (x.frags.filter here).length < laneSlots j e → x.add j e bench pos row grad bad = { x with frags := x.frags ++ [fresh] }) ∧
      (∀ v, (∀ f ∈ x.frags, here f = true → f.row ≠ row ∧ v.lastPos ≤ f.lastPos ∧ (f.lastPos = v.lastPos → f = v)) → v ∈ x.frags → here v = true → v.lastPos ≤ pos → laneSlots j e ≤ (x.frags.filter here).length →
        ∃ k, k = ((x.counts.find? (fun c => c.1 == bench && c.2.1 == laneOf j pos)).map (fun c => c.2.2)).getD 0 ∧
          (x.add j e bench pos row grad bad).spills = x.spills ++ [(k, v)] ∧
          (x.add j e bench pos row grad bad).frags = x.frags.map (fun f => if f = v then { f with acc := [], spilled := some k } else f) ++ [fresh] ∧
          (x.add j e bench pos row grad bad).counts = x.counts.filter (fun c => !(c.1 == bench && c.2.1 == laneOf j pos)) ++ [(bench, laneOf j pos, k + 1)])) ∧
    (∀ (b : Binding) j (tile : Tile) first, (s.scatter o b j tile first 0).frags = o.frags ∧ (s.scatter o b j tile first 0).spills = [] ∧ (s.scatter o b j tile first 0).counts = o.spills ∧
      ∀ k, let x := s.scatter o b j tile first k
        let row := tile.elems.getD k 0
        (b.rowCount ≤ row → s.scatter o b j tile first (k + 1) = { x with defaults := x.defaults + 1 }) ∧
        (row < b.rowCount → ∀ g bad, s.pieceBytes (.tile o.id tile.t) (tile.pieces (o.source false (first + k)) (o.gradBytes b)) = some (g, bad) → s.scatter o b j tile first (k + 1) =
          x.add j b.elems tile.bench (first + k) row ((List.range b.elems).map (fun i => elemF32 (o.f 44 1) (elemCode (o.f 44 1) g i))) bad)) ∧
    (∀ (b : Binding) j (tile : Tile) len (x : Scat), ∃ u : State, u.order? o.id = some { o with defaults := o.defaults + x.defaults } ∧
      s.scattered o.id o b j tile len x = (u.upOrder o.id (fun z => { z.setTile { tile with worked := true } with frags := x.frags, spills := x.counts, count := z.count + len })).dropHeld (.tile o.id tile.t)) ∧
    (∀ (b : Binding) j r u, o.binding = some b → o.jig = some j →
      let sp := o.spill.getD ⟨0, 0⟩
      let lists := (setBits j.benchMask).map (fun x => o.fragsOf x r)
      (s.mergeEnter o.id o b j r = (u, none) → s.mergeRow o.id r = (u, false)) ∧
      (∀ y, s.mergeEnter o.id o b j r = (u, some y) →
        let x : Entered := ⟨y.tile, u.rowNow o y.tile b y.row⟩
        let keep := fun (v : State) (t : Tile) => v.upOrder o.id (fun z => { z with mergeTiles := z.mergeTiles.map (fun y => if y.1 = r then (r, t) else y) })
        (u.slotWriting o.id x.row.slot = true ∨ u.rowReadsOn o.p x.row.slot = true → s.mergeRow o.id r = (u, false)) ∧
        (u.slotWriting o.id x.row.slot = false → u.rowReadsOn o.p x.row.slot = false → ∀ v w z q t,
          u.readRow o x.tile b o.bindNo (u.mapFor o.p b o.smap) x.row true = (v, .ok) →
          v.readSpills o.id o j sp b.elems x (lists.flatten.filter (fun f => f.spilled.isSome)) = (w, t, .ok) →
          w.needLines (.upd o.id x.row.slot) o.p { bench := some t.bench, epoch := t.epoch, age := t.born, space := fun _ => t.under b.stateBase }
            (if b.update = 3 then pieceLines (t.pieces (b.stateAt r) 4) else []) = (z, .ok) →
          z.migReady o.p b r = (q, true) → s.mergeRow o.id r =
            (((keep q t).mergeApply o.id o b j ⟨t, x.row⟩ (lists.map (fun l => l.map (q.readFrag (.upd o.id x.row.slot) t j sp b.elems)))).settle o.id, true)))) ∧
    (∀ (b : Binding) j (x : Entered) lists payload tr bad, s.rowData (.upd o.id x.row.slot) x.tile b x.row = some (payload, tr, bad) →
      let quit := fun (v : State) => v.untrackDone o.p o.id o.bindNo x.row.row
      let good := bad = false ∧ trPoisoned tr = false ∧ markGood b payload tr = true
      (bad = true ∨ trPoisoned tr = true → ∃ v : State, s.mergeApply o.id o b j x lists = (quit v).endOrder o.id 0x10 x.row.row ∧ v.writes = s.writes ∧ v.benches = s.benches) ∧
      (bad = false → trPoisoned tr = false → markGood b payload tr = false → s.mergeApply o.id o b j x lists = (quit (s.witnessBad (some o) o.p o.bindNo x.row.slot)).endOrder o.id 0x11 x.row.row) ∧
      (good → b.update = 3 → (∀ v, s.pieceBytes (.upd o.id x.row.slot) (x.tile.pieces (b.stateAt x.row.row) 4) = some (v, true) →
        s.mergeApply o.id o b j x lists = (quit s).endOrder o.id 0x10 x.row.row)) ∧
      (good → b.update ≠ 3 → o.struck = [] → ∀ places mig, s.rowTargets o.p b x.row tr = (places, mig) →
        let put := fun (p t : ℕ) => s.putRow o.id o.p o.bindNo b (s.mapFor o.p b o.smap) x.tile x.row.row places p t true []
        (lists.flatten.any Frag.poisoned = true → s.mergeApply o.id o b j x lists =
          ((put payload (trailerOf (trWitness tr) (trVersion tr) true (trDefault tr) (trMigrating tr))).rowPoisoned o.p o.bindNo x.row.row x.row.slot).endOrder o.id 0x10 x.row.row) ∧
        (lists.flatten.any Frag.poisoned = false → ∃ es num, ∃ v : State,
          es = (applyRule b ((b.codes payload).map (elemF32 b.fmt)) (mergeGrad b.elems lists) 0).1.map (fun y => outF b.fmt y (finiteNonzero y)) ∧
          v = ((put (packCodes (elemBits b.fmt) (es.map OutElem.code)) (trailerOf (rowWitness (packCodes (elemBits b.fmt) (es.map OutElem.code)) b.rowBytes b.tableId) (trVersion tr + 1) false false mig)).countBind o.p o.bindNo 7 1) ∧
          s.mergeApply o.id o b j x lists = ((v.upOrder o.id (fun z => { z.addTile num b.fmt es with merged := z.merged ++ [x.row.row], mergeTiles := z.mergeTiles.filter (fun y => y.1 != x.row.row) })).quitUpd
            o.id (· == x.row.slot)).checkBehind o.id num (fun _ t => t / 65536 == num / 65536)))) ∧
    (∀ (b : Binding) (x g : List F32) a, (b.update = 1 → applyRule b x g a = (List.zipWith fadd x g, a)) ∧
      (b.update = 2 → applyRule b x g a = (List.zipWith (fun v y => ffma (fneg b.learnRate) y v) x g, a)) ∧
      (b.update = 3 → ∃ n, n = fadd a (fdiv (g.foldl (fun s y => ffma y y s) f32zero) (f32ofNat b.elems)) ∧
        applyRule b x g a = (List.zipWith (fun v y => ffma (fneg (fdiv b.learnRate (fadd (fsqrt n) b.epsilon))) y v) x g, n))) ∧
    (∀ (tile : Tile) first len tables,
      let c : Consumer := .tile o.id tile.t
      let row := fun (x : AppendTo) (i : ℕ) => s.pieceBytes c (tile.pieces (o.source x.aux (first + i)) x.bind.rowBytes)
      ∀ k, k ≤ len → (∀ i < k, ∀ x ∈ tables, ∃ v, row x i = some (v, false)) → (k < len → ∃ x ∈ tables, row x k = none ∨ ∃ v, row x k = some (v, true)) →
        ∃ u v : State, u = tables.foldl (fun s x => s.putRows o.id tile x.bind x.no x.map
          ((((tile.slots.filter (fun r => r.aux == x.aux)).zipIdx).take k).map (fun y => (y.1, ((row x y.2).map Prod.fst).getD 0))) true) s ∧
          v = (((u.setTile o.id { tile with worked := true }).upOrder o.id (fun z => { z with count := z.count + k })).dropHeld c).quitUpd o.id
            (fun slot => tables.any (fun x => tile.slots.any (fun r => (r.readPlaces x.bind o.jig).any (fun y => y.slot == slot)))) ∧
          s.appendWrite o.id o tile first len tables = (if k < len then v.endOrder o.id 0x10 (first + k) else v).settle o.id)

/-- TILE_DELIVER of a tile in reach, with its elements held, translates what the tile uses; with pages to come it only keeps what
it has. With every page there, its turn and its share of the merge buffer free, and its source rows held, the tile is
delivered under the present epoch, with its outputs' pages kept, and its rows are issued. TILE_CONSUMED of a worked tile, all
of whose reads or writes are issued where it is of PREFETCH or COPY_ROWS, marks it consumed, counts its lookups, closes its
window and advances the watermark, and tiles now within the row distance read their rows, and an order that a PARK stops ends
where it may; again it changes nothing. FAULT_RECORD_WRITE of a fault found and not numbered, with a fault_id free, makes it
pending under the lowest, discards what its stream had fetched from its tile on, counts it and queues its record.
STREAM_QUIESCE changes nothing while a delivered tile is in use; of a stream whose fault is recorded, at a watermark that has
reached its tile, it writes the descriptor back as faulted. -/
def Obligations.TilesAreDeliveredAndConsumed : Prop :=
  ∀ (s : State) (o : Order), s.order? o.id = some o →
    (∀ t first len pos tile x, o.phase = .running → o.status = none →
      let s1 := if o.bagsKnown then s else s.readBags o.id t 16
      s1.order? o.id = some x → x.id = o.id → x.status = none → x.needsBags t = false → x.tileSpan t = some (first, len, pos) →
      let b := s1.tileBench x t pos
      let s0 := s1.powerUp b
      let near := fun (n : Nat) => s0.openBefore x t ≤ n ∨ s0.preloads x t = true
      s0.mayPrepare x t b = true → near x.pagesAhead → x.tile? t = some tile → tile.elems ≠ [] →
      ∃ u : State, ∃ y : Order, u = s0.upOrder o.id (fun z => (z.setTile tile).setTile tile) ∧ y = (x.setTile tile).setTile tile ∧
        (let slots := u.tileSlots y first len tile.elems
         (∀ v t1, u.needPages o.id tile (u.tileAccesses y tile.t first len tile.elems slots) = (v, t1, .wait) → exec (.tileDeliver o.id t) s = .next (pump (v.setTile o.id t1))) ∧
         (∀ v t1 w t2, u.needPages o.id tile (u.tileAccesses y tile.t first len tile.elems slots) = (v, t1, .ok) →
           v.mayDeliver y tile.t tile.bench = true → v.shareFree y tile.bench = true →
           v.tileNeeds y t1 (State.sourceLines y t1 first len) (v.sourceSpace y t1 first len) = (w, t2, .ok) →
           ∃ (r : State) (outs : List (Nat × Space × List (Nat × Nat))) (off : Option Int) (left : Nat),
             outs = (w.tileOuts y tile.t first len).map (fun x => (x.1, (⟨eaTag x.2.1, (w.part y.p).invGen, 0⟩ : Space), t2.pieces x.2.1 x.2.2)) ∧
             off = (if y.offset.isSome then y.offset else some (w.takeOffset y)) ∧ left = (if y.keyed && !t2.consumed then (y.jig.map Jig.blocks).getD 1 else t2.left) ∧ r = w.upOrder o.id (fun o =>
               ({ o.goLive with offset := off, outPa := o.outPa.filter (fun (x : Nat × Space × List (Nat × Nat)) => !outs.any (fun y => y.1 == x.1)) ++ outs }.takeShare tile.bench).setTile
                 { t2 with delivered := true, epoch := w.cfg.epoch, gen := (w.part y.p).invGen, slots := slots, left := left }) ∧
             exec (.tileDeliver o.id t) s = .next (pump ((r.chestBoundary y.p tile.bench).issueRows o.id tile.t))))) ∧
    (∀ t tile, o.tile? t = some tile → (tile.worked = false ∨ tile.consumed = true ∨ s.tileIssued o tile = false) → exec (.tileConsumed o.id t) s = .next (pump s)) ∧
    (∀ t tile, o.tile? t = some tile → tile.worked = true → tile.consumed = false → s.tileIssued o tile = true → ∃ u v : State,
      u = (if o.hasDrive || o.name == some .gather then (s.countBind o.p o.rowBindNo 2 tile.elems.length).countSess o.p o.session 4 tile.elems.length else s) ∧
      v = ((((u.upOrder o.id (fun o => o.setTile { tile with consumed := true })).closeWindow o.id tile.bench (s.windowOf o t)).upOrder o.id
        (fun o => o.advance 65)).chestBoundary o.p tile.bench).passBoundary o tile.bench ∧
      ∀ x, v.order? o.id = some x → exec (.tileConsumed o.id t) s =
        .next (pump ((((x.tiles.filter (fun y => y.delivered && !y.issued && !y.worked)).foldl (fun s y => s.issueRows o.id y.t)
          (((x.ptiles.filter (fun y => !y.checked && x.tileWhole y.t)).map PTile.t).foldl (fun s y => s.checkTile o.id y) v)).stopNow o.id).settle o.id))) ∧
    (∀ f id, s.resetting o.p = false → o.faults.find? (fun x => x.id.isNone && (o.status.isNone || x.info.access == 3)) = some f →
      freeTag ((s.part o.p).faults.map PFault.id) 1024 0 = some id →
      exec (.faultRecordWrite o.id) s = .next (pump ((((((s.upPart o.p (fun y =>
          { y with faults := y.faults ++ [{ id := id, order := some o.id, stream := f.info.stream, tag := eaTag f.info.addr, va := eaVa f.info.addr }] })).upOrder o.id
        (fun o => o.numberFault f id)).discardFrom o.id f.info.tile).countPart o.p 14 1).countSess o.p o.session 9 1).queueRecord o.p 32
          (faultBytes o f.info id) false))) ∧
    ((∀ x ∈ o.faults, x.id.isSome = true ∨ (o.status.isSome = true ∧ x.info.access ≠ 3)) → exec (.faultRecordWrite o.id) s = .next (pump s)) ∧
    (o.phase = .running ∨ o.phase = .stage3 → o.status = none → s.resetting o.p = false →
      ((∃ t ∈ o.tiles, t.inUse = true) → exec (.streamQuiesce o.id) s = .next (pump s)) ∧
      (∀ x u, (∀ t ∈ o.tiles, t.inUse = false) → o.streams.filter (fun x => o.quiescedAt x && !x.faulted) = [x] →
        s.backStream o.id x (o.descBytes x (1 + 2 * b2n x.live + 8)) = (u, true) → exec (.streamQuiesce o.id) s =
          .next (pump (u.upOrder o.id (fun o => o.setStream x.field (fun y => { y with faulted := true, written := true }))))) ∧
      (∀ x pg, x.back = some pg → o.stream? x.field = some x → s.backStream o.id x (o.descBytes x (1 + 2 * b2n x.live + 8)) =
        (s.postBytes (.desc o.id) o.p (some (s.issueBench o)) (pg * 4096 + eaAdd x.addr 44 % 4096) 20 (o.descBytes x (1 + 2 * b2n x.live + 8)) (s.spaceAt o.p x.addr), true)))

/-- SESSION_STEEPING of a warming session whose home bench is ready puts its context on the bench when it is the turn of its
partition to move one, and the session steeps once the order that woke it has done its stage 3; otherwise it changes nothing.
It is the turn of a partition when no partition that comes before it, after the one served last, has a context to move.
SLICE_EXPIRE, with a slice set, a wake waiting and no slot free, makes the session that has been steeping longest leave,
never one with a live SCATTER_MERGE or APPEND_ROWS; otherwise it changes nothing. SESSION_PARKED of a leaving session that
runs no order, in the turn of its partition, frees its slot and serves the wakes that wait; with an order ending or being
stopped it changes nothing. Freeing the slot of a leaving session parks it, off its bench and without its tiles, and counts
the park. HINT_IDLE of a hinted, steeping session without an order makes it evictable. Under a reset of the partition that
acts the four change nothing. -/
def Obligations.SessionsWarmSteepAndLeave : Prop :=
  ∀ (s : State) (p n : Nat),
    (∀ c, s.ctx? p n = some c → c.state = .warming → s.benchReady c.home = true → s.resetting p = false →
      let moved (u : State) : State := (u.upCtx p n (fun c => { c with contextIn := true })).maybeSteep p n
      (c.contextIn = true → exec (.sessionSteeping p n) s = .next (moved s)) ∧
      (c.contextIn = false → s.cupFor p = true → exec (.sessionSteeping p n) s = .next (moved { s with cupTurn := p })) ∧
      (c.contextIn = false → s.cupFor p = false → exec (.sessionSteeping p n) s = .next s)) ∧
    (∀ c, s.ctx? p n = some c → (c.state ≠ .warming ∨ s.benchReady c.home = false ∨ s.resetting p = true) → exec (.sessionSteeping p n) s = .next s) ∧
    (s.cupFor p = true ↔ ∀ c ∈ s.ctxs, s.moveReady c = true → (p + 8 - s.cupTurn - 1) % 8 ≤ (c.p + 8 - s.cupTurn - 1) % 8) ∧
    (∀ c, s.ctx? p n = some c → c.state = .warming → c.contextIn = true → s.stage3Done c = true → s.draining = false →
      s.maybeSteep p n = s.fresh.upCtx p n (fun c => { c with state := .steeping, lastChange := s.clk.count, steepSince := s.nextId })) ∧
    (∀ c, s.ctx? p n = some c → c.contextIn = false ∨ s.stage3Done c = false → s.maybeSteep p n = s) ∧
    ((s.part p).waits = [] ∨ (s.part p).slice = 0 ∨ s.freeSlot p = true ∨ s.resetting p = true → exec (.sliceExpire p) s = .next s) ∧
    ((s.part p).waits ≠ [] → (s.part p).slice ≠ 0 → s.freeSlot p = false → s.resetting p = false →
      let open_ (c : Ctx) : Prop := c ∈ s.ctxs ∧ c.p = p ∧ c.state = .steeping ∧ ∀ o ∈ s.orders, o.p = p → o.session = c.session → o.op ≠ 0x04 ∧ o.op ≠ 0x05
      (∀ c, open_ c → ∃ v, open_ v ∧ (∀ d, open_ d → v.steepSince ≤ d.steepSince) ∧ exec (.sliceExpire p) s = .next (s.leaveSlot p v.session 1)) ∧
      ((∀ c, ¬open_ c) → exec (.sliceExpire p) s = .next s)) ∧
    (∀ c, s.ctx? p n = some c → c.state = .leaving → s.resetting p = false → (∀ o ∈ s.sessionOrders p n, o.phase ≠ .ending ∧ (o.stopping = false ∨ o.status.isSome = true)) → s.runningOf p n = none →
      s.savePending p n = false → c.preemptOrder = none →
      (s.cupFor p = true → exec (.sessionParked p n) s =
        .next (pump (((({ s with cupTurn := p }.rewindOthers p n s.nextId).dropSlot p n).releaseIf p n).serve p))) ∧
      (s.cupFor p = false → exec (.sessionParked p n) s = .next (pump s))) ∧
    (∀ c, s.ctx? p n = some c → (∃ o ∈ s.sessionOrders p n, o.phase = .ending ∨ (o.stopping = true ∧ o.status = none)) → exec (.sessionParked p n) s = .next (pump s)) ∧
    (∀ c, s.ctx? p n = some c → c.state = .leaving → (s.dropSlot p n).ctx? p n = some { c with state := .parked, home := 0xFF, tiles := [], cleared := [], contextIn := false, wakeOrder := none, hinted := false, lastChange := s.clk.count, ctrs := bump c.ctrs 10 1 }) ∧
    (∀ c, s.ctx? p n = some c → (c.state ≠ .leaving ∨ s.resetting p = true) → exec (.sessionParked p n) s = .next (pump s)) ∧
    (∀ c, s.ctx? p n = some c → c.hinted = true → c.state = .steeping → s.sessionOrders p n = [] → s.resetting p = false →
      exec (.hintIdle p n) s = .next ((s.upCtx p n (fun c => { c with hinted := false })).serve p)) ∧
    (∀ c, s.ctx? p n = some c → (c.hinted = false ∨ c.state ≠ .steeping ∨ s.sessionOrders p n ≠ [] ∨ s.resetting p = true) → exec (.hintIdle p n) s = .next s)

/-- ORDER_COMPLETE of an order that is not finished, behind a live order of its session, or of a partition whose reset acts,
changes nothing. Else its combined writes are flushed, and while a write of it is not acknowledged it waits. With none left
the streams are written back, and with those acknowledged its completion is queued, what it held is freed, and its session
counts it. In each case walks that wait may begin. The completion holds the status decided, or OK, or OK_FLAGGED where the
scale or a plausibility bound is flagged; the opcode; bit 1 of flags for a flagged scale and bit 2 for a plausibility hit of
an order that was not refused or stopped, and bit 3 for default rows served; ring, session, entry and user data of the order;
the count of its opcode; and as detail that of its status, or for OK the default rows, the spill records, the first value
row, or 0. It is queued on the ring's completion ring with the order freed, and its session counts the order; a TABLE_PAUSE
that is OK then leaves its binding paused and drained. Written at the tail of its ring, it has the phase in bit 0 of flags
and the core-cycle stamp in bytes 24 to 31. READ_LIMITER_INTERVAL begins an interval of a window: its count of admitted lines
is 0, a new peak is in force, and the reads that waited go. -/
def Obligations.OrdersCompleteInSessionOrder : Prop :=
  ∀ (s : State) (o : Order), s.order? o.id = some o →
    let gives (t : State) : Prop := exec (.orderComplete o.id) s = .next (pump t.grantWalks)
    (o.status = none → s.finished o = false → gives s) ∧
    (s.resetting o.p = true ∨ (∃ i ∈ o.after, (s.order? i).isSome) → gives s) ∧
    ((o.status.isSome ∨ s.finished o = true) → s.resetting o.p = false → (∀ i ∈ o.after, s.order? i = none) →
      ((s.flushOrder o.id).owesWrites o = true → gives (s.flushOrder o.id)) ∧
      ((s.flushOrder o.id).owesWrites o = false → ∀ u v, u = (s.flushOrder o.id).endStreams o → u.order? o.id = some v →
        ((∃ x ∈ v.streams, x.ended = false) ∨ u.owesWrites v = true → gives u) ∧
        ((∀ x ∈ v.streams, x.ended = true) → u.owesWrites v = false → gives (u.complete o.id)))) ∧
    (∀ e, exec (.readLimiterInterval e) s = .next (pump (s.upWindow e (fun w => { w with admitted := 0, peakNow := w.peak })))) ∧
    (∀ v u, u = s.checkTiles o.id → u.order? o.id = some v → ∃ (st detail bytes : Nat) (scale : Option ScaleUpd) (w x : State),
      (st, detail) = (match v.status with | some y => y | none => (if v.flagged || !v.plausHits.isEmpty then 0x01 else 0x00, u.okDetail v)) ∧
      x = ((w.countPart v.p (statusIx st + 1) 1).freeOrder v).queueRecord v.p (16 + v.cq) bytes v.irqNow scale ∧
      s.complete o.id = (if v.name == some .pause && st = 0 then x.pauseDone v.p v.bindNo else x).sessionDone v st ∧
      bytes < 2 ^ 192 ∧ bytes % 2 ^ 8 = st % 2 ^ 8 ∧ bytes / 2 ^ 8 % 2 ^ 8 = v.op % 2 ^ 8 ∧
      bytes / 2 ^ 16 % 2 ^ 8 = 2 * b2n (st ≤ 0x12 && v.flagged) + 4 * b2n (st ≤ 0x12 && !v.plausHits.isEmpty) + 8 * b2n (v.defaults ≠ 0) ∧
      bytes / 2 ^ 24 % 2 ^ 8 = v.q % 2 ^ 8 ∧ bytes / 2 ^ 32 % 2 ^ 16 = v.session % 2 ^ 16 ∧ bytes / 2 ^ 48 % 2 ^ 16 = v.slot % 2 ^ 16 ∧
      bytes / 2 ^ 64 % 2 ^ 64 = v.user % 2 ^ 64 ∧ bytes / 2 ^ 128 % 2 ^ 32 = v.countField % 2 ^ 32 ∧ bytes / 2 ^ 160 % 2 ^ 32 = detail % 2 ^ 32) ∧
    ((o.name = some .gather → o.countField = o.bagsOut ∧ s.okDetail o = o.defaults) ∧ (o.name = some .recall → o.countField = o.outDone.length ∧ s.okDetail o = o.defaults) ∧
      (o.name = some .score → o.countField = (if o.acted then o.queryCount else 0) ∧ s.okDetail o = 0) ∧
      (o.name = some .scatter → o.countField = o.count ∧ s.okDetail o = (o.spills.map (fun x => x.2.2)).sum) ∧
      (o.name = some .append → o.countField = o.count ∧ ∀ c, s.ctx? o.p o.session = some c → s.okDetail o = c.valRows) ∧
      (∀ n ∈ [OpName.copy, .prefetch, .accLoad, .accStore], o.name = some n → o.countField = o.count ∧ s.okDetail o = 0) ∧
      (∀ n ∈ [OpName.advise, .park, .wake, .fence, .stats, .pause, .resume], o.name = some n → o.countField = 0 ∧ s.okDetail o = 0)) ∧
    (∀ (p c pa : Nat) (wr : Bool) (rec : Rec) (rest : List Rec) (u : State), c < 16 → (s.pq p (16 + c)).enabled = true → (s.pq p (16 + c)).free ≠ 0 → s.rstDie = none →
      (s.pq p (16 + c)).held = rec :: rest → rec.bytes < 2 ^ 192 →
      s.xlate p (eaAdd (s.pq p (16 + c)).base (32 * (s.pq p (16 + c)).tail)) true (.ring p (16 + c)) = (u, .ok pa wr) →
      ∃ (v : State) (r : Nat), r = rec.bytes + 2 ^ 16 * b2n (s.pq p (16 + c)).phase + 2 ^ 192 * s.stamp ∧
        s.pumpOne p (16 + c) = ((v.postLine (.record p (16 + c)) p (s.hostFace p) (pa / 128) (BitVec.ofNat 128 ((2 ^ 32 - 1) <<< (pa % 128)))
          (BitVec.ofNat 1024 (r <<< (8 * (pa % 128)))) false (if rec.now then some (ringVector (16 + c), false) else none) (u.spaceAt p (s.pq p (16 + c)).base)).scaleWritten p rec.scale, none))

/-- For an INT8 or INT4 output with se = s + o from 1 to 62, m below 2^31 and n at least 1: the elements of a pooled row with
INT32 accumulators are each requantised, with n as divisor under reduction 2 only. An infinite accumulator gives the infinity
code and counts nothing else. For a finite one, mag is |acc|·m and the divisor 2^se, or n·2^se under reduction 2; q is the
nearest integer to the quotient, ties away from zero on the magnitude, by the formulas of R226; above qmax (127, or 7) it is
qmax and a saturation is counted; 0 of an accumulator that is not 0 counts an underflow; and the code is that of q with the
sign of acc restored. -/
def Obligations.RequantisationRoundsTheMagnitude : Prop :=
  ∀ (fmt m s n : Nat) (o : Int), (fmt = 0 ∨ fmt = 1) → 1 ≤ s + o → s + o ≤ 62 → m < 2 ^ 31 → 1 ≤ n →
    let se := (s + o).toNat
    let qmax := if fmt = 0 then 7 else 127
    let bits := if fmt = 0 then 4 else 8
    (∀ (c : Pool) (p : Partial) (fp : F32), c.intAcc = true → p.count = n →
      c.finish fmt ⟨m, s, fp, o⟩ p = p.iacc.map (requant fmt m se (if c.red = 2 then some n else none))) ∧
    (∀ k, (requant fmt m se k none).code = 2 ^ (bits - 1) ∧ (requant fmt m se k none).sat = false ∧ (requant fmt m se k none).under = false) ∧
    (∀ (mean : Bool) (a : Int), a.natAbs < 2 ^ 31 →
      let mag := a.natAbs * m
      let den := if mean then n * 2 ^ se else 2 ^ se
      let r := requant fmt m se (if mean then some n else none) (some a)
      ∃ q : Nat, 2 * q * den ≤ 2 * mag + den ∧ 2 * mag + den < 2 * (q + 1) * den ∧
        (mean = false → q = (mag + 2 ^ (se - 1)) / 2 ^ se) ∧ (mean = true → q = (2 * mag + n * 2 ^ se) / (2 * (n * 2 ^ se))) ∧
        (r.sat = true ↔ qmax < q) ∧ (r.under = true ↔ q = 0 ∧ a ≠ 0) ∧ r.infinity = false ∧
        r.code = (if a < 0 ∧ min q qmax ≠ 0 then 2 ^ bits - min q qmax else min q qmax))

/-- An addition of finite accumulators is exact within plus and minus 2,147,483,647 and infinite outside; the code 0x8000_0000
loads as infinity, and every other code as its value. An addition, or a maximum, with an infinite operand is infinite; its
requantisation is the infinity code of the format, 0x8 of INT4 and 0x80 of INT8, whatever the scale and the divisor; its
rescaling by any positive factor is +infinity, and so is the output in FP8 E5M2, BF16 and FP32; none of them counts a
saturation; its conversion to FP32 is +infinity; and selection ranks it above every finite score. -/
def Obligations.AccumulatorsHoldTheirInfinity : Prop :=
  (∀ a b : Int, iadd (some a) (some b) = if -2147483647 ≤ a + b ∧ a + b ≤ 2147483647 then some (a + b) else none) ∧
  iaccRead 0x80000000 = none ∧ (∀ c < 2 ^ 32, c ≠ 0x80000000 → iaccRead c = some (if c < 2 ^ 31 then (c : Int) else c - 2 ^ 32)) ∧
  (∀ a : IAcc, iadd none a = none ∧ iadd a none = none ∧ imax none a = none ∧ imax a none = none) ∧
  (∀ a b : Int, imax (some a) (some b) = some (max a b)) ∧
  (∀ fmt m se n, (requant fmt m se n none).infinity = true ∧ (requant fmt m se n none).sat = false ∧ (requant fmt m se n none).under = false ∧
    (fmt = 0 ∨ fmt = 1 → (requant fmt m se n none).code = if fmt = 0 then 0x8 else 0x80)) ∧
  iaccF32 none = f32pinf ∧ (∀ f : F32, fltB f32zero f = true → fmul (iaccF32 none) f = f32pinf) ∧
  (∀ fmt, 2 ≤ fmt → fmt ≤ 5 → (outF fmt f32pinf false).infinity = true ∧ (outF fmt f32pinf false).sat = false) ∧
  (outF 3 f32pinf false).code = 0x7C ∧ (outF 4 f32pinf false).code = 0x7F80 ∧ (outF 5 f32pinf false).code = 0x7F800000 ∧
  (∀ c < 2 ^ 32, c ≠ 0x80000000 → ∃ x y, selKey false c = some x ∧ selKey false 0x80000000 = some y ∧ ∀ r q, selBefore (r, y) (q, x) = true)

/-- An event that concerns an order is queued with the ring, session and entry of the order, and any other with 0xFF, 0xFFFF and
0xFFFF. When the event ring is enabled with space and its entry's page is known, the oldest record is written as 32 bytes at
the tail of the ring: the code in bytes 0 and 1, the phase in bit 0 of byte 2 with the rest of it zero, sq in byte 3, session
in bytes 4 and 5, slot in bytes 6 and 7, arg0 in bytes 8 to 15, arg1 in bytes 16 to 23 and the core-cycle stamp in bytes 24
to 31. -/
def Obligations.EventRecordsHoldTheirFields : Prop :=
  (∀ (s : State) (p code a0 a1 : Nat), s.event p code a0 a1 = s.queueEvent p (eventBytes code 0xFF 0xFFFF 0xFFFF a0 a1) false) ∧
  (∀ (s : State) (o : Order) (code a0 a1 : Nat), s.orderEvent o code a0 a1 = s.queueEvent o.p (eventBytes code o.q o.session o.slot a0 a1) false) ∧
  (∀ (s : State) (p pa code sq session slot a0 a1 : Nat) (now wr : Bool) (sc : Option ScaleUpd) (rest : List Rec) (u : State),
    code < 2 ^ 16 → sq < 2 ^ 8 → session < 2 ^ 16 → slot < 2 ^ 16 → a0 < 2 ^ 64 → a1 < 2 ^ 64 →
    (s.pq p 33).enabled = true → (s.pq p 33).free ≠ 0 → (s.pq p 33).held = ⟨eventBytes code sq session slot a0 a1, now, sc⟩ :: rest →
    s.xlate p (eaAdd (s.pq p 33).base (32 * (s.pq p 33).tail)) true (.ring p 33) = (u, .ok pa wr) →
    ∃ (v : State) (intr : Option (Nat × Bool)) (r : Nat),
      s.pumpOne p 33 = ((v.postLine (.record p 33) p (s.hostFace p) (pa / 128) (BitVec.ofNat 128 ((2 ^ 32 - 1) <<< (pa % 128)))
        (BitVec.ofNat 1024 (r <<< (8 * (pa % 128)))) false intr (u.spaceAt p (s.pq p 33).base)).scaleWritten p sc, none) ∧
      r % 2 ^ 16 = code ∧ r / 2 ^ 16 % 2 ^ 8 = b2n (s.pq p 33).phase ∧ r / 2 ^ 24 % 2 ^ 8 = sq ∧ r / 2 ^ 32 % 2 ^ 16 = session ∧
      r / 2 ^ 48 % 2 ^ 16 = slot ∧ r / 2 ^ 64 % 2 ^ 64 = a0 ∧ r / 2 ^ 128 % 2 ^ 64 = a1 ∧ r / 2 ^ 192 = s.stamp)

/-- Whatever the order in which a query's candidates come: the list is best first, no longer than top_k, holds each row at most
once and only candidates; and every candidate either stands in it, as its row at a rank as good, or the list is full and
every entry of it ranks before the candidate. A higher score ranks first, and of equal scores the lower row number. INT32
scores compare as integers with infinity above every finite one, FP32 scores as numbers, and a NaN is never selected. What is
missing to top_k is written as row 0xFFFF_FFFF with score 0xFF80_0000. Where a row always comes with one score, the list is
the same for every order of the candidates. -/
def Obligations.SelectionIsExact : Prop :=
  (∀ (k : Nat) (xs : List (Nat × Int × F32)), 0 < k →
    let l := xs.foldl (selInsert k) []
    l.length ≤ k ∧ (∀ x ∈ l, x ∈ xs) ∧ l.Pairwise (fun a b => selBefore a b = true ∧ a.1 ≠ b.1) ∧
      (∀ x ∈ xs, (∃ y ∈ l, y.1 = x.1 ∧ selBefore x y = false) ∨ (l.length = k ∧ ∀ y ∈ l, selBefore y x = true))) ∧
  (∀ (k : Nat) (xs ys : List (Nat × Int × F32)), 0 < k → xs.Perm ys → (∀ x ∈ xs, ∀ y ∈ xs, x.1 = y.1 → x = y) →
    xs.foldl (selInsert k) [] = ys.foldl (selInsert k) []) ∧
  (∀ a b : Nat × Int × F32, selBefore a b = true ↔ b.2.1 < a.2.1 ∨ (a.2.1 = b.2.1 ∧ a.1 < b.1)) ∧
  (∀ v w, v < 2 ^ 32 → w < 2 ^ 32 → v ≠ 0x80000000 →
    ∃ x, selKey false v = some x ∧ x.1 = (if v < 2 ^ 31 then (v : Int) else v - 2 ^ 32) ∧ (∃ y, selKey false 0x80000000 = some y ∧ x.1 < y.1)) ∧
  (∀ v : F32, selKey true v.toNat = none ↔ isNan v = true) ∧
  (∀ (v w : F32) (x y : Int × F32), selKey true v.toNat = some x → selKey true w.toNat = some y → (x.1 < y.1 ↔ fltB v w = true)) ∧
  (∀ (k : Nat) (l : List (Nat × Int × F32)), selBytes k l =
    packCodes 32 (l.flatMap (fun x => [x.1, x.2.2.toNat]) ++ (List.replicate (k - l.length) [0xFFFFFFFF, 0xFF800000]).flatten))
end

