-- ==== Sys2Proof/Laws/State.lean ====
section
/-! SUPPORT. What each named update of the state does to each field: the field it changes, and every other as it was. -/

namespace Sys2Proof.Machine

/-! `upPart` -/

@[simp] theorem State.upPart_pending (s : State) (p : Nat) (f : Part → Part) : (s.upPart p f).pending = s.pending := rfl
@[simp] theorem State.upPart_fuses (s : State) (p : Nat) (f : Part → Part) : (s.upPart p f).fuses = s.fuses := rfl
@[simp] theorem State.upPart_log (s : State) (p : Nat) (f : Part → Part) : (s.upPart p f).log = s.log := rfl
@[simp] theorem State.upPart_logDue (s : State) (p : Nat) (f : Part → Part) : (s.upPart p f).logDue = s.logDue := rfl
@[simp] theorem State.upPart_wear (s : State) (p : Nat) (f : Part → Part) : (s.upPart p f).wear = s.wear := rfl
@[simp] theorem State.upPart_clk (s : State) (p : Nat) (f : Part → Part) : (s.upPart p f).clk = s.clk := rfl
@[simp] theorem State.upPart_tap (s : State) (p : Nat) (f : Part → Part) : (s.upPart p f).tap = s.tap := rfl
@[simp] theorem State.upPart_kettle (s : State) (p : Nat) (f : Part → Part) : (s.upPart p f).kettle = s.kettle := rfl
@[simp] theorem State.upPart_drain (s : State) (p : Nat) (f : Part → Part) : (s.upPart p f).drain = s.drain := rfl
@[simp] theorem State.upPart_mon (s : State) (p : Nat) (f : Part → Part) : (s.upPart p f).mon = s.mon := rfl
@[simp] theorem State.upPart_panel (s : State) (p : Nat) (f : Part → Part) : (s.upPart p f).panel = s.panel := rfl
@[simp] theorem State.upPart_rstLast (s : State) (p : Nat) (f : Part → Part) : (s.upPart p f).rstLast = s.rstLast := rfl
@[simp] theorem State.upPart_rstDie (s : State) (p : Nat) (f : Part → Part) : (s.upPart p f).rstDie = s.rstDie := rfl
@[simp] theorem State.upPart_faces (s : State) (p : Nat) (f : Part → Part) : (s.upPart p f).faces = s.faces := rfl
@[simp] theorem State.upPart_reads (s : State) (p : Nat) (f : Part → Part) : (s.upPart p f).reads = s.reads := rfl
@[simp] theorem State.upPart_writes (s : State) (p : Nat) (f : Part → Part) : (s.upPart p f).writes = s.writes := rfl
@[simp] theorem State.upPart_narrows (s : State) (p : Nat) (f : Part → Part) : (s.upPart p f).narrows = s.narrows := rfl
@[simp] theorem State.upPart_held (s : State) (p : Nat) (f : Part → Part) : (s.upPart p f).held = s.held := rfl
@[simp] theorem State.upPart_struck (s : State) (p : Nat) (f : Part → Part) : (s.upPart p f).struck = s.struck := rfl
@[simp] theorem State.upPart_cupTurn (s : State) (p : Nat) (f : Part → Part) : (s.upPart p f).cupTurn = s.cupTurn := rfl
@[simp] theorem State.upPart_latches (s : State) (p : Nat) (f : Part → Part) : (s.upPart p f).latches = s.latches := rfl
@[simp] theorem State.upPart_cfg (s : State) (p : Nat) (f : Part → Part) : (s.upPart p f).cfg = s.cfg := rfl
@[simp] theorem State.upPart_parts (s : State) (p : Nat) (f : Part → Part) : (s.upPart p f).parts = s.parts.modify p f := rfl
@[simp] theorem State.upPart_ctxs (s : State) (p : Nat) (f : Part → Part) : (s.upPart p f).ctxs = s.ctxs := rfl
@[simp] theorem State.upPart_orders (s : State) (p : Nat) (f : Part → Part) : (s.upPart p f).orders = s.orders := rfl
@[simp] theorem State.upPart_benches (s : State) (p : Nat) (f : Part → Part) : (s.upPart p f).benches = s.benches := rfl
@[simp] theorem State.upPart_ranges (s : State) (p : Nat) (f : Part → Part) : (s.upPart p f).ranges = s.ranges := rfl
@[simp] theorem State.upPart_dirs (s : State) (p : Nat) (f : Part → Part) : (s.upPart p f).dirs = s.dirs := rfl
@[simp] theorem State.upPart_walks (s : State) (p : Nat) (f : Part → Part) : (s.upPart p f).walks = s.walks := rfl
@[simp] theorem State.upPart_skips (s : State) (p : Nat) (f : Part → Part) : (s.upPart p f).skips = s.skips := rfl
@[simp] theorem State.upPart_windows (s : State) (p : Nat) (f : Part → Part) : (s.upPart p f).windows = s.windows := rfl
@[simp] theorem State.upPart_sampler (s : State) (p : Nat) (f : Part → Part) : (s.upPart p f).sampler = s.sampler := rfl
@[simp] theorem State.upPart_sampleRead (s : State) (p : Nat) (f : Part → Part) : (s.upPart p f).sampleRead = s.sampleRead := rfl
@[simp] theorem State.upPart_filters (s : State) (p : Nat) (f : Part → Part) : (s.upPart p f).filters = s.filters := rfl
@[simp] theorem State.upPart_mig (s : State) (p : Nat) (f : Part → Part) : (s.upPart p f).mig = s.mig := rfl
@[simp] theorem State.upPart_ints (s : State) (p : Nat) (f : Part → Part) : (s.upPart p f).ints = s.ints := rfl
@[simp] theorem State.upPart_nextId (s : State) (p : Nat) (f : Part → Part) : (s.upPart p f).nextId = s.nextId := rfl

/-! `upBench` -/

@[simp] theorem State.upBench_pending (s : State) (b : Nat) (f : Bench → Bench) : (s.upBench b f).pending = s.pending := rfl
@[simp] theorem State.upBench_fuses (s : State) (b : Nat) (f : Bench → Bench) : (s.upBench b f).fuses = s.fuses := rfl
@[simp] theorem State.upBench_log (s : State) (b : Nat) (f : Bench → Bench) : (s.upBench b f).log = s.log := rfl
@[simp] theorem State.upBench_logDue (s : State) (b : Nat) (f : Bench → Bench) : (s.upBench b f).logDue = s.logDue := rfl
@[simp] theorem State.upBench_wear (s : State) (b : Nat) (f : Bench → Bench) : (s.upBench b f).wear = s.wear := rfl
@[simp] theorem State.upBench_clk (s : State) (b : Nat) (f : Bench → Bench) : (s.upBench b f).clk = s.clk := rfl
@[simp] theorem State.upBench_tap (s : State) (b : Nat) (f : Bench → Bench) : (s.upBench b f).tap = s.tap := rfl
@[simp] theorem State.upBench_kettle (s : State) (b : Nat) (f : Bench → Bench) : (s.upBench b f).kettle = s.kettle := rfl
@[simp] theorem State.upBench_drain (s : State) (b : Nat) (f : Bench → Bench) : (s.upBench b f).drain = s.drain := rfl
@[simp] theorem State.upBench_mon (s : State) (b : Nat) (f : Bench → Bench) : (s.upBench b f).mon = s.mon := rfl
@[simp] theorem State.upBench_panel (s : State) (b : Nat) (f : Bench → Bench) : (s.upBench b f).panel = s.panel := rfl
@[simp] theorem State.upBench_rstLast (s : State) (b : Nat) (f : Bench → Bench) : (s.upBench b f).rstLast = s.rstLast := rfl
@[simp] theorem State.upBench_rstDie (s : State) (b : Nat) (f : Bench → Bench) : (s.upBench b f).rstDie = s.rstDie := rfl
@[simp] theorem State.upBench_faces (s : State) (b : Nat) (f : Bench → Bench) : (s.upBench b f).faces = s.faces := rfl
@[simp] theorem State.upBench_reads (s : State) (b : Nat) (f : Bench → Bench) : (s.upBench b f).reads = s.reads := rfl
@[simp] theorem State.upBench_writes (s : State) (b : Nat) (f : Bench → Bench) : (s.upBench b f).writes = s.writes := rfl
@[simp] theorem State.upBench_narrows (s : State) (b : Nat) (f : Bench → Bench) : (s.upBench b f).narrows = s.narrows := rfl
@[simp] theorem State.upBench_held (s : State) (b : Nat) (f : Bench → Bench) : (s.upBench b f).held = s.held := rfl
@[simp] theorem State.upBench_struck (s : State) (b : Nat) (f : Bench → Bench) : (s.upBench b f).struck = s.struck := rfl
@[simp] theorem State.upBench_cupTurn (s : State) (b : Nat) (f : Bench → Bench) : (s.upBench b f).cupTurn = s.cupTurn := rfl
@[simp] theorem State.upBench_latches (s : State) (b : Nat) (f : Bench → Bench) : (s.upBench b f).latches = s.latches := rfl
@[simp] theorem State.upBench_cfg (s : State) (b : Nat) (f : Bench → Bench) : (s.upBench b f).cfg = s.cfg := rfl
@[simp] theorem State.upBench_parts (s : State) (b : Nat) (f : Bench → Bench) : (s.upBench b f).parts = s.parts := rfl
@[simp] theorem State.upBench_ctxs (s : State) (b : Nat) (f : Bench → Bench) : (s.upBench b f).ctxs = s.ctxs := rfl
@[simp] theorem State.upBench_orders (s : State) (b : Nat) (f : Bench → Bench) : (s.upBench b f).orders = s.orders := rfl
@[simp] theorem State.upBench_benches (s : State) (b : Nat) (f : Bench → Bench) : (s.upBench b f).benches = s.benches.modify b f := rfl
@[simp] theorem State.upBench_ranges (s : State) (b : Nat) (f : Bench → Bench) : (s.upBench b f).ranges = s.ranges := rfl
@[simp] theorem State.upBench_dirs (s : State) (b : Nat) (f : Bench → Bench) : (s.upBench b f).dirs = s.dirs := rfl
@[simp] theorem State.upBench_walks (s : State) (b : Nat) (f : Bench → Bench) : (s.upBench b f).walks = s.walks := rfl
@[simp] theorem State.upBench_skips (s : State) (b : Nat) (f : Bench → Bench) : (s.upBench b f).skips = s.skips := rfl
@[simp] theorem State.upBench_windows (s : State) (b : Nat) (f : Bench → Bench) : (s.upBench b f).windows = s.windows := rfl
@[simp] theorem State.upBench_sampler (s : State) (b : Nat) (f : Bench → Bench) : (s.upBench b f).sampler = s.sampler := rfl
@[simp] theorem State.upBench_sampleRead (s : State) (b : Nat) (f : Bench → Bench) : (s.upBench b f).sampleRead = s.sampleRead := rfl
@[simp] theorem State.upBench_filters (s : State) (b : Nat) (f : Bench → Bench) : (s.upBench b f).filters = s.filters := rfl
@[simp] theorem State.upBench_mig (s : State) (b : Nat) (f : Bench → Bench) : (s.upBench b f).mig = s.mig := rfl
@[simp] theorem State.upBench_ints (s : State) (b : Nat) (f : Bench → Bench) : (s.upBench b f).ints = s.ints := rfl
@[simp] theorem State.upBench_nextId (s : State) (b : Nat) (f : Bench → Bench) : (s.upBench b f).nextId = s.nextId := rfl

/-! `upFace` -/

@[simp] theorem State.upFace_pending (s : State) (f : Nat) (g : Face → Face) : (s.upFace f g).pending = s.pending := rfl
@[simp] theorem State.upFace_fuses (s : State) (f : Nat) (g : Face → Face) : (s.upFace f g).fuses = s.fuses := rfl
@[simp] theorem State.upFace_log (s : State) (f : Nat) (g : Face → Face) : (s.upFace f g).log = s.log := rfl
@[simp] theorem State.upFace_logDue (s : State) (f : Nat) (g : Face → Face) : (s.upFace f g).logDue = s.logDue := rfl
@[simp] theorem State.upFace_wear (s : State) (f : Nat) (g : Face → Face) : (s.upFace f g).wear = s.wear := rfl
@[simp] theorem State.upFace_clk (s : State) (f : Nat) (g : Face → Face) : (s.upFace f g).clk = s.clk := rfl
@[simp] theorem State.upFace_tap (s : State) (f : Nat) (g : Face → Face) : (s.upFace f g).tap = s.tap := rfl
@[simp] theorem State.upFace_kettle (s : State) (f : Nat) (g : Face → Face) : (s.upFace f g).kettle = s.kettle := rfl
@[simp] theorem State.upFace_drain (s : State) (f : Nat) (g : Face → Face) : (s.upFace f g).drain = s.drain := rfl
@[simp] theorem State.upFace_mon (s : State) (f : Nat) (g : Face → Face) : (s.upFace f g).mon = s.mon := rfl
@[simp] theorem State.upFace_panel (s : State) (f : Nat) (g : Face → Face) : (s.upFace f g).panel = s.panel := rfl
@[simp] theorem State.upFace_rstLast (s : State) (f : Nat) (g : Face → Face) : (s.upFace f g).rstLast = s.rstLast := rfl
@[simp] theorem State.upFace_rstDie (s : State) (f : Nat) (g : Face → Face) : (s.upFace f g).rstDie = s.rstDie := rfl
@[simp] theorem State.upFace_faces (s : State) (f : Nat) (g : Face → Face) : (s.upFace f g).faces = s.faces.modify f g := rfl
@[simp] theorem State.upFace_reads (s : State) (f : Nat) (g : Face → Face) : (s.upFace f g).reads = s.reads := rfl
@[simp] theorem State.upFace_writes (s : State) (f : Nat) (g : Face → Face) : (s.upFace f g).writes = s.writes := rfl
@[simp] theorem State.upFace_narrows (s : State) (f : Nat) (g : Face → Face) : (s.upFace f g).narrows = s.narrows := rfl
@[simp] theorem State.upFace_held (s : State) (f : Nat) (g : Face → Face) : (s.upFace f g).held = s.held := rfl
@[simp] theorem State.upFace_struck (s : State) (f : Nat) (g : Face → Face) : (s.upFace f g).struck = s.struck := rfl
@[simp] theorem State.upFace_cupTurn (s : State) (f : Nat) (g : Face → Face) : (s.upFace f g).cupTurn = s.cupTurn := rfl
@[simp] theorem State.upFace_latches (s : State) (f : Nat) (g : Face → Face) : (s.upFace f g).latches = s.latches := rfl
@[simp] theorem State.upFace_cfg (s : State) (f : Nat) (g : Face → Face) : (s.upFace f g).cfg = s.cfg := rfl
@[simp] theorem State.upFace_parts (s : State) (f : Nat) (g : Face → Face) : (s.upFace f g).parts = s.parts := rfl
@[simp] theorem State.upFace_ctxs (s : State) (f : Nat) (g : Face → Face) : (s.upFace f g).ctxs = s.ctxs := rfl
@[simp] theorem State.upFace_orders (s : State) (f : Nat) (g : Face → Face) : (s.upFace f g).orders = s.orders := rfl
@[simp] theorem State.upFace_benches (s : State) (f : Nat) (g : Face → Face) : (s.upFace f g).benches = s.benches := rfl
@[simp] theorem State.upFace_ranges (s : State) (f : Nat) (g : Face → Face) : (s.upFace f g).ranges = s.ranges := rfl
@[simp] theorem State.upFace_dirs (s : State) (f : Nat) (g : Face → Face) : (s.upFace f g).dirs = s.dirs := rfl
@[simp] theorem State.upFace_walks (s : State) (f : Nat) (g : Face → Face) : (s.upFace f g).walks = s.walks := rfl
@[simp] theorem State.upFace_skips (s : State) (f : Nat) (g : Face → Face) : (s.upFace f g).skips = s.skips := rfl
@[simp] theorem State.upFace_windows (s : State) (f : Nat) (g : Face → Face) : (s.upFace f g).windows = s.windows := rfl
@[simp] theorem State.upFace_sampler (s : State) (f : Nat) (g : Face → Face) : (s.upFace f g).sampler = s.sampler := rfl
@[simp] theorem State.upFace_sampleRead (s : State) (f : Nat) (g : Face → Face) : (s.upFace f g).sampleRead = s.sampleRead := rfl
@[simp] theorem State.upFace_filters (s : State) (f : Nat) (g : Face → Face) : (s.upFace f g).filters = s.filters := rfl
@[simp] theorem State.upFace_mig (s : State) (f : Nat) (g : Face → Face) : (s.upFace f g).mig = s.mig := rfl
@[simp] theorem State.upFace_ints (s : State) (f : Nat) (g : Face → Face) : (s.upFace f g).ints = s.ints := rfl
@[simp] theorem State.upFace_nextId (s : State) (f : Nat) (g : Face → Face) : (s.upFace f g).nextId = s.nextId := rfl

/-! `upMod` -/

@[simp] theorem State.upMod_pending (s : State) (f m : Nat) (g : Modl → Modl) : (s.upMod f m g).pending = s.pending := rfl
@[simp] theorem State.upMod_fuses (s : State) (f m : Nat) (g : Modl → Modl) : (s.upMod f m g).fuses = s.fuses := rfl
@[simp] theorem State.upMod_log (s : State) (f m : Nat) (g : Modl → Modl) : (s.upMod f m g).log = s.log := rfl
@[simp] theorem State.upMod_logDue (s : State) (f m : Nat) (g : Modl → Modl) : (s.upMod f m g).logDue = s.logDue := rfl
@[simp] theorem State.upMod_wear (s : State) (f m : Nat) (g : Modl → Modl) : (s.upMod f m g).wear = s.wear := rfl
@[simp] theorem State.upMod_clk (s : State) (f m : Nat) (g : Modl → Modl) : (s.upMod f m g).clk = s.clk := rfl
@[simp] theorem State.upMod_tap (s : State) (f m : Nat) (g : Modl → Modl) : (s.upMod f m g).tap = s.tap := rfl
@[simp] theorem State.upMod_kettle (s : State) (f m : Nat) (g : Modl → Modl) : (s.upMod f m g).kettle = s.kettle := rfl
@[simp] theorem State.upMod_drain (s : State) (f m : Nat) (g : Modl → Modl) : (s.upMod f m g).drain = s.drain := rfl
@[simp] theorem State.upMod_mon (s : State) (f m : Nat) (g : Modl → Modl) : (s.upMod f m g).mon = s.mon := rfl
@[simp] theorem State.upMod_panel (s : State) (f m : Nat) (g : Modl → Modl) : (s.upMod f m g).panel = s.panel := rfl
@[simp] theorem State.upMod_rstLast (s : State) (f m : Nat) (g : Modl → Modl) : (s.upMod f m g).rstLast = s.rstLast := rfl
@[simp] theorem State.upMod_rstDie (s : State) (f m : Nat) (g : Modl → Modl) : (s.upMod f m g).rstDie = s.rstDie := rfl
@[simp] theorem State.upMod_reads (s : State) (f m : Nat) (g : Modl → Modl) : (s.upMod f m g).reads = s.reads := rfl
@[simp] theorem State.upMod_writes (s : State) (f m : Nat) (g : Modl → Modl) : (s.upMod f m g).writes = s.writes := rfl
@[simp] theorem State.upMod_narrows (s : State) (f m : Nat) (g : Modl → Modl) : (s.upMod f m g).narrows = s.narrows := rfl
@[simp] theorem State.upMod_held (s : State) (f m : Nat) (g : Modl → Modl) : (s.upMod f m g).held = s.held := rfl
@[simp] theorem State.upMod_struck (s : State) (f m : Nat) (g : Modl → Modl) : (s.upMod f m g).struck = s.struck := rfl
@[simp] theorem State.upMod_cupTurn (s : State) (f m : Nat) (g : Modl → Modl) : (s.upMod f m g).cupTurn = s.cupTurn := rfl
@[simp] theorem State.upMod_latches (s : State) (f m : Nat) (g : Modl → Modl) : (s.upMod f m g).latches = s.latches := rfl
@[simp] theorem State.upMod_cfg (s : State) (f m : Nat) (g : Modl → Modl) : (s.upMod f m g).cfg = s.cfg := rfl
@[simp] theorem State.upMod_parts (s : State) (f m : Nat) (g : Modl → Modl) : (s.upMod f m g).parts = s.parts := rfl
@[simp] theorem State.upMod_ctxs (s : State) (f m : Nat) (g : Modl → Modl) : (s.upMod f m g).ctxs = s.ctxs := rfl
@[simp] theorem State.upMod_orders (s : State) (f m : Nat) (g : Modl → Modl) : (s.upMod f m g).orders = s.orders := rfl
@[simp] theorem State.upMod_benches (s : State) (f m : Nat) (g : Modl → Modl) : (s.upMod f m g).benches = s.benches := rfl
@[simp] theorem State.upMod_ranges (s : State) (f m : Nat) (g : Modl → Modl) : (s.upMod f m g).ranges = s.ranges := rfl
@[simp] theorem State.upMod_dirs (s : State) (f m : Nat) (g : Modl → Modl) : (s.upMod f m g).dirs = s.dirs := rfl
@[simp] theorem State.upMod_walks (s : State) (f m : Nat) (g : Modl → Modl) : (s.upMod f m g).walks = s.walks := rfl
@[simp] theorem State.upMod_skips (s : State) (f m : Nat) (g : Modl → Modl) : (s.upMod f m g).skips = s.skips := rfl
@[simp] theorem State.upMod_windows (s : State) (f m : Nat) (g : Modl → Modl) : (s.upMod f m g).windows = s.windows := rfl
@[simp] theorem State.upMod_sampler (s : State) (f m : Nat) (g : Modl → Modl) : (s.upMod f m g).sampler = s.sampler := rfl
@[simp] theorem State.upMod_sampleRead (s : State) (f m : Nat) (g : Modl → Modl) : (s.upMod f m g).sampleRead = s.sampleRead := rfl
@[simp] theorem State.upMod_filters (s : State) (f m : Nat) (g : Modl → Modl) : (s.upMod f m g).filters = s.filters := rfl
@[simp] theorem State.upMod_mig (s : State) (f m : Nat) (g : Modl → Modl) : (s.upMod f m g).mig = s.mig := rfl
@[simp] theorem State.upMod_ints (s : State) (f m : Nat) (g : Modl → Modl) : (s.upMod f m g).ints = s.ints := rfl
@[simp] theorem State.upMod_nextId (s : State) (f m : Nat) (g : Modl → Modl) : (s.upMod f m g).nextId = s.nextId := rfl

/-! `upWindow` -/

@[simp] theorem State.upWindow_pending (s : State) (e : Nat) (f : Window → Window) : (s.upWindow e f).pending = s.pending := rfl
@[simp] theorem State.upWindow_fuses (s : State) (e : Nat) (f : Window → Window) : (s.upWindow e f).fuses = s.fuses := rfl
@[simp] theorem State.upWindow_log (s : State) (e : Nat) (f : Window → Window) : (s.upWindow e f).log = s.log := rfl
@[simp] theorem State.upWindow_logDue (s : State) (e : Nat) (f : Window → Window) : (s.upWindow e f).logDue = s.logDue := rfl
@[simp] theorem State.upWindow_wear (s : State) (e : Nat) (f : Window → Window) : (s.upWindow e f).wear = s.wear := rfl
@[simp] theorem State.upWindow_clk (s : State) (e : Nat) (f : Window → Window) : (s.upWindow e f).clk = s.clk := rfl
@[simp] theorem State.upWindow_tap (s : State) (e : Nat) (f : Window → Window) : (s.upWindow e f).tap = s.tap := rfl
@[simp] theorem State.upWindow_kettle (s : State) (e : Nat) (f : Window → Window) : (s.upWindow e f).kettle = s.kettle := rfl
@[simp] theorem State.upWindow_drain (s : State) (e : Nat) (f : Window → Window) : (s.upWindow e f).drain = s.drain := rfl
@[simp] theorem State.upWindow_mon (s : State) (e : Nat) (f : Window → Window) : (s.upWindow e f).mon = s.mon := rfl
@[simp] theorem State.upWindow_panel (s : State) (e : Nat) (f : Window → Window) : (s.upWindow e f).panel = s.panel := rfl
@[simp] theorem State.upWindow_rstLast (s : State) (e : Nat) (f : Window → Window) : (s.upWindow e f).rstLast = s.rstLast := rfl
@[simp] theorem State.upWindow_rstDie (s : State) (e : Nat) (f : Window → Window) : (s.upWindow e f).rstDie = s.rstDie := rfl
@[simp] theorem State.upWindow_faces (s : State) (e : Nat) (f : Window → Window) : (s.upWindow e f).faces = s.faces := rfl
@[simp] theorem State.upWindow_reads (s : State) (e : Nat) (f : Window → Window) : (s.upWindow e f).reads = s.reads := rfl
@[simp] theorem State.upWindow_writes (s : State) (e : Nat) (f : Window → Window) : (s.upWindow e f).writes = s.writes := rfl
@[simp] theorem State.upWindow_narrows (s : State) (e : Nat) (f : Window → Window) : (s.upWindow e f).narrows = s.narrows := rfl
@[simp] theorem State.upWindow_held (s : State) (e : Nat) (f : Window → Window) : (s.upWindow e f).held = s.held := rfl
@[simp] theorem State.upWindow_struck (s : State) (e : Nat) (f : Window → Window) : (s.upWindow e f).struck = s.struck := rfl
@[simp] theorem State.upWindow_cupTurn (s : State) (e : Nat) (f : Window → Window) : (s.upWindow e f).cupTurn = s.cupTurn := rfl
@[simp] theorem State.upWindow_latches (s : State) (e : Nat) (f : Window → Window) : (s.upWindow e f).latches = s.latches := rfl
@[simp] theorem State.upWindow_cfg (s : State) (e : Nat) (f : Window → Window) : (s.upWindow e f).cfg = s.cfg := rfl
@[simp] theorem State.upWindow_parts (s : State) (e : Nat) (f : Window → Window) : (s.upWindow e f).parts = s.parts := rfl
@[simp] theorem State.upWindow_ctxs (s : State) (e : Nat) (f : Window → Window) : (s.upWindow e f).ctxs = s.ctxs := rfl
@[simp] theorem State.upWindow_orders (s : State) (e : Nat) (f : Window → Window) : (s.upWindow e f).orders = s.orders := rfl
@[simp] theorem State.upWindow_benches (s : State) (e : Nat) (f : Window → Window) : (s.upWindow e f).benches = s.benches := rfl
@[simp] theorem State.upWindow_ranges (s : State) (e : Nat) (f : Window → Window) : (s.upWindow e f).ranges = s.ranges := rfl
@[simp] theorem State.upWindow_dirs (s : State) (e : Nat) (f : Window → Window) : (s.upWindow e f).dirs = s.dirs := rfl
@[simp] theorem State.upWindow_walks (s : State) (e : Nat) (f : Window → Window) : (s.upWindow e f).walks = s.walks := rfl
@[simp] theorem State.upWindow_skips (s : State) (e : Nat) (f : Window → Window) : (s.upWindow e f).skips = s.skips := rfl
@[simp] theorem State.upWindow_windows (s : State) (e : Nat) (f : Window → Window) : (s.upWindow e f).windows = s.windows.modify e f := rfl
@[simp] theorem State.upWindow_sampler (s : State) (e : Nat) (f : Window → Window) : (s.upWindow e f).sampler = s.sampler := rfl
@[simp] theorem State.upWindow_sampleRead (s : State) (e : Nat) (f : Window → Window) : (s.upWindow e f).sampleRead = s.sampleRead := rfl
@[simp] theorem State.upWindow_filters (s : State) (e : Nat) (f : Window → Window) : (s.upWindow e f).filters = s.filters := rfl
@[simp] theorem State.upWindow_mig (s : State) (e : Nat) (f : Window → Window) : (s.upWindow e f).mig = s.mig := rfl
@[simp] theorem State.upWindow_ints (s : State) (e : Nat) (f : Window → Window) : (s.upWindow e f).ints = s.ints := rfl
@[simp] theorem State.upWindow_nextId (s : State) (e : Nat) (f : Window → Window) : (s.upWindow e f).nextId = s.nextId := rfl

/-! `upOrder` -/

@[simp] theorem State.upOrder_pending (s : State) (o : Nat) (f : Order → Order) : (s.upOrder o f).pending = s.pending := rfl
@[simp] theorem State.upOrder_fuses (s : State) (o : Nat) (f : Order → Order) : (s.upOrder o f).fuses = s.fuses := rfl
@[simp] theorem State.upOrder_log (s : State) (o : Nat) (f : Order → Order) : (s.upOrder o f).log = s.log := rfl
@[simp] theorem State.upOrder_logDue (s : State) (o : Nat) (f : Order → Order) : (s.upOrder o f).logDue = s.logDue := rfl
@[simp] theorem State.upOrder_wear (s : State) (o : Nat) (f : Order → Order) : (s.upOrder o f).wear = s.wear := rfl
@[simp] theorem State.upOrder_clk (s : State) (o : Nat) (f : Order → Order) : (s.upOrder o f).clk = s.clk := rfl
@[simp] theorem State.upOrder_tap (s : State) (o : Nat) (f : Order → Order) : (s.upOrder o f).tap = s.tap := rfl
@[simp] theorem State.upOrder_kettle (s : State) (o : Nat) (f : Order → Order) : (s.upOrder o f).kettle = s.kettle := rfl
@[simp] theorem State.upOrder_drain (s : State) (o : Nat) (f : Order → Order) : (s.upOrder o f).drain = s.drain := rfl
@[simp] theorem State.upOrder_mon (s : State) (o : Nat) (f : Order → Order) : (s.upOrder o f).mon = s.mon := rfl
@[simp] theorem State.upOrder_panel (s : State) (o : Nat) (f : Order → Order) : (s.upOrder o f).panel = s.panel := rfl
@[simp] theorem State.upOrder_rstLast (s : State) (o : Nat) (f : Order → Order) : (s.upOrder o f).rstLast = s.rstLast := rfl
@[simp] theorem State.upOrder_rstDie (s : State) (o : Nat) (f : Order → Order) : (s.upOrder o f).rstDie = s.rstDie := rfl
@[simp] theorem State.upOrder_faces (s : State) (o : Nat) (f : Order → Order) : (s.upOrder o f).faces = s.faces := rfl
@[simp] theorem State.upOrder_reads (s : State) (o : Nat) (f : Order → Order) : (s.upOrder o f).reads = s.reads := rfl
@[simp] theorem State.upOrder_writes (s : State) (o : Nat) (f : Order → Order) : (s.upOrder o f).writes = s.writes := rfl
@[simp] theorem State.upOrder_narrows (s : State) (o : Nat) (f : Order → Order) : (s.upOrder o f).narrows = s.narrows := rfl
@[simp] theorem State.upOrder_held (s : State) (o : Nat) (f : Order → Order) : (s.upOrder o f).held = s.held := rfl
@[simp] theorem State.upOrder_struck (s : State) (o : Nat) (f : Order → Order) : (s.upOrder o f).struck = s.struck := rfl
@[simp] theorem State.upOrder_cupTurn (s : State) (o : Nat) (f : Order → Order) : (s.upOrder o f).cupTurn = s.cupTurn := rfl
@[simp] theorem State.upOrder_latches (s : State) (o : Nat) (f : Order → Order) : (s.upOrder o f).latches = s.latches := rfl
@[simp] theorem State.upOrder_cfg (s : State) (o : Nat) (f : Order → Order) : (s.upOrder o f).cfg = s.cfg := rfl
@[simp] theorem State.upOrder_parts (s : State) (o : Nat) (f : Order → Order) : (s.upOrder o f).parts = s.parts := rfl
@[simp] theorem State.upOrder_ctxs (s : State) (o : Nat) (f : Order → Order) : (s.upOrder o f).ctxs = s.ctxs := rfl
@[simp] theorem State.upOrder_benches (s : State) (o : Nat) (f : Order → Order) : (s.upOrder o f).benches = s.benches := rfl
@[simp] theorem State.upOrder_ranges (s : State) (o : Nat) (f : Order → Order) : (s.upOrder o f).ranges = s.ranges := rfl
@[simp] theorem State.upOrder_dirs (s : State) (o : Nat) (f : Order → Order) : (s.upOrder o f).dirs = s.dirs := rfl
@[simp] theorem State.upOrder_walks (s : State) (o : Nat) (f : Order → Order) : (s.upOrder o f).walks = s.walks := rfl
@[simp] theorem State.upOrder_skips (s : State) (o : Nat) (f : Order → Order) : (s.upOrder o f).skips = s.skips := rfl
@[simp] theorem State.upOrder_windows (s : State) (o : Nat) (f : Order → Order) : (s.upOrder o f).windows = s.windows := rfl
@[simp] theorem State.upOrder_sampler (s : State) (o : Nat) (f : Order → Order) : (s.upOrder o f).sampler = s.sampler := rfl
@[simp] theorem State.upOrder_sampleRead (s : State) (o : Nat) (f : Order → Order) : (s.upOrder o f).sampleRead = s.sampleRead := rfl
@[simp] theorem State.upOrder_filters (s : State) (o : Nat) (f : Order → Order) : (s.upOrder o f).filters = s.filters := rfl
@[simp] theorem State.upOrder_mig (s : State) (o : Nat) (f : Order → Order) : (s.upOrder o f).mig = s.mig := rfl
@[simp] theorem State.upOrder_ints (s : State) (o : Nat) (f : Order → Order) : (s.upOrder o f).ints = s.ints := rfl
@[simp] theorem State.upOrder_nextId (s : State) (o : Nat) (f : Order → Order) : (s.upOrder o f).nextId = s.nextId := rfl

/-! `upCtx` -/

@[simp] theorem State.upCtx_pending (s : State) (p n : Nat) (f : Ctx → Ctx) : (s.upCtx p n f).pending = s.pending := rfl
@[simp] theorem State.upCtx_fuses (s : State) (p n : Nat) (f : Ctx → Ctx) : (s.upCtx p n f).fuses = s.fuses := rfl
@[simp] theorem State.upCtx_log (s : State) (p n : Nat) (f : Ctx → Ctx) : (s.upCtx p n f).log = s.log := rfl
@[simp] theorem State.upCtx_logDue (s : State) (p n : Nat) (f : Ctx → Ctx) : (s.upCtx p n f).logDue = s.logDue := rfl
@[simp] theorem State.upCtx_wear (s : State) (p n : Nat) (f : Ctx → Ctx) : (s.upCtx p n f).wear = s.wear := rfl
@[simp] theorem State.upCtx_clk (s : State) (p n : Nat) (f : Ctx → Ctx) : (s.upCtx p n f).clk = s.clk := rfl
@[simp] theorem State.upCtx_tap (s : State) (p n : Nat) (f : Ctx → Ctx) : (s.upCtx p n f).tap = s.tap := rfl
@[simp] theorem State.upCtx_kettle (s : State) (p n : Nat) (f : Ctx → Ctx) : (s.upCtx p n f).kettle = s.kettle := rfl
@[simp] theorem State.upCtx_drain (s : State) (p n : Nat) (f : Ctx → Ctx) : (s.upCtx p n f).drain = s.drain := rfl
@[simp] theorem State.upCtx_mon (s : State) (p n : Nat) (f : Ctx → Ctx) : (s.upCtx p n f).mon = s.mon := rfl
@[simp] theorem State.upCtx_panel (s : State) (p n : Nat) (f : Ctx → Ctx) : (s.upCtx p n f).panel = s.panel := rfl
@[simp] theorem State.upCtx_rstLast (s : State) (p n : Nat) (f : Ctx → Ctx) : (s.upCtx p n f).rstLast = s.rstLast := rfl
@[simp] theorem State.upCtx_rstDie (s : State) (p n : Nat) (f : Ctx → Ctx) : (s.upCtx p n f).rstDie = s.rstDie := rfl
@[simp] theorem State.upCtx_faces (s : State) (p n : Nat) (f : Ctx → Ctx) : (s.upCtx p n f).faces = s.faces := rfl
@[simp] theorem State.upCtx_reads (s : State) (p n : Nat) (f : Ctx → Ctx) : (s.upCtx p n f).reads = s.reads := rfl
@[simp] theorem State.upCtx_writes (s : State) (p n : Nat) (f : Ctx → Ctx) : (s.upCtx p n f).writes = s.writes := rfl
@[simp] theorem State.upCtx_narrows (s : State) (p n : Nat) (f : Ctx → Ctx) : (s.upCtx p n f).narrows = s.narrows := rfl
@[simp] theorem State.upCtx_held (s : State) (p n : Nat) (f : Ctx → Ctx) : (s.upCtx p n f).held = s.held := rfl
@[simp] theorem State.upCtx_struck (s : State) (p n : Nat) (f : Ctx → Ctx) : (s.upCtx p n f).struck = s.struck := rfl
@[simp] theorem State.upCtx_cupTurn (s : State) (p n : Nat) (f : Ctx → Ctx) : (s.upCtx p n f).cupTurn = s.cupTurn := rfl
@[simp] theorem State.upCtx_latches (s : State) (p n : Nat) (f : Ctx → Ctx) : (s.upCtx p n f).latches = s.latches := rfl
@[simp] theorem State.upCtx_cfg (s : State) (p n : Nat) (f : Ctx → Ctx) : (s.upCtx p n f).cfg = s.cfg := rfl
@[simp] theorem State.upCtx_parts (s : State) (p n : Nat) (f : Ctx → Ctx) : (s.upCtx p n f).parts = s.parts := rfl
@[simp] theorem State.upCtx_orders (s : State) (p n : Nat) (f : Ctx → Ctx) : (s.upCtx p n f).orders = s.orders := rfl
@[simp] theorem State.upCtx_benches (s : State) (p n : Nat) (f : Ctx → Ctx) : (s.upCtx p n f).benches = s.benches := rfl
@[simp] theorem State.upCtx_ranges (s : State) (p n : Nat) (f : Ctx → Ctx) : (s.upCtx p n f).ranges = s.ranges := rfl
@[simp] theorem State.upCtx_dirs (s : State) (p n : Nat) (f : Ctx → Ctx) : (s.upCtx p n f).dirs = s.dirs := rfl
@[simp] theorem State.upCtx_walks (s : State) (p n : Nat) (f : Ctx → Ctx) : (s.upCtx p n f).walks = s.walks := rfl
@[simp] theorem State.upCtx_skips (s : State) (p n : Nat) (f : Ctx → Ctx) : (s.upCtx p n f).skips = s.skips := rfl
@[simp] theorem State.upCtx_windows (s : State) (p n : Nat) (f : Ctx → Ctx) : (s.upCtx p n f).windows = s.windows := rfl
@[simp] theorem State.upCtx_sampler (s : State) (p n : Nat) (f : Ctx → Ctx) : (s.upCtx p n f).sampler = s.sampler := rfl
@[simp] theorem State.upCtx_sampleRead (s : State) (p n : Nat) (f : Ctx → Ctx) : (s.upCtx p n f).sampleRead = s.sampleRead := rfl
@[simp] theorem State.upCtx_filters (s : State) (p n : Nat) (f : Ctx → Ctx) : (s.upCtx p n f).filters = s.filters := rfl
@[simp] theorem State.upCtx_mig (s : State) (p n : Nat) (f : Ctx → Ctx) : (s.upCtx p n f).mig = s.mig := rfl
@[simp] theorem State.upCtx_ints (s : State) (p n : Nat) (f : Ctx → Ctx) : (s.upCtx p n f).ints = s.ints := rfl
@[simp] theorem State.upCtx_nextId (s : State) (p n : Nat) (f : Ctx → Ctx) : (s.upCtx p n f).nextId = s.nextId := rfl

/-! `upClk` -/

@[simp] theorem State.upClk_pending (s : State) (f : Clk → Clk) : (s.upClk f).pending = s.pending := rfl
@[simp] theorem State.upClk_fuses (s : State) (f : Clk → Clk) : (s.upClk f).fuses = s.fuses := rfl
@[simp] theorem State.upClk_log (s : State) (f : Clk → Clk) : (s.upClk f).log = s.log := rfl
@[simp] theorem State.upClk_logDue (s : State) (f : Clk → Clk) : (s.upClk f).logDue = s.logDue := rfl
@[simp] theorem State.upClk_wear (s : State) (f : Clk → Clk) : (s.upClk f).wear = s.wear := rfl
@[simp] theorem State.upClk_clk (s : State) (f : Clk → Clk) : (s.upClk f).clk = f s.clk := rfl
@[simp] theorem State.upClk_tap (s : State) (f : Clk → Clk) : (s.upClk f).tap = s.tap := rfl
@[simp] theorem State.upClk_kettle (s : State) (f : Clk → Clk) : (s.upClk f).kettle = s.kettle := rfl
@[simp] theorem State.upClk_drain (s : State) (f : Clk → Clk) : (s.upClk f).drain = s.drain := rfl
@[simp] theorem State.upClk_mon (s : State) (f : Clk → Clk) : (s.upClk f).mon = s.mon := rfl
@[simp] theorem State.upClk_panel (s : State) (f : Clk → Clk) : (s.upClk f).panel = s.panel := rfl
@[simp] theorem State.upClk_rstLast (s : State) (f : Clk → Clk) : (s.upClk f).rstLast = s.rstLast := rfl
@[simp] theorem State.upClk_rstDie (s : State) (f : Clk → Clk) : (s.upClk f).rstDie = s.rstDie := rfl
@[simp] theorem State.upClk_faces (s : State) (f : Clk → Clk) : (s.upClk f).faces = s.faces := rfl
@[simp] theorem State.upClk_reads (s : State) (f : Clk → Clk) : (s.upClk f).reads = s.reads := rfl
@[simp] theorem State.upClk_writes (s : State) (f : Clk → Clk) : (s.upClk f).writes = s.writes := rfl
@[simp] theorem State.upClk_narrows (s : State) (f : Clk → Clk) : (s.upClk f).narrows = s.narrows := rfl
@[simp] theorem State.upClk_held (s : State) (f : Clk → Clk) : (s.upClk f).held = s.held := rfl
@[simp] theorem State.upClk_struck (s : State) (f : Clk → Clk) : (s.upClk f).struck = s.struck := rfl
@[simp] theorem State.upClk_cupTurn (s : State) (f : Clk → Clk) : (s.upClk f).cupTurn = s.cupTurn := rfl
@[simp] theorem State.upClk_latches (s : State) (f : Clk → Clk) : (s.upClk f).latches = s.latches := rfl
@[simp] theorem State.upClk_cfg (s : State) (f : Clk → Clk) : (s.upClk f).cfg = s.cfg := rfl
@[simp] theorem State.upClk_parts (s : State) (f : Clk → Clk) : (s.upClk f).parts = s.parts := rfl
@[simp] theorem State.upClk_ctxs (s : State) (f : Clk → Clk) : (s.upClk f).ctxs = s.ctxs := rfl
@[simp] theorem State.upClk_orders (s : State) (f : Clk → Clk) : (s.upClk f).orders = s.orders := rfl
@[simp] theorem State.upClk_benches (s : State) (f : Clk → Clk) : (s.upClk f).benches = s.benches := rfl
@[simp] theorem State.upClk_ranges (s : State) (f : Clk → Clk) : (s.upClk f).ranges = s.ranges := rfl
@[simp] theorem State.upClk_dirs (s : State) (f : Clk → Clk) : (s.upClk f).dirs = s.dirs := rfl
@[simp] theorem State.upClk_walks (s : State) (f : Clk → Clk) : (s.upClk f).walks = s.walks := rfl
@[simp] theorem State.upClk_skips (s : State) (f : Clk → Clk) : (s.upClk f).skips = s.skips := rfl
@[simp] theorem State.upClk_windows (s : State) (f : Clk → Clk) : (s.upClk f).windows = s.windows := rfl
@[simp] theorem State.upClk_sampler (s : State) (f : Clk → Clk) : (s.upClk f).sampler = s.sampler := rfl
@[simp] theorem State.upClk_sampleRead (s : State) (f : Clk → Clk) : (s.upClk f).sampleRead = s.sampleRead := rfl
@[simp] theorem State.upClk_filters (s : State) (f : Clk → Clk) : (s.upClk f).filters = s.filters := rfl
@[simp] theorem State.upClk_mig (s : State) (f : Clk → Clk) : (s.upClk f).mig = s.mig := rfl
@[simp] theorem State.upClk_ints (s : State) (f : Clk → Clk) : (s.upClk f).ints = s.ints := rfl
@[simp] theorem State.upClk_nextId (s : State) (f : Clk → Clk) : (s.upClk f).nextId = s.nextId := rfl

/-! `upKettle` -/

@[simp] theorem State.upKettle_pending (s : State) (f : Kettle → Kettle) : (s.upKettle f).pending = s.pending := rfl
@[simp] theorem State.upKettle_fuses (s : State) (f : Kettle → Kettle) : (s.upKettle f).fuses = s.fuses := rfl
@[simp] theorem State.upKettle_log (s : State) (f : Kettle → Kettle) : (s.upKettle f).log = s.log := rfl
@[simp] theorem State.upKettle_logDue (s : State) (f : Kettle → Kettle) : (s.upKettle f).logDue = s.logDue := rfl
@[simp] theorem State.upKettle_wear (s : State) (f : Kettle → Kettle) : (s.upKettle f).wear = s.wear := rfl
@[simp] theorem State.upKettle_clk (s : State) (f : Kettle → Kettle) : (s.upKettle f).clk = s.clk := rfl
@[simp] theorem State.upKettle_tap (s : State) (f : Kettle → Kettle) : (s.upKettle f).tap = s.tap := rfl
@[simp] theorem State.upKettle_kettle (s : State) (f : Kettle → Kettle) : (s.upKettle f).kettle = f s.kettle := rfl
@[simp] theorem State.upKettle_drain (s : State) (f : Kettle → Kettle) : (s.upKettle f).drain = s.drain := rfl
@[simp] theorem State.upKettle_mon (s : State) (f : Kettle → Kettle) : (s.upKettle f).mon = s.mon := rfl
@[simp] theorem State.upKettle_panel (s : State) (f : Kettle → Kettle) : (s.upKettle f).panel = s.panel := rfl
@[simp] theorem State.upKettle_rstLast (s : State) (f : Kettle → Kettle) : (s.upKettle f).rstLast = s.rstLast := rfl
@[simp] theorem State.upKettle_rstDie (s : State) (f : Kettle → Kettle) : (s.upKettle f).rstDie = s.rstDie := rfl
@[simp] theorem State.upKettle_faces (s : State) (f : Kettle → Kettle) : (s.upKettle f).faces = s.faces := rfl
@[simp] theorem State.upKettle_reads (s : State) (f : Kettle → Kettle) : (s.upKettle f).reads = s.reads := rfl
@[simp] theorem State.upKettle_writes (s : State) (f : Kettle → Kettle) : (s.upKettle f).writes = s.writes := rfl
@[simp] theorem State.upKettle_narrows (s : State) (f : Kettle → Kettle) : (s.upKettle f).narrows = s.narrows := rfl
@[simp] theorem State.upKettle_held (s : State) (f : Kettle → Kettle) : (s.upKettle f).held = s.held := rfl
@[simp] theorem State.upKettle_struck (s : State) (f : Kettle → Kettle) : (s.upKettle f).struck = s.struck := rfl
@[simp] theorem State.upKettle_cupTurn (s : State) (f : Kettle → Kettle) : (s.upKettle f).cupTurn = s.cupTurn := rfl
@[simp] theorem State.upKettle_latches (s : State) (f : Kettle → Kettle) : (s.upKettle f).latches = s.latches := rfl
@[simp] theorem State.upKettle_cfg (s : State) (f : Kettle → Kettle) : (s.upKettle f).cfg = s.cfg := rfl
@[simp] theorem State.upKettle_parts (s : State) (f : Kettle → Kettle) : (s.upKettle f).parts = s.parts := rfl
@[simp] theorem State.upKettle_ctxs (s : State) (f : Kettle → Kettle) : (s.upKettle f).ctxs = s.ctxs := rfl
@[simp] theorem State.upKettle_orders (s : State) (f : Kettle → Kettle) : (s.upKettle f).orders = s.orders := rfl
@[simp] theorem State.upKettle_benches (s : State) (f : Kettle → Kettle) : (s.upKettle f).benches = s.benches := rfl
@[simp] theorem State.upKettle_ranges (s : State) (f : Kettle → Kettle) : (s.upKettle f).ranges = s.ranges := rfl
@[simp] theorem State.upKettle_dirs (s : State) (f : Kettle → Kettle) : (s.upKettle f).dirs = s.dirs := rfl
@[simp] theorem State.upKettle_walks (s : State) (f : Kettle → Kettle) : (s.upKettle f).walks = s.walks := rfl
@[simp] theorem State.upKettle_skips (s : State) (f : Kettle → Kettle) : (s.upKettle f).skips = s.skips := rfl
@[simp] theorem State.upKettle_windows (s : State) (f : Kettle → Kettle) : (s.upKettle f).windows = s.windows := rfl
@[simp] theorem State.upKettle_sampler (s : State) (f : Kettle → Kettle) : (s.upKettle f).sampler = s.sampler := rfl
@[simp] theorem State.upKettle_sampleRead (s : State) (f : Kettle → Kettle) : (s.upKettle f).sampleRead = s.sampleRead := rfl
@[simp] theorem State.upKettle_filters (s : State) (f : Kettle → Kettle) : (s.upKettle f).filters = s.filters := rfl
@[simp] theorem State.upKettle_mig (s : State) (f : Kettle → Kettle) : (s.upKettle f).mig = s.mig := rfl
@[simp] theorem State.upKettle_ints (s : State) (f : Kettle → Kettle) : (s.upKettle f).ints = s.ints := rfl
@[simp] theorem State.upKettle_nextId (s : State) (f : Kettle → Kettle) : (s.upKettle f).nextId = s.nextId := rfl

/-! `upDrain` -/

@[simp] theorem State.upDrain_pending (s : State) (f : Drain → Drain) : (s.upDrain f).pending = s.pending := rfl
@[simp] theorem State.upDrain_fuses (s : State) (f : Drain → Drain) : (s.upDrain f).fuses = s.fuses := rfl
@[simp] theorem State.upDrain_log (s : State) (f : Drain → Drain) : (s.upDrain f).log = s.log := rfl
@[simp] theorem State.upDrain_logDue (s : State) (f : Drain → Drain) : (s.upDrain f).logDue = s.logDue := rfl
@[simp] theorem State.upDrain_wear (s : State) (f : Drain → Drain) : (s.upDrain f).wear = s.wear := rfl
@[simp] theorem State.upDrain_clk (s : State) (f : Drain → Drain) : (s.upDrain f).clk = s.clk := rfl
@[simp] theorem State.upDrain_tap (s : State) (f : Drain → Drain) : (s.upDrain f).tap = s.tap := rfl
@[simp] theorem State.upDrain_kettle (s : State) (f : Drain → Drain) : (s.upDrain f).kettle = s.kettle := rfl
@[simp] theorem State.upDrain_drain (s : State) (f : Drain → Drain) : (s.upDrain f).drain = f s.drain := rfl
@[simp] theorem State.upDrain_mon (s : State) (f : Drain → Drain) : (s.upDrain f).mon = s.mon := rfl
@[simp] theorem State.upDrain_panel (s : State) (f : Drain → Drain) : (s.upDrain f).panel = s.panel := rfl
@[simp] theorem State.upDrain_rstLast (s : State) (f : Drain → Drain) : (s.upDrain f).rstLast = s.rstLast := rfl
@[simp] theorem State.upDrain_rstDie (s : State) (f : Drain → Drain) : (s.upDrain f).rstDie = s.rstDie := rfl
@[simp] theorem State.upDrain_faces (s : State) (f : Drain → Drain) : (s.upDrain f).faces = s.faces := rfl
@[simp] theorem State.upDrain_reads (s : State) (f : Drain → Drain) : (s.upDrain f).reads = s.reads := rfl
@[simp] theorem State.upDrain_writes (s : State) (f : Drain → Drain) : (s.upDrain f).writes = s.writes := rfl
@[simp] theorem State.upDrain_narrows (s : State) (f : Drain → Drain) : (s.upDrain f).narrows = s.narrows := rfl
@[simp] theorem State.upDrain_held (s : State) (f : Drain → Drain) : (s.upDrain f).held = s.held := rfl
@[simp] theorem State.upDrain_struck (s : State) (f : Drain → Drain) : (s.upDrain f).struck = s.struck := rfl
@[simp] theorem State.upDrain_cupTurn (s : State) (f : Drain → Drain) : (s.upDrain f).cupTurn = s.cupTurn := rfl
@[simp] theorem State.upDrain_latches (s : State) (f : Drain → Drain) : (s.upDrain f).latches = s.latches := rfl
@[simp] theorem State.upDrain_cfg (s : State) (f : Drain → Drain) : (s.upDrain f).cfg = s.cfg := rfl
@[simp] theorem State.upDrain_parts (s : State) (f : Drain → Drain) : (s.upDrain f).parts = s.parts := rfl
@[simp] theorem State.upDrain_ctxs (s : State) (f : Drain → Drain) : (s.upDrain f).ctxs = s.ctxs := rfl
@[simp] theorem State.upDrain_orders (s : State) (f : Drain → Drain) : (s.upDrain f).orders = s.orders := rfl
@[simp] theorem State.upDrain_benches (s : State) (f : Drain → Drain) : (s.upDrain f).benches = s.benches := rfl
@[simp] theorem State.upDrain_ranges (s : State) (f : Drain → Drain) : (s.upDrain f).ranges = s.ranges := rfl
@[simp] theorem State.upDrain_dirs (s : State) (f : Drain → Drain) : (s.upDrain f).dirs = s.dirs := rfl
@[simp] theorem State.upDrain_walks (s : State) (f : Drain → Drain) : (s.upDrain f).walks = s.walks := rfl
@[simp] theorem State.upDrain_skips (s : State) (f : Drain → Drain) : (s.upDrain f).skips = s.skips := rfl
@[simp] theorem State.upDrain_windows (s : State) (f : Drain → Drain) : (s.upDrain f).windows = s.windows := rfl
@[simp] theorem State.upDrain_sampler (s : State) (f : Drain → Drain) : (s.upDrain f).sampler = s.sampler := rfl
@[simp] theorem State.upDrain_sampleRead (s : State) (f : Drain → Drain) : (s.upDrain f).sampleRead = s.sampleRead := rfl
@[simp] theorem State.upDrain_filters (s : State) (f : Drain → Drain) : (s.upDrain f).filters = s.filters := rfl
@[simp] theorem State.upDrain_mig (s : State) (f : Drain → Drain) : (s.upDrain f).mig = s.mig := rfl
@[simp] theorem State.upDrain_ints (s : State) (f : Drain → Drain) : (s.upDrain f).ints = s.ints := rfl
@[simp] theorem State.upDrain_nextId (s : State) (f : Drain → Drain) : (s.upDrain f).nextId = s.nextId := rfl

/-! `upMon` -/

@[simp] theorem State.upMon_pending (s : State) (f : Mon → Mon) : (s.upMon f).pending = s.pending := rfl
@[simp] theorem State.upMon_fuses (s : State) (f : Mon → Mon) : (s.upMon f).fuses = s.fuses := rfl
@[simp] theorem State.upMon_log (s : State) (f : Mon → Mon) : (s.upMon f).log = s.log := rfl
@[simp] theorem State.upMon_logDue (s : State) (f : Mon → Mon) : (s.upMon f).logDue = s.logDue := rfl
@[simp] theorem State.upMon_wear (s : State) (f : Mon → Mon) : (s.upMon f).wear = s.wear := rfl
@[simp] theorem State.upMon_clk (s : State) (f : Mon → Mon) : (s.upMon f).clk = s.clk := rfl
@[simp] theorem State.upMon_tap (s : State) (f : Mon → Mon) : (s.upMon f).tap = s.tap := rfl
@[simp] theorem State.upMon_kettle (s : State) (f : Mon → Mon) : (s.upMon f).kettle = s.kettle := rfl
@[simp] theorem State.upMon_drain (s : State) (f : Mon → Mon) : (s.upMon f).drain = s.drain := rfl
@[simp] theorem State.upMon_mon (s : State) (f : Mon → Mon) : (s.upMon f).mon = f s.mon := rfl
@[simp] theorem State.upMon_panel (s : State) (f : Mon → Mon) : (s.upMon f).panel = s.panel := rfl
@[simp] theorem State.upMon_rstLast (s : State) (f : Mon → Mon) : (s.upMon f).rstLast = s.rstLast := rfl
@[simp] theorem State.upMon_rstDie (s : State) (f : Mon → Mon) : (s.upMon f).rstDie = s.rstDie := rfl
@[simp] theorem State.upMon_faces (s : State) (f : Mon → Mon) : (s.upMon f).faces = s.faces := rfl
@[simp] theorem State.upMon_reads (s : State) (f : Mon → Mon) : (s.upMon f).reads = s.reads := rfl
@[simp] theorem State.upMon_writes (s : State) (f : Mon → Mon) : (s.upMon f).writes = s.writes := rfl
@[simp] theorem State.upMon_narrows (s : State) (f : Mon → Mon) : (s.upMon f).narrows = s.narrows := rfl
@[simp] theorem State.upMon_held (s : State) (f : Mon → Mon) : (s.upMon f).held = s.held := rfl
@[simp] theorem State.upMon_struck (s : State) (f : Mon → Mon) : (s.upMon f).struck = s.struck := rfl
@[simp] theorem State.upMon_cupTurn (s : State) (f : Mon → Mon) : (s.upMon f).cupTurn = s.cupTurn := rfl
@[simp] theorem State.upMon_latches (s : State) (f : Mon → Mon) : (s.upMon f).latches = s.latches := rfl
@[simp] theorem State.upMon_cfg (s : State) (f : Mon → Mon) : (s.upMon f).cfg = s.cfg := rfl
@[simp] theorem State.upMon_parts (s : State) (f : Mon → Mon) : (s.upMon f).parts = s.parts := rfl
@[simp] theorem State.upMon_ctxs (s : State) (f : Mon → Mon) : (s.upMon f).ctxs = s.ctxs := rfl
@[simp] theorem State.upMon_orders (s : State) (f : Mon → Mon) : (s.upMon f).orders = s.orders := rfl
@[simp] theorem State.upMon_benches (s : State) (f : Mon → Mon) : (s.upMon f).benches = s.benches := rfl
@[simp] theorem State.upMon_ranges (s : State) (f : Mon → Mon) : (s.upMon f).ranges = s.ranges := rfl
@[simp] theorem State.upMon_dirs (s : State) (f : Mon → Mon) : (s.upMon f).dirs = s.dirs := rfl
@[simp] theorem State.upMon_walks (s : State) (f : Mon → Mon) : (s.upMon f).walks = s.walks := rfl
@[simp] theorem State.upMon_skips (s : State) (f : Mon → Mon) : (s.upMon f).skips = s.skips := rfl
@[simp] theorem State.upMon_windows (s : State) (f : Mon → Mon) : (s.upMon f).windows = s.windows := rfl
@[simp] theorem State.upMon_sampler (s : State) (f : Mon → Mon) : (s.upMon f).sampler = s.sampler := rfl
@[simp] theorem State.upMon_sampleRead (s : State) (f : Mon → Mon) : (s.upMon f).sampleRead = s.sampleRead := rfl
@[simp] theorem State.upMon_filters (s : State) (f : Mon → Mon) : (s.upMon f).filters = s.filters := rfl
@[simp] theorem State.upMon_mig (s : State) (f : Mon → Mon) : (s.upMon f).mig = s.mig := rfl
@[simp] theorem State.upMon_ints (s : State) (f : Mon → Mon) : (s.upMon f).ints = s.ints := rfl
@[simp] theorem State.upMon_nextId (s : State) (f : Mon → Mon) : (s.upMon f).nextId = s.nextId := rfl

/-! `upPanel` -/

@[simp] theorem State.upPanel_pending (s : State) (f : Panel → Panel) : (s.upPanel f).pending = s.pending := rfl
@[simp] theorem State.upPanel_fuses (s : State) (f : Panel → Panel) : (s.upPanel f).fuses = s.fuses := rfl
@[simp] theorem State.upPanel_log (s : State) (f : Panel → Panel) : (s.upPanel f).log = s.log := rfl
@[simp] theorem State.upPanel_logDue (s : State) (f : Panel → Panel) : (s.upPanel f).logDue = s.logDue := rfl
@[simp] theorem State.upPanel_wear (s : State) (f : Panel → Panel) : (s.upPanel f).wear = s.wear := rfl
@[simp] theorem State.upPanel_clk (s : State) (f : Panel → Panel) : (s.upPanel f).clk = s.clk := rfl
@[simp] theorem State.upPanel_tap (s : State) (f : Panel → Panel) : (s.upPanel f).tap = s.tap := rfl
@[simp] theorem State.upPanel_kettle (s : State) (f : Panel → Panel) : (s.upPanel f).kettle = s.kettle := rfl
@[simp] theorem State.upPanel_drain (s : State) (f : Panel → Panel) : (s.upPanel f).drain = s.drain := rfl
@[simp] theorem State.upPanel_mon (s : State) (f : Panel → Panel) : (s.upPanel f).mon = s.mon := rfl
@[simp] theorem State.upPanel_panel (s : State) (f : Panel → Panel) : (s.upPanel f).panel = f s.panel := rfl
@[simp] theorem State.upPanel_rstLast (s : State) (f : Panel → Panel) : (s.upPanel f).rstLast = s.rstLast := rfl
@[simp] theorem State.upPanel_rstDie (s : State) (f : Panel → Panel) : (s.upPanel f).rstDie = s.rstDie := rfl
@[simp] theorem State.upPanel_faces (s : State) (f : Panel → Panel) : (s.upPanel f).faces = s.faces := rfl
@[simp] theorem State.upPanel_reads (s : State) (f : Panel → Panel) : (s.upPanel f).reads = s.reads := rfl
@[simp] theorem State.upPanel_writes (s : State) (f : Panel → Panel) : (s.upPanel f).writes = s.writes := rfl
@[simp] theorem State.upPanel_narrows (s : State) (f : Panel → Panel) : (s.upPanel f).narrows = s.narrows := rfl
@[simp] theorem State.upPanel_held (s : State) (f : Panel → Panel) : (s.upPanel f).held = s.held := rfl
@[simp] theorem State.upPanel_struck (s : State) (f : Panel → Panel) : (s.upPanel f).struck = s.struck := rfl
@[simp] theorem State.upPanel_cupTurn (s : State) (f : Panel → Panel) : (s.upPanel f).cupTurn = s.cupTurn := rfl
@[simp] theorem State.upPanel_latches (s : State) (f : Panel → Panel) : (s.upPanel f).latches = s.latches := rfl
@[simp] theorem State.upPanel_cfg (s : State) (f : Panel → Panel) : (s.upPanel f).cfg = s.cfg := rfl
@[simp] theorem State.upPanel_parts (s : State) (f : Panel → Panel) : (s.upPanel f).parts = s.parts := rfl
@[simp] theorem State.upPanel_ctxs (s : State) (f : Panel → Panel) : (s.upPanel f).ctxs = s.ctxs := rfl
@[simp] theorem State.upPanel_orders (s : State) (f : Panel → Panel) : (s.upPanel f).orders = s.orders := rfl
@[simp] theorem State.upPanel_benches (s : State) (f : Panel → Panel) : (s.upPanel f).benches = s.benches := rfl
@[simp] theorem State.upPanel_ranges (s : State) (f : Panel → Panel) : (s.upPanel f).ranges = s.ranges := rfl
@[simp] theorem State.upPanel_dirs (s : State) (f : Panel → Panel) : (s.upPanel f).dirs = s.dirs := rfl
@[simp] theorem State.upPanel_walks (s : State) (f : Panel → Panel) : (s.upPanel f).walks = s.walks := rfl
@[simp] theorem State.upPanel_skips (s : State) (f : Panel → Panel) : (s.upPanel f).skips = s.skips := rfl
@[simp] theorem State.upPanel_windows (s : State) (f : Panel → Panel) : (s.upPanel f).windows = s.windows := rfl
@[simp] theorem State.upPanel_sampler (s : State) (f : Panel → Panel) : (s.upPanel f).sampler = s.sampler := rfl
@[simp] theorem State.upPanel_sampleRead (s : State) (f : Panel → Panel) : (s.upPanel f).sampleRead = s.sampleRead := rfl
@[simp] theorem State.upPanel_filters (s : State) (f : Panel → Panel) : (s.upPanel f).filters = s.filters := rfl
@[simp] theorem State.upPanel_mig (s : State) (f : Panel → Panel) : (s.upPanel f).mig = s.mig := rfl
@[simp] theorem State.upPanel_ints (s : State) (f : Panel → Panel) : (s.upPanel f).ints = s.ints := rfl
@[simp] theorem State.upPanel_nextId (s : State) (f : Panel → Panel) : (s.upPanel f).nextId = s.nextId := rfl

/-! `upCfg` -/

@[simp] theorem State.upCfg_pending (s : State) (f : Cfg → Cfg) : (s.upCfg f).pending = s.pending := rfl
@[simp] theorem State.upCfg_fuses (s : State) (f : Cfg → Cfg) : (s.upCfg f).fuses = s.fuses := rfl
@[simp] theorem State.upCfg_log (s : State) (f : Cfg → Cfg) : (s.upCfg f).log = s.log := rfl
@[simp] theorem State.upCfg_logDue (s : State) (f : Cfg → Cfg) : (s.upCfg f).logDue = s.logDue := rfl
@[simp] theorem State.upCfg_wear (s : State) (f : Cfg → Cfg) : (s.upCfg f).wear = s.wear := rfl
@[simp] theorem State.upCfg_clk (s : State) (f : Cfg → Cfg) : (s.upCfg f).clk = s.clk := rfl
@[simp] theorem State.upCfg_tap (s : State) (f : Cfg → Cfg) : (s.upCfg f).tap = s.tap := rfl
@[simp] theorem State.upCfg_kettle (s : State) (f : Cfg → Cfg) : (s.upCfg f).kettle = s.kettle := rfl
@[simp] theorem State.upCfg_drain (s : State) (f : Cfg → Cfg) : (s.upCfg f).drain = s.drain := rfl
@[simp] theorem State.upCfg_mon (s : State) (f : Cfg → Cfg) : (s.upCfg f).mon = s.mon := rfl
@[simp] theorem State.upCfg_panel (s : State) (f : Cfg → Cfg) : (s.upCfg f).panel = s.panel := rfl
@[simp] theorem State.upCfg_rstLast (s : State) (f : Cfg → Cfg) : (s.upCfg f).rstLast = s.rstLast := rfl
@[simp] theorem State.upCfg_rstDie (s : State) (f : Cfg → Cfg) : (s.upCfg f).rstDie = s.rstDie := rfl
@[simp] theorem State.upCfg_faces (s : State) (f : Cfg → Cfg) : (s.upCfg f).faces = s.faces := rfl
@[simp] theorem State.upCfg_reads (s : State) (f : Cfg → Cfg) : (s.upCfg f).reads = s.reads := rfl
@[simp] theorem State.upCfg_writes (s : State) (f : Cfg → Cfg) : (s.upCfg f).writes = s.writes := rfl
@[simp] theorem State.upCfg_narrows (s : State) (f : Cfg → Cfg) : (s.upCfg f).narrows = s.narrows := rfl
@[simp] theorem State.upCfg_held (s : State) (f : Cfg → Cfg) : (s.upCfg f).held = s.held := rfl
@[simp] theorem State.upCfg_struck (s : State) (f : Cfg → Cfg) : (s.upCfg f).struck = s.struck := rfl
@[simp] theorem State.upCfg_cupTurn (s : State) (f : Cfg → Cfg) : (s.upCfg f).cupTurn = s.cupTurn := rfl
@[simp] theorem State.upCfg_latches (s : State) (f : Cfg → Cfg) : (s.upCfg f).latches = s.latches := rfl
@[simp] theorem State.upCfg_cfg (s : State) (f : Cfg → Cfg) : (s.upCfg f).cfg = f s.cfg := rfl
@[simp] theorem State.upCfg_parts (s : State) (f : Cfg → Cfg) : (s.upCfg f).parts = s.parts := rfl
@[simp] theorem State.upCfg_ctxs (s : State) (f : Cfg → Cfg) : (s.upCfg f).ctxs = s.ctxs := rfl
@[simp] theorem State.upCfg_orders (s : State) (f : Cfg → Cfg) : (s.upCfg f).orders = s.orders := rfl
@[simp] theorem State.upCfg_benches (s : State) (f : Cfg → Cfg) : (s.upCfg f).benches = s.benches := rfl
@[simp] theorem State.upCfg_ranges (s : State) (f : Cfg → Cfg) : (s.upCfg f).ranges = s.ranges := rfl
@[simp] theorem State.upCfg_dirs (s : State) (f : Cfg → Cfg) : (s.upCfg f).dirs = s.dirs := rfl
@[simp] theorem State.upCfg_walks (s : State) (f : Cfg → Cfg) : (s.upCfg f).walks = s.walks := rfl
@[simp] theorem State.upCfg_skips (s : State) (f : Cfg → Cfg) : (s.upCfg f).skips = s.skips := rfl
@[simp] theorem State.upCfg_windows (s : State) (f : Cfg → Cfg) : (s.upCfg f).windows = s.windows := rfl
@[simp] theorem State.upCfg_sampler (s : State) (f : Cfg → Cfg) : (s.upCfg f).sampler = s.sampler := rfl
@[simp] theorem State.upCfg_sampleRead (s : State) (f : Cfg → Cfg) : (s.upCfg f).sampleRead = s.sampleRead := rfl
@[simp] theorem State.upCfg_filters (s : State) (f : Cfg → Cfg) : (s.upCfg f).filters = s.filters := rfl
@[simp] theorem State.upCfg_mig (s : State) (f : Cfg → Cfg) : (s.upCfg f).mig = s.mig := rfl
@[simp] theorem State.upCfg_ints (s : State) (f : Cfg → Cfg) : (s.upCfg f).ints = s.ints := rfl
@[simp] theorem State.upCfg_nextId (s : State) (f : Cfg → Cfg) : (s.upCfg f).nextId = s.nextId := rfl

/-! `upTxn` -/

@[simp] theorem State.upTxn_pending (s : State) (f : Txn → Txn) : (s.upTxn f).pending = s.pending := rfl
@[simp] theorem State.upTxn_fuses (s : State) (f : Txn → Txn) : (s.upTxn f).fuses = s.fuses := rfl
@[simp] theorem State.upTxn_log (s : State) (f : Txn → Txn) : (s.upTxn f).log = s.log := rfl
@[simp] theorem State.upTxn_logDue (s : State) (f : Txn → Txn) : (s.upTxn f).logDue = s.logDue := rfl
@[simp] theorem State.upTxn_wear (s : State) (f : Txn → Txn) : (s.upTxn f).wear = s.wear := rfl
@[simp] theorem State.upTxn_clk (s : State) (f : Txn → Txn) : (s.upTxn f).clk = s.clk := rfl
@[simp] theorem State.upTxn_tap (s : State) (f : Txn → Txn) : (s.upTxn f).tap = s.tap := rfl
@[simp] theorem State.upTxn_kettle (s : State) (f : Txn → Txn) : (s.upTxn f).kettle = s.kettle := rfl
@[simp] theorem State.upTxn_drain (s : State) (f : Txn → Txn) : (s.upTxn f).drain = s.drain := rfl
@[simp] theorem State.upTxn_mon (s : State) (f : Txn → Txn) : (s.upTxn f).mon = s.mon := rfl
@[simp] theorem State.upTxn_panel (s : State) (f : Txn → Txn) : (s.upTxn f).panel = s.panel := rfl
@[simp] theorem State.upTxn_rstLast (s : State) (f : Txn → Txn) : (s.upTxn f).rstLast = s.rstLast := rfl
@[simp] theorem State.upTxn_rstDie (s : State) (f : Txn → Txn) : (s.upTxn f).rstDie = s.rstDie := rfl
@[simp] theorem State.upTxn_faces (s : State) (f : Txn → Txn) : (s.upTxn f).faces = s.faces := rfl
@[simp] theorem State.upTxn_reads (s : State) (f : Txn → Txn) : (s.upTxn f).reads = s.reads := rfl
@[simp] theorem State.upTxn_writes (s : State) (f : Txn → Txn) : (s.upTxn f).writes = s.writes := rfl
@[simp] theorem State.upTxn_narrows (s : State) (f : Txn → Txn) : (s.upTxn f).narrows = s.narrows := rfl
@[simp] theorem State.upTxn_held (s : State) (f : Txn → Txn) : (s.upTxn f).held = s.held := rfl
@[simp] theorem State.upTxn_struck (s : State) (f : Txn → Txn) : (s.upTxn f).struck = s.struck := rfl
@[simp] theorem State.upTxn_cupTurn (s : State) (f : Txn → Txn) : (s.upTxn f).cupTurn = s.cupTurn := rfl
@[simp] theorem State.upTxn_latches (s : State) (f : Txn → Txn) : (s.upTxn f).latches = s.latches := rfl
@[simp] theorem State.upTxn_cfg (s : State) (f : Txn → Txn) : (s.upTxn f).cfg = { s.cfg with txn := f s.cfg.txn } := rfl
@[simp] theorem State.upTxn_parts (s : State) (f : Txn → Txn) : (s.upTxn f).parts = s.parts := rfl
@[simp] theorem State.upTxn_ctxs (s : State) (f : Txn → Txn) : (s.upTxn f).ctxs = s.ctxs := rfl
@[simp] theorem State.upTxn_orders (s : State) (f : Txn → Txn) : (s.upTxn f).orders = s.orders := rfl
@[simp] theorem State.upTxn_benches (s : State) (f : Txn → Txn) : (s.upTxn f).benches = s.benches := rfl
@[simp] theorem State.upTxn_ranges (s : State) (f : Txn → Txn) : (s.upTxn f).ranges = s.ranges := rfl
@[simp] theorem State.upTxn_dirs (s : State) (f : Txn → Txn) : (s.upTxn f).dirs = s.dirs := rfl
@[simp] theorem State.upTxn_walks (s : State) (f : Txn → Txn) : (s.upTxn f).walks = s.walks := rfl
@[simp] theorem State.upTxn_skips (s : State) (f : Txn → Txn) : (s.upTxn f).skips = s.skips := rfl
@[simp] theorem State.upTxn_windows (s : State) (f : Txn → Txn) : (s.upTxn f).windows = s.windows := rfl
@[simp] theorem State.upTxn_sampler (s : State) (f : Txn → Txn) : (s.upTxn f).sampler = s.sampler := rfl
@[simp] theorem State.upTxn_sampleRead (s : State) (f : Txn → Txn) : (s.upTxn f).sampleRead = s.sampleRead := rfl
@[simp] theorem State.upTxn_filters (s : State) (f : Txn → Txn) : (s.upTxn f).filters = s.filters := rfl
@[simp] theorem State.upTxn_mig (s : State) (f : Txn → Txn) : (s.upTxn f).mig = s.mig := rfl
@[simp] theorem State.upTxn_ints (s : State) (f : Txn → Txn) : (s.upTxn f).ints = s.ints := rfl
@[simp] theorem State.upTxn_nextId (s : State) (f : Txn → Txn) : (s.upTxn f).nextId = s.nextId := rfl

/-! `upInts` -/

@[simp] theorem State.upInts_pending (s : State) (f : Ints → Ints) : (s.upInts f).pending = s.pending := rfl
@[simp] theorem State.upInts_fuses (s : State) (f : Ints → Ints) : (s.upInts f).fuses = s.fuses := rfl
@[simp] theorem State.upInts_log (s : State) (f : Ints → Ints) : (s.upInts f).log = s.log := rfl
@[simp] theorem State.upInts_logDue (s : State) (f : Ints → Ints) : (s.upInts f).logDue = s.logDue := rfl
@[simp] theorem State.upInts_wear (s : State) (f : Ints → Ints) : (s.upInts f).wear = s.wear := rfl
@[simp] theorem State.upInts_clk (s : State) (f : Ints → Ints) : (s.upInts f).clk = s.clk := rfl
@[simp] theorem State.upInts_tap (s : State) (f : Ints → Ints) : (s.upInts f).tap = s.tap := rfl
@[simp] theorem State.upInts_kettle (s : State) (f : Ints → Ints) : (s.upInts f).kettle = s.kettle := rfl
@[simp] theorem State.upInts_drain (s : State) (f : Ints → Ints) : (s.upInts f).drain = s.drain := rfl
@[simp] theorem State.upInts_mon (s : State) (f : Ints → Ints) : (s.upInts f).mon = s.mon := rfl
@[simp] theorem State.upInts_panel (s : State) (f : Ints → Ints) : (s.upInts f).panel = s.panel := rfl
@[simp] theorem State.upInts_rstLast (s : State) (f : Ints → Ints) : (s.upInts f).rstLast = s.rstLast := rfl
@[simp] theorem State.upInts_rstDie (s : State) (f : Ints → Ints) : (s.upInts f).rstDie = s.rstDie := rfl
@[simp] theorem State.upInts_faces (s : State) (f : Ints → Ints) : (s.upInts f).faces = s.faces := rfl
@[simp] theorem State.upInts_reads (s : State) (f : Ints → Ints) : (s.upInts f).reads = s.reads := rfl
@[simp] theorem State.upInts_writes (s : State) (f : Ints → Ints) : (s.upInts f).writes = s.writes := rfl
@[simp] theorem State.upInts_narrows (s : State) (f : Ints → Ints) : (s.upInts f).narrows = s.narrows := rfl
@[simp] theorem State.upInts_held (s : State) (f : Ints → Ints) : (s.upInts f).held = s.held := rfl
@[simp] theorem State.upInts_struck (s : State) (f : Ints → Ints) : (s.upInts f).struck = s.struck := rfl
@[simp] theorem State.upInts_cupTurn (s : State) (f : Ints → Ints) : (s.upInts f).cupTurn = s.cupTurn := rfl
@[simp] theorem State.upInts_latches (s : State) (f : Ints → Ints) : (s.upInts f).latches = s.latches := rfl
@[simp] theorem State.upInts_cfg (s : State) (f : Ints → Ints) : (s.upInts f).cfg = s.cfg := rfl
@[simp] theorem State.upInts_parts (s : State) (f : Ints → Ints) : (s.upInts f).parts = s.parts := rfl
@[simp] theorem State.upInts_ctxs (s : State) (f : Ints → Ints) : (s.upInts f).ctxs = s.ctxs := rfl
@[simp] theorem State.upInts_orders (s : State) (f : Ints → Ints) : (s.upInts f).orders = s.orders := rfl
@[simp] theorem State.upInts_benches (s : State) (f : Ints → Ints) : (s.upInts f).benches = s.benches := rfl
@[simp] theorem State.upInts_ranges (s : State) (f : Ints → Ints) : (s.upInts f).ranges = s.ranges := rfl
@[simp] theorem State.upInts_dirs (s : State) (f : Ints → Ints) : (s.upInts f).dirs = s.dirs := rfl
@[simp] theorem State.upInts_walks (s : State) (f : Ints → Ints) : (s.upInts f).walks = s.walks := rfl
@[simp] theorem State.upInts_skips (s : State) (f : Ints → Ints) : (s.upInts f).skips = s.skips := rfl
@[simp] theorem State.upInts_windows (s : State) (f : Ints → Ints) : (s.upInts f).windows = s.windows := rfl
@[simp] theorem State.upInts_sampler (s : State) (f : Ints → Ints) : (s.upInts f).sampler = s.sampler := rfl
@[simp] theorem State.upInts_sampleRead (s : State) (f : Ints → Ints) : (s.upInts f).sampleRead = s.sampleRead := rfl
@[simp] theorem State.upInts_filters (s : State) (f : Ints → Ints) : (s.upInts f).filters = s.filters := rfl
@[simp] theorem State.upInts_mig (s : State) (f : Ints → Ints) : (s.upInts f).mig = s.mig := rfl
@[simp] theorem State.upInts_ints (s : State) (f : Ints → Ints) : (s.upInts f).ints = f s.ints := rfl
@[simp] theorem State.upInts_nextId (s : State) (f : Ints → Ints) : (s.upInts f).nextId = s.nextId := rfl

/-! `upMig` -/

@[simp] theorem State.upMig_pending (s : State) (f : Mig → Mig) : (s.upMig f).pending = s.pending := rfl
@[simp] theorem State.upMig_fuses (s : State) (f : Mig → Mig) : (s.upMig f).fuses = s.fuses := rfl
@[simp] theorem State.upMig_log (s : State) (f : Mig → Mig) : (s.upMig f).log = s.log := rfl
@[simp] theorem State.upMig_logDue (s : State) (f : Mig → Mig) : (s.upMig f).logDue = s.logDue := rfl
@[simp] theorem State.upMig_wear (s : State) (f : Mig → Mig) : (s.upMig f).wear = s.wear := rfl
@[simp] theorem State.upMig_clk (s : State) (f : Mig → Mig) : (s.upMig f).clk = s.clk := rfl
@[simp] theorem State.upMig_tap (s : State) (f : Mig → Mig) : (s.upMig f).tap = s.tap := rfl
@[simp] theorem State.upMig_kettle (s : State) (f : Mig → Mig) : (s.upMig f).kettle = s.kettle := rfl
@[simp] theorem State.upMig_drain (s : State) (f : Mig → Mig) : (s.upMig f).drain = s.drain := rfl
@[simp] theorem State.upMig_mon (s : State) (f : Mig → Mig) : (s.upMig f).mon = s.mon := rfl
@[simp] theorem State.upMig_panel (s : State) (f : Mig → Mig) : (s.upMig f).panel = s.panel := rfl
@[simp] theorem State.upMig_rstLast (s : State) (f : Mig → Mig) : (s.upMig f).rstLast = s.rstLast := rfl
@[simp] theorem State.upMig_rstDie (s : State) (f : Mig → Mig) : (s.upMig f).rstDie = s.rstDie := rfl
@[simp] theorem State.upMig_faces (s : State) (f : Mig → Mig) : (s.upMig f).faces = s.faces := rfl
@[simp] theorem State.upMig_reads (s : State) (f : Mig → Mig) : (s.upMig f).reads = s.reads := rfl
@[simp] theorem State.upMig_writes (s : State) (f : Mig → Mig) : (s.upMig f).writes = s.writes := rfl
@[simp] theorem State.upMig_narrows (s : State) (f : Mig → Mig) : (s.upMig f).narrows = s.narrows := rfl
@[simp] theorem State.upMig_held (s : State) (f : Mig → Mig) : (s.upMig f).held = s.held := rfl
@[simp] theorem State.upMig_struck (s : State) (f : Mig → Mig) : (s.upMig f).struck = s.struck := rfl
@[simp] theorem State.upMig_cupTurn (s : State) (f : Mig → Mig) : (s.upMig f).cupTurn = s.cupTurn := rfl
@[simp] theorem State.upMig_latches (s : State) (f : Mig → Mig) : (s.upMig f).latches = s.latches := rfl
@[simp] theorem State.upMig_cfg (s : State) (f : Mig → Mig) : (s.upMig f).cfg = s.cfg := rfl
@[simp] theorem State.upMig_parts (s : State) (f : Mig → Mig) : (s.upMig f).parts = s.parts := rfl
@[simp] theorem State.upMig_ctxs (s : State) (f : Mig → Mig) : (s.upMig f).ctxs = s.ctxs := rfl
@[simp] theorem State.upMig_orders (s : State) (f : Mig → Mig) : (s.upMig f).orders = s.orders := rfl
@[simp] theorem State.upMig_benches (s : State) (f : Mig → Mig) : (s.upMig f).benches = s.benches := rfl
@[simp] theorem State.upMig_ranges (s : State) (f : Mig → Mig) : (s.upMig f).ranges = s.ranges := rfl
@[simp] theorem State.upMig_dirs (s : State) (f : Mig → Mig) : (s.upMig f).dirs = s.dirs := rfl
@[simp] theorem State.upMig_walks (s : State) (f : Mig → Mig) : (s.upMig f).walks = s.walks := rfl
@[simp] theorem State.upMig_skips (s : State) (f : Mig → Mig) : (s.upMig f).skips = s.skips := rfl
@[simp] theorem State.upMig_windows (s : State) (f : Mig → Mig) : (s.upMig f).windows = s.windows := rfl
@[simp] theorem State.upMig_sampler (s : State) (f : Mig → Mig) : (s.upMig f).sampler = s.sampler := rfl
@[simp] theorem State.upMig_sampleRead (s : State) (f : Mig → Mig) : (s.upMig f).sampleRead = s.sampleRead := rfl
@[simp] theorem State.upMig_filters (s : State) (f : Mig → Mig) : (s.upMig f).filters = s.filters := rfl
@[simp] theorem State.upMig_mig (s : State) (f : Mig → Mig) : (s.upMig f).mig = f s.mig := rfl
@[simp] theorem State.upMig_ints (s : State) (f : Mig → Mig) : (s.upMig f).ints = s.ints := rfl
@[simp] theorem State.upMig_nextId (s : State) (f : Mig → Mig) : (s.upMig f).nextId = s.nextId := rfl

/-! `fresh` -/

@[simp] theorem State.fresh_pending (s : State) : (s.fresh).pending = s.pending := rfl
@[simp] theorem State.fresh_fuses (s : State) : (s.fresh).fuses = s.fuses := rfl
@[simp] theorem State.fresh_log (s : State) : (s.fresh).log = s.log := rfl
@[simp] theorem State.fresh_logDue (s : State) : (s.fresh).logDue = s.logDue := rfl
@[simp] theorem State.fresh_wear (s : State) : (s.fresh).wear = s.wear := rfl
@[simp] theorem State.fresh_clk (s : State) : (s.fresh).clk = s.clk := rfl
@[simp] theorem State.fresh_tap (s : State) : (s.fresh).tap = s.tap := rfl
@[simp] theorem State.fresh_kettle (s : State) : (s.fresh).kettle = s.kettle := rfl
@[simp] theorem State.fresh_drain (s : State) : (s.fresh).drain = s.drain := rfl
@[simp] theorem State.fresh_mon (s : State) : (s.fresh).mon = s.mon := rfl
@[simp] theorem State.fresh_panel (s : State) : (s.fresh).panel = s.panel := rfl
@[simp] theorem State.fresh_rstLast (s : State) : (s.fresh).rstLast = s.rstLast := rfl
@[simp] theorem State.fresh_rstDie (s : State) : (s.fresh).rstDie = s.rstDie := rfl
@[simp] theorem State.fresh_faces (s : State) : (s.fresh).faces = s.faces := rfl
@[simp] theorem State.fresh_reads (s : State) : (s.fresh).reads = s.reads := rfl
@[simp] theorem State.fresh_writes (s : State) : (s.fresh).writes = s.writes := rfl
@[simp] theorem State.fresh_narrows (s : State) : (s.fresh).narrows = s.narrows := rfl
@[simp] theorem State.fresh_held (s : State) : (s.fresh).held = s.held := rfl
@[simp] theorem State.fresh_struck (s : State) : (s.fresh).struck = s.struck := rfl
@[simp] theorem State.fresh_cupTurn (s : State) : (s.fresh).cupTurn = s.cupTurn := rfl
@[simp] theorem State.fresh_latches (s : State) : (s.fresh).latches = s.latches := rfl
@[simp] theorem State.fresh_cfg (s : State) : (s.fresh).cfg = s.cfg := rfl
@[simp] theorem State.fresh_parts (s : State) : (s.fresh).parts = s.parts := rfl
@[simp] theorem State.fresh_ctxs (s : State) : (s.fresh).ctxs = s.ctxs := rfl
@[simp] theorem State.fresh_orders (s : State) : (s.fresh).orders = s.orders := rfl
@[simp] theorem State.fresh_benches (s : State) : (s.fresh).benches = s.benches := rfl
@[simp] theorem State.fresh_ranges (s : State) : (s.fresh).ranges = s.ranges := rfl
@[simp] theorem State.fresh_dirs (s : State) : (s.fresh).dirs = s.dirs := rfl
@[simp] theorem State.fresh_walks (s : State) : (s.fresh).walks = s.walks := rfl
@[simp] theorem State.fresh_skips (s : State) : (s.fresh).skips = s.skips := rfl
@[simp] theorem State.fresh_windows (s : State) : (s.fresh).windows = s.windows := rfl
@[simp] theorem State.fresh_sampler (s : State) : (s.fresh).sampler = s.sampler := rfl
@[simp] theorem State.fresh_sampleRead (s : State) : (s.fresh).sampleRead = s.sampleRead := rfl
@[simp] theorem State.fresh_filters (s : State) : (s.fresh).filters = s.filters := rfl
@[simp] theorem State.fresh_mig (s : State) : (s.fresh).mig = s.mig := rfl
@[simp] theorem State.fresh_ints (s : State) : (s.fresh).ints = s.ints := rfl
@[simp] theorem State.fresh_nextId (s : State) : (s.fresh).nextId = s.nextId + 1 := rfl

/-! `setRead` -/

@[simp] theorem State.setRead_pending (s : State) (id : Nat) (f : ReadReq → ReadReq) : (s.setRead id f).pending = s.pending := rfl
@[simp] theorem State.setRead_fuses (s : State) (id : Nat) (f : ReadReq → ReadReq) : (s.setRead id f).fuses = s.fuses := rfl
@[simp] theorem State.setRead_log (s : State) (id : Nat) (f : ReadReq → ReadReq) : (s.setRead id f).log = s.log := rfl
@[simp] theorem State.setRead_logDue (s : State) (id : Nat) (f : ReadReq → ReadReq) : (s.setRead id f).logDue = s.logDue := rfl
@[simp] theorem State.setRead_wear (s : State) (id : Nat) (f : ReadReq → ReadReq) : (s.setRead id f).wear = s.wear := rfl
@[simp] theorem State.setRead_clk (s : State) (id : Nat) (f : ReadReq → ReadReq) : (s.setRead id f).clk = s.clk := rfl
@[simp] theorem State.setRead_tap (s : State) (id : Nat) (f : ReadReq → ReadReq) : (s.setRead id f).tap = s.tap := rfl
@[simp] theorem State.setRead_kettle (s : State) (id : Nat) (f : ReadReq → ReadReq) : (s.setRead id f).kettle = s.kettle := rfl
@[simp] theorem State.setRead_drain (s : State) (id : Nat) (f : ReadReq → ReadReq) : (s.setRead id f).drain = s.drain := rfl
@[simp] theorem State.setRead_mon (s : State) (id : Nat) (f : ReadReq → ReadReq) : (s.setRead id f).mon = s.mon := rfl
@[simp] theorem State.setRead_panel (s : State) (id : Nat) (f : ReadReq → ReadReq) : (s.setRead id f).panel = s.panel := rfl
@[simp] theorem State.setRead_rstLast (s : State) (id : Nat) (f : ReadReq → ReadReq) : (s.setRead id f).rstLast = s.rstLast := rfl
@[simp] theorem State.setRead_rstDie (s : State) (id : Nat) (f : ReadReq → ReadReq) : (s.setRead id f).rstDie = s.rstDie := rfl
@[simp] theorem State.setRead_faces (s : State) (id : Nat) (f : ReadReq → ReadReq) : (s.setRead id f).faces = s.faces := rfl
@[simp] theorem State.setRead_writes (s : State) (id : Nat) (f : ReadReq → ReadReq) : (s.setRead id f).writes = s.writes := rfl
@[simp] theorem State.setRead_narrows (s : State) (id : Nat) (f : ReadReq → ReadReq) : (s.setRead id f).narrows = s.narrows := rfl
@[simp] theorem State.setRead_held (s : State) (id : Nat) (f : ReadReq → ReadReq) : (s.setRead id f).held = s.held := rfl
@[simp] theorem State.setRead_struck (s : State) (id : Nat) (f : ReadReq → ReadReq) : (s.setRead id f).struck = s.struck := rfl
@[simp] theorem State.setRead_cupTurn (s : State) (id : Nat) (f : ReadReq → ReadReq) : (s.setRead id f).cupTurn = s.cupTurn := rfl
@[simp] theorem State.setRead_latches (s : State) (id : Nat) (f : ReadReq → ReadReq) : (s.setRead id f).latches = s.latches := rfl
@[simp] theorem State.setRead_cfg (s : State) (id : Nat) (f : ReadReq → ReadReq) : (s.setRead id f).cfg = s.cfg := rfl
@[simp] theorem State.setRead_parts (s : State) (id : Nat) (f : ReadReq → ReadReq) : (s.setRead id f).parts = s.parts := rfl
@[simp] theorem State.setRead_ctxs (s : State) (id : Nat) (f : ReadReq → ReadReq) : (s.setRead id f).ctxs = s.ctxs := rfl
@[simp] theorem State.setRead_orders (s : State) (id : Nat) (f : ReadReq → ReadReq) : (s.setRead id f).orders = s.orders := rfl
@[simp] theorem State.setRead_benches (s : State) (id : Nat) (f : ReadReq → ReadReq) : (s.setRead id f).benches = s.benches := rfl
@[simp] theorem State.setRead_ranges (s : State) (id : Nat) (f : ReadReq → ReadReq) : (s.setRead id f).ranges = s.ranges := rfl
@[simp] theorem State.setRead_dirs (s : State) (id : Nat) (f : ReadReq → ReadReq) : (s.setRead id f).dirs = s.dirs := rfl
@[simp] theorem State.setRead_walks (s : State) (id : Nat) (f : ReadReq → ReadReq) : (s.setRead id f).walks = s.walks := rfl
@[simp] theorem State.setRead_skips (s : State) (id : Nat) (f : ReadReq → ReadReq) : (s.setRead id f).skips = s.skips := rfl
@[simp] theorem State.setRead_windows (s : State) (id : Nat) (f : ReadReq → ReadReq) : (s.setRead id f).windows = s.windows := rfl
@[simp] theorem State.setRead_sampler (s : State) (id : Nat) (f : ReadReq → ReadReq) : (s.setRead id f).sampler = s.sampler := rfl
@[simp] theorem State.setRead_sampleRead (s : State) (id : Nat) (f : ReadReq → ReadReq) : (s.setRead id f).sampleRead = s.sampleRead := rfl
@[simp] theorem State.setRead_filters (s : State) (id : Nat) (f : ReadReq → ReadReq) : (s.setRead id f).filters = s.filters := rfl
@[simp] theorem State.setRead_mig (s : State) (id : Nat) (f : ReadReq → ReadReq) : (s.setRead id f).mig = s.mig := rfl
@[simp] theorem State.setRead_ints (s : State) (id : Nat) (f : ReadReq → ReadReq) : (s.setRead id f).ints = s.ints := rfl
@[simp] theorem State.setRead_nextId (s : State) (id : Nat) (f : ReadReq → ReadReq) : (s.setRead id f).nextId = s.nextId := rfl

/-! `setWrite` -/

@[simp] theorem State.setWrite_pending (s : State) (id : Nat) (f : WriteReq → WriteReq) : (s.setWrite id f).pending = s.pending := rfl
@[simp] theorem State.setWrite_fuses (s : State) (id : Nat) (f : WriteReq → WriteReq) : (s.setWrite id f).fuses = s.fuses := rfl
@[simp] theorem State.setWrite_log (s : State) (id : Nat) (f : WriteReq → WriteReq) : (s.setWrite id f).log = s.log := rfl
@[simp] theorem State.setWrite_logDue (s : State) (id : Nat) (f : WriteReq → WriteReq) : (s.setWrite id f).logDue = s.logDue := rfl
@[simp] theorem State.setWrite_wear (s : State) (id : Nat) (f : WriteReq → WriteReq) : (s.setWrite id f).wear = s.wear := rfl
@[simp] theorem State.setWrite_clk (s : State) (id : Nat) (f : WriteReq → WriteReq) : (s.setWrite id f).clk = s.clk := rfl
@[simp] theorem State.setWrite_tap (s : State) (id : Nat) (f : WriteReq → WriteReq) : (s.setWrite id f).tap = s.tap := rfl
@[simp] theorem State.setWrite_kettle (s : State) (id : Nat) (f : WriteReq → WriteReq) : (s.setWrite id f).kettle = s.kettle := rfl
@[simp] theorem State.setWrite_drain (s : State) (id : Nat) (f : WriteReq → WriteReq) : (s.setWrite id f).drain = s.drain := rfl
@[simp] theorem State.setWrite_mon (s : State) (id : Nat) (f : WriteReq → WriteReq) : (s.setWrite id f).mon = s.mon := rfl
@[simp] theorem State.setWrite_panel (s : State) (id : Nat) (f : WriteReq → WriteReq) : (s.setWrite id f).panel = s.panel := rfl
@[simp] theorem State.setWrite_rstLast (s : State) (id : Nat) (f : WriteReq → WriteReq) : (s.setWrite id f).rstLast = s.rstLast := rfl
@[simp] theorem State.setWrite_rstDie (s : State) (id : Nat) (f : WriteReq → WriteReq) : (s.setWrite id f).rstDie = s.rstDie := rfl
@[simp] theorem State.setWrite_faces (s : State) (id : Nat) (f : WriteReq → WriteReq) : (s.setWrite id f).faces = s.faces := rfl
@[simp] theorem State.setWrite_reads (s : State) (id : Nat) (f : WriteReq → WriteReq) : (s.setWrite id f).reads = s.reads := rfl
@[simp] theorem State.setWrite_narrows (s : State) (id : Nat) (f : WriteReq → WriteReq) : (s.setWrite id f).narrows = s.narrows := rfl
@[simp] theorem State.setWrite_held (s : State) (id : Nat) (f : WriteReq → WriteReq) : (s.setWrite id f).held = s.held := rfl
@[simp] theorem State.setWrite_struck (s : State) (id : Nat) (f : WriteReq → WriteReq) : (s.setWrite id f).struck = s.struck := rfl
@[simp] theorem State.setWrite_cupTurn (s : State) (id : Nat) (f : WriteReq → WriteReq) : (s.setWrite id f).cupTurn = s.cupTurn := rfl
@[simp] theorem State.setWrite_latches (s : State) (id : Nat) (f : WriteReq → WriteReq) : (s.setWrite id f).latches = s.latches := rfl
@[simp] theorem State.setWrite_cfg (s : State) (id : Nat) (f : WriteReq → WriteReq) : (s.setWrite id f).cfg = s.cfg := rfl
@[simp] theorem State.setWrite_parts (s : State) (id : Nat) (f : WriteReq → WriteReq) : (s.setWrite id f).parts = s.parts := rfl
@[simp] theorem State.setWrite_ctxs (s : State) (id : Nat) (f : WriteReq → WriteReq) : (s.setWrite id f).ctxs = s.ctxs := rfl
@[simp] theorem State.setWrite_orders (s : State) (id : Nat) (f : WriteReq → WriteReq) : (s.setWrite id f).orders = s.orders := rfl
@[simp] theorem State.setWrite_benches (s : State) (id : Nat) (f : WriteReq → WriteReq) : (s.setWrite id f).benches = s.benches := rfl
@[simp] theorem State.setWrite_ranges (s : State) (id : Nat) (f : WriteReq → WriteReq) : (s.setWrite id f).ranges = s.ranges := rfl
@[simp] theorem State.setWrite_dirs (s : State) (id : Nat) (f : WriteReq → WriteReq) : (s.setWrite id f).dirs = s.dirs := rfl
@[simp] theorem State.setWrite_walks (s : State) (id : Nat) (f : WriteReq → WriteReq) : (s.setWrite id f).walks = s.walks := rfl
@[simp] theorem State.setWrite_skips (s : State) (id : Nat) (f : WriteReq → WriteReq) : (s.setWrite id f).skips = s.skips := rfl
@[simp] theorem State.setWrite_windows (s : State) (id : Nat) (f : WriteReq → WriteReq) : (s.setWrite id f).windows = s.windows := rfl
@[simp] theorem State.setWrite_sampler (s : State) (id : Nat) (f : WriteReq → WriteReq) : (s.setWrite id f).sampler = s.sampler := rfl
@[simp] theorem State.setWrite_sampleRead (s : State) (id : Nat) (f : WriteReq → WriteReq) : (s.setWrite id f).sampleRead = s.sampleRead := rfl
@[simp] theorem State.setWrite_filters (s : State) (id : Nat) (f : WriteReq → WriteReq) : (s.setWrite id f).filters = s.filters := rfl
@[simp] theorem State.setWrite_mig (s : State) (id : Nat) (f : WriteReq → WriteReq) : (s.setWrite id f).mig = s.mig := rfl
@[simp] theorem State.setWrite_ints (s : State) (id : Nat) (f : WriteReq → WriteReq) : (s.setWrite id f).ints = s.ints := rfl
@[simp] theorem State.setWrite_nextId (s : State) (id : Nat) (f : WriteReq → WriteReq) : (s.setWrite id f).nextId = s.nextId := rfl

/-! `quitWhere` -/

@[simp] theorem State.quitWhere_pending (s : State) (f : Consumer → Bool) (g : Nat → Bool) : (s.quitWhere f g).pending = s.pending := rfl
@[simp] theorem State.quitWhere_fuses (s : State) (f : Consumer → Bool) (g : Nat → Bool) : (s.quitWhere f g).fuses = s.fuses := rfl
@[simp] theorem State.quitWhere_log (s : State) (f : Consumer → Bool) (g : Nat → Bool) : (s.quitWhere f g).log = s.log := rfl
@[simp] theorem State.quitWhere_logDue (s : State) (f : Consumer → Bool) (g : Nat → Bool) : (s.quitWhere f g).logDue = s.logDue := rfl
@[simp] theorem State.quitWhere_wear (s : State) (f : Consumer → Bool) (g : Nat → Bool) : (s.quitWhere f g).wear = s.wear := rfl
@[simp] theorem State.quitWhere_clk (s : State) (f : Consumer → Bool) (g : Nat → Bool) : (s.quitWhere f g).clk = s.clk := rfl
@[simp] theorem State.quitWhere_tap (s : State) (f : Consumer → Bool) (g : Nat → Bool) : (s.quitWhere f g).tap = s.tap := rfl
@[simp] theorem State.quitWhere_kettle (s : State) (f : Consumer → Bool) (g : Nat → Bool) : (s.quitWhere f g).kettle = s.kettle := rfl
@[simp] theorem State.quitWhere_drain (s : State) (f : Consumer → Bool) (g : Nat → Bool) : (s.quitWhere f g).drain = s.drain := rfl
@[simp] theorem State.quitWhere_mon (s : State) (f : Consumer → Bool) (g : Nat → Bool) : (s.quitWhere f g).mon = s.mon := rfl
@[simp] theorem State.quitWhere_panel (s : State) (f : Consumer → Bool) (g : Nat → Bool) : (s.quitWhere f g).panel = s.panel := rfl
@[simp] theorem State.quitWhere_rstLast (s : State) (f : Consumer → Bool) (g : Nat → Bool) : (s.quitWhere f g).rstLast = s.rstLast := rfl
@[simp] theorem State.quitWhere_rstDie (s : State) (f : Consumer → Bool) (g : Nat → Bool) : (s.quitWhere f g).rstDie = s.rstDie := rfl
@[simp] theorem State.quitWhere_faces (s : State) (f : Consumer → Bool) (g : Nat → Bool) : (s.quitWhere f g).faces = s.faces := rfl
@[simp] theorem State.quitWhere_writes (s : State) (f : Consumer → Bool) (g : Nat → Bool) : (s.quitWhere f g).writes = s.writes := rfl
@[simp] theorem State.quitWhere_narrows (s : State) (f : Consumer → Bool) (g : Nat → Bool) : (s.quitWhere f g).narrows = s.narrows := rfl
@[simp] theorem State.quitWhere_struck (s : State) (f : Consumer → Bool) (g : Nat → Bool) : (s.quitWhere f g).struck = s.struck := rfl
@[simp] theorem State.quitWhere_cupTurn (s : State) (f : Consumer → Bool) (g : Nat → Bool) : (s.quitWhere f g).cupTurn = s.cupTurn := rfl
@[simp] theorem State.quitWhere_latches (s : State) (f : Consumer → Bool) (g : Nat → Bool) : (s.quitWhere f g).latches = s.latches := rfl
@[simp] theorem State.quitWhere_cfg (s : State) (f : Consumer → Bool) (g : Nat → Bool) : (s.quitWhere f g).cfg = s.cfg := rfl
@[simp] theorem State.quitWhere_parts (s : State) (f : Consumer → Bool) (g : Nat → Bool) : (s.quitWhere f g).parts = s.parts := rfl
@[simp] theorem State.quitWhere_ctxs (s : State) (f : Consumer → Bool) (g : Nat → Bool) : (s.quitWhere f g).ctxs = s.ctxs := rfl
@[simp] theorem State.quitWhere_orders (s : State) (f : Consumer → Bool) (g : Nat → Bool) : (s.quitWhere f g).orders = s.orders := rfl
@[simp] theorem State.quitWhere_benches (s : State) (f : Consumer → Bool) (g : Nat → Bool) : (s.quitWhere f g).benches = s.benches := rfl
@[simp] theorem State.quitWhere_ranges (s : State) (f : Consumer → Bool) (g : Nat → Bool) : (s.quitWhere f g).ranges = s.ranges := rfl
@[simp] theorem State.quitWhere_dirs (s : State) (f : Consumer → Bool) (g : Nat → Bool) : (s.quitWhere f g).dirs = s.dirs := rfl
@[simp] theorem State.quitWhere_walks (s : State) (f : Consumer → Bool) (g : Nat → Bool) : (s.quitWhere f g).walks = s.walks := rfl
@[simp] theorem State.quitWhere_skips (s : State) (f : Consumer → Bool) (g : Nat → Bool) : (s.quitWhere f g).skips = s.skips := rfl
@[simp] theorem State.quitWhere_windows (s : State) (f : Consumer → Bool) (g : Nat → Bool) : (s.quitWhere f g).windows = s.windows := rfl
@[simp] theorem State.quitWhere_sampler (s : State) (f : Consumer → Bool) (g : Nat → Bool) : (s.quitWhere f g).sampler = s.sampler := rfl
@[simp] theorem State.quitWhere_sampleRead (s : State) (f : Consumer → Bool) (g : Nat → Bool) : (s.quitWhere f g).sampleRead = s.sampleRead := rfl
@[simp] theorem State.quitWhere_filters (s : State) (f : Consumer → Bool) (g : Nat → Bool) : (s.quitWhere f g).filters = s.filters := rfl
@[simp] theorem State.quitWhere_mig (s : State) (f : Consumer → Bool) (g : Nat → Bool) : (s.quitWhere f g).mig = s.mig := rfl
@[simp] theorem State.quitWhere_ints (s : State) (f : Consumer → Bool) (g : Nat → Bool) : (s.quitWhere f g).ints = s.ints := rfl
@[simp] theorem State.quitWhere_nextId (s : State) (f : Consumer → Bool) (g : Nat → Bool) : (s.quitWhere f g).nextId = s.nextId := rfl

end Sys2Proof.Machine
end

