-- ==== Sys2Proof/Laws/Banks.lean ====
section
/-! SUPPORT. Reading a bank after an update of one of its entries: the entry as changed, and every other as it was. -/

namespace Sys2Proof.Machine

theorem getD_modify_same {α : Type} (l : List α) (i : Nat) (f : α → α) (d : α) (h : i < l.length) : (l.modify i f).getD i d = f (l.getD i d) := by
  simp [List.getD_eq_getElem?_getD, List.getElem?_eq_getElem h]

theorem getD_modify_other {α : Type} (l : List α) (i j : Nat) (f : α → α) (d : α) (h : i ≠ j) : (l.modify i f).getD j d = l.getD j d := by
  simp [List.getD_eq_getElem?_getD, h]

theorem State.part_upPart_same (s : State) (p : Nat) (g : Part → Part) (h : p < s.parts.length) : (s.upPart p g).part p = g (s.part p) :=
  getD_modify_same _ _ _ _ h

theorem State.part_upPart_other (s : State) (p i : Nat) (g : Part → Part) (h : p ≠ i) : (s.upPart p g).part i = s.part i :=
  getD_modify_other _ _ _ _ _ h

theorem State.bench_upBench_same (s : State) (b : Nat) (g : Bench → Bench) (h : b < s.benches.length) : (s.upBench b g).bench b = g (s.bench b) :=
  getD_modify_same _ _ _ _ h

theorem State.bench_upBench_other (s : State) (b i : Nat) (g : Bench → Bench) (h : b ≠ i) : (s.upBench b g).bench i = s.bench i :=
  getD_modify_other _ _ _ _ _ h

theorem State.face_upFace_same (s : State) (f : Nat) (g : Face → Face) (h : f < s.faces.length) : (s.upFace f g).face f = g (s.face f) :=
  getD_modify_same _ _ _ _ h

theorem State.face_upFace_other (s : State) (f i : Nat) (g : Face → Face) (h : f ≠ i) : (s.upFace f g).face i = s.face i :=
  getD_modify_other _ _ _ _ _ h

theorem State.window_upWindow_same (s : State) (e : Nat) (g : Window → Window) (h : e < s.windows.length) : (s.upWindow e g).window e = g (s.window e) :=
  getD_modify_same _ _ _ _ h

theorem State.window_upWindow_other (s : State) (e i : Nat) (g : Window → Window) (h : e ≠ i) : (s.upWindow e g).window i = s.window i :=
  getD_modify_other _ _ _ _ _ h

theorem State.modl_upMod_same (s : State) (f m : Nat) (g : Modl → Modl) (hf : f < s.faces.length) (hm : m < (s.face f).mods.length) :
    (s.upMod f m g).modl f m = g (s.modl f m) := by
  unfold State.modl State.upMod
  rw [State.face_upFace_same _ _ _ hf]
  exact getD_modify_same _ _ _ _ hm

theorem State.modl_upMod_other (s : State) (f m f' m' : Nat) (g : Modl → Modl) (h : f ≠ f' ∨ m ≠ m') :
    (s.upMod f m g).modl f' m' = s.modl f' m' := by
  unfold State.modl State.upMod
  by_cases e : f = f'
  · subst e
    by_cases hf : f < s.faces.length
    · rw [State.face_upFace_same _ _ _ hf]
      exact getD_modify_other _ _ _ _ _ (h.resolve_left (fun x => x rfl))
    · unfold State.upFace State.face
      simp only
      rw [List.modify_eq_self (Nat.le_of_not_lt hf)]
  · rw [State.face_upFace_other _ _ _ _ e]

/-- A module that differs from what an absent place reads as is in the banks. -/
theorem State.modl_bounds (s : State) (f m : Nat) (h : s.modl f m ≠ {}) : f < s.faces.length ∧ m < (s.face f).mods.length := by
  constructor
  · by_contra e
    apply h
    show ((s.faces.getD f {}).mods).getD m {} = {}
    rw [List.getD_eq_getElem?_getD (l := s.faces), List.getElem?_eq_none (by omega)]
    show (List.replicate 6 ({} : Modl)).getD m {} = {}
    rw [List.getD_eq_getElem?_getD, List.getElem?_replicate]
    split <;> rfl
  · by_contra e
    apply h
    show ((s.face f).mods).getD m {} = {}
    rw [List.getD_eq_getElem?_getD, List.getElem?_eq_none (by omega)]
    rfl

theorem State.modl_upFace (s : State) (f : Nat) (g : Face → Face) (h : ∀ x, (g x).mods = x.mods) (i m : Nat) :
    (s.upFace f g).modl i m = s.modl i m := by
  unfold State.modl State.upFace State.face
  simp only [List.getD_eq_getElem?_getD, List.getElem?_modify]
  cases s.faces[i]? with
  | none => rfl
  | some z => by_cases e : f = i <;> simp [e, h]

end Sys2Proof.Machine
end

