-- ==== Sys2Proof/Laws/Find.lean ====
section
/-! SUPPORT. What an order and a session read as after an update of one of them. -/

namespace Sys2Proof.Machine

theorem order?_mem {s : State} {i : Nat} {o : Order} (h : s.order? i = some o) : o ∈ s.orders ∧ o.id = i := by
  refine ⟨List.mem_of_find?_eq_some h, ?_⟩
  simpa using List.find?_some h

theorem ctx?_mem {s : State} {p n : Nat} {c : Ctx} (h : s.ctx? p n = some c) : c ∈ s.ctxs ∧ c.p = p ∧ c.session = n := by
  refine ⟨List.mem_of_find?_eq_some h, ?_⟩
  simpa using List.find?_some h

/-- An update that keeps the numbers of orders is found again under the same number. -/
theorem order?_upOrder (s : State) (i j : Nat) (f : Order → Order) (hf : ∀ x, x.id = i → (f x).id = i) :
    (s.upOrder i f).order? j = (s.order? j).map (fun x => if x.id = i then f x else x) := by
  simp only [State.order?, State.upOrder, List.find?_map]
  congr 1
  congr 1
  funext x
  simp only [Function.comp]
  split
  case isTrue h => rw [hf x h, h]
  case isFalse => rfl

theorem order?_upOrder_self (s : State) (i : Nat) (f : Order → Order) (hf : ∀ x, x.id = i → (f x).id = i) :
    (s.upOrder i f).order? i = (s.order? i).map f := by
  rw [order?_upOrder s i i f hf]
  cases h : s.order? i with
  | none => rfl
  | some o => simp [(order?_mem h).2]

theorem order?_upOrder_ne (s : State) (i j : Nat) (f : Order → Order) (hf : ∀ x, x.id = i → (f x).id = i) (hj : j ≠ i) :
    (s.upOrder i f).order? j = s.order? j := by
  rw [order?_upOrder s i j f hf]
  cases h : s.order? j with
  | none => rfl
  | some o => simp [(order?_mem h).2, hj]

theorem ctx?_upCtx (s : State) (p n q m : Nat) (f : Ctx → Ctx) (hf : ∀ c, (f c).p = c.p ∧ (f c).session = c.session) :
    (s.upCtx p n f).ctx? q m = (s.ctx? q m).map (fun c => if c.p = p ∧ c.session = n then f c else c) := by
  simp only [State.ctx?, State.upCtx, List.find?_map]
  congr 1
  congr 1
  funext c
  simp only [Function.comp]
  split <;> simp [hf c]

theorem ctx?_upCtx_self (s : State) (p n : Nat) (f : Ctx → Ctx) (hf : ∀ c, (f c).p = c.p ∧ (f c).session = c.session) :
    (s.upCtx p n f).ctx? p n = (s.ctx? p n).map f := by
  rw [ctx?_upCtx s p n p n f hf]
  cases h : s.ctx? p n with
  | none => rfl
  | some c => simp [(ctx?_mem h).2.1, (ctx?_mem h).2.2]

end Sys2Proof.Machine
end

