-- ==== Sys2Proof/Laws/Kept.lean ====
section
/-! SUPPORT. The relations `Kept` and `Same` of Safety.lean: they hold of a state and itself, they compose, and a change of the
fields that they do not name keeps them. Requests stay told apart where reads and writes are left out, changed in fields that
do not tell them apart, added under a new number, or sent under a tag that `freeTag` finds. -/

namespace Sys2Proof.Machine

theorem Kept.refl (s : State) : Kept s s := ⟨rfl, rfl, id, List.prefix_rfl, id⟩
theorem Kept.trans {a b c : State} (h : Kept a b) (k : Kept b c) : Kept a c :=
  ⟨k.pending.trans h.pending, k.fuses.trans h.fuses, fun x => k.sized (h.sized x), h.log.trans k.log, fun x => k.tags (h.tags x)⟩
theorem Same.refl (s : State) : Same s s := ⟨Kept.refl s, rfl, rfl, rfl⟩
theorem Same.trans {a b c : State} (h : Same a b) (k : Same b c) : Same a c :=
  ⟨h.toKept.trans k.toKept, k.live.trans h.live, k.epoch.trans h.epoch, k.count.trans h.count⟩

/-- A change of anything else leaves the requests told apart. -/
theorem tagsOk_of_eq {s t : State} (hr : t.reads = s.reads) (hw : t.writes = s.writes) (hn : s.nextId ≤ t.nextId) (h : s.tagsOk) : t.tagsOk :=
  ⟨hr ▸ h.reads, fun r m => ⟨Nat.lt_of_lt_of_le (h.readTag r (hr ▸ m)).1 hn, (h.readTag r (hr ▸ m)).2⟩,
   hw ▸ h.writes, fun r m => ⟨Nat.lt_of_lt_of_le (h.writeTag r (hw ▸ m)).1 hn, (h.writeTag r (hw ▸ m)).2⟩⟩

theorem tagsOk_empty {t : State} (hr : t.reads = []) (hw : t.writes = []) : t.tagsOk :=
  ⟨hr ▸ List.Pairwise.nil, fun r m => absurd (hr ▸ m) (List.not_mem_nil (a := r)), hw ▸ List.Pairwise.nil,
   fun r m => absurd (hw ▸ m) (List.not_mem_nil (a := r))⟩

/-- A change of the fields that the relation does not name. -/
theorem Same.rest {a s t : State} (h : Same a s) (hq : t.pending = s.pending) (hf : t.fuses = s.fuses) (hp : t.parts = s.parts)
    (hb : t.benches = s.benches) (hw : t.windows = s.windows) (hm : t.faces = s.faces) (hl : t.log = s.log)
    (hr : t.reads = s.reads) (hx : t.writes = s.writes) (hn : t.nextId = s.nextId) (hc : t.cfg = s.cfg)
    (hk : t.clk.count = s.clk.count := by rfl) : Same a t :=
  h.trans ⟨⟨hq, hf, fun x => by unfold State.sized at *; rw [hp, hb, hw, hm]; exact x, hl ▸ List.prefix_rfl,
    tagsOk_of_eq hr hx (Nat.le_of_eq hn.symm)⟩, by rw [hc], by rw [hc], hk⟩

/-- A change that keeps the sizes of the banks. -/
theorem Same.lens {a s t : State} (h : Same a s) (hq : t.pending = s.pending) (hf : t.fuses = s.fuses)
    (hp : t.parts.length = s.parts.length) (hb : t.benches.length = s.benches.length) (hw : t.windows.length = s.windows.length)
    (hm : t.faces.map (fun x => x.mods.length) = s.faces.map (fun x => x.mods.length)) (hl : s.log <+: t.log)
    (ht : s.tagsOk → t.tagsOk) (hc : t.cfg.live = s.cfg.live) (he : t.cfg.epoch = s.cfg.epoch)
    (hk : t.clk.count = s.clk.count := by rfl) : Same a t :=
  h.trans ⟨⟨hq, hf, fun x => by unfold State.sized at *; rw [hp, hb, hw, hm]; exact x, hl, ht⟩, hc, he, hk⟩

theorem Same.foldl {a s : State} {α : Type} {f : State → α → State} {l : List α} (h : Same a s)
    (hf : ∀ (s : State) (x : α), Same a s → Same a (f s x)) : Same a (l.foldl f s) := by
  induction l generalizing s with
  | nil => exact h
  | cons x l ih => exact ih (hf s x h)
theorem Same.foldlP {a : State} {α β : Type} {f : State × β → α → State × β} {l : List α} {st : State × β} (h : Same a st.1)
    (hf : ∀ (st : State × β) (x : α), Same a st.1 → Same a (f st x).1) : Same a (l.foldl f st).1 := by
  induction l generalizing st with
  | nil => exact h
  | cons x l ih => exact ih (hf st x h)
theorem Same.foldlP2 {a t : State} {α β : Type} {f : State × β → α → State × β} {l : List α} {st : State × β} {r : β}
    (e : l.foldl f st = (t, r)) (h : Same a st.1) (hf : ∀ (st : State × β) (x : α), Same a st.1 → Same a (f st x).1) : Same a t := by
  have q := Same.foldlP (l := l) h hf
  rw [e] at q; exact q
theorem Same.ite {a s t : State} {c : Prop} [Decidable c] (h : Same a s) (k : Same a t) : Same a (if c then s else t) := by
  split <;> assumption
theorem Same.pair2 {a s t : State} {β : Type} {b r : β} (e : (s, b) = (t, r)) (h : Same a s) : Same a t := by
  cases e; exact h
theorem modify_map_length {α β : Type} (l : List α) (n : Nat) (g : α → α) (f : α → β) (h : ∀ x, f (g x) = f x) :
    (l.modify n g).map f = l.map f := by
  induction l generalizing n with
  | nil => simp
  | cons x l ih => cases n <;> simp [h, ih]

/-- A read that a change leaves on its module under its tag, or takes off its module. -/
def ReadReq.follows (r x : ReadReq) : Prop := x.id = r.id ∧ x.face = r.face ∧ x.tag = r.tag ∧ (x.modl = r.modl ∨ x.modl = none)
def WriteReq.follows (r x : WriteReq) : Prop := x.id = r.id ∧ x.face = r.face ∧ x.tag = r.tag ∧ (x.modl = r.modl ∨ x.modl = none)

theorem reads_follow {l : List ReadReq} {f : ReadReq → ReadReq} (hf : ∀ r, ReadReq.follows r (f r)) (h : l.Pairwise (fun a b => ¬a.clash b)) :
    (l.map f).Pairwise (fun a b => ¬a.clash b) := by
  rw [List.pairwise_map]
  refine h.imp (fun {a b} n c => n ?_)
  obtain ⟨i1, f1, t1, m1⟩ := hf a
  obtain ⟨i2, f2, t2, m2⟩ := hf b
  rcases c with c | ⟨c1, c2, c3, c4⟩
  · exact .inl (by rw [← i1, ← i2, c])
  · have q1 : (f a).modl = a.modl := m1.resolve_right (fun e => by rw [e] at c3; cases c3)
    have q2 : (f b).modl = b.modl := m2.resolve_right (fun e => by rw [c2, e] at c3; cases c3)
    exact .inr ⟨by rw [← f1, ← f2, c1], by rw [← q1, ← q2, c2], q1 ▸ c3, by rw [← t1, ← t2, c4]⟩
theorem writes_follow {l : List WriteReq} {f : WriteReq → WriteReq} (hf : ∀ r, WriteReq.follows r (f r)) (h : l.Pairwise (fun a b => ¬a.clash b)) :
    (l.map f).Pairwise (fun a b => ¬a.clash b) := by
  rw [List.pairwise_map]
  refine h.imp (fun {a b} n c => n ?_)
  obtain ⟨i1, f1, t1, m1⟩ := hf a
  obtain ⟨i2, f2, t2, m2⟩ := hf b
  rcases c with c | ⟨c1, c2, c3, c4⟩
  · exact .inl (by rw [← i1, ← i2, c])
  · have q1 : (f a).modl = a.modl := m1.resolve_right (fun e => by rw [e] at c3; cases c3)
    have q2 : (f b).modl = b.modl := m2.resolve_right (fun e => by rw [c2, e] at c3; cases c3)
    exact .inr ⟨by rw [← f1, ← f2, c1], by rw [← q1, ← q2, c2], q1 ▸ c3, by rw [← t1, ← t2, c4]⟩

/-- Reads and writes that come from the old ones by leaving some out and by changes that follow. -/
theorem tagsOk_sub {s t : State} {f : ReadReq → ReadReq} {g : WriteReq → WriteReq} {l : List ReadReq} {k : List WriteReq}
    (hr : t.reads = l.map f) (hl : l.Sublist s.reads) (hw : t.writes = k.map g) (hk : k.Sublist s.writes) (hn : t.nextId = s.nextId)
    (hf : ∀ r, ReadReq.follows r (f r)) (hg : ∀ r, WriteReq.follows r (g r)) (h : s.tagsOk) : t.tagsOk := by
  refine ⟨hr ▸ reads_follow hf (h.reads.sublist hl), ?_, hw ▸ writes_follow hg (h.writes.sublist hk), ?_⟩
  · intro r m
    rw [hr] at m
    obtain ⟨x, hx, rfl⟩ := List.mem_map.1 m
    obtain ⟨i, -, j, -⟩ := hf x
    rw [hn, i, j]; exact h.readTag x (hl.subset hx)
  · intro r m
    rw [hw] at m
    obtain ⟨x, hx, rfl⟩ := List.mem_map.1 m
    obtain ⟨i, -, j, -⟩ := hg x
    rw [hn, i, j]; exact h.writeTag x (hk.subset hx)

/-- A new read that waits: its number is the next, which is then used. -/
theorem tagsOk_read {s t : State} {x : ReadReq} (hr : t.reads = s.reads ++ [x]) (hi : x.id = s.nextId) (hm : x.modl = none) (ht : x.tag = 0)
    (hw : t.writes = s.writes) (hn : t.nextId = s.nextId + 1) (h : s.tagsOk) : t.tagsOk := by
  refine ⟨?_, ?_, hw ▸ h.writes, fun w m => ⟨by rw [hn]; exact Nat.lt_succ_of_lt (h.writeTag w (hw ▸ m)).1, (h.writeTag w (hw ▸ m)).2⟩⟩
  · rw [hr, List.pairwise_append]
    refine ⟨h.reads, List.pairwise_singleton _ _, ?_⟩
    intro a ha b hb c
    rw [List.mem_singleton] at hb; subst hb
    have := (h.readTag a ha).1
    rcases c with c | ⟨-, c2, c3, -⟩
    · omega
    · rw [c2, hm] at c3; simp at c3
  · intro r m
    rw [hr, List.mem_append, List.mem_singleton] at m
    rcases m with m | rfl
    · exact ⟨by rw [hn]; exact Nat.lt_succ_of_lt (h.readTag r m).1, (h.readTag r m).2⟩
    · rw [hn, hi, ht]; omega
theorem tagsOk_write {s t : State} {x : WriteReq} (hr : t.writes = s.writes ++ [x]) (hi : x.id = s.nextId) (hm : x.modl = none) (ht : x.tag = 0)
    (hw : t.reads = s.reads) (hn : t.nextId = s.nextId + 1) (h : s.tagsOk) : t.tagsOk := by
  refine ⟨hw ▸ h.reads, fun w m => ⟨by rw [hn]; exact Nat.lt_succ_of_lt (h.readTag w (hw ▸ m)).1, (h.readTag w (hw ▸ m)).2⟩, ?_, ?_⟩
  · rw [hr, List.pairwise_append]
    refine ⟨h.writes, List.pairwise_singleton _ _, ?_⟩
    intro a ha b hb c
    rw [List.mem_singleton] at hb; subst hb
    have := (h.writeTag a ha).1
    rcases c with c | ⟨-, c2, c3, -⟩
    · omega
    · rw [c2, hm] at c3; simp at c3
  · intro r m
    rw [hr, List.mem_append, List.mem_singleton] at m
    rcases m with m | rfl
    · exact ⟨by rw [hn]; exact Nat.lt_succ_of_lt (h.writeTag r m).1, (h.writeTag r m).2⟩
    · rw [hn, hi, ht]; omega

theorem freeTag_spec {used : List Nat} {n k t : Nat} (h : freeTag used n k = some t) : ¬used.contains t ∧ t < k + n := by
  induction n generalizing k with
  | zero => simp [freeTag] at h
  | succ n ih =>
    unfold freeTag at h
    split at h
    · have := ih h; exact ⟨this.1, by omega⟩
    · cases h; constructor
      · assumption
      · omega

/-- A read that is sent takes a tag that no read of its module has. -/
theorem tagsOk_sendRead {s t : State} {id m tag : Nat} {nth : Option Nat} {r : ReadReq} (hf : s.reads.find? (fun x => x.id == id) = some r)
    (ht : freeTag ((s.reads.filter (fun y => y.face == r.face && y.modl == some m)).map ReadReq.tag) 4096 0 = some tag)
    (hr : t.reads = s.reads.map (fun y => if y.id = id then { y with modl := some m, tag := tag, nth := nth } else y))
    (hw : t.writes = s.writes) (hn : s.nextId ≤ t.nextId) (h : s.tagsOk) : t.tagsOk := by
  obtain ⟨hu, hlt⟩ := freeTag_spec ht
  have hrid : r.id = id := by simpa using List.find?_some hf
  have hrm : r ∈ s.reads := List.mem_of_find?_eq_some hf
  have uniq : ∀ y ∈ s.reads, y.id = id → y = r := by
    intro y hy e
    by_contra ne
    have := (List.pairwise_iff_getElem.1 h.reads)
    obtain ⟨i, hi, rfl⟩ := List.getElem_of_mem hy
    obtain ⟨j, hj, rfl⟩ := List.getElem_of_mem hrm
    rcases Nat.lt_trichotomy i j with l | l | l
    · exact this i j hi hj l (.inl (by omega))
    · subst l; exact ne rfl
    · exact this j i hj hi l (.inl (by omega))
  refine ⟨?_, ?_, hw ▸ h.writes, fun w k => ⟨Nat.lt_of_lt_of_le (h.writeTag w (hw ▸ k)).1 hn, (h.writeTag w (hw ▸ k)).2⟩⟩
  · rw [hr, List.pairwise_map]
    refine (h.reads.and (List.pairwise_of_forall_mem_list (r := fun a b => a ∈ s.reads ∧ b ∈ s.reads) (fun a ha b hb => ⟨ha, hb⟩))).imp ?_
    rintro a b ⟨n, ha, hb⟩ c
    have free : ∀ y ∈ s.reads, y.face = r.face → y.modl = some m → y.tag ≠ tag := by
      intro y hy e1 e2 e3
      exact hu (by simp only [List.contains_iff_mem, List.mem_map, List.mem_filter]; exact ⟨y, ⟨hy, by simp [e1, e2]⟩, e3⟩)
    rcases c with c | ⟨c1, c2, c3, c4⟩
    · refine n (.inl ?_)
      split at c <;> split at c <;> simpa using c
    · by_cases h1 : a.id = id <;> by_cases h2 : b.id = id
      · exact n (.inl (by omega))
      · have := uniq a ha h1; subst this
        simp only [h1, h2, if_true, if_false] at c1 c2 c4
        exact free b hb c1.symm c2.symm c4.symm
      · have := uniq b hb h2; subst this
        simp only [h1, h2, if_true, if_false] at c1 c2 c4
        exact free a ha c1 c2 c4
      · simp only [h1, h2, if_false] at c1 c2 c3 c4
        exact n (.inr ⟨c1, c2, c3, c4⟩)
  · intro x k
    rw [hr] at k
    obtain ⟨y, hy, rfl⟩ := List.mem_map.1 k
    have := h.readTag y hy
    split
    · exact ⟨Nat.lt_of_lt_of_le this.1 hn, by simp; omega⟩
    · exact ⟨Nat.lt_of_lt_of_le this.1 hn, this.2⟩
theorem tagsOk_sendWrite {s t : State} {id m tag : Nat} {nth : Option Nat} {r : WriteReq} (hf : s.writes.find? (fun x => x.id == id) = some r)
    (ht : freeTag ((s.writes.filter (fun y => y.face == r.face && y.modl == some m)).map WriteReq.tag) 4096 0 = some tag)
    (hr : t.writes = s.writes.map (fun y => if y.id = id then { y with modl := some m, tag := tag, nth := nth } else y))
    (hw : t.reads = s.reads) (hn : s.nextId ≤ t.nextId) (h : s.tagsOk) : t.tagsOk := by
  obtain ⟨hu, hlt⟩ := freeTag_spec ht
  have hrid : r.id = id := by simpa using List.find?_some hf
  have hrm : r ∈ s.writes := List.mem_of_find?_eq_some hf
  have uniq : ∀ y ∈ s.writes, y.id = id → y = r := by
    intro y hy e
    by_contra ne
    have := (List.pairwise_iff_getElem.1 h.writes)
    obtain ⟨i, hi, rfl⟩ := List.getElem_of_mem hy
    obtain ⟨j, hj, rfl⟩ := List.getElem_of_mem hrm
    rcases Nat.lt_trichotomy i j with l | l | l
    · exact this i j hi hj l (.inl (by omega))
    · subst l; exact ne rfl
    · exact this j i hj hi l (.inl (by omega))
  refine ⟨hw ▸ h.reads, fun w k => ⟨Nat.lt_of_lt_of_le (h.readTag w (hw ▸ k)).1 hn, (h.readTag w (hw ▸ k)).2⟩, ?_, ?_⟩
  · rw [hr, List.pairwise_map]
    refine (h.writes.and (List.pairwise_of_forall_mem_list (r := fun a b => a ∈ s.writes ∧ b ∈ s.writes) (fun a ha b hb => ⟨ha, hb⟩))).imp ?_
    rintro a b ⟨n, ha, hb⟩ c
    have free : ∀ y ∈ s.writes, y.face = r.face → y.modl = some m → y.tag ≠ tag := by
      intro y hy e1 e2 e3
      exact hu (by simp only [List.contains_iff_mem, List.mem_map, List.mem_filter]; exact ⟨y, ⟨hy, by simp [e1, e2]⟩, e3⟩)
    rcases c with c | ⟨c1, c2, c3, c4⟩
    · refine n (.inl ?_)
      split at c <;> split at c <;> simpa using c
    · by_cases h1 : a.id = id <;> by_cases h2 : b.id = id
      · exact n (.inl (by omega))
      · have := uniq a ha h1; subst this
        simp only [h1, h2, if_true, if_false] at c1 c2 c4
        exact free b hb c1.symm c2.symm c4.symm
      · have := uniq b hb h2; subst this
        simp only [h1, h2, if_true, if_false] at c1 c2 c4
        exact free a ha c1 c2 c4
      · simp only [h1, h2, if_false] at c1 c2 c3 c4
        exact n (.inr ⟨c1, c2, c3, c4⟩)
  · intro x k
    rw [hr] at k
    obtain ⟨y, hy, rfl⟩ := List.mem_map.1 k
    have := h.writeTag y hy
    split
    · exact ⟨Nat.lt_of_lt_of_le this.1 hn, by simp; omega⟩
    · exact ⟨Nat.lt_of_lt_of_le this.1 hn, this.2⟩
theorem Same.rec1 {a s : State} (logDue_ : List LogEnt) (wear_ : Wear) (tap_ : Tap) (kettle_ : Kettle) (drain_ : Drain) (mon_ : Mon) (panel_ : Panel) (rstLast_ : Nat) (rstDie_ : Option DieRst) (narrows_ : List NarrowReq) (held_ : List Held) (struck_ : List (Consumer × Nat)) (cupTurn_ : Nat) (latches_ : List Latch) (ctxs_ : List Ctx) (orders_ : List Order) (ranges_ : List (Nat × Range)) (dirs_ : List (Nat × Dir)) (walks_ : List Walk) (skips_ : List Skip) (sampler_ : List Sample) (sampleRead_ : List Sample) (filters_ : List Filter) (mig_ : Mig) (ints_ : Ints) :
    Same a { pending := s.pending, fuses := s.fuses, log := s.log, logDue := logDue_, wear := wear_, clk := s.clk, tap := tap_, kettle := kettle_, drain := drain_, mon := mon_, panel := panel_, rstLast := rstLast_, rstDie := rstDie_, faces := s.faces, reads := s.reads, writes := s.writes, narrows := narrows_, held := held_, struck := struck_, cupTurn := cupTurn_, latches := latches_, cfg := s.cfg, parts := s.parts, ctxs := ctxs_, orders := orders_, benches := s.benches, ranges := ranges_, dirs := dirs_, walks := walks_, skips := skips_, windows := s.windows, sampler := sampler_, sampleRead := sampleRead_, filters := filters_, mig := mig_, ints := ints_, nextId := s.nextId } ↔ Same a s :=
  ⟨fun h => h.rest rfl rfl rfl rfl rfl rfl rfl rfl rfl rfl rfl, fun h => h.rest rfl rfl rfl rfl rfl rfl rfl rfl rfl rfl rfl⟩
theorem Same.recB {a s : State} (h : Same a s) (logDue_ : List LogEnt) (wear_ : Wear) (tap_ : Tap) (kettle_ : Kettle) (drain_ : Drain) (mon_ : Mon) (panel_ : Panel) (rstLast_ : Nat) (rstDie_ : Option DieRst) (narrows_ : List NarrowReq) (held_ : List Held) (struck_ : List (Consumer × Nat)) (cupTurn_ : Nat) (latches_ : List Latch) (ctxs_ : List Ctx) (orders_ : List Order) (benches_ : List Bench) (ranges_ : List (Nat × Range)) (dirs_ : List (Nat × Dir)) (walks_ : List Walk) (skips_ : List Skip) (sampler_ : List Sample) (sampleRead_ : List Sample) (filters_ : List Filter) (mig_ : Mig) (ints_ : Ints) (hb : benches_.length = s.benches.length) :
    Same a { pending := s.pending, fuses := s.fuses, log := s.log, logDue := logDue_, wear := wear_, clk := s.clk, tap := tap_, kettle := kettle_, drain := drain_, mon := mon_, panel := panel_, rstLast := rstLast_, rstDie := rstDie_, faces := s.faces, reads := s.reads, writes := s.writes, narrows := narrows_, held := held_, struck := struck_, cupTurn := cupTurn_, latches := latches_, cfg := s.cfg, parts := s.parts, ctxs := ctxs_, orders := orders_, benches := benches_, ranges := ranges_, dirs := dirs_, walks := walks_, skips := skips_, windows := s.windows, sampler := sampler_, sampleRead := sampleRead_, filters := filters_, mig := mig_, ints := ints_, nextId := s.nextId } :=
  h.lens rfl rfl rfl hb rfl rfl List.prefix_rfl (tagsOk_of_eq rfl rfl (Nat.le_refl _)) rfl rfl
theorem Same.recRF {a s : State} (h : Same a s) (logDue_ : List LogEnt) (wear_ : Wear) (tap_ : Tap) (kettle_ : Kettle) (drain_ : Drain) (mon_ : Mon) (panel_ : Panel) (rstLast_ : Nat) (rstDie_ : Option DieRst) (narrows_ : List NarrowReq) (held_ : List Held) (struck_ : List (Consumer × Nat)) (cupTurn_ : Nat) (latches_ : List Latch) (ctxs_ : List Ctx) (orders_ : List Order) (benches_ : List Bench) (ranges_ : List (Nat × Range)) (dirs_ : List (Nat × Dir)) (walks_ : List Walk) (skips_ : List Skip) (sampler_ : List Sample) (sampleRead_ : List Sample) (filters_ : List Filter) (mig_ : Mig) (ints_ : Ints) (hb : benches_.length = s.benches.length) (p : ReadReq → Bool) :
    Same a { pending := s.pending, fuses := s.fuses, log := s.log, logDue := logDue_, wear := wear_, clk := s.clk, tap := tap_, kettle := kettle_, drain := drain_, mon := mon_, panel := panel_, rstLast := rstLast_, rstDie := rstDie_, faces := s.faces, reads := s.reads.filter p, writes := s.writes, narrows := narrows_, held := held_, struck := struck_, cupTurn := cupTurn_, latches := latches_, cfg := s.cfg, parts := s.parts, ctxs := ctxs_, orders := orders_, benches := benches_, ranges := ranges_, dirs := dirs_, walks := walks_, skips := skips_, windows := s.windows, sampler := sampler_, sampleRead := sampleRead_, filters := filters_, mig := mig_, ints := ints_, nextId := s.nextId } :=
  h.lens rfl rfl rfl hb rfl rfl List.prefix_rfl (tagsOk_sub (f := fun r => r) (g := fun w => w) (List.map_id' _).symm List.filter_sublist (List.map_id' _).symm (List.Sublist.refl _) rfl (fun _ => ⟨rfl, rfl, rfl, .inl rfl⟩) (fun _ => ⟨rfl, rfl, rfl, .inl rfl⟩)) rfl rfl
theorem Same.recWF {a s : State} (h : Same a s) (logDue_ : List LogEnt) (wear_ : Wear) (tap_ : Tap) (kettle_ : Kettle) (drain_ : Drain) (mon_ : Mon) (panel_ : Panel) (rstLast_ : Nat) (rstDie_ : Option DieRst) (narrows_ : List NarrowReq) (held_ : List Held) (struck_ : List (Consumer × Nat)) (cupTurn_ : Nat) (latches_ : List Latch) (ctxs_ : List Ctx) (orders_ : List Order) (benches_ : List Bench) (ranges_ : List (Nat × Range)) (dirs_ : List (Nat × Dir)) (walks_ : List Walk) (skips_ : List Skip) (sampler_ : List Sample) (sampleRead_ : List Sample) (filters_ : List Filter) (mig_ : Mig) (ints_ : Ints) (hb : benches_.length = s.benches.length) (p : WriteReq → Bool) :
    Same a { pending := s.pending, fuses := s.fuses, log := s.log, logDue := logDue_, wear := wear_, clk := s.clk, tap := tap_, kettle := kettle_, drain := drain_, mon := mon_, panel := panel_, rstLast := rstLast_, rstDie := rstDie_, faces := s.faces, reads := s.reads, writes := s.writes.filter p, narrows := narrows_, held := held_, struck := struck_, cupTurn := cupTurn_, latches := latches_, cfg := s.cfg, parts := s.parts, ctxs := ctxs_, orders := orders_, benches := benches_, ranges := ranges_, dirs := dirs_, walks := walks_, skips := skips_, windows := s.windows, sampler := sampler_, sampleRead := sampleRead_, filters := filters_, mig := mig_, ints := ints_, nextId := s.nextId } :=
  h.lens rfl rfl rfl hb rfl rfl List.prefix_rfl (tagsOk_sub (f := fun r => r) (g := fun w => w) (List.map_id' _).symm (List.Sublist.refl _) (List.map_id' _).symm List.filter_sublist rfl (fun _ => ⟨rfl, rfl, rfl, .inl rfl⟩) (fun _ => ⟨rfl, rfl, rfl, .inl rfl⟩)) rfl rfl
theorem Same.recRM {a s : State} (h : Same a s) (logDue_ : List LogEnt) (wear_ : Wear) (tap_ : Tap) (kettle_ : Kettle) (drain_ : Drain) (mon_ : Mon) (panel_ : Panel) (rstLast_ : Nat) (rstDie_ : Option DieRst) (narrows_ : List NarrowReq) (held_ : List Held) (struck_ : List (Consumer × Nat)) (cupTurn_ : Nat) (latches_ : List Latch) (ctxs_ : List Ctx) (orders_ : List Order) (benches_ : List Bench) (ranges_ : List (Nat × Range)) (dirs_ : List (Nat × Dir)) (walks_ : List Walk) (skips_ : List Skip) (sampler_ : List Sample) (sampleRead_ : List Sample) (filters_ : List Filter) (mig_ : Mig) (ints_ : Ints) (hb : benches_.length = s.benches.length) (f : ReadReq → ReadReq) (hf : ∀ r, ReadReq.follows r (f r)) :
    Same a { pending := s.pending, fuses := s.fuses, log := s.log, logDue := logDue_, wear := wear_, clk := s.clk, tap := tap_, kettle := kettle_, drain := drain_, mon := mon_, panel := panel_, rstLast := rstLast_, rstDie := rstDie_, faces := s.faces, reads := s.reads.map f, writes := s.writes, narrows := narrows_, held := held_, struck := struck_, cupTurn := cupTurn_, latches := latches_, cfg := s.cfg, parts := s.parts, ctxs := ctxs_, orders := orders_, benches := benches_, ranges := ranges_, dirs := dirs_, walks := walks_, skips := skips_, windows := s.windows, sampler := sampler_, sampleRead := sampleRead_, filters := filters_, mig := mig_, ints := ints_, nextId := s.nextId } :=
  h.lens rfl rfl rfl hb rfl rfl List.prefix_rfl (tagsOk_sub (g := fun w => w) rfl (List.Sublist.refl _) (List.map_id' _).symm (List.Sublist.refl _) rfl hf (fun _ => ⟨rfl, rfl, rfl, .inl rfl⟩)) rfl rfl
theorem Same.recMM {a s : State} (h : Same a s) (logDue_ : List LogEnt) (wear_ : Wear) (tap_ : Tap) (kettle_ : Kettle) (drain_ : Drain) (mon_ : Mon) (panel_ : Panel) (rstLast_ : Nat) (rstDie_ : Option DieRst) (narrows_ : List NarrowReq) (held_ : List Held) (struck_ : List (Consumer × Nat)) (cupTurn_ : Nat) (latches_ : List Latch) (ctxs_ : List Ctx) (orders_ : List Order) (benches_ : List Bench) (ranges_ : List (Nat × Range)) (dirs_ : List (Nat × Dir)) (walks_ : List Walk) (skips_ : List Skip) (sampler_ : List Sample) (sampleRead_ : List Sample) (filters_ : List Filter) (mig_ : Mig) (ints_ : Ints) (hb : benches_.length = s.benches.length) (f : ReadReq → ReadReq) (g : WriteReq → WriteReq) (hf : ∀ r, ReadReq.follows r (f r)) (hg : ∀ r, WriteReq.follows r (g r)) :
    Same a { pending := s.pending, fuses := s.fuses, log := s.log, logDue := logDue_, wear := wear_, clk := s.clk, tap := tap_, kettle := kettle_, drain := drain_, mon := mon_, panel := panel_, rstLast := rstLast_, rstDie := rstDie_, faces := s.faces, reads := s.reads.map f, writes := s.writes.map g, narrows := narrows_, held := held_, struck := struck_, cupTurn := cupTurn_, latches := latches_, cfg := s.cfg, parts := s.parts, ctxs := ctxs_, orders := orders_, benches := benches_, ranges := ranges_, dirs := dirs_, walks := walks_, skips := skips_, windows := s.windows, sampler := sampler_, sampleRead := sampleRead_, filters := filters_, mig := mig_, ints := ints_, nextId := s.nextId } :=
  h.lens rfl rfl rfl hb rfl rfl List.prefix_rfl (tagsOk_sub  rfl (List.Sublist.refl _) rfl (List.Sublist.refl _) rfl hf hg) rfl rfl
theorem Same.foldlMem {a s : State} {α : Type} {f : State → α → State} {l : List α} (h : Same a s)
    (hf : ∀ x ∈ l, ∀ s : State, Same a s → Same a (f s x)) : Same a (l.foldl f s) := by
  induction l generalizing s with
  | nil => exact h
  | cons x l ih => exact ih (hf x (.head _) s h) (fun y m => hf y (.tail _ m))

end Sys2Proof.Machine
end

