-- ==== Sys2Proof/Laws/Pump.lean ====
section
/-! SUPPORT. What the faces can change when they grant the requests that wait (R16): requests, faces, the counts of the windows and the
next number, and nothing else; with nothing waiting, nothing. -/

namespace Sys2Proof.Machine

/-- What coming up and going down decides of a face. -/
def Face.shape (x : Face) : List (ModState × Nat × Nat × (Nat × Nat) × Nat × Bool × Nat) × Bool × Bool × Bool :=
  (x.mods.map Modl.width, x.fast, x.lost, x.downPosted)

/-- No module has another width and no face is up or down otherwise. -/
def State.Widths (s t : State) : Prop := ∀ f, (t.face f).shape = (s.face f).shape

theorem State.Widths.refl (s : State) : s.Widths s := fun _ => rfl
theorem State.Widths.trans {a b c : State} (h : a.Widths b) (k : b.Widths c) : a.Widths c := fun f => (k f).trans (h f)

theorem State.upFace_widths (s : State) (f : Nat) (g : Face → Face) (h : ∀ x, (g x).shape = x.shape) : s.Widths (s.upFace f g) := by
  intro i
  show ((s.faces.modify f g).getD i {}).shape = (s.faces.getD i {}).shape
  simp only [List.getD_eq_getElem?_getD, List.getElem?_modify]
  cases s.faces[i]? with
  | none => rfl
  | some x => by_cases e : f = i <;> simp [e, h]

theorem State.upMod_widths (s : State) (f m : Nat) (g : Modl → Modl) (h : ∀ y, (g y).width = y.width) : s.Widths (s.upMod f m g) := by
  refine s.upFace_widths f _ (fun x => ?_)
  have e : (x.mods.modify m g).map Modl.width = x.mods.map Modl.width := by
    apply List.ext_getElem?; intro i
    simp only [List.getElem?_map, List.getElem?_modify]
    cases x.mods[i]? with
    | none => rfl
    | some y => by_cases e : m = i <;> simp [e, h]
  simp only [Face.shape, e]

theorem State.queueMsg_widths (s : State) (f m : Nat) (x : Msg) : s.Widths (s.queueMsg f m x) := s.upMod_widths f m _ (fun _ => rfl)

/-- A module's state shows in the shape of its face. -/
theorem State.Widths.modl {s t : State} (h : s.Widths t) (f m : Nat) : (t.modl f m).width = (s.modl f m).width := by
  have e : (t.face f).mods.map Modl.width = (s.face f).mods.map Modl.width := congrArg Prod.fst (h f)
  have k := congrArg (fun l => l.getD m (Modl.width {})) e
  have a : ∀ l : List Modl, (l.map Modl.width).getD m (Modl.width {}) = (l.getD m {}).width := by
    intro l; simp only [List.getD_eq_getElem?_getD, List.getElem?_map]; cases l[m]? <;> rfl
  rw [a, a] at k
  exact k

theorem State.Widths.downPosted {s t : State} (h : s.Widths t) (f : Nat) : (t.face f).downPosted = (s.face f).downPosted :=
  congrArg (fun x => x.2.2.2) (h f)

theorem State.Widths.fast {s t : State} (h : s.Widths t) (f : Nat) : (t.face f).fast = (s.face f).fast := congrArg (fun x => x.2.1) (h f)

/-- Whether a face is up shows in its shape. -/
theorem Face.up_eq (x : Face) : x.up = x.shape.1.any (fun w => (if w.1 = .inService then w.2.1 / 32 else 0) != 0) := by
  simp only [Face.up, Face.shape, List.any_map]
  rfl

theorem State.Widths.up {s t : State} (h : s.Widths t) (f : Nat) : (t.face f).up = (s.face f).up := by
  rw [Face.up_eq, Face.up_eq, h f]

/-- Nothing but requests, faces, windows and the next number differs, and of the faces no width. -/
structure State.Sends (s t : State) : Prop where
  rest : t = { s with reads := t.reads, writes := t.writes, faces := t.faces, windows := t.windows, nextId := t.nextId }
  widths : s.Widths t

theorem State.Sends.refl (s : State) : s.Sends s := ⟨rfl, .refl s⟩
theorem State.Sends.trans {a b c : State} (h : a.Sends b) (k : b.Sends c) : a.Sends c := by
  have r := k.rest
  rw [h.rest] at r
  exact ⟨r, h.widths.trans k.widths⟩
theorem State.Sends.foldl {a s : State} {α : Type} {f : State → α → State} {l : List α} (h : a.Sends s)
    (hf : ∀ (s : State) (x : α), s.Sends (f s x)) : a.Sends (l.foldl f s) := by
  induction l generalizing s with
  | nil => exact h
  | cons x l ih => exact ih (h.trans (hf s x))

theorem State.Sends.ite {s a b : State} {c : Prop} [Decidable c] (h : s.Sends a) (k : s.Sends b) : s.Sends (if c then a else b) := by
  split <;> assumption

theorem tryRead_sends (s : State) (id : Nat) : s.Sends (tryRead s id) := by
  unfold tryRead
  split
  · exact .refl _
  extract_lets again t x room n s0
  refine .ite (.refl _) ?_
  have ht : s.Sends t := ⟨rfl, .refl _⟩
  refine .ite ht ?_
  split
  · exact ht
  split
  · exact ht
  extract_lets s1 s2
  have h0 : s.Sends s0 := .ite (ht.trans ⟨rfl, .refl _⟩) ht
  have h1 : s.Sends s1 := h0.trans ⟨rfl, .refl _⟩
  have h2 : s.Sends s2 := by
    unfold s2
    split
    exacts [h1.trans ⟨rfl, .refl _⟩, h1]
  exact h2.trans ⟨rfl, s2.queueMsg_widths _ _ _⟩

theorem tryWrite_sends (s : State) (id : Nat) : s.Sends (tryWrite s id) := by
  unfold tryWrite
  split
  · exact .refl _
  dsimp only
  split
  · exact .refl _
  split
  · exact .refl _
  split
  · exact .refl _
  split
  · exact .refl _
  · exact ⟨rfl, State.Widths.trans (fun _ => rfl) (State.queueMsg_widths _ _ _ _)⟩

theorem grantOne_sends (f : Nat) (s : State) (l : List Waiting) : s.Sends (grantOne f s l).1 := by
  induction l generalizing s with
  | nil => exact .refl _
  | cons x l ih =>
    have h : s.Sends (if x.write then tryWrite s x.id else tryRead s x.id) := by
      split
      exacts [tryWrite_sends _ _, tryRead_sends _ _]
    unfold grantOne
    dsimp only
    generalize (if x.write = true then tryWrite s x.id else tryRead s x.id) = t at h ⊢
    split
    · exact h.trans ⟨rfl, t.upFace_widths _ _ (fun _ => rfl)⟩
    · exact h.trans (ih _)

theorem pumpFace_sends (f : Nat) (s : State) (n : Nat) : s.Sends (pumpFace f s n) := by
  induction n generalizing s with
  | zero => exact .refl _
  | succ n ih =>
    unfold pumpFace
    have h := grantOne_sends f s (s.waitingAt f)
    split <;> rename_i s1 e <;> rw [e] at h
    · exact h.trans (ih _)
    · exact h

/-- The faces change requests, themselves, the windows' counts and the next number. -/
theorem pump_sends (s : State) : s.Sends (pump s) := by
  unfold pump
  refine State.Sends.foldl (State.Sends.foldl (.refl _) (fun s r => ?_)) (fun s f => pumpFace_sends _ _ _)
  split
  · split
    · exact ⟨rfl, .refl _⟩
    · exact .refl _
  · exact .refl _

/-- With no request waiting the faces do nothing. -/
theorem pump_of_none (s : State) (hr : ∀ r ∈ s.reads, r.modl.isSome ∧ r.slot) (hw : ∀ w ∈ s.writes, w.modl.isSome) : pump s = s := by
  have h1 : s.reads.filter (fun r => !r.slot) = [] := by
    rw [List.filter_eq_nil_iff]; intro r m; simp [(hr r m).2]
  have h2 : ∀ f, s.waitingAt f = [] := by
    intro f
    have a : s.writes.filter (fun w => w.face == f && w.modl.isNone) = [] := by
      rw [List.filter_eq_nil_iff]; intro w m; have := hw w m; simp [Option.isSome_iff_ne_none] at this; simp [this]
    have b : s.reads.filter (fun r => r.face == f && r.modl.isNone) = [] := by
      rw [List.filter_eq_nil_iff]; intro w m; have := (hr w m).1; simp [Option.isSome_iff_ne_none] at this; simp [this]
    unfold State.waitingAt
    rw [a, b]; rfl
  unfold pump
  rw [h1]
  simp only [sortBy, List.foldl_nil]
  have h3 : ∀ f, pumpFace f s (s.waitingAt f).length = s := fun f => by rw [h2 f]; rfl
  show (List.range 4).foldl _ s = s
  have : ∀ l : List Nat, l.foldl (fun s f => pumpFace f s (s.waitingAt f).length) s = s := by
    intro l
    induction l with
    | nil => rfl
    | cons f l ih => rw [List.foldl_cons, h3]; exact ih
  exact this _

@[simp] theorem pump_pending (s : State) : (pump s).pending = s.pending := by rw [(pump_sends s).rest]
@[simp] theorem pump_fuses (s : State) : (pump s).fuses = s.fuses := by rw [(pump_sends s).rest]
@[simp] theorem pump_log (s : State) : (pump s).log = s.log := by rw [(pump_sends s).rest]
@[simp] theorem pump_logDue (s : State) : (pump s).logDue = s.logDue := by rw [(pump_sends s).rest]
@[simp] theorem pump_wear (s : State) : (pump s).wear = s.wear := by rw [(pump_sends s).rest]
@[simp] theorem pump_clk (s : State) : (pump s).clk = s.clk := by rw [(pump_sends s).rest]
@[simp] theorem pump_tap (s : State) : (pump s).tap = s.tap := by rw [(pump_sends s).rest]
@[simp] theorem pump_kettle (s : State) : (pump s).kettle = s.kettle := by rw [(pump_sends s).rest]
@[simp] theorem pump_drain (s : State) : (pump s).drain = s.drain := by rw [(pump_sends s).rest]
@[simp] theorem pump_mon (s : State) : (pump s).mon = s.mon := by rw [(pump_sends s).rest]
@[simp] theorem pump_panel (s : State) : (pump s).panel = s.panel := by rw [(pump_sends s).rest]
@[simp] theorem pump_rstLast (s : State) : (pump s).rstLast = s.rstLast := by rw [(pump_sends s).rest]
@[simp] theorem pump_rstDie (s : State) : (pump s).rstDie = s.rstDie := by rw [(pump_sends s).rest]
@[simp] theorem pump_narrows (s : State) : (pump s).narrows = s.narrows := by rw [(pump_sends s).rest]
@[simp] theorem pump_held (s : State) : (pump s).held = s.held := by rw [(pump_sends s).rest]
@[simp] theorem pump_struck (s : State) : (pump s).struck = s.struck := by rw [(pump_sends s).rest]
@[simp] theorem pump_cupTurn (s : State) : (pump s).cupTurn = s.cupTurn := by rw [(pump_sends s).rest]
@[simp] theorem pump_latches (s : State) : (pump s).latches = s.latches := by rw [(pump_sends s).rest]
@[simp] theorem pump_cfg (s : State) : (pump s).cfg = s.cfg := by rw [(pump_sends s).rest]
@[simp] theorem pump_parts (s : State) : (pump s).parts = s.parts := by rw [(pump_sends s).rest]
@[simp] theorem pump_ctxs (s : State) : (pump s).ctxs = s.ctxs := by rw [(pump_sends s).rest]
@[simp] theorem pump_orders (s : State) : (pump s).orders = s.orders := by rw [(pump_sends s).rest]
@[simp] theorem pump_benches (s : State) : (pump s).benches = s.benches := by rw [(pump_sends s).rest]
@[simp] theorem pump_ranges (s : State) : (pump s).ranges = s.ranges := by rw [(pump_sends s).rest]
@[simp] theorem pump_dirs (s : State) : (pump s).dirs = s.dirs := by rw [(pump_sends s).rest]
@[simp] theorem pump_walks (s : State) : (pump s).walks = s.walks := by rw [(pump_sends s).rest]
@[simp] theorem pump_skips (s : State) : (pump s).skips = s.skips := by rw [(pump_sends s).rest]
@[simp] theorem pump_sampler (s : State) : (pump s).sampler = s.sampler := by rw [(pump_sends s).rest]
@[simp] theorem pump_sampleRead (s : State) : (pump s).sampleRead = s.sampleRead := by rw [(pump_sends s).rest]
@[simp] theorem pump_filters (s : State) : (pump s).filters = s.filters := by rw [(pump_sends s).rest]
@[simp] theorem pump_mig (s : State) : (pump s).mig = s.mig := by rw [(pump_sends s).rest]
@[simp] theorem pump_ints (s : State) : (pump s).ints = s.ints := by rw [(pump_sends s).rest]

end Sys2Proof.Machine
end

