-- ==== Sys2Proof/Laws/Posts.lean ====
section
/-! SUPPORT. What posting a record, an event or an interrupt can change (R99, R102 to R104): partitions, contexts, faces, requests and
translations; the Kettle, the clocks, the orders, the benches and the configuration stay. Beginning a die reset adds to the Kettle
log and says which reset is due, and changes nothing else of theirs (R327). -/

namespace Sys2Proof.Machine

/-- A context but for its scales. -/
def Ctx.bare (c : Ctx) : Ctx := { c with scales := [] }

/-- Nothing but what a record's way to memory needs differs, and of the contexts their scales. -/
structure State.Posts (s t : State) : Prop where
  rest : t = { s with parts := t.parts, ctxs := t.ctxs, faces := t.faces, windows := t.windows, reads := t.reads, writes := t.writes, held := t.held, ranges := t.ranges, dirs := t.dirs, walks := t.walks, skips := t.skips, nextId := t.nextId }
  ctxs : t.ctxs.map Ctx.bare = s.ctxs.map Ctx.bare
  widths : s.Widths t

theorem State.Posts.pending {s t : State} (h : s.Posts t) : t.pending = s.pending := by rw [h.rest]
theorem State.Posts.fuses {s t : State} (h : s.Posts t) : t.fuses = s.fuses := by rw [h.rest]
theorem State.Posts.log {s t : State} (h : s.Posts t) : t.log = s.log := by rw [h.rest]
theorem State.Posts.logDue {s t : State} (h : s.Posts t) : t.logDue = s.logDue := by rw [h.rest]
theorem State.Posts.wear {s t : State} (h : s.Posts t) : t.wear = s.wear := by rw [h.rest]
theorem State.Posts.clk {s t : State} (h : s.Posts t) : t.clk = s.clk := by rw [h.rest]
theorem State.Posts.tap {s t : State} (h : s.Posts t) : t.tap = s.tap := by rw [h.rest]
theorem State.Posts.kettle {s t : State} (h : s.Posts t) : t.kettle = s.kettle := by rw [h.rest]
theorem State.Posts.drain {s t : State} (h : s.Posts t) : t.drain = s.drain := by rw [h.rest]
theorem State.Posts.mon {s t : State} (h : s.Posts t) : t.mon = s.mon := by rw [h.rest]
theorem State.Posts.panel {s t : State} (h : s.Posts t) : t.panel = s.panel := by rw [h.rest]
theorem State.Posts.rstLast {s t : State} (h : s.Posts t) : t.rstLast = s.rstLast := by rw [h.rest]
theorem State.Posts.rstDie {s t : State} (h : s.Posts t) : t.rstDie = s.rstDie := by rw [h.rest]
theorem State.Posts.narrows {s t : State} (h : s.Posts t) : t.narrows = s.narrows := by rw [h.rest]
theorem State.Posts.struck {s t : State} (h : s.Posts t) : t.struck = s.struck := by rw [h.rest]
theorem State.Posts.cupTurn {s t : State} (h : s.Posts t) : t.cupTurn = s.cupTurn := by rw [h.rest]
theorem State.Posts.latches {s t : State} (h : s.Posts t) : t.latches = s.latches := by rw [h.rest]
theorem State.Posts.cfg {s t : State} (h : s.Posts t) : t.cfg = s.cfg := by rw [h.rest]
theorem State.Posts.orders {s t : State} (h : s.Posts t) : t.orders = s.orders := by rw [h.rest]
theorem State.Posts.benches {s t : State} (h : s.Posts t) : t.benches = s.benches := by rw [h.rest]
theorem State.Posts.sampler {s t : State} (h : s.Posts t) : t.sampler = s.sampler := by rw [h.rest]
theorem State.Posts.sampleRead {s t : State} (h : s.Posts t) : t.sampleRead = s.sampleRead := by rw [h.rest]
theorem State.Posts.filters {s t : State} (h : s.Posts t) : t.filters = s.filters := by rw [h.rest]
theorem State.Posts.mig {s t : State} (h : s.Posts t) : t.mig = s.mig := by rw [h.rest]
theorem State.Posts.ints {s t : State} (h : s.Posts t) : t.ints = s.ints := by rw [h.rest]

theorem State.Posts.refl (s : State) : s.Posts s := ⟨rfl, rfl, .refl _⟩
theorem State.Posts.trans {a b c : State} (h : a.Posts b) (k : b.Posts c) : a.Posts c := by
  have r := k.rest
  rw [h.rest] at r
  exact ⟨r, k.ctxs.trans h.ctxs, h.widths.trans k.widths⟩
theorem State.Posts.foldl {a s : State} {α : Type} {f : State → α → State} {l : List α} (h : a.Posts s)
    (hf : ∀ (s : State) (x : α), s.Posts (f s x)) : a.Posts (l.foldl f s) := by
  induction l generalizing s with
  | nil => exact h
  | cons x l ih => exact ih (h.trans (hf s x))

theorem lookRange_posts (s : State) (p tag page : Nat) : s.Posts (s.lookRange p tag page).2 := by
  unfold State.lookRange
  dsimp only
  split <;> exact ⟨rfl, rfl, .refl _⟩

theorem walkStart_posts (s : State) (p tag va : Nat) : s.Posts (s.walkStart p tag va).1 := by
  unfold State.walkStart
  dsimp only
  split <;> exact ⟨rfl, rfl, .refl _⟩

theorem ask_posts (s : State) (c : Consumer) (p : Nat) (bench : Option Nat) (face : Nat) (ls : List Nat) (space : Option Space) :
    s.Posts (s.ask c p bench face ls space) := by
  unfold State.ask
  exact State.Posts.foldl (.refl s) (fun s r => ⟨rfl, rfl, .refl _⟩)

theorem beginWalk_posts {s t : State} {w : Walk} (h : s.beginWalk w = some t) : s.Posts t := by
  unfold State.beginWalk State.askWalk at h
  dsimp only at h
  split at h
  · cases h
  · rw [← Option.some.inj h]
    refine .trans ?_ (ask_posts _ _ _ _ _ _ _)
    exact (walkStart_posts s _ _ _).trans ⟨rfl, rfl, .refl _⟩

theorem startWalk_posts (s : State) (p addr : Nat) (write : Bool) (why : WalkFor) : s.Posts (s.startWalk p addr write why).1 := by
  unfold State.startWalk
  dsimp only
  split
  · exact ⟨rfl, rfl, .refl _⟩
  split
  · exact ⟨rfl, rfl, .refl _⟩
  split
  · rename_i e
    refine (State.Posts.trans ?_ (beginWalk_posts e)).trans ⟨rfl, rfl, State.upFace_widths _ _ _ (fun _ => rfl)⟩
    exact ⟨rfl, rfl, .refl _⟩
  · exact ⟨rfl, rfl, .refl _⟩

theorem xlate_posts (s : State) (p addr : Nat) (write : Bool) (why : WalkFor) : s.Posts (s.xlate p addr write why).1 := by
  unfold State.xlate
  dsimp only
  split
  · exact ⟨rfl, rfl, .refl _⟩
  split <;> rename_i s1 e <;> have h := lookRange_posts s p (eaTag addr) (eaVa addr / 4096) <;> rw [e] at h
  · split
    · exact h.trans ⟨rfl, rfl, .refl _⟩
    · exact h
  · split
    · split
      · exact h
      · exact h.trans (startWalk_posts _ _ _ _ _)
    · exact h.trans (startWalk_posts _ _ _ _ _)

theorem postLine_posts (s : State) (own : WriteFor) (p face line : Nat) (mask : BitVec 128) (bytes : Line) (poison : Bool)
    (intr : Option (Nat × Bool)) (space : Option Space) (also : List WriteFor) (bench : Option Nat) :
    s.Posts (s.postLine own p face line mask bytes poison intr space also bench) := ⟨rfl, rfl, .refl _⟩

theorem scaleWritten_posts (s : State) (p : Nat) (u : Option ScaleUpd) : s.Posts (s.scaleWritten p u) := by
  cases u with
  | none => exact ⟨rfl, rfl, .refl _⟩
  | some u =>
    refine ⟨rfl, ?_, .refl _⟩
    show (s.ctxs.map (fun c => if c.p = p ∧ c.session = u.session then _ else c)).map Ctx.bare = _
    rw [List.map_map]
    congr 1; funext c
    simp only [Function.comp]
    split <;> rfl

theorem pumpOne_posts (s : State) (p r : Nat) : s.Posts (s.pumpOne p r).1 := by
  unfold State.pumpOne
  dsimp only
  split
  · exact ⟨rfl, rfl, .refl _⟩
  split
  · exact ⟨rfl, rfl, .refl _⟩
  have h := xlate_posts s p (eaAdd (s.pq p r).base (32 * (s.pq p r).tail)) true (.ring p r)
  split <;> rename_i e <;> rw [e] at h
  · exact h
  · exact h
  · refine .trans (.trans ?_ (postLine_posts _ _ _ _ _ _ _ _ _ _ _ _)) (scaleWritten_posts _ _ _)
    exact h.trans ⟨rfl, rfl, .refl _⟩

theorem interrupt_posts (s : State) (p vector : Nat) (error : Bool) : s.Posts (s.interrupt p vector error) :=
  ⟨rfl, rfl, s.queueMsg_widths _ _ _⟩
theorem failEvents_posts (s : State) (p cause : Nat) : s.Posts (s.failEvents p cause) :=
  ⟨rfl, rfl, State.Widths.trans (fun _ => rfl) (State.queueMsg_widths _ _ _ _)⟩

theorem pumpEvents_posts (s : State) (p n : Nat) : s.Posts (s.pumpEvents p n) := by
  induction n generalizing s with
  | zero => exact ⟨rfl, rfl, .refl _⟩
  | succ n ih =>
    unfold State.pumpEvents
    split
    · exact ⟨rfl, rfl, .refl _⟩
    have h := pumpOne_posts s p 33
    split <;> rename_i e <;> rw [e] at h
    · split
      · exact h.trans (ih _)
      · exact h
    · exact h.trans (failEvents_posts _ _ _)

theorem queueEvent_posts (s : State) (p bytes : Nat) (now : Bool) : s.Posts (s.queueEvent p bytes now) := by
  unfold State.queueEvent
  dsimp only
  split
  · refine .trans ?_ (pumpEvents_posts _ _ _)
    exact ⟨rfl, rfl, .refl _⟩
  · exact ⟨rfl, rfl, .refl _⟩

theorem event_posts (s : State) (p code a0 a1 : Nat) : s.Posts (s.event p code a0 a1) := queueEvent_posts _ _ _ _
theorem eventOf_posts (s : State) (p sq session slot code a0 a1 : Nat) : s.Posts (s.eventOf p sq session slot code a0 a1) :=
  queueEvent_posts _ _ _ _
theorem eventAll_posts (s : State) (ps : List Nat) (code a0 a1 : Nat) : s.Posts (s.eventAll ps code a0 a1) :=
  State.Posts.foldl (.refl s) (fun s p => event_posts s p code a0 a1)
theorem pendingTo_posts (s : State) (code p : Nat) : s.Posts (s.pendingTo code p) := by
  unfold State.pendingTo
  dsimp only
  split
  · exact queueEvent_posts _ _ _ _
  · exact (queueEvent_posts _ _ _ _).trans (interrupt_posts _ _ _ _)

/-- A reset begun changes, beside the posts, the Kettle log and which reset is due. -/
theorem beginReset_posts (s : State) (code : Nat) (requested : Bool) :
    if s.rstDie.isSome || !s.panel.pwrGood then s.beginReset code requested = s
    else ∃ t, State.Posts { s with rstDie := some ⟨code, requested⟩ } t ∧ s.beginReset code requested = t.klog 0x0015 code 0 := by
  unfold State.beginReset
  split
  · rfl
  · exact ⟨_, State.Posts.foldl (.refl _) (fun s p => pendingTo_posts s code p), rfl⟩

end Sys2Proof.Machine
end

