-- ==== Sys2Proof/Laws/SameOps.lean ====
section
/-! SUPPORT. One lemma per operation that gives a state: `Same` holds of what it is given and what it gives. Here:
the operations over the state, translations, rings, modules, row writes and scales. -/

namespace Sys2Proof.Machine

set_option Elab.async false

/-! Ops.lean -/

theorem upPart_same {ak : State} (s : State) (p : Nat) (f : Part → Part) (hk : Same ak s) : Same ak (s.upPart p f) := by
  unfold State.upPart
  exact Same.lens hk rfl rfl (by simp) rfl rfl rfl List.prefix_rfl (tagsOk_of_eq rfl rfl (by simp)) rfl rfl

theorem upBench_same {ak : State} (s : State) (p : Nat) (f : Bench → Bench) (hk : Same ak s) : Same ak (s.upBench p f) := by
  unfold State.upBench
  exact Same.lens hk rfl rfl rfl (by simp) rfl rfl List.prefix_rfl (tagsOk_of_eq rfl rfl (by simp)) rfl rfl

theorem upFace_same {ak : State} (s : State) (f : Nat) (g : Face → Face) (hk : Same ak s)
    (hg : ∀ x, (g x).mods.length = x.mods.length) : Same ak (State.upFace s f g) :=
  hk.lens rfl rfl rfl rfl rfl (modify_map_length _ _ _ _ hg) List.prefix_rfl (tagsOk_of_eq rfl rfl (Nat.le_refl _)) rfl rfl

theorem upMod_same {ak : State} (s : State) (f m : Nat) (g : Modl → Modl) (hk : Same ak s) : Same ak (State.upMod s f m g) :=
  upFace_same _ _ _ hk (fun _ => by simp)

theorem upWindow_same {ak : State} (s : State) (p : Nat) (f : Window → Window) (hk : Same ak s) : Same ak (s.upWindow p f) := by
  unfold State.upWindow
  exact Same.lens hk rfl rfl rfl rfl (by simp) rfl List.prefix_rfl (tagsOk_of_eq rfl rfl (by simp)) rfl rfl

theorem upOrder_same {ak : State} (s : State) (o : Nat) (f : Order → Order) (hk : Same ak s) : Same ak (State.upOrder s o f) := by
  unfold State.upOrder
  repeat' (first
    | with_reducible assumption | simp only [Same.rec1])

theorem upCtx_same {ak : State} (s : State) (p n : Nat) (f : Ctx → Ctx) (hk : Same ak s) : Same ak (State.upCtx s p n f) := by
  unfold State.upCtx
  repeat' (first
    | with_reducible assumption | simp only [Same.rec1])

theorem upClk_same {ak : State} (s : State) (f : Clk → Clk) (hk : Same ak s) (hf : ∀ c, (f c).count = c.count) :
    Same ak (State.upClk s f) :=
  hk.rest rfl rfl rfl rfl rfl rfl rfl rfl rfl rfl rfl (hf _)

theorem upKettle_same {ak : State} (s : State) (f : Kettle → Kettle) (hk : Same ak s) : Same ak (State.upKettle s f) := by
  unfold State.upKettle
  repeat' (first
    | with_reducible assumption | simp only [Same.rec1])

theorem upDrain_same {ak : State} (s : State) (f : Drain → Drain) (hk : Same ak s) : Same ak (State.upDrain s f) := by
  unfold State.upDrain
  repeat' (first
    | with_reducible assumption | simp only [Same.rec1])

theorem upMon_same {ak : State} (s : State) (f : Mon → Mon) (hk : Same ak s) : Same ak (State.upMon s f) := by
  unfold State.upMon
  repeat' (first
    | with_reducible assumption | simp only [Same.rec1])

theorem upPanel_same {ak : State} (s : State) (f : Panel → Panel) (hk : Same ak s) : Same ak (State.upPanel s f) := by
  unfold State.upPanel
  repeat' (first
    | with_reducible assumption | simp only [Same.rec1])

theorem upCfg_same {ak : State} (s : State) (f : Cfg → Cfg) (hk : Same ak s) (hl : (f s.cfg).live = s.cfg.live)
    (he : (f s.cfg).epoch = s.cfg.epoch) : Same ak (s.upCfg f) :=
  hk.lens rfl rfl rfl rfl rfl rfl List.prefix_rfl (tagsOk_of_eq rfl rfl (Nat.le_refl _)) hl he

theorem upTxn_same {ak : State} (s : State) (f : Txn → Txn) (hk : Same ak s) : Same ak (s.upTxn f) :=
  hk.lens rfl rfl rfl rfl rfl rfl List.prefix_rfl (tagsOk_of_eq rfl rfl (Nat.le_refl _)) rfl rfl

theorem upInts_same {ak : State} (s : State) (f : Ints → Ints) (hk : Same ak s) : Same ak (State.upInts s f) := by
  unfold State.upInts
  repeat' (first
    | with_reducible assumption | simp only [Same.rec1])

theorem upMig_same {ak : State} (s : State) (f : Mig → Mig) (hk : Same ak s) : Same ak (State.upMig s f) := by
  unfold State.upMig
  repeat' (first
    | with_reducible assumption | simp only [Same.rec1])

theorem fresh_same {ak : State} (s : State) (hk : Same ak s) : Same ak s.fresh :=
  hk.lens rfl rfl rfl rfl rfl rfl List.prefix_rfl (tagsOk_of_eq rfl rfl (Nat.le_succ _)) rfl rfl

theorem logRepair_same {ak : State} (s : State) (e : LogEnt) (hk : Same ak s) : Same ak (s.logRepair e) := by
  unfold State.logRepair
  split
  all_goals exact Same.lens hk rfl rfl rfl rfl rfl rfl (by simp) (tagsOk_of_eq rfl rfl (by simp)) rfl rfl

theorem klog_same {ak : State} (s : State) (code a0 a1 : Nat) (hk : Same ak s) : Same ak (State.klog s code a0 a1) := by
  unfold State.klog
  repeat' (first
    | with_reducible assumption | with_reducible apply upKettle_same)

theorem queueMsg_same {ak : State} (s : State) (f m : Nat) (x : Msg) (hk : Same ak s) : Same ak (State.queueMsg s f m x) := by
  unfold State.queueMsg
  repeat' (first
    | with_reducible assumption | with_reducible apply upMod_same)

theorem setRead_same {ak : State} (s : State) (id : Nat) (f : ReadReq → ReadReq) (hk : Same ak s)
    (hf : ∀ r, ReadReq.follows r (f r)) : Same ak (s.setRead id f) :=
  hk.lens rfl rfl rfl rfl rfl rfl List.prefix_rfl
    (tagsOk_sub (l := s.reads) (k := s.writes) (g := fun w => w) rfl (List.Sublist.refl _) (List.map_id' _).symm (List.Sublist.refl _) rfl
      (fun r => by split; exacts [hf r, ⟨rfl, rfl, rfl, .inl rfl⟩]) (fun _ => ⟨rfl, rfl, rfl, .inl rfl⟩)) rfl rfl

theorem setWrite_same {ak : State} (s : State) (id : Nat) (f : WriteReq → WriteReq) (hk : Same ak s)
    (hf : ∀ r, WriteReq.follows r (f r)) : Same ak (s.setWrite id f) :=
  hk.lens rfl rfl rfl rfl rfl rfl List.prefix_rfl
    (tagsOk_sub (l := s.reads) (k := s.writes) (f := fun w => w) (List.map_id' _).symm (List.Sublist.refl _) rfl (List.Sublist.refl _) rfl
      (fun _ => ⟨rfl, rfl, rfl, .inl rfl⟩) (fun r => by split; exacts [hf r, ⟨rfl, rfl, rfl, .inl rfl⟩])) rfl rfl

/-- A new read that waits. -/
theorem pushRead_same {ak s : State} {x : ReadReq} (hk : Same ak s) (hi : x.id = s.nextId) (hm : x.modl = none) (ht : x.tag = 0) :
    Same ak { s.fresh with reads := s.reads ++ [x] } :=
  hk.lens rfl rfl rfl rfl rfl rfl List.prefix_rfl (tagsOk_read rfl hi hm ht rfl rfl) rfl rfl

theorem cutRead_same {ak : State} (s : State) (r : ReadReq) (k : Nat) (hk : Same ak s) : Same ak (s.cutRead r k) := by
  unfold State.cutRead
  exact setRead_same _ _ _ (pushRead_same hk rfl rfl rfl) (fun _ => ⟨rfl, rfl, rfl, .inl rfl⟩)

/-- A read that is cut is found under its number, on its face. -/
theorem cutRead_find {s : State} {r r1 : ReadReq} {k id : Nat} (h : s.reads.find? (fun x => x.id == id) = some r1) :
    ∃ r2, (s.cutRead r k).reads.find? (fun x => x.id == id) = some r2 ∧ r2.face = r1.face := by
  simp only [State.cutRead, State.setRead, List.find?_map]
  have e : ((fun (x : ReadReq) => x.id == id) ∘ fun (x : ReadReq) => if x.id = r.id then x.first k else x) = (fun x => x.id == id) := by
    funext x; simp only [Function.comp]; split <;> rfl
  rw [e, List.find?_append, h]
  refine ⟨_, rfl, ?_⟩
  dsimp only
  split <;> rfl

/-- A cut takes no tag of a module. -/
theorem cutRead_tags (s : State) (r : ReadReq) (k f m : Nat) :
    ((s.cutRead r k).reads.filter (fun y => y.face == f && y.modl == some m)).map ReadReq.tag =
      (s.reads.filter (fun y => y.face == f && y.modl == some m)).map ReadReq.tag := by
  simp only [State.cutRead, State.setRead, List.filter_map, List.map_map]
  have e : ((fun (y : ReadReq) => y.face == f && y.modl == some m) ∘ fun (x : ReadReq) => if x.id = r.id then x.first k else x) =
      (fun y => y.face == f && y.modl == some m) := by
    funext x; simp only [Function.comp]; split <;> rfl
  have g : (ReadReq.tag ∘ fun (x : ReadReq) => if x.id = r.id then x.first k else x) = ReadReq.tag := by
    funext x; simp only [Function.comp]; split <;> rfl
  rw [e, g, List.filter_append]
  simp [ReadReq.rest]

theorem tryRead_same {ak : State} (s : State) (id : Nat) (hk : Same ak s) : Same ak (tryRead s id) := by
  unfold tryRead
  split
  · exact hk
  rename_i r hr
  dsimp only
  refine Same.ite hk ?_
  have h1 : Same ak (s.setRead id (fun r => { r with slot := true })) :=
    setRead_same _ _ _ hk (fun _ => ⟨rfl, rfl, rfl, .inl rfl⟩)
  have hr1 : ∃ r1, (s.setRead id (fun r => { r with slot := true })).reads.find? (fun x => x.id == id) = some r1 ∧ r1.face = r.face := by
    have := List.find?_some hr
    simp only [State.setRead]
    refine ⟨{ r with slot := true }, ?_, rfl⟩
    rw [List.find?_map]
    have e : ((fun (x : ReadReq) => x.id == id) ∘ fun (r : ReadReq) => if r.id = id then { r with slot := true } else r) = (fun x => x.id == id) := by
      funext x; simp only [Function.comp]; split <;> rfl
    rw [e, hr]; simp at this; simp [this]
  generalize s.setRead id (fun r => { r with slot := true }) = s1 at h1 hr1 ⊢
  obtain ⟨r1, hf, hface⟩ := hr1
  refine Same.ite h1 ?_
  split
  · exact h1
  split
  · exact h1
  rename_i m hm _ tag ht
  have cut : ∀ (s0 : State) (n : Option Nat), (s0 = s1 ∨ ∃ (q : ReadReq) (k : Nat), s0 = s1.cutRead q k) →
      Same ak (s0.fresh.setRead id (fun y => { y with modl := some m, tag := tag, nth := n })) := by
    rintro s0 n (rfl | ⟨q, k, rfl⟩)
    · rw [← hface] at ht
      exact h1.lens rfl rfl rfl rfl rfl rfl List.prefix_rfl (tagsOk_sendRead hf ht rfl rfl (Nat.le_succ _)) rfl rfl
    · obtain ⟨r2, hf2, hface2⟩ := cutRead_find (r := q) (k := k) hf
      rw [← hface, ← hface2, ← cutRead_tags s1 q k] at ht
      exact (cutRead_same s1 q k h1).lens rfl rfl rfl rfl rfl rfl List.prefix_rfl (tagsOk_sendRead hf2 ht rfl rfl (Nat.le_succ _)) rfl rfl
  unfold State.queueMsg
  apply upMod_same
  have h2 : ∀ (c : Prop) [Decidable c] (k : Nat) (n : Option Nat), Same ak ((if c then s1.cutRead { r with slot := true } k else s1).fresh.setRead id
      (fun y => { y with modl := some m, tag := tag, nth := n })) := by
    intro c _ k n
    split
    · exact cut _ n (.inr ⟨_, _, rfl⟩)
    · exact cut _ n (.inl rfl)
  split
  · exact upWindow_same _ _ _ (h2 _ _ _)
  · exact h2 _ _ _

theorem tryWrite_same {ak : State} (s : State) (id : Nat) (hk : Same ak s) : Same ak (tryWrite s id) := by
  unfold tryWrite
  split
  · exact hk
  rename_i r hr
  dsimp only
  refine Same.ite hk (Same.ite hk ?_)
  split
  · exact hk
  split
  · exact hk
  rename_i m hm _ tag ht
  have h2 : ∀ n, Same ak (s.fresh.setWrite id (fun y => { y with modl := some m, tag := tag, nth := n })) := fun n =>
    hk.lens rfl rfl rfl rfl rfl rfl List.prefix_rfl (tagsOk_sendWrite hr ht rfl rfl (Nat.le_succ _)) rfl rfl
  unfold State.queueMsg
  exact upMod_same _ _ _ _ (h2 _)
/-- A new write that waits. -/
theorem pushWrite_same {ak s : State} {x : WriteReq} (hk : Same ak s) (hi : x.id = s.nextId) (hm : x.modl = none) (ht : x.tag = 0) :
    Same ak { s.fresh with writes := s.writes ++ [x] } :=
  hk.lens rfl rfl rfl rfl rfl rfl List.prefix_rfl (tagsOk_write rfl hi hm ht rfl rfl) rfl rfl

theorem grantOne_same {ak : State} (f : Nat) (s : State) (l : List Waiting) (hk : Same ak s) : Same ak (grantOne f s l).1 := by
  induction l generalizing s with
  | nil => exact hk
  | cons x xs ih =>
    unfold grantOne
    dsimp only
    have h1 : Same ak (if x.write = true then tryWrite s x.id else tryRead s x.id) := Same.ite (tryWrite_same _ _ hk) (tryRead_same _ _ hk)
    generalize (if x.write = true then tryWrite s x.id else tryRead s x.id) = t at h1 ⊢
    split
    · exact upFace_same _ _ _ h1 (fun _ => rfl)
    · exact ih _ h1

theorem grantOne_same2 {ak tk : State} {rk : Bool} {f : Nat} {s : State} {l : List Waiting} (ek : grantOne f s l = (tk, rk))
 (hk : Same ak s) : Same ak tk := by
  have q := grantOne_same f s l hk
  rw [ek] at q; exact q

theorem pumpFace_same {ak : State} (f : Nat) (s : State) (z0 : Nat) (hk : Same ak s) : Same ak (pumpFace f s z0) := by
  induction z0 generalizing s with
  | zero => exact hk
  | succ n ih =>
  unfold pumpFace
  repeat' (first
    | with_reducible apply ih | with_reducible assumption | (with_reducible apply grantOne_same2; with_reducible assumption)
    | split)

theorem pump_same {ak : State} (s : State) (hk : Same ak s) : Same ak (pump s) := by
  unfold pump
  refine Same.foldl (Same.foldl hk (fun s r h => ?_)) (fun s f h => pumpFace_same _ _ _ h)
  split
  · split
    · exact setRead_same _ _ _ h (fun _ => ⟨rfl, rfl, rfl, .inl rfl⟩)
    · exact h
  · exact h

theorem postLine_same {ak : State} (s : State) (own : WriteFor) (p face line : Nat) (mask : BitVec 128) (bytes : Line) (poison : Bool) (intr : Option (Nat × Bool)) (space : Option Space) (also : List WriteFor) (bench : Option Nat) (hk : Same ak s) :
    Same ak (State.postLine s own p face line mask bytes poison intr space also bench) := by
  unfold State.postLine
  repeat' (first
    | with_reducible assumption | dsimp only | (with_reducible apply pushWrite_same))

theorem postBytes_same {ak : State} (s : State) (own : WriteFor) (p : Nat) (bench : Option Nat) (pa n v : Nat) (space : Option Space) (hk : Same ak s) :
    Same ak (State.postBytes s own p bench pa n v space) := by
  unfold State.postBytes
  repeat' (first
    | with_reducible assumption | with_reducible apply postLine_same | (with_reducible apply Same.foldl) | (intro _ _ _))

theorem dropHeld_same {ak : State} (s : State) (c : Consumer) (hk : Same ak s) : Same ak (State.dropHeld s c) := by
  unfold State.dropHeld
  repeat' (first
    | with_reducible assumption | simp only [Same.rec1])

theorem dropReads_same {ak : State} (s : State) (f : ReadReq → Bool) (hk : Same ak s) : Same ak (s.dropReads f) :=
  hk.lens rfl rfl rfl rfl rfl rfl List.prefix_rfl
    (tagsOk_sub (f := fun w => w) (g := fun w => w) (List.map_id' _).symm List.filter_sublist (List.map_id' _).symm (List.Sublist.refl _) rfl
      (fun _ => ⟨rfl, rfl, rfl, .inl rfl⟩) (fun _ => ⟨rfl, rfl, rfl, .inl rfl⟩)) rfl rfl

theorem quitWhere_same {ak : State} (s : State) (f : Consumer → Bool) (g : Nat → Bool) (hk : Same ak s) : Same ak (s.quitWhere f g) :=
  hk.lens rfl rfl rfl rfl rfl rfl List.prefix_rfl
    (tagsOk_sub  (g := fun w => w) rfl List.filter_sublist (List.map_id' _).symm (List.Sublist.refl _) rfl
      (fun r => by first | exact ⟨rfl, rfl, rfl, .inl rfl⟩ | (split <;> exact ⟨rfl, rfl, rfl, .inl rfl⟩)) (fun r => by first | exact ⟨rfl, rfl, rfl, .inl rfl⟩ | (split <;> exact ⟨rfl, rfl, rfl, .inl rfl⟩))) rfl rfl

theorem quitReads_same {ak : State} (s : State) (c : Consumer) (hk : Same ak s) : Same ak (State.quitReads s c) := by
  unfold State.quitReads
  repeat' (first
    | with_reducible assumption | with_reducible apply quitWhere_same)

/-- A read that waits under a number of its own, below the next one, joins others or stands alone: requests stay told apart. -/
theorem queueRead_tags (s : State) (x : ReadReq) (n : Nat) (h : s.tagsOk) (hi : x.id < s.nextId) (hf : ∀ z ∈ s.reads, z.id ≠ x.id)
    (hm : x.modl = none) (ht : x.tag < 4096) : (s.queueRead x n).tagsOk := by
  have push : ({ s with reads := s.reads ++ [x] } : State).tagsOk := by
    refine ⟨?_, fun r m => ?_, h.writes, h.writeTag⟩
    · show (s.reads ++ [x]).Pairwise _
      rw [List.pairwise_append]
      refine ⟨h.reads, List.pairwise_singleton _ _, fun a ha b hb c => ?_⟩
      rw [List.mem_singleton] at hb; subst hb
      rcases c with c | ⟨-, c2, c3, -⟩
      · exact hf a ha c
      · rw [c2, hm] at c3; cases c3
    · rcases List.mem_append.1 m with m | m
      · exact h.readTag r m
      · rw [List.mem_singleton] at m; subst m; exact ⟨hi, ht⟩
  induction n generalizing s x with
  | zero => exact push
  | succ n ih =>
    unfold State.queueRead
    split
    · rename_i r hr
      have hmem := List.mem_of_find?_eq_some hr
      have hj : r.modl = none := by
        have := List.find?_some hr
        simp only [ReadReq.joins, Bool.and_eq_true, Option.isNone_iff_eq_none] at this
        exact this.1.1.1.1.1.1.1.1.1.1.1
      have hs : ({ s with reads := s.reads.filter (fun (z : ReadReq) => z.id != r.id) } : State).tagsOk :=
        ⟨h.reads.sublist List.filter_sublist, fun z m => h.readTag z (List.mem_filter.1 m).1, h.writes, h.writeTag⟩
      have hn : ∀ z ∈ s.reads.filter (fun (z : ReadReq) => z.id != r.id), z.id ≠ r.id := fun z m => by simpa using (List.mem_filter.1 m).2
      refine ih _ _ hs (h.readTag r hmem).1 hn hj (h.readTag r hmem).2 ?_
      refine ⟨?_, fun z m => ?_, h.writes, h.writeTag⟩
      · show (s.reads.filter (fun (z : ReadReq) => z.id != r.id) ++ [(_ : ReadReq)]).Pairwise _
        rw [List.pairwise_append]
        refine ⟨hs.reads, List.pairwise_singleton _ _, fun a ha b hb c => ?_⟩
        rw [List.mem_singleton] at hb; subst hb
        rcases c with c | ⟨-, c2, c3, -⟩
        · exact hn a ha c
        · rw [c2] at c3; exact absurd c3 (by simp [ReadReq.join, hj])
      · rcases List.mem_append.1 m with m | m
        · exact hs.readTag z m
        · rw [List.mem_singleton] at m; subst m; exact h.readTag r hmem
    · exact push

/-- Only the reads change. -/
theorem queueRead_rest (s : State) (x : ReadReq) (n : Nat) : ∃ l, s.queueRead x n = { s with reads := l } := by
  induction n generalizing s x with
  | zero => exact ⟨_, rfl⟩
  | succ n ih =>
    unfold State.queueRead
    split
    · exact ih _ _
    · exact ⟨_, rfl⟩

/-- A new read is queued. -/
theorem queueRead_same {ak : State} (s : State) (x : ReadReq) (n : Nat) (hk : Same ak s) (hi : x.id = s.nextId) (hm : x.modl = none)
    (ht : x.tag = 0) : Same ak (s.fresh.queueRead x n) := by
  have q : s.tagsOk → (s.fresh.queueRead x n).tagsOk := fun h =>
    queueRead_tags s.fresh x n (tagsOk_of_eq (s := s) rfl rfl (Nat.le_succ _) h) (by rw [hi]; exact Nat.lt_succ_self _)
      (fun z m => by rw [hi]; exact Nat.ne_of_lt (h.readTag z m).1) hm (by omega)
  obtain ⟨l, e⟩ := queueRead_rest s.fresh x n
  rw [e] at q ⊢
  exact hk.lens rfl rfl rfl rfl rfl rfl List.prefix_rfl q rfl rfl

theorem queueReads_same {ak : State} (s : State) (c : Consumer) (p : Nat) (bench : Option Nat) (face : Nat) (ls : List Nat)
    (space : Option Space) (age : Nat) (group : Nat × Nat) (hk : Same ak s) : Same ak (s.queueReads c p bench face ls space age group) := by
  unfold State.queueReads
  exact Same.foldl hk (fun s l h => queueRead_same _ _ _ h rfl rfl rfl)

theorem ask_same {ak : State} (s : State) (c : Consumer) (p : Nat) (bench : Option Nat) (face : Nat) (ls : List Nat) (space : Option Space) (age : Nat) (hk : Same ak s) :
    Same ak (State.ask s c p bench face ls space age) := by
  unfold State.ask
  repeat' (first
    | with_reducible assumption | dsimp only | (with_reducible apply Same.foldl) | (intro _ _ _)
    | (with_reducible apply pushRead_same))

theorem interrupt_same {ak : State} (s : State) (p vector : Nat) (error : Bool) (hk : Same ak s) :
    Same ak (State.interrupt s p vector error) := by
  unfold State.interrupt
  repeat' (first
    | with_reducible assumption | with_reducible apply queueMsg_same)

theorem countPart_same {ak : State} (s : State) (p i n : Nat) (hk : Same ak s) : Same ak (State.countPart s p i n) := by
  unfold State.countPart
  repeat' (first
    | with_reducible assumption | with_reducible apply upPart_same)

theorem countBind_same {ak : State} (s : State) (p bind i n : Nat) (hk : Same ak s) : Same ak (State.countBind s p bind i n) := by
  unfold State.countBind
  repeat' (first
    | with_reducible assumption | with_reducible apply upPart_same)

theorem countSess_same {ak : State} (s : State) (p n i k : Nat) (hk : Same ak s) : Same ak (State.countSess s p n i k) := by
  unfold State.countSess
  repeat' (first
    | with_reducible assumption | with_reducible apply upCtx_same)

theorem countShard_same {ak : State} (s : State) (p map shard n : Nat) (hk : Same ak s) : Same ak (State.countShard s p map shard n) := by
  unfold State.countShard
  repeat' (first
    | with_reducible assumption | with_reducible apply upPart_same)

theorem powerUp_same {ak : State} (s : State) (b : Nat) (hk : Same ak s) : Same ak (State.powerUp s b) := by
  unfold State.powerUp
  repeat' (first
    | with_reducible assumption | with_reducible apply upBench_same | with_reducible apply upKettle_same)

/-! Translate.lean -/

theorem setRoot_same {ak : State} (s : State) (p t pa : Nat) (v : Bool) (hk : Same ak s) : Same ak (State.setRoot s p t pa v) := by
  unfold State.setRoot
  repeat' (first
    | with_reducible assumption | with_reducible apply upPart_same)

theorem lookRange_same {ak : State} (s : State) (p tag page : Nat) (hk : Same ak s) : Same ak (State.lookRange s p tag page).2 := by
  unfold State.lookRange
  repeat' (first
    | with_reducible assumption | simp only [Same.rec1] | split)
theorem lookRange_same2 {ak tk : State} {rk : Option Range} {s : State} {p tag page : Nat}
    (ek : State.lookRange s p tag page = (rk, tk)) (hk : Same ak s) : Same ak tk := by
  have q := lookRange_same s p tag page hk
  rw [ek] at q; exact q

theorem dropPage_same {ak : State} (s : State) (tag page : Nat) (hk : Same ak s) : Same ak (State.dropPage s tag page) := by
  unfold State.dropPage
  repeat' (first
    | with_reducible assumption | simp only [Same.rec1])

theorem addRange_same {ak : State} (s : State) (r : Range) (hk : Same ak s) : Same ak (State.addRange s r) := by
  unfold State.addRange
  repeat' (first
    | with_reducible assumption | simp only [Same.rec1] | split)

theorem trimShares_same {ak : State} (s : State) (hk : Same ak s) : Same ak (State.trimShares s) := by
  unfold State.trimShares
  repeat' (first
    | with_reducible assumption | simp only [Same.rec1] | (with_reducible apply Same.foldl) | (intro _ _ _))

theorem addDir_same {ak : State} (s : State) (d : Dir) (hk : Same ak s) : Same ak (State.addDir s d) := by
  unfold State.addDir
  repeat' (first
    | with_reducible assumption | simp only [Same.rec1] | split)

theorem walkStart_same {ak : State} (s : State) (p tag va : Nat) (hk : Same ak s) : Same ak (State.walkStart s p tag va).1 := by
  unfold State.walkStart
  repeat' (first
    | with_reducible assumption | simp only [Same.rec1] | split)
theorem walkStart_same2 {ak tk : State} {rk : Nat × Nat} {s : State} {p tag va : Nat} 
    (ek : State.walkStart s p tag va = (tk, rk)) (hk : Same ak s) : Same ak tk := by
  have q := walkStart_same s p tag va hk
  rw [ek] at q; exact q

theorem askWalk_same {ak : State} (s : State) (id p va level table : Nat) (hk : Same ak s) :
    Same ak ((State.askWalk s id p va level table).getD s) := by
  unfold State.askWalk
  repeat' (first
    | with_reducible assumption | with_reducible apply ask_same | dsimp only | split
    | (simp only [Option.getD_some, Option.getD_none]))
theorem askWalk_same2 {ak tk : State} {s : State} {id p va level table : Nat}
    (ek : State.askWalk s id p va level table = some tk) (hk : Same ak s) : Same ak tk := by
  have q := askWalk_same s id p va level table hk
  rw [ek] at q; exact q

theorem setWalk_same {ak : State} (s : State) (id : Nat) (g : Walk → Walk) (hk : Same ak s) : Same ak (State.setWalk s id g) := by
  unfold State.setWalk
  repeat' (first
    | with_reducible assumption | simp only [Same.rec1])

theorem beginWalk_same {ak : State} (s : State) (w : Walk) (hk : Same ak s) : Same ak ((s.beginWalk w).getD s) := by
  unfold State.beginWalk
  dsimp only
  cases e : ((s.walkStart w.part w.tag w.va).1.setWalk w.id (fun x =>
    { x with level := (s.walkStart w.part w.tag w.va).2.1, queued := false, stale := false })).askWalk w.id w.part w.va
    (s.walkStart w.part w.tag w.va).2.1 (s.walkStart w.part w.tag w.va).2.2 with
  | none => exact hk
  | some t => exact askWalk_same2 e (setWalk_same _ _ _ (walkStart_same _ _ _ _ hk))

theorem beginWalk_same2 {ak tk : State} {s : State} {w : Walk} (ek : s.beginWalk w = some tk) (hk : Same ak s) : Same ak tk := by
  have q := beginWalk_same s w hk
  rw [ek] at q; exact q

theorem startWalk_same {ak : State} (s : State) (p addr : Nat) (write : Bool) (why : WalkFor) (hk : Same ak s) :
    Same ak (State.startWalk s p addr write why).1 := by
  unfold State.startWalk
  repeat' (first
    | with_reducible assumption | with_reducible apply upPart_same | with_reducible apply upFace_same
    | with_reducible apply fresh_same | (with_reducible apply beginWalk_same2; with_reducible assumption) | simp only [Same.rec1]
    | split | (intro _))
theorem startWalk_same2 {ak tk : State} {rk : Xl} {s : State} {p addr : Nat} {write : Bool} {why : WalkFor} 
    (ek : State.startWalk s p addr write why = (tk, rk)) (hk : Same ak s) : Same ak tk := by
  have q := startWalk_same s p addr write why hk
  rw [ek] at q; exact q

theorem xlate_same {ak : State} (s : State) (p addr : Nat) (write : Bool) (why : WalkFor) (hk : Same ak s) :
    Same ak (State.xlate s p addr write why).1 := by
  unfold State.xlate
  repeat' (first
    | with_reducible assumption | (with_reducible apply lookRange_same2; with_reducible assumption)
    | with_reducible apply dropPage_same | with_reducible apply startWalk_same | dsimp only | split)
theorem xlate_same2 {ak tk : State} {rk : Xl} {s : State} {p addr : Nat} {write : Bool} {why : WalkFor} 
    (ek : State.xlate s p addr write why = (tk, rk)) (hk : Same ak s) : Same ak tk := by
  have q := xlate_same s p addr write why hk
  rw [ek] at q; exact q

theorem clearSkips_same {ak : State} (s : State) (p : Nat) (who : Option Nat) (hk : Same ak s) : Same ak (State.clearSkips s p who) := by
  unfold State.clearSkips
  repeat' (first
    | with_reducible assumption | simp only [Same.rec1])

theorem endWalk_same {ak : State} (s : State) (id : Nat) (hk : Same ak s) : Same ak (State.endWalk s id) := by
  unfold State.endWalk
  repeat' (first
    | with_reducible assumption | simp only [Same.rec1])

theorem walkLine_same {ak : State} (s : State) (w : Walk) (line : Nat) (hk : Same ak s) : Same ak (State.walkLine s w line).1 := by
  unfold State.walkLine
  repeat' (first
    | with_reducible assumption | with_reducible apply dropPage_same | with_reducible apply addRange_same
    | with_reducible apply addDir_same | (with_reducible apply askWalk_same2; with_reducible assumption)
    | with_reducible apply setWalk_same | with_reducible apply endWalk_same | dsimp only | split)
theorem walkLine_same2 {ak tk : State} {rk : WalkEnd} {s : State} {w : Walk} {line : Nat} 
    (ek : State.walkLine s w line = (tk, rk)) (hk : Same ak s) : Same ak tk := by
  have q := walkLine_same s w line hk
  rw [ek] at q; exact q

theorem rewalk_same {ak : State} (s : State) (w : Walk) (hk : Same ak s) : Same ak (State.rewalk s w).1 := by
  unfold State.rewalk
  repeat' (first
    | with_reducible assumption | (with_reducible apply beginWalk_same2; with_reducible assumption)
    | with_reducible apply endWalk_same | split)
theorem rewalk_same2 {ak tk : State} {rk : WalkEnd} {s : State} {w : Walk} 
    (ek : State.rewalk s w = (tk, rk)) (hk : Same ak s) : Same ak tk := by
  have q := rewalk_same s w hk
  rw [ek] at q; exact q

theorem dropTag_same {ak : State} (s : State) (p t : Nat) (hk : Same ak s) : Same ak (State.dropTag s p t) := by
  unfold State.dropTag
  repeat' (first
    | with_reducible assumption | with_reducible apply quitWhere_same | simp only [Same.rec1])

theorem dropPartTranslations_same {ak : State} (s : State) (p : Nat) (hk : Same ak s) : Same ak (State.dropPartTranslations s p) := by
  unfold State.dropPartTranslations
  repeat' (first
    | with_reducible assumption | with_reducible apply quitWhere_same | simp only [Same.rec1])

theorem invalTag_same {ak : State} (s : State) (p t : Nat) (hk : Same ak s) : Same ak (State.invalTag s p t) := by
  unfold State.invalTag
  repeat' (first
    | with_reducible assumption | with_reducible apply upPart_same | with_reducible apply dropTag_same | split)

theorem invalDone_same {ak : State} (s : State) (p : Nat) (hk : Same ak s) : Same ak (State.invalDone s p) := by
  unfold State.invalDone
  repeat' (first
    | with_reducible assumption | with_reducible apply upPart_same | dsimp only | split)

theorem setRootLo_same {ak : State} (s : State) (p t v : Nat) (hk : Same ak s) : Same ak (State.setRootLo s p t v) := by
  unfold State.setRootLo
  repeat' (first
    | with_reducible assumption | with_reducible apply setRoot_same | with_reducible apply invalTag_same | dsimp only
    | split)

theorem setRootHi_same {ak : State} (s : State) (p t v : Nat) (hk : Same ak s) : Same ak (State.setRootHi s p t v) := by
  unfold State.setRootHi
  repeat' (first
    | with_reducible assumption | with_reducible apply setRoot_same | dsimp only | split)

theorem clearTags_same {ak : State} (s : State) (p : Nat) (keep : Nat → Bool) (hk : Same ak s) : Same ak (State.clearTags s p keep) := by
  unfold State.clearTags
  repeat' (first
    | with_reducible assumption | with_reducible apply upPart_same | with_reducible apply dropTag_same | dsimp only
    | (with_reducible apply Same.foldl) | (intro _ _ _))

/-! Rings.lean -/

theorem upSq_same {ak : State} (s : State) (p q : Nat) (f : Sq → Sq) (hk : Same ak s) : Same ak (State.upSq s p q f) := by
  unfold State.upSq
  repeat' (first
    | with_reducible assumption | with_reducible apply upPart_same)

theorem upPq_same {ak : State} (s : State) (p r : Nat) (f : Pq → Pq) (hk : Same ak s) : Same ak (State.upPq s p r f) := by
  unfold State.upPq
  repeat' (first
    | with_reducible assumption | with_reducible apply upPart_same)

theorem scaleWritten_same {ak : State} (s : State) (p : Nat) (z0 : Option ScaleUpd) (hk : Same ak s) :
    Same ak (State.scaleWritten s p z0) := by
  unfold State.scaleWritten
  repeat' (first
    | with_reducible assumption | with_reducible apply upCtx_same | with_reducible apply fresh_same | split)

theorem pumpOne_same {ak : State} (s : State) (p r : Nat) (hk : Same ak s) : Same ak (State.pumpOne s p r).1 := by
  unfold State.pumpOne
  repeat' (first
    | with_reducible assumption | with_reducible apply postLine_same
    | (with_reducible apply xlate_same2; with_reducible assumption) | with_reducible apply upPq_same
    | with_reducible apply scaleWritten_same | dsimp only | split)
theorem pumpOne_same2 {ak tk : State} {rk : Option Nat} {s : State} {p r : Nat} 
    (ek : State.pumpOne s p r = (tk, rk)) (hk : Same ak s) : Same ak tk := by
  have q := pumpOne_same s p r hk
  rw [ek] at q; exact q

theorem failEvents_same {ak : State} (s : State) (p cause : Nat) (hk : Same ak s) : Same ak (State.failEvents s p cause) := by
  unfold State.failEvents
  repeat' (first
    | with_reducible assumption | with_reducible apply interrupt_same | with_reducible apply countPart_same
    | with_reducible apply upPq_same)

theorem pumpEvents_same {ak : State} (s : State) (p : Nat) (z0 : Nat) (hk : Same ak s) : Same ak (State.pumpEvents s p z0) := by
  induction z0 generalizing s with
  | zero => exact hk
  | succ n ih =>
  unfold State.pumpEvents
  repeat' (first
    | with_reducible apply ih | with_reducible assumption | (with_reducible apply pumpOne_same2; with_reducible assumption)
    | with_reducible apply failEvents_same | split)

theorem queueEvent_same {ak : State} (s : State) (p bytes : Nat) (now : Bool) (hk : Same ak s) :
    Same ak (State.queueEvent s p bytes now) := by
  unfold State.queueEvent
  repeat' (first
    | with_reducible assumption | with_reducible apply countPart_same | with_reducible apply upPq_same
    | with_reducible apply pumpEvents_same | dsimp only | split)

theorem event_same {ak : State} (s : State) (p code a0 a1 : Nat) (hk : Same ak s) : Same ak (State.event s p code a0 a1) := by
  unfold State.event
  repeat' (first
    | with_reducible assumption | with_reducible apply queueEvent_same)

theorem eventOf_same {ak : State} (s : State) (p sq session slot code a0 a1 : Nat) (hk : Same ak s) :
    Same ak (State.eventOf s p sq session slot code a0 a1) := by
  unfold State.eventOf
  repeat' (first
    | with_reducible assumption | with_reducible apply queueEvent_same)

theorem eventAll_same {ak : State} (s : State) (ps : List Nat) (code a0 a1 : Nat) (hk : Same ak s) :
    Same ak (State.eventAll s ps code a0 a1) := by
  unfold State.eventAll
  repeat' (first
    | with_reducible assumption | with_reducible apply event_same | (with_reducible apply Same.foldl) | (intro _ _ _))

theorem dieEvent_same {ak : State} (s : State) (ps : List Nat) (code a0 a1 : Nat) (hk : Same ak s) :
    Same ak (State.dieEvent s ps code a0 a1) := by
  unfold State.dieEvent
  repeat' (first
    | with_reducible assumption | with_reducible apply klog_same | with_reducible apply eventAll_same)

theorem eventsLost_same {ak : State} (s : State) (p : Nat) (hk : Same ak s) : Same ak (State.eventsLost s p) := by
  unfold State.eventsLost
  repeat' (first
    | with_reducible assumption | with_reducible apply upPq_same | with_reducible apply event_same | dsimp only | split)

theorem ringError_same {ak : State} (s : State) (p r cause : Nat) (hk : Same ak s) : Same ak (State.ringError s p r cause) := by
  unfold State.ringError
  repeat' (first
    | with_reducible assumption | with_reducible apply quitReads_same | with_reducible apply interrupt_same
    | with_reducible apply upSq_same | with_reducible apply upPq_same | with_reducible apply failEvents_same
    | with_reducible apply event_same | dsimp only | split)

theorem pumpN_same {ak : State} (s : State) (p r : Nat) (z0 : Nat) (hk : Same ak s) : Same ak (State.pumpN s p r z0) := by
  induction z0 generalizing s with
  | zero => exact hk
  | succ n ih =>
  unfold State.pumpN
  repeat' (first
    | with_reducible apply ih | with_reducible assumption | (with_reducible apply pumpOne_same2; with_reducible assumption)
    | with_reducible apply ringError_same | split)

theorem pumpRing_same {ak : State} (s : State) (p r : Nat) (hk : Same ak s) : Same ak (State.pumpRing s p r) := by
  unfold State.pumpRing
  repeat' (first
    | with_reducible assumption | with_reducible apply pumpEvents_same | with_reducible apply eventsLost_same
    | with_reducible apply pumpN_same | split)

theorem queueRecord_same {ak : State} (s : State) (p r bytes : Nat) (now : Bool) (scale : Option ScaleUpd) (hk : Same ak s) :
    Same ak (State.queueRecord s p r bytes now scale) := by
  unfold State.queueRecord
  repeat' (first
    | with_reducible assumption | with_reducible apply upPq_same | with_reducible apply pumpRing_same)

theorem dropScales_same {ak : State} (s : State) (p : Nat) (f : ScaleUpd → Bool) (hk : Same ak s) : Same ak (State.dropScales s p f) := by
  unfold State.dropScales
  repeat' (first
    | with_reducible assumption | with_reducible apply upPart_same)

theorem doorbell_same {ak : State} (s : State) (p q tail : Nat) (hk : Same ak s) : Same ak (State.doorbell s p q tail) := by
  unfold State.doorbell
  repeat' (first
    | with_reducible assumption | with_reducible apply upSq_same | with_reducible apply ringError_same | dsimp only
    | split)

theorem sqBaseLo_same {ak : State} (s : State) (p q v : Nat) (hk : Same ak s) : Same ak (State.sqBaseLo s p q v) := by
  unfold State.sqBaseLo
  repeat' (first
    | with_reducible assumption | with_reducible apply quitReads_same | with_reducible apply upSq_same
    | with_reducible apply ringError_same | dsimp only | split)

theorem pqBaseLo_same {ak : State} (s : State) (p r v : Nat) (hk : Same ak s) : Same ak (State.pqBaseLo s p r v) := by
  unfold State.pqBaseLo
  repeat' (first
    | with_reducible assumption | with_reducible apply upPq_same | with_reducible apply ringError_same
    | with_reducible apply pumpRing_same | dsimp only | split)

theorem ringBaseHi_same {ak : State} (s : State) (p r v : Nat) (hk : Same ak s) : Same ak (State.ringBaseHi s p r v) := by
  unfold State.ringBaseHi
  repeat' (first
    | with_reducible assumption | with_reducible apply upSq_same | with_reducible apply upPq_same | split)

theorem sqCfg_same {ak : State} (s : State) (p q v : Nat) (hk : Same ak s) : Same ak (State.sqCfg s p q v) := by
  unfold State.sqCfg
  repeat' (first
    | with_reducible assumption | with_reducible apply upSq_same)

theorem pqSize_same {ak : State} (s : State) (p r v : Nat) (hk : Same ak s) : Same ak (State.pqSize s p r v) := by
  unfold State.pqSize
  repeat' (first
    | with_reducible assumption | with_reducible apply upPq_same)

theorem pqHead_same {ak : State} (s : State) (p r h : Nat) (hk : Same ak s) : Same ak (State.pqHead s p r h) := by
  unfold State.pqHead
  repeat' (first
    | with_reducible assumption | with_reducible apply upPq_same | with_reducible apply pumpRing_same | dsimp only
    | split)

theorem pqIrq_same {ak : State} (s : State) (p r v : Nat) (hk : Same ak s) : Same ak (State.pqIrq s p r v) := by
  unfold State.pqIrq
  repeat' (first
    | with_reducible assumption | with_reducible apply upPq_same)

theorem baseLo_same {ak : State} (s : State) (p r v : Nat) (hk : Same ak s) : Same ak (State.baseLo s p r v) := by
  unfold State.baseLo
  repeat' (first
    | with_reducible assumption | with_reducible apply sqBaseLo_same | with_reducible apply pqBaseLo_same | split)

theorem ringStatus_same {ak : State} (s : State) (p r v : Nat) (hk : Same ak s) : Same ak (State.ringStatus s p r v) := by
  unfold State.ringStatus
  repeat' (first
    | with_reducible assumption | with_reducible apply upSq_same | with_reducible apply upPq_same | split)

theorem recordAcked_same {ak : State} (s : State) (p r id : Nat) (forced : Option (Nat × Bool)) (hk : Same ak s) :
    Same ak (State.recordAcked s p r id forced) := by
  unfold State.recordAcked
  repeat' (first
    | with_reducible assumption | with_reducible apply interrupt_same | with_reducible apply upPq_same | dsimp only
    | split)

theorem recordLost_same {ak : State} (s : State) (p r : Nat) (w : WriteReq) (hk : Same ak s) : Same ak (s.recordLost p r w) := by
  unfold State.recordLost
  split
  · exact ringError_same _ _ _ _ (countPart_same _ _ _ _ (upPq_same _ _ _ _ hk))
  · dsimp only
    refine ringError_same _ _ _ _ (upPq_same _ _ _ _ ?_)
    exact hk.lens rfl rfl rfl rfl rfl rfl List.prefix_rfl
      (tagsOk_sub (f := fun w => w)  (List.map_id' _).symm (List.Sublist.refl _) rfl List.filter_sublist rfl
        (fun r => by first | exact ⟨rfl, rfl, rfl, .inl rfl⟩ | (split <;> exact ⟨rfl, rfl, rfl, .inl rfl⟩)) (fun r => by first | exact ⟨rfl, rfl, rfl, .inl rfl⟩ | (split <;> exact ⟨rfl, rfl, rfl, .inl rfl⟩))) rfl rfl

theorem irqHoldoff_same {ak : State} (s : State) (p r : Nat) (hk : Same ak s) : Same ak (State.irqHoldoff s p r) := by
  unfold State.irqHoldoff
  repeat' (first
    | with_reducible assumption | with_reducible apply interrupt_same | dsimp only | split)

theorem pendingTo_same {ak : State} (s : State) (code p : Nat) (hk : Same ak s) : Same ak (State.pendingTo s code p) := by
  unfold State.pendingTo
  repeat' (first
    | with_reducible assumption | with_reducible apply interrupt_same | with_reducible apply queueEvent_same
    | dsimp only | split)

theorem beginReset_same {ak : State} (s : State) (code : Nat) (requested : Bool) (hk : Same ak s) :
    Same ak (State.beginReset s code requested) := by
  unfold State.beginReset
  repeat' (first
    | with_reducible assumption | with_reducible apply klog_same | with_reducible apply pendingTo_same | simp only [Same.rec1]
    | split | (with_reducible apply Same.foldl) | (intro _ _ _))

theorem readRegion_same {ak : State} (s : State) (hk : Same ak s) : Same ak (State.readRegion s) := by
  unfold State.readRegion
  repeat' (first
    | with_reducible assumption | with_reducible apply beginReset_same | split)

/-! Links.lean -/

theorem sendFlit_same {ak : State} (s : State) (f m : Nat) (hk : Same ak s) : Same ak (State.sendFlit s f m) := by
  unfold State.sendFlit
  repeat' (first
    | with_reducible assumption | with_reducible apply upFace_same | with_reducible apply upMod_same | dsimp only
    | split | (intro _))

theorem slowed_same {ak : State} (s : State) (e old : Nat) (hk : Same ak s) : Same ak (State.slowed s e old) := by
  unfold State.slowed
  repeat' (first
    | with_reducible assumption | with_reducible apply upOrder_same | with_reducible apply eventOf_same | dsimp only
    | split | (with_reducible apply Same.foldl) | (intro _ _ _))

theorem withLevels_same {ak : State} (s : State) (f : State → State) (hk : Same ak s) (hf : ∀ s, Same ak s → Same ak (f s)) :
    Same ak (State.withLevels s f) := by
  unfold State.withLevels
  repeat' (first
    | with_reducible assumption | with_reducible apply slowed_same | with_reducible apply hf | dsimp only
    | (with_reducible apply Same.foldl) | (intro _ _ _))

theorem newTable_same {ak : State} (s : State) (f : Nat) (old : List Nat) (hk : Same ak s) : Same ak (State.newTable s f old) := by
  unfold State.newTable
  repeat' (first
    | with_reducible assumption | with_reducible apply upFace_same | simp only [Same.rec1] | split | (intro _))

theorem reissue_same {ak : State} (s : State) (f m : Nat) (hk : Same ak s) : Same ak (State.reissue s f m) := by
  unfold State.reissue
  repeat' (first
    | with_reducible assumption | dsimp only | split | (intro _) | (with_reducible apply Same.recMM)
    | exact ⟨rfl, rfl, rfl, .inl rfl⟩ | exact ⟨rfl, rfl, rfl, .inr rfl⟩)

theorem performed_same {ak : State} (s : State) (cmd addr : Nat) (write : Bool) (hk : Same ak s) :
    Same ak (State.performed s cmd addr write) := by
  unfold State.performed
  repeat' (first
    | with_reducible assumption | with_reducible apply upMon_same | with_reducible apply klog_same | dsimp only | split)

theorem sendNarrow_same {ak : State} (s : State) (n : NarrowReq) (hk : Same ak s) : Same ak (State.sendNarrow s n) := by
  unfold State.sendNarrow
  repeat' (first
    | with_reducible assumption | with_reducible apply upFace_same | with_reducible apply fresh_same
    | with_reducible apply queueMsg_same | with_reducible apply performed_same | simp only [Same.rec1] | split | (intro _))

theorem pumpNarrow_same {ak : State} (s : State) (hk : Same ak s) : Same ak (State.pumpNarrow s) := by
  unfold State.pumpNarrow
  repeat' (first
    | with_reducible assumption | with_reducible apply sendNarrow_same | (with_reducible apply Same.foldl))

theorem resend_same {ak : State} (s : State) (f : Nat) (hk : Same ak s) : Same ak (s.resend f) := by
  unfold State.resend
  extract_lets ws rs ns
  have h : ∀ x ∈ ws ++ rs ++ ns, ∀ s, Same ak s → Same ak (x.2 s) := by
    intro x m s h
    simp only [List.mem_append, ws, rs, ns, List.mem_map] at m
    rcases m with (⟨w, -, rfl⟩ | ⟨r, -, rfl⟩) | ⟨n, -, rfl⟩
    · exact tryWrite_same _ _ h
    · exact tryRead_same _ _ h
    · exact sendNarrow_same _ _ h
  exact Same.foldlMem hk (fun x m => h x ((mem_sortBy _).1 m))

theorem unseat_same {ak : State} (s : State) (f m : Nat) (g : Modl → Modl) (hk : Same ak s) : Same ak (s.unseat f m g) :=
  reissue_same _ _ _ (upFace_same _ _ _ (newTable_same _ _ _ (upMod_same _ _ _ _ hk)) (fun _ => rfl))

theorem reseat_same {ak : State} (s : State) (f : Nat) (ctl : List Msg) (hk : Same ak s) : Same ak (s.reseat f ctl) :=
  Same.foldl (pumpNarrow_same _ (resend_same _ _ hk)) (fun _ _ h => queueMsg_same _ _ _ _ h)

theorem postDown_same {ak : State} (s : State) (f : Nat) (hk : Same ak s) : Same ak (s.postDown f) :=
  Same.ite (dieEvent_same _ _ _ _ _ (upFace_same _ _ _ hk (fun _ => rfl))) hk

theorem leave_same {ak : State} (s : State) (f m : Nat) (next : ModState) (retrain : Bool) (hk : Same ak s) :
    Same ak (State.leave s f m next retrain) :=
  Same.ite (upMod_same _ _ _ _ hk) (withLevels_same _ _ hk (fun _ h => postDown_same _ _ (reseat_same _ _ _ (unseat_same _ _ _ _ h))))

theorem retrainMod_same {ak : State} (s : State) (f m : Nat) (hk : Same ak s) : Same ak (State.retrainMod s f m) := by
  unfold State.retrainMod
  repeat' (first
    | with_reducible assumption | with_reducible apply leave_same | dsimp only | split)

theorem gatherWaiting_same {ak : State} (s : State) (f m : Nat) (hk : Same ak s) : Same ak (State.gatherWaiting s f m) := by
  unfold State.gatherWaiting
  repeat' (first
    | with_reducible assumption | with_reducible apply upFace_same | with_reducible apply upMod_same | dsimp only
    | (intro _) | (simp; done))

theorem seat_same {ak : State} (s : State) (f m half lanes : Nat) (repaired : Nat × Nat) (fast : Bool) (hk : Same ak s) :
    Same ak (s.seat f m half lanes repaired fast) :=
  Same.ite (upFace_same _ _ _ (upMod_same _ _ _ _ hk) (fun _ => rfl))
    (gatherWaiting_same _ _ _ (newTable_same _ _ _ (upFace_same _ _ _ (upMod_same _ _ _ _ hk) (fun _ => rfl))))

theorem faceUp_same {ak : State} (s : State) (f : Nat) (hk : Same ak s) : Same ak (s.faceUp f) := by
  have h : Same ak (pump ((s.upFace f (fun y => { y with regSeq := 0, lost := false, downPosted := false, oldWrites := [] })).resend f)).pumpNarrow :=
    pumpNarrow_same _ (pump_same _ (resend_same _ _ (upFace_same _ _ _ hk (fun _ => rfl))))
  exact Same.ite (dieEvent_same _ _ _ _ _ h) h

theorem pumpBehind_same {ak : State} (s : State) (f : Nat) (hk : Same ak s) : Same ak (s.pumpBehind f) :=
  Same.foldl hk (fun _ _ h => Same.foldl h (fun _ _ h => pumpRing_same _ _ _ h))

theorem trained_same {ak : State} (s : State) (f m own far : Nat) (repaired : Nat × Nat) (fast : Bool) (hk : Same ak s) :
    Same ak (s.trained f m own far repaired fast) := by
  unfold State.trained
  extract_lets x half lanes
  refine Same.ite hk (Same.ite (upMod_same _ _ _ _ hk) (Same.ite (upMod_same _ _ _ _ hk) (withLevels_same _ _ hk (fun s h => ?_))))
  extract_lets s1 s2
  have h2 : Same ak s2 := Same.ite (dieEvent_same _ _ _ _ _ (seat_same _ _ _ _ _ _ _ h)) (seat_same _ _ _ _ _ _ _ h)
  exact Same.ite (pumpBehind_same _ _ (faceUp_same _ _ h2)) (pump_same _ h2)

theorem protocolError_same {ak : State} (s : State) (f m : Nat) (hk : Same ak s) : Same ak (State.protocolError s f m) := by
  unfold State.protocolError
  repeat' (first
    | with_reducible assumption | with_reducible apply upFace_same | with_reducible apply leave_same | dsimp only
    | (intro _))

theorem creditIn_same {ak : State} (s : State) (f m : Nat) (c : List Nat) (hk : Same ak s) : Same ak (State.creditIn s f m c) := by
  unfold State.creditIn
  repeat' (first
    | with_reducible assumption | with_reducible apply upMod_same | with_reducible apply protocolError_same
    | dsimp only | split)

theorem usedBuffer_same {ak : State} (s : State) (f m chan n : Nat) (hk : Same ak s) : Same ak (State.usedBuffer s f m chan n) := by
  unfold State.usedBuffer
  repeat' (first
    | with_reducible assumption | with_reducible apply upMod_same)

theorem snoop_same {ak : State} (s : State) (f m tag : Nat) (hk : Same ak s) : Same ak (State.snoop s f m tag) := by
  unfold State.snoop
  repeat' (first
    | with_reducible assumption | with_reducible apply queueMsg_same)

theorem ackNak_same {ak : State} (s : State) (f m ack : Nat) (nak : Bool) (hk : Same ak s) : Same ak (State.ackNak s f m ack nak) := by
  unfold State.ackNak
  repeat' (first
    | with_reducible assumption | with_reducible apply upMod_same | with_reducible apply leave_same | dsimp only
    | split)

/-! Operands.lean -/

theorem dropOrderReads_same {ak : State} (s : State) (o : Nat) (hk : Same ak s) : Same ak (State.dropOrderReads s o) := by
  unfold State.dropOrderReads
  repeat' (first
    | with_reducible assumption | with_reducible apply quitWhere_same | simp only [Same.rec1])

theorem endOrder_same {ak : State} (s : State) (o status detail : Nat) (hk : Same ak s) : Same ak (State.endOrder s o status detail) := by
  unfold State.endOrder
  repeat' (first
    | with_reducible assumption | with_reducible apply upOrder_same | with_reducible apply dropOrderReads_same | split)

/-! Chest.lean -/

theorem passReads_same {ak : State} (s : State) (p line : Nat) (w : Passed) (hk : Same ak s) : Same ak (s.passReads p line w) :=
  hk.lens rfl rfl rfl rfl rfl rfl List.prefix_rfl
    (tagsOk_sub (l := s.reads) (g := fun w => w) rfl (List.Sublist.refl _) (List.map_id' _).symm (List.Sublist.refl _) rfl
      (fun r => by first | exact ⟨rfl, rfl, rfl, .inl rfl⟩ | (split <;> exact ⟨rfl, rfl, rfl, .inl rfl⟩)) (fun r => by first | exact ⟨rfl, rfl, rfl, .inl rfl⟩ | (split <;> exact ⟨rfl, rfl, rfl, .inl rfl⟩))) rfl rfl

theorem sendLine_same {ak : State} (s : State) (owns : List WriteFor) (p : Nat) (via : Via) (line : Nat) (mask : BitVec 128) (bytes : Line) (poison : Bool) (hk : Same ak s) :
    Same ak (State.sendLine s owns p via line mask bytes poison) := by
  unfold State.sendLine
  repeat' (first
    | with_reducible assumption | with_reducible apply upBench_same | with_reducible apply postLine_same
    | with_reducible apply passReads_same | dsimp only | split | (with_reducible apply Same.foldl) | (intro _ _ _))

theorem rowPoisoned_same {ak : State} (s : State) (p bind row slot : Nat) (hk : Same ak s) :
    Same ak (State.rowPoisoned s p bind row slot) := by
  unfold State.rowPoisoned
  repeat' (first
    | with_reducible assumption | with_reducible apply upInts_same | with_reducible apply event_same)

theorem lineLost_same {ak : State} (s : State) (p line : Nat) (bytes : Line) (more : List WriteFor) (at_ : Nat) (hk : Same ak s) :
    Same ak (State.lineLost s p line bytes more at_) := by
  unfold State.lineLost
  repeat' (first
    | with_reducible assumption | with_reducible apply upPart_same | with_reducible apply upBench_same
    | with_reducible apply upInts_same | with_reducible apply endOrder_same | with_reducible apply sendLine_same
    | with_reducible apply rowPoisoned_same | dsimp only | split | (with_reducible apply Same.foldl) | (intro _ _ _))

theorem issueLine_same {ak : State} (s : State) (owns : List WriteFor) (p : Nat) (via : Via) (line : Nat) (mask : BitVec 128) (bytes : Line) (poison : Bool) (hk : Same ak s) :
    Same ak (State.issueLine s owns p via line mask bytes poison) := by
  unfold State.issueLine
  repeat' (first
    | with_reducible assumption | with_reducible apply sendLine_same | with_reducible apply lineLost_same | split)

theorem flushEntry_same {ak : State} (s : State) (b : Nat) (e : WcEnt) (hk : Same ak s) : Same ak (State.flushEntry s b e) := by
  unfold State.flushEntry
  repeat' (first
    | with_reducible assumption | with_reducible apply upBench_same | with_reducible apply issueLine_same)

theorem combine_same {ak : State} (s : State) (b p epoch : Nat) (own : WriteFor) (line : Nat) (mask : BitVec 128) (bytes : Line) (space : Option Space) (hk : Same ak s) :
    Same ak (State.combine s b p epoch own line mask bytes space) := by
  unfold State.combine
  repeat' (first
    | with_reducible assumption | with_reducible apply upBench_same | with_reducible apply issueLine_same
    | with_reducible apply flushEntry_same | dsimp only | split)

theorem writePieces_same {ak : State} (s : State) (b p epoch : Nat) (own : WriteFor) (ps : List (Nat × Nat)) (v : Nat) (space : Option Space) (hk : Same ak s) :
    Same ak (State.writePieces s b p epoch own ps v space) := by
  unfold State.writePieces
  repeat' (first
    | with_reducible assumption | with_reducible apply combine_same | (with_reducible apply Same.foldl) | (intro _ _ _))

theorem writeStraight_same {ak : State} (s : State) (b : Option Nat) (p epoch : Nat) (own : WriteFor) (ps : List (Nat × Nat)) (v : Nat) (space : Option Space) (hk : Same ak s) :
    Same ak (State.writeStraight s b p epoch own ps v space) := by
  unfold State.writeStraight
  repeat' (first
    | with_reducible assumption | with_reducible apply issueLine_same | (with_reducible apply Same.foldl) | (intro _ _ _))

theorem flushBench_same {ak : State} (s : State) (o b : Nat) (hk : Same ak s) : Same ak (State.flushBench s o b) := by
  unfold State.flushBench
  repeat' (first
    | with_reducible assumption | with_reducible apply flushEntry_same | (with_reducible apply Same.foldl) | (intro _ _ _))

theorem flushOrder_same {ak : State} (s : State) (o : Nat) (hk : Same ak s) : Same ak (State.flushOrder s o) := by
  unfold State.flushOrder
  repeat' (first
    | with_reducible assumption | with_reducible apply flushBench_same | (with_reducible apply Same.foldl) | (intro _ _ _))

theorem wcFlush_same {ak : State} (s : State) (b : Nat) (hk : Same ak s) : Same ak (State.wcFlush s b) := by
  unfold State.wcFlush
  repeat' (first
    | with_reducible assumption | with_reducible apply flushEntry_same | split)

theorem track_same {ak : State} (s : State) (p o bind row slot : Nat) (hk : Same ak s) : Same ak (State.track s p o bind row slot) := by
  unfold State.track
  repeat' (first
    | with_reducible assumption | with_reducible apply upPart_same | split)

theorem untrack_same {ak : State} (s : State) (p o bind row : Nat) (hk : Same ak s) : Same ak (State.untrack s p o bind row) := by
  unfold State.untrack
  repeat' (first
    | with_reducible assumption | with_reducible apply upPart_same)

theorem untrackDone_same {ak : State} (s : State) (p o bind row : Nat) (hk : Same ak s) : Same ak (State.untrackDone s p o bind row) := by
  unfold State.untrackDone
  repeat' (first
    | with_reducible assumption | with_reducible apply untrack_same | split)

theorem updateResident_same {ak : State} (s : State) (p bind row payload : Nat) (hk : Same ak s) :
    Same ak (State.updateResident s p bind row payload) := by
  unfold State.updateResident
  repeat' (first
    | with_reducible assumption | with_reducible apply upBench_same | (with_reducible apply Same.foldl) | (intro _ _ _))

theorem dropResidents_same {ak : State} (s : State) (f : Nat → Resident → Bool) (hk : Same ak s) : Same ak (State.dropResidents s f) := by
  unfold State.dropResidents
  repeat' (first
    | with_reducible assumption | dsimp only | (simp; done) | (with_reducible apply Same.recB))

theorem chestInvalidate_same {ak : State} (s : State) (p : Nat) (hk : Same ak s) : Same ak (State.chestInvalidate s p) := by
  unfold State.chestInvalidate
  repeat' (first
    | with_reducible assumption | with_reducible apply upPart_same)

theorem invalidateDone_same {ak : State} (s : State) (p : Nat) (hk : Same ak s) : Same ak (State.invalidateDone s p) := by
  unfold State.invalidateDone
  repeat' (first
    | with_reducible assumption | with_reducible apply upPart_same | with_reducible apply upBench_same | dsimp only
    | split | (with_reducible apply Same.foldl) | (intro _ _ _))

theorem chestEnable_same {ak : State} (s : State) (p : Nat) (hk : Same ak s) : Same ak (State.chestEnable s p) := by
  unfold State.chestEnable
  repeat' (first
    | with_reducible assumption | with_reducible apply upPart_same)

theorem chestDisable_same {ak : State} (s : State) (p : Nat) (hk : Same ak s) : Same ak (State.chestDisable s p) := by
  unfold State.chestDisable
  repeat' (first
    | with_reducible assumption | with_reducible apply upPart_same | dsimp only | split)

theorem chestBoundary_same {ak : State} (s : State) (p b : Nat) (hk : Same ak s) : Same ak (State.chestBoundary s p b) := by
  unfold State.chestBoundary
  repeat' (first
    | with_reducible assumption | with_reducible apply upPart_same | dsimp only | split)

theorem dropCached_same {ak : State} (s : State) (p : Nat) (c : CLine → Bool) (x : SLine → Bool) (hk : Same ak s) :
    Same ak (State.dropCached s p c x) := by
  unfold State.dropCached
  repeat' (first
    | with_reducible assumption | with_reducible apply upBench_same | (with_reducible apply Same.foldl) | (intro _ _ _))

/-! Flags.lean -/

theorem orderEvent_same {ak : State} (s : State) (o : Order) (code a0 a1 : Nat) (hk : Same ak s) :
    Same ak (State.orderEvent s o code a0 a1) := by
  unfold State.orderEvent
  repeat' (first
    | with_reducible assumption | with_reducible apply eventOf_same)

theorem checkTile_same {ak : State} (s : State) (oid t : Nat) (hk : Same ak s) : Same ak (State.checkTile s oid t) := by
  unfold State.checkTile
  repeat' (first
    | with_reducible assumption | with_reducible apply upOrder_same | with_reducible apply orderEvent_same | dsimp only
    | split | (with_reducible apply Same.foldl) | (intro _ _ _))

theorem checkTiles_same {ak : State} (s : State) (oid : Nat) (hk : Same ak s) : Same ak (State.checkTiles s oid) := by
  unfold State.checkTiles
  repeat' (first
    | with_reducible assumption | with_reducible apply orderEvent_same | with_reducible apply checkTile_same
    | dsimp only | split | (with_reducible apply Same.foldl) | (intro _ _ _))

theorem scaleLast_same {ak : State} (s : State) (o : Order) (offset : Int) (clipped : Bool) (hk : Same ak s) :
    Same ak (State.scaleLast s o offset clipped) := by
  unfold State.scaleLast
  repeat' (first
    | with_reducible assumption | with_reducible apply upPart_same)

theorem finishScale_same {ak : State} (s : State) (o : Order) (hk : Same ak s) : Same ak (State.finishScale s o).1 := by
  unfold State.finishScale
  repeat' (first
    | with_reducible assumption | with_reducible apply upCtx_same | with_reducible apply fresh_same
    | with_reducible apply orderEvent_same | with_reducible apply scaleLast_same | dsimp only | split)
theorem finishScale_same2 {ak tk : State} {rk : Option ScaleUpd} {s : State} {o : Order} 
    (ek : State.finishScale s o = (tk, rk)) (hk : Same ak s) : Same ak tk := by
  have q := finishScale_same s o hk
  rw [ek] at q; exact q

end Sys2Proof.Machine
end

