-- ==== Sys2Proof/Laws/SameData.lean ====
section
/-! SUPPORT. One lemma per operation that gives a state: `Same` holds of what it is given and what it gives. Here:
streams, pooling, the Glue-up, the Strainer and sessions. -/

namespace Sys2Proof.Machine

set_option Elab.async false

/-! Streams.lean -/

theorem shadowElement_same {ak : State} (s : State) (o : Order) (a : Access) (ea : Nat) (hk : Same ak s) :
    Same ak (State.shadowElement s o a ea) := by
  unfold State.shadowElement
  repeat' (first
    | with_reducible assumption | with_reducible apply upOrder_same | split)

theorem pageFor_same {ak : State} (s : State) (oid : Nat) (tile : Tile) (a : Access) (ea : Nat) (hk : Same ak s) :
    Same ak (State.pageFor s oid tile a ea).1 := by
  unfold State.pageFor
  repeat' (first
    | with_reducible assumption | (with_reducible apply xlate_same2; with_reducible assumption) | with_reducible apply xlate_same
    | with_reducible apply shadowElement_same | dsimp only | split)
theorem pageFor_same2 {ak tk : State} {rk : Tile × Xl} {s : State} {oid : Nat} {tile : Tile} {a : Access} {ea : Nat} 
    (ek : State.pageFor s oid tile a ea = (tk, rk)) (hk : Same ak s) : Same ak tk := by
  have q := pageFor_same s oid tile a ea hk
  rw [ek] at q; exact q

theorem findFault_same {ak : State} (s : State) (oid t : Nat) (a : Access) (ea : Nat) (perm outside : Bool) (hk : Same ak s) :
    Same ak (State.findFault s oid t a ea perm outside) := by
  unfold State.findFault
  repeat' (first
    | with_reducible assumption | with_reducible apply upOrder_same)

theorem needPages_same {ak : State} (s : State) (oid : Nat) (tile : Tile) (as : List Access) (hk : Same ak s) :
    Same ak (State.needPages s oid tile as).1 := by
  unfold State.needPages
  repeat' (first
    | with_reducible assumption | (with_reducible apply pageFor_same2; with_reducible assumption)
    | with_reducible apply findFault_same | dsimp only | split | (with_reducible apply Same.foldlP) | (intro _ _ _))
theorem needPages_same2 {ak tk : State} {rk : Tile × Need} {s : State} {oid : Nat} {tile : Tile} {as : List Access} 
    (ek : State.needPages s oid tile as = (tk, rk)) (hk : Same ak s) : Same ak tk := by
  have q := needPages_same s oid tile as hk
  rw [ek] at q; exact q

theorem tellSlow_same {ak : State} (s : State) (oid : Nat) (line : Nat) (hk : Same ak s) : Same ak (State.tellSlow s oid line) := by
  unfold State.tellSlow
  repeat' (first
    | with_reducible assumption | with_reducible apply upOrder_same | with_reducible apply orderEvent_same | split)

theorem tellSlows_same {ak : State} (s : State) (c : Consumer) (ls : List Nat) (hk : Same ak s) : Same ak (State.tellSlows s c ls) := by
  unfold State.tellSlows
  repeat' (first
    | with_reducible assumption | with_reducible apply tellSlow_same | split | (with_reducible apply Same.foldl) | (intro _ _ _))

theorem needLines_same {ak : State} (s : State) (c : Consumer) (p : Nat) (a : Ask) (ls : List Nat) (hk : Same ak s) :
    Same ak (State.needLines s c p a ls).1 := by
  unfold State.needLines
  repeat' (first
    | with_reducible assumption | with_reducible apply ask_same | with_reducible apply tellSlows_same | dsimp only
    | split | (with_reducible apply Same.foldl) | (intro _ _ _))
theorem needLines_same2 {ak tk : State} {rk : Need} {s : State} {c : Consumer} {p : Nat} {a : Ask} {ls : List Nat} 
    (ek : State.needLines s c p a ls = (tk, rk)) (hk : Same ak s) : Same ak tk := by
  have q := needLines_same s c p a ls hk
  rw [ek] at q; exact q

theorem dropLines_same {ak : State} (s : State) (c : Consumer) (ls : List Nat) (hk : Same ak s) : Same ak (State.dropLines s c ls) := by
  unfold State.dropLines
  repeat' (first
    | with_reducible assumption | simp only [Same.rec1])

theorem rewriteHeld_same {ak : State} (s : State) (o l : Nat) (bytes : Line) (hk : Same ak s) :
    Same ak (State.rewriteHeld s o l bytes) := by
  unfold State.rewriteHeld
  repeat' (first
    | with_reducible assumption | simp only [Same.rec1])

theorem quitUpd_same {ak : State} (s : State) (o : Nat) (f : Nat → Bool) (hk : Same ak s) : Same ak (State.quitUpd s o f) := by
  unfold State.quitUpd
  repeat' (first
    | with_reducible assumption | with_reducible apply quitWhere_same)

theorem reread_same {ak : State} (s : State) (o : Nat) (ls : List Nat) (hk : Same ak s) : Same ak (State.reread s o ls) := by
  unfold State.reread
  repeat' (first
    | with_reducible assumption | with_reducible apply quitWhere_same)

theorem bagLines_same {ak : State} (s : State) (o : Order) (x : Stream) (first len : Nat) (hk : Same ak s) :
    Same ak (State.bagLines s o x first len).1 := by
  unfold State.bagLines
  repeat' (first
    | with_reducible assumption | (with_reducible apply pageFor_same2; with_reducible assumption)
    | with_reducible apply needPages_same | with_reducible apply needLines_same | dsimp only | split
    | (with_reducible apply Same.foldlP) | (with_reducible apply Same.pair2; with_reducible assumption) | (intro _ _ _))
theorem bagLines_same2 {ak tk : State} {rk : Tile × Need} {s : State} {o : Order} {x : Stream} {first len : Nat} 
    (ek : State.bagLines s o x first len = (tk, rk)) (hk : Same ak s) : Same ak tk := by
  have q := bagLines_same s o x first len hk
  rw [ek] at q; exact q

theorem takeBags_same {ak : State} (s : State) (oid : Nat) (x : Stream) (tile : Tile) (first len : Nat) (hk : Same ak s) :
    Same ak (State.takeBags s oid x tile first len).1 := by
  unfold State.takeBags
  repeat' (first
    | with_reducible assumption | with_reducible apply upOrder_same | with_reducible apply dropHeld_same
    | with_reducible apply endOrder_same | dsimp only | split)
theorem takeBags_same2 {ak tk : State} {rk : Need} {s : State} {oid : Nat} {x : Stream} {tile : Tile} {first len : Nat} 
    (ek : State.takeBags s oid x tile first len = (tk, rk)) (hk : Same ak s) : Same ak tk := by
  have q := takeBags_same s oid x tile first len hk
  rw [ek] at q; exact q

theorem readBags_same {ak : State} (s : State) (oid t : Nat) (z0 : Nat) (hk : Same ak s) : Same ak (State.readBags s oid t z0) := by
  induction z0 generalizing s with
  | zero => exact hk
  | succ n ih =>
  unfold State.readBags
  repeat' (first
    | with_reducible apply ih | with_reducible assumption | (with_reducible apply bagLines_same2; with_reducible assumption)
    | with_reducible apply bagLines_same | (with_reducible apply takeBags_same2; with_reducible assumption)
    | dsimp only | split | (with_reducible apply Same.foldl) | (intro _ _ _))

theorem setTile_same {ak : State} (s : State) (oid : Nat) (x : Tile) (hk : Same ak s) : Same ak (State.setTile s oid x) := by
  unfold State.setTile
  repeat' (first
    | with_reducible assumption | with_reducible apply upOrder_same)

theorem stopNow_same {ak : State} (s : State) (oid : Nat) (hk : Same ak s) : Same ak (State.stopNow s oid) := by
  unfold State.stopNow
  repeat' (first
    | with_reducible assumption | with_reducible apply endOrder_same | split)

theorem lookLine_same {ak : State} (s : State) (p b bindNo : Nat) (c : Consumer) (mask line : Nat) (hk : Same ak s) :
    Same ak (State.lookLine s p b bindNo c mask line).1 := by
  unfold State.lookLine
  repeat' (first
    | with_reducible assumption | with_reducible apply upPart_same | with_reducible apply upBench_same
    | with_reducible apply upInts_same | with_reducible apply countBind_same | with_reducible apply lineLost_same
    | simp only [Same.rec1] | split)
theorem lookLine_same2 {ak tk : State} {rk : Bool} {s : State} {p b bindNo : Nat} {c : Consumer} {mask line : Nat} 
    (ek : State.lookLine s p b bindNo c mask line = (tk, rk)) (hk : Same ak s) : Same ak tk := by
  have q := lookLine_same s p b bindNo c mask line hk
  rw [ek] at q; exact q

theorem rowSent_same {ak : State} (s : State) (o : Order) (b bindNo : Nat) (x : Binding) (r : RowAt) (hk : Same ak s) :
    Same ak (State.rowSent s o b bindNo x r) := by
  unfold State.rowSent
  repeat' (first
    | with_reducible assumption | with_reducible apply upBench_same | with_reducible apply countBind_same
    | with_reducible apply countSess_same | with_reducible apply countShard_same | simp only [Same.rec1] | split)

theorem dropRows_same {ak : State} (s : State) (o b w : Nat) (f : Nat → Bool) (hk : Same ak s) : Same ak (State.dropRows s o b w f) := by
  unfold State.dropRows
  repeat' (first
    | with_reducible assumption | simp only [Same.rec1])

theorem releaseDup_same {ak : State} (s : State) (for_ t b want : Nat) (z0 : Nat) (hk : Same ak s) :
    Same ak (State.releaseDup s for_ t b want z0) := by
  induction z0 generalizing s with
  | zero => exact hk
  | succ n ih =>
  unfold State.releaseDup
  repeat' (first
    | with_reducible apply ih | with_reducible assumption | with_reducible apply upOrder_same | with_reducible apply dropRows_same
    | dsimp only | split)

theorem rowRoom_same {ak : State} (s : State) (o : Order) (tile : Tile) (want : Nat) (hk : Same ak s) :
    Same ak (State.rowRoom s o tile want).1 := by
  unfold State.rowRoom
  repeat' (first
    | with_reducible assumption | with_reducible apply releaseDup_same | dsimp only | split)
theorem rowRoom_same2 {ak tk : State} {rk : Bool} {s : State} {o : Order} {tile : Tile} {want : Nat} 
    (ek : State.rowRoom s o tile want = (tk, rk)) (hk : Same ak s) : Same ak tk := by
  have q := rowRoom_same s o tile want hk
  rw [ek] at q; exact q

theorem countDefaults_same {ak : State} (s : State) (oid n : Nat) (hk : Same ak s) : Same ak (State.countDefaults s oid n) := by
  unfold State.countDefaults
  repeat' (first
    | with_reducible assumption | with_reducible apply upOrder_same | with_reducible apply countBind_same
    | with_reducible apply countSess_same | split)

theorem makeResident_same {ak : State} (s : State) (o : Order) (b bytes : Nat) (rows : List (Nat × Nat)) (hk : Same ak s) :
    Same ak (State.makeResident s o b bytes rows) := by
  unfold State.makeResident
  repeat' (first
    | with_reducible assumption | with_reducible apply upBench_same | with_reducible apply fresh_same)

theorem enterRow_same {ak : State} (s : State) (oid b w slot : Nat) (hk : Same ak s) : Same ak (State.enterRow s oid b w slot) := by
  unfold State.enterRow
  repeat' (first
    | with_reducible assumption | with_reducible apply upOrder_same | with_reducible apply dropRows_same
    | with_reducible apply countDefaults_same | with_reducible apply makeResident_same | dsimp only | split)

theorem askRow_same {ak : State} (s : State) (o : Order) (tile : Tile) (x : Binding) (r : RowAt) (c : Consumer) (miss : List Nat) (hk : Same ak s) :
    Same ak (State.askRow s o tile x r c miss) := by
  unfold State.askRow
  repeat' (first
    | with_reducible assumption | with_reducible apply queueReads_same | with_reducible apply tellSlows_same
    | with_reducible apply rowSent_same | dsimp only | (with_reducible apply Same.foldl) | (intro _ _ _))

theorem issueRow_same {ak : State} (s : State) (oid t b w : Nat) (x : Binding) (r0 : RowAt) (mult last : Nat) (hk : Same ak s) :
    Same ak (s.issueRow oid t b w x r0 mult last) := by
  unfold State.issueRow
  split
  · exact hk
  split
  · exact hk
  extract_lets again chosen here r tile c ls mine mark coal
  have hmark : ∀ s, Same ak s → Same ak (mark s) := fun s h => upOrder_same _ _ _ h
  have hcoal : ∀ s n, Same ak s → Same ak (coal s n) := fun s n h => Same.ite h (countSess_same _ _ _ _ _ (countBind_same _ _ _ _ _ h))
  refine Same.ite hk (Same.ite hk (Same.ite (hcoal _ _ (hmark _ hk)) ?_))
  split
  · exact setTile_same _ _ _ (rowRoom_same2 ‹_› hk)
  · have h0 := rowRoom_same2 ‹_› hk
    dsimp only
    refine enterRow_same _ _ _ _ _ (hcoal _ _ (hmark _ (Same.ite (countSess_same _ _ _ _ _ (countBind_same _ _ _ _ _ ?_)) (askRow_same _ _ _ _ _ _ _ ?_))))
    all_goals
      refine Same.foldlP (dropRows_same _ _ _ _ _ h0) (fun st l h => ?_)
      split
      · exact h
      · exact lookLine_same _ _ _ _ _ _ _ h

theorem issueRows_same {ak : State} (s : State) (oid t : Nat) (hk : Same ak s) : Same ak (State.issueRows s oid t) := by
  unfold State.issueRows
  repeat' (first
    | with_reducible assumption | with_reducible apply upOrder_same | with_reducible apply setTile_same
    | with_reducible apply issueRow_same | dsimp only | split | (with_reducible apply Same.foldl) | (intro _ _ _))

theorem closeWindow_same {ak : State} (s : State) (oid b w : Nat) (hk : Same ak s) : Same ak (State.closeWindow s oid b w) := by
  unfold State.closeWindow
  repeat' (first
    | with_reducible assumption | with_reducible apply upOrder_same | with_reducible apply dropRows_same | dsimp only
    | split)

/-! Gather.lean -/

theorem tileNeeds_same {ak : State} (s : State) (o : Order) (tile : Tile) (ls : List Nat) (space : Nat → Option Space) (hk : Same ak s) :
    Same ak (State.tileNeeds s o tile ls space).1 := by
  unfold State.tileNeeds
  repeat' (first
    | with_reducible assumption | with_reducible apply needLines_same | dsimp only | split)
theorem tileNeeds_same2 {ak tk : State} {rk : Tile × Need} {s : State} {o : Order} {tile : Tile} {ls : List Nat} {space : Nat → Option Space} 
    (ek : State.tileNeeds s o tile ls space = (tk, rk)) (hk : Same ak s) : Same ak tk := by
  have q := tileNeeds_same s o tile ls space hk
  rw [ek] at q; exact q

theorem readElems_same {ak : State} (s : State) (oid : Nat) (tile : Tile) (first len : Nat) (fetch : Bool) (hk : Same ak s) :
    Same ak (State.readElems s oid tile first len fetch).1 := by
  unfold State.readElems
  repeat' (first
    | with_reducible assumption | with_reducible apply dropHeld_same | with_reducible apply endOrder_same
    | (with_reducible apply needPages_same2; with_reducible assumption) | with_reducible apply tileNeeds_same
    | dsimp only | split | (with_reducible apply Same.foldlP) | (intro _ _ _))
theorem readElems_same2 {ak tk : State} {rk : Tile × Need} {s : State} {oid : Nat} {tile : Tile} {first len : Nat} {fetch : Bool} 
    (ek : State.readElems s oid tile first len fetch = (tk, rk)) (hk : Same ak s) : Same ak tk := by
  have q := readElems_same s oid tile first len fetch hk
  rw [ek] at q; exact q

theorem settle_same {ak : State} (s : State) (oid : Nat) (hk : Same ak s) : Same ak (State.settle s oid) := by
  unfold State.settle
  repeat' (first
    | with_reducible assumption | with_reducible apply flushBench_same | split | (with_reducible apply Same.foldl) | (intro _ _ _))

theorem settleEnded_same {ak : State} (s : State) (hk : Same ak s) : Same ak (State.settleEnded s) := by
  unfold State.settleEnded
  repeat' (first
    | with_reducible assumption | with_reducible apply settle_same | (with_reducible apply Same.foldl) | (intro _ _ _))

theorem deliver_same {ak : State} (s : State) (oid : Nat) (o : Order) (tile : Tile) (first len : Nat) (hk : Same ak s) :
    Same ak (State.deliver s oid o tile first len) := by
  unfold State.deliver
  repeat' (first
    | with_reducible assumption | with_reducible apply upOrder_same | with_reducible apply chestBoundary_same
    | (with_reducible apply needPages_same2; with_reducible assumption) | with_reducible apply setTile_same
    | with_reducible apply issueRows_same | (with_reducible apply tileNeeds_same2; with_reducible assumption)
    | dsimp only | split)

theorem tileDeliver_same {ak : State} (s : State) (oid t : Nat) (hk : Same ak s) : Same ak (State.tileDeliver s oid t) := by
  unfold State.tileDeliver
  repeat' (first
    | with_reducible assumption | with_reducible apply fresh_same | with_reducible apply powerUp_same
    | with_reducible apply readBags_same | with_reducible apply setTile_same | with_reducible apply readElems_same
    | with_reducible apply deliver_same | dsimp only | split
    | (with_reducible apply Same.pair2; with_reducible assumption))

theorem witnessBad_same {ak : State} (s : State) (who : Option Order) (p bindNo ea : Nat) (hk : Same ak s) :
    Same ak (State.witnessBad s who p bindNo ea) := by
  unfold State.witnessBad
  repeat' (first
    | with_reducible assumption | with_reducible apply upInts_same | with_reducible apply countBind_same
    | with_reducible apply event_same | with_reducible apply orderEvent_same | dsimp only | split)

theorem checkBehind_same {ak : State} (s : State) (oid t : Nat) (whole : Order → Nat → Bool) (hk : Same ak s) :
    Same ak (State.checkBehind s oid t whole) := by
  unfold State.checkBehind
  repeat' (first
    | with_reducible assumption | with_reducible apply checkTile_same | split | (with_reducible apply Same.foldl) | (intro _ _ _))

theorem witnessDie_same {ak : State} (s : State) (o : Order) (sender : Nat) (hk : Same ak s) : Same ak (State.witnessDie s o sender) := by
  unfold State.witnessDie
  repeat' (first
    | with_reducible assumption | with_reducible apply upKettle_same | with_reducible apply upInts_same
    | with_reducible apply orderEvent_same)

theorem blockBad_same {ak : State} (s : State) (o : Order) (ea : Nat) (hk : Same ak s) : Same ak (State.blockBad s o ea) := by
  unfold State.blockBad
  repeat' (first
    | with_reducible assumption | with_reducible apply upInts_same | with_reducible apply orderEvent_same)

theorem writeOut_same {ak : State} (s : State) (o : Order) (bench i bytes payload tableId : Nat) (poisoned : Bool) (hk : Same ak s) :
    Same ak (State.writeOut s o bench i bytes payload tableId poisoned) := by
  unfold State.writeOut
  repeat' (first
    | with_reducible assumption | with_reducible apply upOrder_same | with_reducible apply writePieces_same
    | dsimp only | split)

theorem writeBag_same {ak : State} (s : State) (oid : Nat) (b : Binding) (bag : Nat) (p : Partial) (hk : Same ak s) :
    Same ak (State.writeBag s oid b bag p) := by
  unfold State.writeBag
  repeat' (first
    | with_reducible assumption | with_reducible apply upOrder_same | with_reducible apply endOrder_same
    | with_reducible apply checkBehind_same | with_reducible apply writeOut_same | dsimp only | split)

theorem poolBags_same {ak : State} (s : State) (oid : Nat) (tile : Tile) (first len : Nat) (b : Binding) (rows : List (RowAt × Nat × Nat × Bool)) (hk : Same ak s) :
    Same ak (State.poolBags s oid tile first len b rows) := by
  unfold State.poolBags
  repeat' (first
    | with_reducible assumption | with_reducible apply upOrder_same | with_reducible apply upInts_same
    | with_reducible apply countBind_same | with_reducible apply endOrder_same | with_reducible apply countDefaults_same
    | with_reducible apply witnessBad_same | with_reducible apply witnessDie_same | with_reducible apply writeBag_same
    | dsimp only | split | (with_reducible apply Same.foldl) | (intro _ _ _))

theorem tileWorked_same {ak : State} (s : State) (oid t : Nat) (hk : Same ak s) : Same ak (State.tileWorked s oid t) := by
  unfold State.tileWorked
  repeat' (first
    | with_reducible assumption | with_reducible apply upOrder_same)

theorem badBagEnd_same {ak : State} (s : State) (oid : Nat) (hk : Same ak s) : Same ak (State.badBagEnd s oid) := by
  unfold State.badBagEnd
  repeat' (first
    | with_reducible assumption | with_reducible apply endOrder_same | split)

theorem gatherTail_same {ak : State} (s : State) (oid : Nat) (b : Binding) (hk : Same ak s) : Same ak (State.gatherTail s oid b) := by
  unfold State.gatherTail
  repeat' (first
    | with_reducible assumption | with_reducible apply upOrder_same
    | (with_reducible apply needPages_same2; with_reducible assumption) | with_reducible apply setTile_same
    | with_reducible apply writeBag_same | dsimp only | split | (with_reducible apply Same.foldl) | (intro _ _ _))

theorem gatherPool_same {ak : State} (s : State) (oid t : Nat) (hk : Same ak s) : Same ak (State.gatherPool s oid t) := by
  unfold State.gatherPool
  repeat' (first
    | with_reducible assumption | with_reducible apply issueRows_same | with_reducible apply settle_same
    | with_reducible apply poolBags_same | with_reducible apply tileWorked_same | with_reducible apply badBagEnd_same
    | with_reducible apply gatherTail_same | dsimp only | split)

theorem kettlePages_same {ak : State} (s : State) (p : Nat) (tile : Tile) (as : List Access) (hk : Same ak s) :
    Same ak (State.kettlePages s p tile as).1 := by
  unfold State.kettlePages
  repeat' (first
    | with_reducible assumption | (with_reducible apply xlate_same2; with_reducible assumption) | dsimp only | split
    | (with_reducible apply Same.foldlP) | (intro _ _ _))
theorem kettlePages_same2 {ak tk : State} {rk : Tile × Need} {s : State} {p : Nat} {tile : Tile} {as : List Access} 
    (ek : State.kettlePages s p tile as = (tk, rk)) (hk : Same ak s) : Same ak tk := by
  have q := kettlePages_same s p tile as hk
  rw [ek] at q; exact q

theorem upMigRow_same {ak : State} (s : State) (row : Nat) (f : MigRow → MigRow) (hk : Same ak s) : Same ak (State.upMigRow s row f) := by
  unfold State.upMigRow
  repeat' (first
    | with_reducible assumption | with_reducible apply upMig_same)

theorem forgetMigRow_same {ak : State} (s : State) (row : Nat) (hk : Same ak s) : Same ak (State.forgetMigRow s row) := by
  unfold State.forgetMigRow
  repeat' (first
    | with_reducible assumption | with_reducible apply upMig_same)

theorem dropMigRow_same {ak : State} (s : State) (r : MigRow) (hk : Same ak s) : Same ak (State.dropMigRow s r) := by
  unfold State.dropMigRow
  repeat' (first
    | with_reducible assumption | with_reducible apply upPart_same | with_reducible apply quitReads_same
    | with_reducible apply clearSkips_same | with_reducible apply untrack_same | with_reducible apply forgetMigRow_same)

theorem migPages_same {ak : State} (s : State) (b : Binding) (r : MigRow) (hk : Same ak s) : Same ak (State.migPages s b r).1 := by
  unfold State.migPages
  repeat' (first
    | with_reducible assumption | with_reducible apply kettlePages_same | with_reducible apply upMigRow_same)
theorem migPages_same2 {ak tk : State} {rk : Tile × Need} {s : State} {b : Binding} {r : MigRow} 
    (ek : State.migPages s b r = (tk, rk)) (hk : Same ak s) : Same ak tk := by
  have q := migPages_same s b r hk
  rw [ek] at q; exact q

theorem migReady_same {ak : State} (s : State) (p : Nat) (b : Binding) (row : Nat) (hk : Same ak s) :
    Same ak (State.migReady s p b row).1 := by
  unfold State.migReady
  repeat' (first
    | with_reducible assumption | with_reducible apply dropMigRow_same
    | (with_reducible apply migPages_same2; with_reducible assumption) | split)
theorem migReady_same2 {ak tk : State} {rk : Bool} {s : State} {p : Nat} {b : Binding} {row : Nat} 
    (ek : State.migReady s p b row = (tk, rk)) (hk : Same ak s) : Same ak tk := by
  have q := migReady_same s p b row hk
  rw [ek] at q; exact q

theorem enterRows_same {ak : State} (s : State) (p oid bindNo : Nat) (rows : List (Nat × List Nat)) (hk : Same ak s) :
    Same ak (State.enterRows s p oid bindNo rows).1 := by
  unfold State.enterRows
  repeat' (first
    | with_reducible assumption | with_reducible apply track_same | dsimp only | split
    | (with_reducible apply Same.foldl) | (intro _ _ _))
theorem enterRows_same2 {ak tk : State} {rk : Bool} {s : State} {p oid bindNo : Nat} {rows : List (Nat × List Nat)} 
    (ek : State.enterRows s p oid bindNo rows = (tk, rk)) (hk : Same ak s) : Same ak tk := by
  have q := enterRows_same s p oid bindNo rows hk
  rw [ek] at q; exact q

theorem putRow_same {ak : State} (s : State) (oid p bindNo : Nat) (b : Binding) (m : Option ShardMap) (tile : Tile) (row : Nat) (places : List RowAt) (payload trailer : Nat) (comb : Bool) (poisonedLines : List Nat) (hk : Same ak s) :
    Same ak (State.putRow s oid p bindNo b m tile row places payload trailer comb poisonedLines) := by
  unfold State.putRow
  repeat' (first
    | with_reducible assumption | with_reducible apply issueLine_same | with_reducible apply combine_same
    | with_reducible apply updateResident_same | with_reducible apply rewriteHeld_same | dsimp only | split
    | (with_reducible apply Same.foldl) | (intro _ _ _))

theorem readRow_same {ak : State} (s : State) (o : Order) (tile : Tile) (b : Binding) (bindNo : Nat) (m : Option ShardMap) (r : RowAt) (whole : Bool) (hk : Same ak s) :
    Same ak (State.readRow s o tile b bindNo m r whole).1 := by
  unfold State.readRow
  repeat' (first
    | with_reducible assumption | with_reducible apply track_same
    | (with_reducible apply needLines_same2; with_reducible assumption) | with_reducible apply reread_same
    | with_reducible apply rowSent_same | dsimp only | split | (with_reducible apply Same.foldl) | (intro _ _ _))
theorem readRow_same2 {ak tk : State} {rk : Need} {s : State} {o : Order} {tile : Tile} {b : Binding} {bindNo : Nat} {m : Option ShardMap} {r : RowAt} {whole : Bool} 
    (ek : State.readRow s o tile b bindNo m r whole = (tk, rk)) (hk : Same ak s) : Same ak tk := by
  have q := readRow_same s o tile b bindNo m r whole hk
  rw [ek] at q; exact q

theorem prepRows_same {ak : State} (s : State) (oid : Nat) (tile : Tile) (b : Binding) (bindNo : Nat) (m : Option ShardMap) (rows : List RowAt) (whole : Bool) (hk : Same ak s) :
    Same ak (State.prepRows s oid tile b bindNo m rows whole).1 := by
  unfold State.prepRows
  repeat' (first
    | with_reducible assumption | with_reducible apply untrackDone_same | with_reducible apply quitUpd_same
    | with_reducible apply migReady_same | (with_reducible apply enterRows_same2; with_reducible assumption)
    | (with_reducible apply readRow_same2; with_reducible assumption) | dsimp only | split
    | (with_reducible apply Same.foldl) | (with_reducible apply Same.foldlP) | (intro _ _ _))
theorem prepRows_same2 {ak tk : State} {rk : Need} {s : State} {oid : Nat} {tile : Tile} {b : Binding} {bindNo : Nat} {m : Option ShardMap} {rows : List RowAt} {whole : Bool} 
    (ek : State.prepRows s oid tile b bindNo m rows whole = (tk, rk)) (hk : Same ak s) : Same ak tk := by
  have q := prepRows_same s oid tile b bindNo m rows whole hk
  rw [ek] at q; exact q

theorem putRows_same {ak : State} (s : State) (oid : Nat) (tile : Tile) (b : Binding) (bindNo : Nat) (m : Option ShardMap) (ups : List (RowAt × Nat)) (comb : Bool) (hk : Same ak s) :
    Same ak (State.putRows s oid tile b bindNo m ups comb) := by
  unfold State.putRows
  repeat' (first
    | with_reducible assumption | with_reducible apply countBind_same | with_reducible apply putRow_same | dsimp only
    | split | (with_reducible apply Same.foldlP) | (intro _ _ _))

theorem copyIn_same {ak : State} (s : State) (oid t : Nat) (o : Order) (b : Binding) (tile : Tile) (first len : Nat) (hk : Same ak s) :
    Same ak (State.copyIn s oid t o b tile first len) := by
  unfold State.copyIn
  repeat' (first
    | with_reducible assumption | with_reducible apply upOrder_same | with_reducible apply dropHeld_same
    | with_reducible apply endOrder_same | with_reducible apply quitUpd_same | with_reducible apply setTile_same
    | with_reducible apply countDefaults_same | with_reducible apply putRows_same | dsimp only | split)

theorem copyOutRow_same {ak : State} (s : State) (oid t : Nat) (b : Binding) (tile : Tile) (first : Nat) (rows : List (RowAt × Nat × Nat × Bool)) (x : Nat × Nat) (hk : Same ak s) :
    Same ak (State.copyOutRow s oid t b tile first rows x) := by
  unfold State.copyOutRow
  repeat' (first
    | with_reducible assumption | with_reducible apply upInts_same | with_reducible apply countBind_same
    | with_reducible apply endOrder_same | with_reducible apply issueLine_same | with_reducible apply countDefaults_same
    | with_reducible apply witnessBad_same | dsimp only | split | (with_reducible apply Same.foldl) | (intro _ _ _))

theorem copyOut_same {ak : State} (s : State) (oid t : Nat) (b : Binding) (tile : Tile) (first len : Nat) (rows : List (RowAt × Nat × Nat × Bool)) (hk : Same ak s) :
    Same ak (State.copyOut s oid t b tile first len rows) := by
  unfold State.copyOut
  repeat' (first
    | with_reducible assumption | with_reducible apply upOrder_same | with_reducible apply countDefaults_same
    | with_reducible apply tileWorked_same | with_reducible apply copyOutRow_same | (with_reducible apply Same.foldl)
    | (intro _ _ _))

theorem copyRows_same {ak : State} (s : State) (oid t : Nat) (hk : Same ak s) : Same ak (State.copyRows s oid t) := by
  unfold State.copyRows
  repeat' (first
    | with_reducible assumption | with_reducible apply issueRows_same
    | (with_reducible apply prepRows_same2; with_reducible assumption) | with_reducible apply copyIn_same
    | with_reducible apply copyOut_same | split)

theorem prefetchRow_same {ak : State} (s : State) (o : Order) (b : Binding) (tile : Tile) (r : RowAt) (hk : Same ak s) :
    Same ak (State.prefetchRow s o b tile r).1 := by
  unfold State.prefetchRow
  repeat' (first
    | with_reducible assumption | with_reducible apply queueReads_same | with_reducible apply xlate_same
    | with_reducible apply tellSlows_same | with_reducible apply rowSent_same | dsimp only | split
    | (with_reducible apply Same.foldl) | (with_reducible apply Same.foldlP) | (intro _ _ _))
theorem prefetchRow_same2 {ak tk : State} {rk : Warm} {s : State} {o : Order} {b : Binding} {tile : Tile} {r : RowAt} 
    (ek : State.prefetchRow s o b tile r = (tk, rk)) (hk : Same ak s) : Same ak tk := by
  have q := prefetchRow_same s o b tile r hk
  rw [ek] at q; exact q

theorem prefetchTile_same {ak : State} (s : State) (oid t : Nat) (hk : Same ak s) : Same ak (State.prefetchTile s oid t) := by
  unfold State.prefetchTile
  repeat' (first
    | with_reducible assumption | with_reducible apply upOrder_same | with_reducible apply clearSkips_same
    | with_reducible apply countDefaults_same | with_reducible apply tileWorked_same
    | (with_reducible apply prefetchRow_same2; with_reducible assumption) | dsimp only | split
    | (with_reducible apply Same.foldl) | (intro _ _ _))

theorem adviseStep_same {ak : State} (s : State) (oid p : Nat) (hot : Bool) (tag page stop half : Nat) (z0 : Nat) (hk : Same ak s) :
    Same ak (State.adviseStep s oid p hot tag page stop half z0).1 := by
  induction z0 generalizing s page with
  | zero => exact hk
  | succ n ih =>
  unfold State.adviseStep
  repeat' (first
    | with_reducible apply ih | with_reducible assumption | with_reducible apply upOrder_same
    | (with_reducible apply xlate_same2; with_reducible assumption) | simp only [Same.rec1] | split)
theorem adviseStep_same2 {ak tk : State} {rk : Bool × Nat} {s : State} {oid p : Nat} {hot : Bool} {tag page stop half : Nat} {z0 : Nat}
    (ek : State.adviseStep s oid p hot tag page stop half z0 = (tk, rk)) (hk : Same ak s) : Same ak tk := by
  have q := adviseStep_same s oid p hot tag page stop half z0 hk
  rw [ek] at q; exact q

theorem advise_same {ak : State} (s : State) (oid : Nat) (hk : Same ak s) : Same ak (State.advise s oid) := by
  unfold State.advise
  repeat' (first
    | with_reducible assumption | with_reducible apply upBench_same | with_reducible apply upOrder_same
    | with_reducible apply clearSkips_same | with_reducible apply adviseStep_same | simp only [Same.rec1] | split
    | (with_reducible apply Same.foldl) | (intro _ _ _))

theorem passBoundary_same {ak : State} (s : State) (o : Order) (b : Nat) (hk : Same ak s) : Same ak (State.passBoundary s o b) := by
  unfold State.passBoundary
  repeat' (first
    | with_reducible assumption | simp only [Same.rec1] | split)

theorem tileConsumed_same {ak : State} (s : State) (oid t : Nat) (hk : Same ak s) : Same ak (State.tileConsumed s oid t) := by
  unfold State.tileConsumed
  repeat' (first
    | with_reducible assumption | with_reducible apply upOrder_same | with_reducible apply countBind_same
    | with_reducible apply countSess_same | with_reducible apply chestBoundary_same | with_reducible apply checkTile_same
    | with_reducible apply stopNow_same | with_reducible apply issueRows_same | with_reducible apply closeWindow_same
    | with_reducible apply settle_same | with_reducible apply passBoundary_same | dsimp only | split
    | (with_reducible apply Same.foldl) | (intro _ _ _))

/-! Glue.lean -/

theorem scattered_same {ak : State} (s : State) (oid : Nat) (o : Order) (b : Binding) (j : Jig) (tile : Tile) (len : Nat) (x : Scat) (hk : Same ak s) :
    Same ak (State.scattered s oid o b j tile len x) := by
  unfold State.scattered
  repeat' (first
    | with_reducible assumption | with_reducible apply upOrder_same | with_reducible apply dropHeld_same
    | with_reducible apply countBind_same | with_reducible apply countSess_same | with_reducible apply writeStraight_same
    | with_reducible apply countDefaults_same | (with_reducible apply Same.foldl) | (intro _ _ _))

theorem scatterTile_same {ak : State} (s : State) (oid t : Nat) (hk : Same ak s) : Same ak (State.scatterTile s oid t) := by
  unfold State.scatterTile
  repeat' (first
    | with_reducible assumption | (with_reducible apply needPages_same2; with_reducible assumption)
    | with_reducible apply setTile_same | with_reducible apply scattered_same | dsimp only | split)

theorem mergeEnter_same {ak : State} (s : State) (oid : Nat) (o : Order) (b : Binding) (j : Jig) (row : Nat) (hk : Same ak s) :
    Same ak (State.mergeEnter s oid o b j row).1 := by
  unfold State.mergeEnter
  repeat' (first
    | with_reducible assumption | with_reducible apply upOrder_same
    | (with_reducible apply needPages_same2; with_reducible assumption)
    | (with_reducible apply enterRows_same2; with_reducible assumption) | dsimp only | split)
theorem mergeEnter_same2 {ak tk : State} {rk : Option Entered} {s : State} {oid : Nat} {o : Order} {b : Binding} {j : Jig} {row : Nat} 
    (ek : State.mergeEnter s oid o b j row = (tk, rk)) (hk : Same ak s) : Same ak tk := by
  have q := mergeEnter_same s oid o b j row hk
  rw [ek] at q; exact q

theorem readSpills_same {ak : State} (s : State) (oid : Nat) (o : Order) (j : Jig) (sp : Spill) (e : Nat) (x : Entered) (fs : List Frag) (hk : Same ak s) :
    Same ak (State.readSpills s oid o j sp e x fs).1 := by
  unfold State.readSpills
  repeat' (first
    | with_reducible assumption | with_reducible apply upOrder_same
    | (with_reducible apply needPages_same2; with_reducible assumption) | with_reducible apply needPages_same
    | with_reducible apply needLines_same | dsimp only | split | (with_reducible apply Same.foldlP) | (intro _ _ _))
theorem readSpills_same2 {ak tk : State} {rk : Tile × Need} {s : State} {oid : Nat} {o : Order} {j : Jig} {sp : Spill} {e : Nat} {x : Entered} {fs : List Frag} 
    (ek : State.readSpills s oid o j sp e x fs = (tk, rk)) (hk : Same ak s) : Same ak tk := by
  have q := readSpills_same s oid o j sp e x fs hk
  rw [ek] at q; exact q

theorem mergeApply_same {ak : State} (s : State) (oid : Nat) (o : Order) (b : Binding) (j : Jig) (x : Entered) (lists : List (List Frag)) (hk : Same ak s) :
    Same ak (State.mergeApply s oid o b j x lists) := by
  unfold State.mergeApply
  repeat' (first
    | with_reducible assumption | with_reducible apply upOrder_same | with_reducible apply upInts_same
    | with_reducible apply countBind_same | with_reducible apply endOrder_same | with_reducible apply rowPoisoned_same
    | with_reducible apply writePieces_same | with_reducible apply untrackDone_same | with_reducible apply quitUpd_same
    | with_reducible apply witnessBad_same | with_reducible apply checkBehind_same | with_reducible apply witnessDie_same
    | with_reducible apply putRow_same | dsimp only | split)

theorem mergeRow_same {ak : State} (s : State) (oid row : Nat) (hk : Same ak s) : Same ak (s.mergeRow oid row).1 := by
  unfold State.mergeRow
  split
  · exact hk
  split
  swap
  · exact hk
  extract_lets sp lists keep
  split
  · exact mergeEnter_same2 ‹_› hk
  rename_i s0 x0 e0
  have h0 := mergeEnter_same2 e0 hk
  extract_lets x open_
  have hkeep : ∀ s t, Same ak s → Same ak (keep s t) := fun s t h => upOrder_same _ _ _ h
  split
  · exact h0
  split
  rename_i s1 n1 e1
  have h1 := readRow_same2 e1 h0
  split
  rename_i s2 t2 n2 e2
  have h2 := readSpills_same2 e2 h1
  extract_lets stLines
  split
  rename_i s3 n3 e3
  have h3 := needLines_same2 e3 h2
  split
  · exact hkeep _ _ h3
  split
  · exact hkeep _ _ (migReady_same2 ‹_› h3)
  · exact settle_same _ _ (mergeApply_same _ _ _ _ _ _ _ (hkeep _ _ (migReady_same2 ‹_› h3)))

theorem mergeRow_same2 {ak tk : State} {rk : Bool} {s : State} {oid row : Nat} (ek : s.mergeRow oid row = (tk, rk)) (hk : Same ak s) :
    Same ak tk := by
  have q := mergeRow_same s oid row hk
  rw [ek] at q; exact q

theorem mergePoint_same {ak : State} (s : State) (oid : Nat) (hk : Same ak s) : Same ak (State.mergePoint s oid) := by
  unfold State.mergePoint
  repeat' (first
    | with_reducible assumption | with_reducible apply upOrder_same | with_reducible apply mergeRow_same | dsimp only
    | split | (with_reducible apply Same.foldlP) | (intro _ _ _))

theorem appendWrite_same {ak : State} (s : State) (oid : Nat) (o : Order) (tile : Tile) (first len : Nat) (tables : List AppendTo) (hk : Same ak s) :
    Same ak (State.appendWrite s oid o tile first len tables) := by
  unfold State.appendWrite
  repeat' (first
    | with_reducible assumption | with_reducible apply upOrder_same | with_reducible apply dropHeld_same
    | with_reducible apply endOrder_same | with_reducible apply quitUpd_same | with_reducible apply setTile_same
    | with_reducible apply settle_same | with_reducible apply putRows_same | dsimp only | split
    | (with_reducible apply Same.foldl) | (intro _ _ _))

theorem appendTile_same {ak : State} (s : State) (oid t : Nat) (hk : Same ak s) : Same ak (State.appendTile s oid t) := by
  unfold State.appendTile
  repeat' (first
    | with_reducible assumption | with_reducible apply prepRows_same | with_reducible apply appendWrite_same
    | dsimp only | split | (with_reducible apply Same.foldlP) | (intro _ _ _))

/-! Strainer.lean -/

theorem readQueries_same {ak : State} (s : State) (oid b : Nat) (hk : Same ak s) : Same ak (State.readQueries s oid b).1 := by
  unfold State.readQueries
  repeat' (first
    | with_reducible assumption | with_reducible apply upOrder_same | with_reducible apply endOrder_same
    | (with_reducible apply needPages_same2; with_reducible assumption)
    | (with_reducible apply needLines_same2; with_reducible assumption) | with_reducible apply dropLines_same
    | dsimp only | split)
theorem readQueries_same2 {ak tk : State} {rk : Need} {s : State} {oid b : Nat} 
    (ek : State.readQueries s oid b = (tk, rk)) (hk : Same ak s) : Same ak tk := by
  have q := readQueries_same s oid b hk
  rw [ek] at q; exact q

theorem readArea_same {ak : State} (s : State) (oid b ea n kind : Nat) (hk : Same ak s) : Same ak (State.readArea s oid b ea n kind).1 := by
  unfold State.readArea
  repeat' (first
    | with_reducible assumption | (with_reducible apply needPages_same2; with_reducible assumption)
    | (with_reducible apply needLines_same2; with_reducible assumption) | with_reducible apply dropLines_same
    | dsimp only | split)
theorem readArea_same2 {ak tk : State} {rk : Option (Nat × Bool)} {s : State} {oid b ea n kind : Nat} 
    (ek : State.readArea s oid b ea n kind = (tk, rk)) (hk : Same ak s) : Same ak tk := by
  have q := readArea_same s oid b ea n kind hk
  rw [ek] at q; exact q

theorem leaveSlot_same {ak : State} (s : State) (p n why : Nat) (hk : Same ak s) : Same ak (State.leaveSlot s p n why) := by
  unfold State.leaveSlot
  repeat' (first
    | with_reducible assumption | with_reducible apply upCtx_same | with_reducible apply countPart_same
    | with_reducible apply countSess_same | dsimp only | split)

theorem resumeBad_same {ak : State} (s : State) (o : Order) (ea detail : Nat) (hk : Same ak s) :
    Same ak (State.resumeBad s o ea detail) := by
  unfold State.resumeBad
  repeat' (first
    | with_reducible assumption | with_reducible apply endOrder_same | with_reducible apply blockBad_same
    | with_reducible apply leaveSlot_same | dsimp only | split)

theorem readHeader_same {ak : State} (s : State) (oid b : Nat) (hk : Same ak s) : Same ak (State.readHeader s oid b).1 := by
  unfold State.readHeader
  repeat' (first
    | with_reducible assumption | with_reducible apply upOrder_same | with_reducible apply endOrder_same
    | (with_reducible apply readArea_same2; with_reducible assumption) | with_reducible apply resumeBad_same | split)
theorem readHeader_same2 {ak tk : State} {rk : Need} {s : State} {oid b : Nat} 
    (ek : State.readHeader s oid b = (tk, rk)) (hk : Same ak s) : Same ak tk := by
  have q := readHeader_same s oid b hk
  rw [ek] at q; exact q

theorem readSaved_same {ak : State} (s : State) (oid b : Nat) (x : Nat × Nat × Nat) (hk : Same ak s) :
    Same ak (State.readSaved s oid b x).1 := by
  unfold State.readSaved
  repeat' (first
    | with_reducible assumption | with_reducible apply endOrder_same
    | (with_reducible apply readArea_same2; with_reducible assumption) | with_reducible apply resumeBad_same
    | dsimp only | split)
theorem readSaved_same2 {ak tk : State} {rk : Option (List Nat)} {s : State} {oid b : Nat} {x : Nat × Nat × Nat} 
    (ek : State.readSaved s oid b x = (tk, rk)) (hk : Same ak s) : Same ak tk := by
  have q := readSaved_same s oid b x hk
  rw [ek] at q; exact q

theorem countScores_same {ak : State} (s : State) (oid : Nat) (es : List OutElem) (hk : Same ak s) :
    Same ak (State.countScores s oid es) := by
  unfold State.countScores
  repeat' (first
    | with_reducible assumption | with_reducible apply upOrder_same)

theorem putScores_same {ak : State} (s : State) (o : Order) (tile : Tile) (ea len v : Nat) (hk : Same ak s) :
    Same ak (State.putScores s o tile ea len v) := by
  unfold State.putScores
  repeat' (first
    | with_reducible assumption | with_reducible apply writeStraight_same)

theorem dropBadRows_same {ak : State} (s : State) (o : Order) (b : Nat) (rows : List Nat) (hk : Same ak s) :
    Same ak (State.dropBadRows s o b rows) := by
  unfold State.dropBadRows
  repeat' (first
    | with_reducible assumption | with_reducible apply upBench_same | with_reducible apply upInts_same
    | with_reducible apply countBind_same | dsimp only | split)

theorem finishTile_same {ak : State} (s : State) (oid b : Nat) (tile : Tile) (first : Nat) (fp : Bool) (scored : List (Option Nat)) (vals : List (List Nat)) (hk : Same ak s) :
    Same ak (State.finishTile s oid b tile first fp scored vals) := by
  unfold State.finishTile
  repeat' (first
    | with_reducible assumption | with_reducible apply upOrder_same | with_reducible apply upCtx_same
    | with_reducible apply countScores_same | with_reducible apply putScores_same | dsimp only | split
    | (with_reducible apply Same.foldl) | (intro _ _ _))

theorem finishTransposed_same {ak : State} (s : State) (oid d : Nat) (tile : Tile) (j : Jig) (x : Binding) (first : Nat) (scored : List (Option Nat)) (vals : List (List Nat)) (last : Bool) (hk : Same ak s) :
    Same ak (State.finishTransposed s oid d tile j x first scored vals last) := by
  unfold State.finishTransposed
  repeat' (first
    | with_reducible assumption | with_reducible apply upOrder_same | with_reducible apply countScores_same
    | with_reducible apply putScores_same | dsimp only | split | (with_reducible apply Same.foldl) | (intro _ _ _))

theorem leaveStep_same {ak : State} (s : State) (oid b n : Nat) (tile : Tile) (hk : Same ak s) :
    Same ak (State.leaveStep s oid b n tile) := by
  unfold State.leaveStep
  repeat' (first
    | with_reducible assumption | with_reducible apply upBench_same | with_reducible apply upOrder_same
    | with_reducible apply dropRows_same | dsimp only | split)

theorem useSet_same {ak : State} (s : State) (o : Order) (b : Nat) (hk : Same ak s) : Same ak (State.useSet s o b) := by
  unfold State.useSet
  repeat' (first
    | with_reducible assumption | with_reducible apply upBench_same | with_reducible apply fresh_same)

theorem loadArray_same {ak : State} (s : State) (o : Order) (j : Jig) (b : Nat) (hk : Same ak s) : Same ak (State.loadArray s o j b) := by
  unfold State.loadArray
  repeat' (first
    | with_reducible assumption | with_reducible apply upBench_same)

theorem runStep_same {ak : State} (s : State) (oid b n d : Nat) (tile : Tile) (first : Nat) (j : Jig) (x : Binding) (rows : List (RowAt × Nat × Nat × Bool)) (saved : Option (List Nat)) (hk : Same ak s) :
    Same ak (State.runStep s oid b n d tile first j x rows saved) := by
  unfold State.runStep
  repeat' (first
    | with_reducible assumption | with_reducible apply upOrder_same | with_reducible apply upInts_same
    | with_reducible apply countBind_same | with_reducible apply endOrder_same | with_reducible apply countDefaults_same
    | with_reducible apply witnessBad_same | with_reducible apply finishTile_same | with_reducible apply finishTransposed_same
    | with_reducible apply leaveStep_same | with_reducible apply useSet_same | dsimp only | split)

theorem mergeSaved_same {ak : State} (s : State) (oid b : Nat) (hk : Same ak s) : Same ak (State.mergeSaved s oid b).1 := by
  unfold State.mergeSaved
  repeat' (first
    | with_reducible assumption | with_reducible apply upOrder_same | with_reducible apply upCtx_same
    | (with_reducible apply readSaved_same2; with_reducible assumption) | dsimp only | split)
theorem mergeSaved_same2 {ak tk : State} {rk : Bool} {s : State} {oid b : Nat} 
    (ek : State.mergeSaved s oid b = (tk, rk)) (hk : Same ak s) : Same ak tk := by
  have q := mergeSaved_same s oid b hk
  rw [ek] at q; exact q

theorem needOuts_same {ak : State} (s : State) (oid b t : Nat) (outs : List (Nat × Nat × Nat)) (hk : Same ak s) :
    Same ak (State.needOuts s oid b t outs).1 := by
  unfold State.needOuts
  repeat' (first
    | with_reducible assumption | with_reducible apply upOrder_same
    | (with_reducible apply needPages_same2; with_reducible assumption) | dsimp only | split)
theorem needOuts_same2 {ak tk : State} {rk : Bool} {s : State} {oid b t : Nat} {outs : List (Nat × Nat × Nat)} 
    (ek : State.needOuts s oid b t outs = (tk, rk)) (hk : Same ak s) : Same ak tk := by
  have q := needOuts_same s oid b t outs hk
  rw [ek] at q; exact q

theorem writeHeld_same {ak : State} (s : State) (oid b i v : Nat) (hk : Same ak s) : Same ak (State.writeHeld s oid b i v) := by
  unfold State.writeHeld
  repeat' (first
    | with_reducible assumption | with_reducible apply upOrder_same | with_reducible apply writeStraight_same | split)

theorem strainFinish_same {ak : State} (s : State) (oid b : Nat) (hk : Same ak s) : Same ak (State.strainFinish s oid b) := by
  unfold State.strainFinish
  repeat' (first
    | with_reducible assumption | with_reducible apply upOrder_same | with_reducible apply endOrder_same
    | (with_reducible apply mergeSaved_same2; with_reducible assumption)
    | (with_reducible apply needOuts_same2; with_reducible assumption) | with_reducible apply writeHeld_same
    | dsimp only | split | (with_reducible apply Same.foldl) | (intro _ _ _))

theorem strainRows_same {ak : State} (s : State) (oid b d t first : Nat) (j : Jig) (x : Binding) (slots : List RowAt) (t2 : Tile) (hk : Same ak s) :
    Same ak (State.strainRows s oid b d t first j x slots t2) := by
  unfold State.strainRows
  repeat' (first
    | with_reducible assumption | with_reducible apply issueRows_same
    | (with_reducible apply readSaved_same2; with_reducible assumption) | with_reducible apply runStep_same
    | dsimp only | split)

theorem strainTile_same {ak : State} (s : State) (oid b : Nat) (o : Order) (j : Jig) (x : Binding) (hk : Same ak s) :
    Same ak (State.strainTile s oid b o j x) := by
  unfold State.strainTile
  repeat' (first
    | with_reducible assumption | with_reducible apply dropBadRows_same | with_reducible apply loadArray_same
    | with_reducible apply strainFinish_same | with_reducible apply strainRows_same | dsimp only | split)

theorem strain_same {ak : State} (s : State) (oid b : Nat) (hk : Same ak s) : Same ak (State.strain s oid b) := by
  unfold State.strain
  repeat' (first
    | with_reducible assumption | with_reducible apply upOrder_same | with_reducible apply readQueries_same
    | with_reducible apply readHeader_same | with_reducible apply strainTile_same | dsimp only | split)

theorem recallPool_same {ak : State} (s : State) (oid b : Nat) (hk : Same ak s) : Same ak (State.recallPool s oid b) := by
  unfold State.recallPool
  repeat' (first
    | with_reducible assumption | with_reducible apply endOrder_same | with_reducible apply issueRows_same
    | with_reducible apply writeBag_same | with_reducible apply poolBags_same | with_reducible apply tileWorked_same
    | (with_reducible apply readHeader_same2; with_reducible assumption) | with_reducible apply mergeSaved_same
    | (with_reducible apply needOuts_same2; with_reducible assumption) | dsimp only | split
    | (with_reducible apply Same.foldl) | (intro _ _ _))

theorem recallDone_same {ak : State} (s : State) (oid : Nat) (hk : Same ak s) : Same ak (State.recallDone s oid) := by
  unfold State.recallDone
  repeat' (first
    | with_reducible assumption | with_reducible apply upOrder_same)

theorem recall_same {ak : State} (s : State) (oid b : Nat) (hk : Same ak s) : Same ak (State.recall s oid b) := by
  unfold State.recall
  repeat' (first
    | with_reducible assumption | with_reducible apply settle_same | with_reducible apply strain_same
    | with_reducible apply recallPool_same | with_reducible apply recallDone_same | split)

theorem score_same {ak : State} (s : State) (oid b : Nat) (hk : Same ak s) : Same ak (State.score s oid b) := by
  unfold State.score
  repeat' (first
    | with_reducible assumption | with_reducible apply strain_same | split)

theorem setSlot_same {ak : State} (s : State) (p session : Nat) (x : AccTile) (hk : Same ak s) : Same ak (State.setSlot s p session x) := by
  unfold State.setSlot
  repeat' (first
    | with_reducible assumption | with_reducible apply upCtx_same)

theorem accRestore_same {ak : State} (s : State) (oid : Nat) (c : Ctx) (hk : Same ak s) : Same ak (State.accRestore s oid c) := by
  unfold State.accRestore
  repeat' (first
    | with_reducible assumption | with_reducible apply upOrder_same
    | (with_reducible apply readHeader_same2; with_reducible assumption)
    | (with_reducible apply readSaved_same2; with_reducible assumption) | with_reducible apply setSlot_same | split)

theorem accLoad_same {ak : State} (s : State) (oid : Nat) (hk : Same ak s) : Same ak (State.accLoad s oid) := by
  unfold State.accLoad
  repeat' (first
    | with_reducible assumption | with_reducible apply upOrder_same | with_reducible apply endOrder_same
    | with_reducible apply blockBad_same | (with_reducible apply readArea_same2; with_reducible assumption)
    | with_reducible apply setSlot_same | with_reducible apply accRestore_same | dsimp only | split)

theorem accStore_same {ak : State} (s : State) (oid : Nat) (hk : Same ak s) : Same ak (State.accStore s oid) := by
  unfold State.accStore
  repeat' (first
    | with_reducible assumption | with_reducible apply upOrder_same | with_reducible apply upCtx_same
    | with_reducible apply endOrder_same | with_reducible apply writeStraight_same
    | (with_reducible apply needPages_same2; with_reducible assumption) | with_reducible apply accRestore_same
    | dsimp only | split)

/-! Sessions.lean -/

theorem backPage_same {ak : State} (s : State) (oid field : Nat) (hk : Same ak s) : Same ak (State.backPage s oid field).1 := by
  unfold State.backPage
  repeat' (first
    | with_reducible assumption | with_reducible apply upOrder_same
    | (with_reducible apply pageFor_same2; with_reducible assumption) | with_reducible apply findFault_same
    | dsimp only | split)
theorem backPage_same2 {ak tk : State} {rk : Option Nat} {s : State} {oid field : Nat} 
    (ek : State.backPage s oid field = (tk, rk)) (hk : Same ak s) : Same ak tk := by
  have q := backPage_same s oid field hk
  rw [ek] at q; exact q

theorem writeBack_same {ak : State} (s : State) (p oid addr page value : Nat) (hk : Same ak s) :
    Same ak (State.writeBack s p oid addr page value) := by
  unfold State.writeBack
  repeat' (first
    | with_reducible assumption | with_reducible apply postBytes_same)

theorem backStream_same {ak : State} (s : State) (oid : Nat) (x : Stream) (value : Nat) (hk : Same ak s) :
    Same ak (State.backStream s oid x value).1 := by
  unfold State.backStream
  repeat' (first
    | with_reducible assumption | (with_reducible apply backPage_same2; with_reducible assumption)
    | with_reducible apply writeBack_same | split)
theorem backStream_same2 {ak tk : State} {rk : Bool} {s : State} {oid : Nat} {x : Stream} {value : Nat} 
    (ek : State.backStream s oid x value = (tk, rk)) (hk : Same ak s) : Same ak tk := by
  have q := backStream_same s oid x value hk
  rw [ek] at q; exact q

theorem backStreams_same {ak : State} (s : State) (oid : Nat) (undone : Order) (hk : Same ak s) :
    Same ak (State.backStreams s oid undone).1 := by
  unfold State.backStreams
  repeat' (first
    | with_reducible assumption | with_reducible apply upOrder_same
    | (with_reducible apply backStream_same2; with_reducible assumption) | split | (with_reducible apply Same.foldlP)
    | (intro _ _ _))
theorem backStreams_same2 {ak tk : State} {rk : Bool} {s : State} {oid : Nat} {undone : Order} 
    (ek : State.backStreams s oid undone = (tk, rk)) (hk : Same ak s) : Same ak tk := by
  have q := backStreams_same s oid undone hk
  rw [ek] at q; exact q

theorem startWarm_same {ak : State} (s : State) (p n : Nat) (order : Option Nat) (hinted : Bool) (hk : Same ak s) :
    Same ak (State.startWarm s p n order hinted) := by
  unfold State.startWarm
  repeat' (first
    | with_reducible assumption | with_reducible apply upOrder_same | with_reducible apply upCtx_same
    | with_reducible apply countPart_same | with_reducible apply countSess_same | with_reducible apply powerUp_same | split)

theorem act_same {ak : State} (s : State) (oid : Nat) (hk : Same ak s) : Same ak (State.act s oid) := by
  unfold State.act
  repeat' (first
    | with_reducible assumption | with_reducible apply upOrder_same)

theorem wakeNow_same {ak : State} (s : State) (o : Order) (hk : Same ak s) : Same ak (State.wakeNow s o) := by
  unfold State.wakeNow
  repeat' (first
    | with_reducible assumption | with_reducible apply endOrder_same | with_reducible apply startWarm_same
    | with_reducible apply act_same | simp only [Same.rec1] | split)

theorem serveWaits_same {ak : State} (s : State) (p : Nat) (z0 : Nat) (hk : Same ak s) : Same ak (State.serveWaits s p z0) := by
  induction z0 generalizing s with
  | zero => exact hk
  | succ n ih =>
  unfold State.serveWaits
  repeat' (first
    | with_reducible apply ih | with_reducible assumption | with_reducible apply upPart_same | with_reducible apply leaveSlot_same
    | with_reducible apply startWarm_same | with_reducible apply wakeNow_same | dsimp only | split)

theorem serve_same {ak : State} (s : State) (p : Nat) (hk : Same ak s) : Same ak (State.serve s p) := by
  unfold State.serve
  repeat' (first
    | with_reducible assumption | with_reducible apply serveWaits_same)

theorem askSlot_same {ak : State} (s : State) (p : Nat) (w : WaitWake) (hk : Same ak s) : Same ak (State.askSlot s p w) := by
  unfold State.askSlot
  repeat' (first
    | with_reducible assumption | with_reducible apply upPart_same | with_reducible apply serve_same | split)

theorem hint_same {ak : State} (s : State) (p n : Nat) (hk : Same ak s) : Same ak (State.hint s p n) := by
  unfold State.hint
  repeat' (first
    | with_reducible assumption | with_reducible apply upPart_same | with_reducible apply askSlot_same | dsimp only
    | split)

theorem maybeSteep_same {ak : State} (s : State) (p n : Nat) (hk : Same ak s) : Same ak (State.maybeSteep s p n) := by
  unfold State.maybeSteep
  repeat' (first
    | with_reducible assumption | with_reducible apply upCtx_same | with_reducible apply fresh_same
    | with_reducible apply leaveSlot_same | dsimp only | split)

theorem sessionSteeping_same {ak : State} (s : State) (p n : Nat) (hk : Same ak s) : Same ak (State.sessionSteeping s p n) := by
  unfold State.sessionSteeping
  repeat' (first
    | with_reducible assumption | with_reducible apply upCtx_same | with_reducible apply maybeSteep_same | simp only [Same.rec1]
    | split)

theorem hintIdle_same {ak : State} (s : State) (p n : Nat) (hk : Same ak s) : Same ak (State.hintIdle s p n) := by
  unfold State.hintIdle
  repeat' (first
    | with_reducible assumption | with_reducible apply upCtx_same | with_reducible apply serve_same | split)

theorem restoreSaved_same {ak : State} (s : State) (oid b : Nat) (hk : Same ak s) : Same ak (State.restoreSaved s oid b).1 := by
  unfold State.restoreSaved
  repeat' (first
    | with_reducible assumption | with_reducible apply upOrder_same
    | (with_reducible apply readHeader_same2; with_reducible assumption)
    | (with_reducible apply readSaved_same2; with_reducible assumption) | with_reducible apply mergeSaved_same
    | with_reducible apply accRestore_same | dsimp only | split | (with_reducible apply Same.foldl) | (intro _ _ _))
theorem restoreSaved_same2 {ak tk : State} {rk : Bool} {s : State} {oid b : Nat} 
    (ek : State.restoreSaved s oid b = (tk, rk)) (hk : Same ak s) : Same ak tk := by
  have q := restoreSaved_same s oid b hk
  rw [ek] at q; exact q

theorem halt_same {ak : State} (s : State) (c : Ctx) (o : Order) (saved : List (Nat × Nat × Nat)) (hk : Same ak s) :
    Same ak (State.halt s c o saved) := by
  unfold State.halt
  repeat' (first
    | with_reducible assumption | with_reducible apply upOrder_same | with_reducible apply upCtx_same)

theorem saveTiles_same {ak : State} (s : State) (c : Ctx) (o : Order) (hk : Same ak s) : Same ak (State.saveTiles s c o).1 := by
  unfold State.saveTiles
  repeat' (first
    | with_reducible assumption | with_reducible apply upCtx_same | with_reducible apply writeStraight_same
    | (with_reducible apply needPages_same2; with_reducible assumption) | dsimp only | split
    | (with_reducible apply Same.foldl) | (intro _ _ _))
theorem saveTiles_same2 {ak tk : State} {rk : Bool} {s : State} {c : Ctx} {o : Order} 
    (ek : State.saveTiles s c o = (tk, rk)) (hk : Same ak s) : Same ak tk := by
  have q := saveTiles_same s c o hk
  rw [ek] at q; exact q

theorem haltStep_same {ak : State} (s : State) (p n : Nat) (o : Order) (hk : Same ak s) : Same ak (State.haltStep s p n o).1 := by
  unfold State.haltStep
  repeat' (first
    | with_reducible assumption | (with_reducible apply backStreams_same2; with_reducible assumption)
    | (with_reducible apply restoreSaved_same2; with_reducible assumption) | with_reducible apply halt_same
    | (with_reducible apply saveTiles_same2; with_reducible assumption) | dsimp only | split)
theorem haltStep_same2 {ak tk : State} {rk : Bool} {s : State} {p n : Nat} {o : Order} 
    (ek : State.haltStep s p n o = (tk, rk)) (hk : Same ak s) : Same ak tk := by
  have q := haltStep_same s p n o hk
  rw [ek] at q; exact q

theorem freeCtx_same {ak : State} (s : State) (p n : Nat) (hk : Same ak s) : Same ak (State.freeCtx s p n) := by
  unfold State.freeCtx
  repeat' (first
    | with_reducible assumption | with_reducible apply upPart_same | with_reducible apply dropScales_same | simp only [Same.rec1])

theorem dropSlot_same {ak : State} (s : State) (p n : Nat) (hk : Same ak s) : Same ak (s.dropSlot p n) := by
  unfold State.dropSlot
  extract_lets s0 s1 s2
  have h2 : Same ak s2 := dropResidents_same _ _ (upCtx_same _ _ _ _ (Same.ite (countSess_same _ _ _ _ _ hk) hk))
  clear_value s2
  exact h2.lens rfl rfl rfl (by simp) rfl rfl
    List.prefix_rfl (tagsOk_of_eq rfl rfl (Nat.le_refl _)) rfl rfl

theorem releaseIf_same {ak : State} (s : State) (p n : Nat) (hk : Same ak s) : Same ak (State.releaseIf s p n) := by
  unfold State.releaseIf
  repeat' (first
    | with_reducible assumption | with_reducible apply leaveSlot_same | with_reducible apply freeCtx_same | split)

theorem backOthers_same {ak : State} (s : State) (p n keep : Nat) (hk : Same ak s) : Same ak (State.backOthers s p n keep).1 := by
  unfold State.backOthers
  repeat' (first
    | with_reducible assumption | with_reducible apply backStreams_same | dsimp only | split
    | (with_reducible apply Same.foldlP) | (intro _ _ _))
theorem backOthers_same2 {ak tk : State} {rk : Bool} {s : State} {p n keep : Nat} 
    (ek : State.backOthers s p n keep = (tk, rk)) (hk : Same ak s) : Same ak tk := by
  have q := backOthers_same s p n keep hk
  rw [ek] at q; exact q

theorem rewindOthers_same {ak : State} (s : State) (p n keep : Nat) (hk : Same ak s) : Same ak (State.rewindOthers s p n keep) := by
  unfold State.rewindOthers
  repeat' (first
    | with_reducible assumption | simp only [Same.rec1])

theorem haltOldest_same {ak : State} (s : State) (p n : Nat) (o : Order) (hk : Same ak s) : Same ak (State.haltOldest s p n o).1 := by
  unfold State.haltOldest
  repeat' (first
    | with_reducible assumption | with_reducible apply haltStep_same
    | (with_reducible apply backOthers_same2; with_reducible assumption) | split)
theorem haltOldest_same2 {ak tk : State} {rk : Bool} {s : State} {p n : Nat} {o : Order} 
    (ek : State.haltOldest s p n o = (tk, rk)) (hk : Same ak s) : Same ak tk := by
  have q := haltOldest_same s p n o hk
  rw [ek] at q; exact q

theorem sessionParked_same {ak : State} (s : State) (p n : Nat) (hk : Same ak s) : Same ak (State.sessionParked s p n) := by
  unfold State.sessionParked
  repeat' (first
    | with_reducible assumption | with_reducible apply upPart_same | with_reducible apply upOrder_same
    | with_reducible apply serve_same | with_reducible apply dropSlot_same | with_reducible apply releaseIf_same
    | with_reducible apply rewindOthers_same | with_reducible apply haltOldest_same | simp only [Same.rec1] | split)

theorem sliceExpire_same {ak : State} (s : State) (p : Nat) (hk : Same ak s) : Same ak (State.sliceExpire s p) := by
  unfold State.sliceExpire
  repeat' (first
    | with_reducible assumption | with_reducible apply leaveSlot_same | dsimp only | split)

theorem drainParks_same {ak : State} (s : State) (hk : Same ak s) : Same ak (State.drainParks s) := by
  unfold State.drainParks
  repeat' (first
    | with_reducible assumption | with_reducible apply leaveSlot_same | split | (with_reducible apply Same.foldl) | (intro _ _ _))

theorem wake_same {ak : State} (s : State) (oid : Nat) (hk : Same ak s) : Same ak (State.wake s oid) := by
  unfold State.wake
  repeat' (first
    | with_reducible assumption | with_reducible apply upPart_same | with_reducible apply endOrder_same
    | with_reducible apply act_same | with_reducible apply wakeNow_same | with_reducible apply serve_same | dsimp only
    | split)

theorem parkOrder_same {ak : State} (s : State) (oid : Nat) (hk : Same ak s) : Same ak (State.parkOrder s oid) := by
  unfold State.parkOrder
  repeat' (first
    | with_reducible assumption | with_reducible apply upOrder_same | with_reducible apply upCtx_same
    | with_reducible apply stopNow_same | with_reducible apply settle_same | with_reducible apply leaveSlot_same
    | with_reducible apply act_same | with_reducible apply releaseIf_same | dsimp only | split
    | (with_reducible apply Same.foldl) | (intro _ _ _))

theorem contextEccError_same {ak : State} (s : State) (p n : Nat) (hk : Same ak s) : Same ak (State.contextEccError s p n) := by
  unfold State.contextEccError
  repeat' (first
    | with_reducible assumption | with_reducible apply upCtx_same | with_reducible apply endOrder_same
    | with_reducible apply serve_same | with_reducible apply dropSlot_same | dsimp only | split
    | (with_reducible apply Same.foldl) | (intro _ _ _))

end Sys2Proof.Machine
end

