-- ==== Sys2Proof/Laws/SameOrders.lean ====
section
/-! SUPPORT. One lemma per operation that gives a state: `Same` holds of what it is given and what it gives. Here:
stacks and migration, orders, clocks, transactions, the Kettle and resets. A passed commit, a die reset and the loss of power change
the live configuration: of them `Kept` holds. -/

namespace Sys2Proof.Machine

set_option Elab.async false

/-! Stacks.lean -/

theorem throttle_same {ak : State} (s : State) (addr v : Nat) (hk : Same ak s) : Same ak (State.throttle s addr v) := by
  unfold State.throttle
  repeat' (first
    | with_reducible assumption | with_reducible apply upWindow_same | with_reducible apply upInts_same
    | with_reducible apply withLevels_same | split | (intro _))

theorem limiterInterval_same {ak : State} (s : State) (e : Nat) (hk : Same ak s) : Same ak (State.limiterInterval s e) := by
  unfold State.limiterInterval
  repeat' (first
    | with_reducible assumption | with_reducible apply upWindow_same | with_reducible apply pump_same)

theorem filterTick_same {ak : State} (s : State) (hk : Same ak s) : Same ak s.filterTick := by
  unfold State.filterTick
  exact Same.lens hk rfl rfl (by simp) rfl (by simp) rfl List.prefix_rfl (tagsOk_of_eq rfl rfl (Nat.le_refl _)) rfl rfl

theorem resetFilters_same {ak : State} (s : State) (p map : Nat) (hk : Same ak s) : Same ak (State.resetFilters s p map) := by
  unfold State.resetFilters
  repeat' (first
    | with_reducible assumption | simp only [Same.rec1])

theorem quitMig_same {ak : State} (s : State) (hk : Same ak s) : Same ak (State.quitMig s) := by
  unfold State.quitMig
  repeat' (first
    | with_reducible assumption | with_reducible apply quitWhere_same)

theorem migCopyRow_same {ak : State} (s : State) (b : Binding) (r : MigRow) (hk : Same ak s) : Same ak (State.migCopyRow s b r) := by
  unfold State.migCopyRow
  repeat' (first
    | with_reducible assumption | with_reducible apply writeStraight_same | with_reducible apply untrack_same
    | (with_reducible apply needLines_same2; with_reducible assumption) | with_reducible apply dropLines_same
    | with_reducible apply witnessBad_same | with_reducible apply upMigRow_same | with_reducible apply dropMigRow_same
    | (with_reducible apply migPages_same2; with_reducible assumption)
    | (with_reducible apply enterRows_same2; with_reducible assumption) | dsimp only | split)

theorem migCopy_same {ak : State} (s : State) (hk : Same ak s) : Same ak (State.migCopy s) := by
  unfold State.migCopy
  repeat' (first
    | with_reducible assumption | with_reducible apply upMig_same | with_reducible apply migCopyRow_same | simp only [Same.rec1]
    | split | (with_reducible apply Same.foldl) | (intro _ _ _))

theorem migDecision_same {ak : State} (s : State) (p map shard : Nat) (hk : Same ak s) : Same ak (State.migDecision s p map shard) := by
  unfold State.migDecision
  repeat' (first
    | with_reducible assumption | with_reducible apply upPart_same | with_reducible apply fresh_same
    | with_reducible apply event_same | with_reducible apply migCopy_same | simp only [Same.rec1] | split)

theorem migAccept_same {ak : State} (s : State) (p map shard : Nat) (hk : Same ak s) : Same ak (State.migAccept s p map shard) := by
  unfold State.migAccept
  repeat' (first
    | with_reducible assumption | with_reducible apply upPart_same)

theorem poolFail_same {ak : State} (s : State) (p : Nat) (hk : Same ak s) : Same ak (State.poolFail s p) := by
  unfold State.poolFail
  repeat' (first
    | with_reducible assumption | with_reducible apply upPart_same | with_reducible apply quitReads_same
    | with_reducible apply clearSkips_same)

theorem poolStep_same {ak : State} (s : State) (p : Nat) (hk : Same ak s) : Same ak (State.poolStep s p) := by
  unfold State.poolStep
  repeat' (first
    | with_reducible assumption | with_reducible apply upPart_same | with_reducible apply quitReads_same
    | (with_reducible apply xlate_same2; with_reducible assumption)
    | (with_reducible apply needLines_same2; with_reducible assumption) | with_reducible apply poolFail_same
    | dsimp only | split)

theorem migPoolLo_same {ak : State} (s : State) (p v : Nat) (hk : Same ak s) : Same ak (State.migPoolLo s p v) := by
  unfold State.migPoolLo
  repeat' (first
    | with_reducible assumption | with_reducible apply upPart_same | with_reducible apply quitReads_same
    | with_reducible apply poolStep_same | dsimp only | split)

theorem migPoolHi_same {ak : State} (s : State) (p v : Nat) (hk : Same ak s) : Same ak (State.migPoolHi s p v) := by
  unfold State.migPoolHi
  repeat' (first
    | with_reducible assumption | with_reducible apply upPart_same)

theorem migClearRow_same {ak : State} (s : State) (b : Binding) (pStack : Nat) (r : MigRow) (hk : Same ak s) :
    Same ak (State.migClearRow s b pStack r) := by
  unfold State.migClearRow
  repeat' (first
    | with_reducible assumption | with_reducible apply clearSkips_same | with_reducible apply writeStraight_same
    | with_reducible apply untrack_same | (with_reducible apply needLines_same2; with_reducible assumption)
    | with_reducible apply dropLines_same | (with_reducible apply kettlePages_same2; with_reducible assumption)
    | with_reducible apply upMigRow_same | with_reducible apply forgetMigRow_same | with_reducible apply enterRows_same
    | dsimp only | split | (with_reducible apply Same.foldl) | (intro _ _ _))

theorem migRelease_same {ak : State} (s : State) (hk : Same ak s) : Same ak (State.migRelease s) := by
  unfold State.migRelease
  repeat' (first
    | with_reducible assumption | with_reducible apply event_same | with_reducible apply migClearRow_same | simp only [Same.rec1]
    | split | (with_reducible apply Same.foldl) | (intro _ _ _))

theorem dropKettleTxn_same {ak : State} (s : State) (hk : Same ak s) : Same ak (State.dropKettleTxn s) := by
  unfold State.dropKettleTxn
  repeat' (first
    | with_reducible assumption | with_reducible apply upTxn_same | split)

theorem abandonMig_same {ak : State} (s : State) (hk : Same ak s) : Same ak (State.abandonMig s) := by
  unfold State.abandonMig
  repeat' (first
    | with_reducible assumption | with_reducible apply upMig_same | with_reducible apply untrack_same
    | with_reducible apply quitMig_same | with_reducible apply dropKettleTxn_same | dsimp only | split
    | (with_reducible apply Same.foldl) | (intro _ _ _))

theorem dropMig_same {ak : State} (s : State) (p : Nat) (hk : Same ak s) : Same ak (State.dropMig s p) := by
  unfold State.dropMig
  repeat' (first
    | with_reducible assumption | with_reducible apply quitMig_same | with_reducible apply dropKettleTxn_same
    | simp only [Same.rec1] | split)

/-! Orders.lean -/

theorem readDescs_same {ak : State} (s : State) (oid : Nat) (ds : List (Nat × Nat)) (hk : Same ak s) :
    Same ak (State.readDescs s oid ds).1 := by
  unfold State.readDescs
  repeat' (first
    | with_reducible assumption | with_reducible apply dropHeld_same | with_reducible apply endOrder_same
    | (with_reducible apply needPages_same2; with_reducible assumption) | with_reducible apply needLines_same
    | dsimp only | split | (with_reducible apply Same.foldlP) | (intro _ _ _))
theorem readDescs_same2 {ak tk : State} {rk : Option (List (Nat × Nat × Nat))} {s : State} {oid : Nat} {ds : List (Nat × Nat)} 
    (ek : State.readDescs s oid ds = (tk, rk)) (hk : Same ak s) : Same ak tk := by
  have q := readDescs_same s oid ds hk
  rw [ek] at q; exact q

theorem pass_same {ak : State} (s : State) (o : Order) (xs : List Stream) (hk : Same ak s) : Same ak (State.pass s o xs) := by
  unfold State.pass
  repeat' (first
    | with_reducible assumption | with_reducible apply upOrder_same | with_reducible apply readRegion_same)

theorem stage2_same {ak : State} (s : State) (oid : Nat) (hk : Same ak s) : Same ak (State.stage2 s oid) := by
  unfold State.stage2
  repeat' (first
    | with_reducible assumption | with_reducible apply endOrder_same | with_reducible apply orderEvent_same
    | (with_reducible apply readDescs_same2; with_reducible assumption) | with_reducible apply pass_same | dsimp only
    | split)

theorem takeOrder_same {ak : State} (s : State) (p q : Nat) (bytes : Line) (hk : Same ak s) : Same ak (State.takeOrder s p q bytes) := by
  unfold State.takeOrder
  repeat' (first
    | with_reducible assumption | with_reducible apply upPart_same | with_reducible apply upCtx_same
    | with_reducible apply fresh_same | with_reducible apply quitReads_same | with_reducible apply stage2_same
    | simp only [Same.rec1])

theorem fetchEntry_same {ak : State} (s : State) (p q : Nat) (hk : Same ak s) : Same ak (State.fetchEntry s p q) := by
  unfold State.fetchEntry
  repeat' (first
    | with_reducible assumption | with_reducible apply quitReads_same | with_reducible apply ask_same
    | (with_reducible apply xlate_same2; with_reducible assumption) | with_reducible apply ringError_same
    | with_reducible apply takeOrder_same | dsimp only | split)

theorem orderFetch_same {ak : State} (s : State) (p q : Nat) (hk : Same ak s) : Same ak (State.orderFetch s p q) := by
  unfold State.orderFetch
  repeat' (first
    | with_reducible assumption | with_reducible apply stage2_same | with_reducible apply fetchEntry_same | split)

theorem shadowPage_same {ak : State} (s : State) (oid : Nat) (a : Access) (tile field : Nat) (hk : Same ak s) :
    Same ak (State.shadowPage s oid a tile field).1 := by
  unfold State.shadowPage
  repeat' (first
    | with_reducible assumption | with_reducible apply upOrder_same
    | (with_reducible apply pageFor_same2; with_reducible assumption) | with_reducible apply findFault_same
    | dsimp only | split)
theorem shadowPage_same2 {ak tk : State} {rk : Need} {s : State} {oid : Nat} {a : Access} {tile field : Nat} 
    (ek : State.shadowPage s oid a tile field = (tk, rk)) (hk : Same ak s) : Same ak tk := by
  have q := shadowPage_same s oid a tile field hk
  rw [ek] at q; exact q

theorem shadowSpan_same {ak : State} (s : State) (oid : Nat) (a : Access) (page stop : Nat) (z0 : Nat) (hk : Same ak s) :
    Same ak (State.shadowSpan s oid a page stop z0).1 := by
  induction z0 generalizing s page with
  | zero => exact hk
  | succ n ih =>
  unfold State.shadowSpan
  repeat' (first
    | with_reducible apply ih | with_reducible assumption | (with_reducible apply shadowPage_same2; with_reducible assumption)
    | with_reducible apply shadowPage_same | dsimp only | split)
theorem shadowSpan_same2 {ak tk : State} {rk : Need} {s : State} {oid : Nat} {a : Access} {page stop : Nat} {z0 : Nat}
    (ek : State.shadowSpan s oid a page stop z0 = (tk, rk)) (hk : Same ak s) : Same ak tk := by
  have q := shadowSpan_same s oid a page stop z0 hk
  rw [ek] at q; exact q

theorem stage3Pages_same {ak : State} (s : State) (oid : Nat) (hk : Same ak s) : Same ak (State.stage3Pages s oid).1 := by
  unfold State.stage3Pages
  repeat' (first
    | with_reducible assumption | with_reducible apply backPage_same | with_reducible apply shadowPage_same
    | with_reducible apply shadowSpan_same | dsimp only | split | (with_reducible apply Same.foldlP) | (intro _ _ _))
theorem stage3Pages_same2 {ak tk : State} {rk : Need} {s : State} {oid : Nat} 
    (ek : State.stage3Pages s oid = (tk, rk)) (hk : Same ak s) : Same ak tk := by
  have q := stage3Pages_same s oid hk
  rw [ek] at q; exact q

theorem haveSlot_same {ak : State} (s : State) (o : Order) (hk : Same ak s) : Same ak (State.haveSlot s o).1 := by
  unfold State.haveSlot
  repeat' (first
    | with_reducible assumption | with_reducible apply askSlot_same | dsimp only | split)
theorem haveSlot_same2 {ak tk : State} {rk : Bool} {s : State} {o : Order} 
    (ek : State.haveSlot s o = (tk, rk)) (hk : Same ak s) : Same ak tk := by
  have q := haveSlot_same s o hk
  rw [ek] at q; exact q

theorem stage3Queries_same {ak : State} (s : State) (oid : Nat) (hk : Same ak s) : Same ak (State.stage3Queries s oid).1 := by
  unfold State.stage3Queries
  repeat' (first
    | with_reducible assumption | with_reducible apply readQueries_same | dsimp only | split
    | (with_reducible apply Same.foldlP) | (intro _ _ _))
theorem stage3Queries_same2 {ak tk : State} {rk : Need} {s : State} {oid : Nat} 
    (ek : State.stage3Queries s oid = (tk, rk)) (hk : Same ak s) : Same ak tk := by
  have q := stage3Queries_same s oid hk
  rw [ek] at q; exact q

theorem startRun_same {ak : State} (s : State) (oid : Nat) (hk : Same ak s) : Same ak (State.startRun s oid) := by
  unfold State.startRun
  repeat' (first
    | with_reducible assumption | with_reducible apply upOrder_same | with_reducible apply upCtx_same
    | with_reducible apply maybeSteep_same | split)

theorem stage3_same {ak : State} (s : State) (oid : Nat) (hk : Same ak s) : Same ak (State.stage3 s oid) := by
  unfold State.stage3
  repeat' (first
    | with_reducible assumption | with_reducible apply upOrder_same | with_reducible apply endOrder_same
    | (with_reducible apply stage3Pages_same2; with_reducible assumption) | with_reducible apply haveSlot_same
    | (with_reducible apply stage3Queries_same2; with_reducible assumption) | with_reducible apply startRun_same
    | dsimp only | split)

theorem pinAgain_same {ak : State} (s : State) (o : Order) (hk : Same ak s) : Same ak (State.pinAgain s o).1 := by
  unfold State.pinAgain
  repeat' (first
    | with_reducible assumption | with_reducible apply upOrder_same | with_reducible apply endOrder_same | dsimp only
    | split)
theorem pinAgain_same2 {ak tk : State} {rk : Bool} {s : State} {o : Order} 
    (ek : State.pinAgain s o = (tk, rk)) (hk : Same ak s) : Same ak tk := by
  have q := pinAgain_same s o hk
  rw [ek] at q; exact q

theorem enter_same {ak : State} (s : State) (oid : Nat) (hk : Same ak s) : Same ak (State.enter s oid) := by
  unfold State.enter
  repeat' (first
    | with_reducible assumption | with_reducible apply upOrder_same | with_reducible apply endOrder_same
    | with_reducible apply haveSlot_same | with_reducible apply stage3_same | dsimp only | split)

theorem orderProceed_same {ak : State} (s : State) (oid : Nat) (hk : Same ak s) : Same ak (State.orderProceed s oid) := by
  unfold State.orderProceed
  repeat' (first
    | with_reducible assumption | with_reducible apply upOrder_same | with_reducible apply stage3_same
    | (with_reducible apply pinAgain_same2; with_reducible assumption) | with_reducible apply enter_same | split)

theorem fence_same {ak : State} (s : State) (oid : Nat) (hk : Same ak s) : Same ak (State.fence s oid) := by
  unfold State.fence
  repeat' (first
    | with_reducible assumption | with_reducible apply upOrder_same | with_reducible apply act_same | split)

theorem clearStats_same {ak : State} (s : State) (o : Order) (hk : Same ak s) : Same ak (State.clearStats s o) := by
  unfold State.clearStats
  repeat' (first
    | with_reducible assumption | with_reducible apply upPart_same | split)

theorem readStats_same {ak : State} (s : State) (oid : Nat) (hk : Same ak s) : Same ak (State.readStats s oid) := by
  unfold State.readStats
  repeat' (first
    | with_reducible assumption | with_reducible apply upOrder_same | with_reducible apply endOrder_same
    | with_reducible apply writeStraight_same | (with_reducible apply needPages_same2; with_reducible assumption)
    | with_reducible apply act_same | with_reducible apply clearStats_same | dsimp only | split)

theorem pauseBinding_same {ak : State} (s : State) (p n : Nat) (hk : Same ak s) : Same ak (State.pauseBinding s p n) := by
  unfold State.pauseBinding
  repeat' (first
    | with_reducible assumption | with_reducible apply upPart_same | simp only [Same.rec1] | split)

theorem pauseDone_same {ak : State} (s : State) (p n : Nat) (hk : Same ak s) : Same ak (State.pauseDone s p n) := by
  unfold State.pauseDone
  repeat' (first
    | with_reducible assumption | with_reducible apply upPart_same | with_reducible apply dropResidents_same)

theorem tablePause_same {ak : State} (s : State) (oid : Nat) (hk : Same ak s) : Same ak (State.tablePause s oid) := by
  unfold State.tablePause
  repeat' (first
    | with_reducible assumption | with_reducible apply upOrder_same | with_reducible apply act_same
    | with_reducible apply abandonMig_same | with_reducible apply pauseBinding_same | dsimp only | split)

theorem tableResume_same {ak : State} (s : State) (oid : Nat) (hk : Same ak s) : Same ak (State.tableResume s oid) := by
  unfold State.tableResume
  repeat' (first
    | with_reducible assumption | with_reducible apply upPart_same | with_reducible apply act_same | split)

theorem discardFrom_same {ak : State} (s : State) (oid t : Nat) (hk : Same ak s) : Same ak (State.discardFrom s oid t) := by
  unfold State.discardFrom
  repeat' (first
    | with_reducible assumption | with_reducible apply upOrder_same | with_reducible apply quitWhere_same | dsimp only
    | split)

theorem faultRecord_same {ak : State} (s : State) (oid : Nat) (hk : Same ak s) : Same ak (State.faultRecord s oid) := by
  unfold State.faultRecord
  repeat' (first
    | with_reducible assumption | with_reducible apply upPart_same | with_reducible apply upOrder_same
    | with_reducible apply countPart_same | with_reducible apply countSess_same | with_reducible apply queueRecord_same
    | with_reducible apply discardFrom_same | dsimp only | split)

theorem streamQuiesce_same {ak : State} (s : State) (oid : Nat) (hk : Same ak s) : Same ak (State.streamQuiesce s oid) := by
  unfold State.streamQuiesce
  repeat' (first
    | with_reducible assumption | with_reducible apply upOrder_same
    | (with_reducible apply backStream_same2; with_reducible assumption) | split | (with_reducible apply Same.foldl)
    | (intro _ _ _))

theorem takeFault_same {ak : State} (s : State) (p id : Nat) (hk : Same ak s) : Same ak (State.takeFault s p id).1 := by
  unfold State.takeFault
  repeat' (first
    | with_reducible assumption | with_reducible apply upPart_same | split)
theorem takeFault_same2 {ak tk : State} {rk : Option Nat} {s : State} {p id : Nat} 
    (ek : State.takeFault s p id = (tk, rk)) (hk : Same ak s) : Same ak tk := by
  have q := takeFault_same s p id hk
  rw [ek] at q; exact q

theorem faultResume_same {ak : State} (s : State) (p id : Nat) (hk : Same ak s) : Same ak (State.faultResume s p id) := by
  unfold State.faultResume
  repeat' (first
    | with_reducible assumption | with_reducible apply upOrder_same | with_reducible apply quitReads_same
    | with_reducible apply dropPage_same | with_reducible apply askSlot_same | with_reducible apply discardFrom_same
    | (with_reducible apply takeFault_same2; with_reducible assumption) | dsimp only | split)

theorem faultAbort_same {ak : State} (s : State) (p id : Nat) (hk : Same ak s) : Same ak (State.faultAbort s p id) := by
  unfold State.faultAbort
  repeat' (first
    | with_reducible assumption | with_reducible apply upOrder_same | with_reducible apply endOrder_same
    | with_reducible apply settle_same | (with_reducible apply takeFault_same2; with_reducible assumption) | dsimp only
    | split)

theorem endStreams_same {ak : State} (s : State) (o : Order) (hk : Same ak s) : Same ak (State.endStreams s o) := by
  unfold State.endStreams
  repeat' (first
    | with_reducible assumption | with_reducible apply upPart_same | with_reducible apply upOrder_same
    | (with_reducible apply backStream_same2; with_reducible assumption) | dsimp only | split
    | (with_reducible apply Same.foldl) | (intro _ _ _))

theorem pumpOrphans_same {ak : State} (s : State) (p : Nat) (hk : Same ak s) : Same ak (State.pumpOrphans s p) := by
  unfold State.pumpOrphans
  repeat' (first
    | with_reducible assumption | with_reducible apply upPart_same | (with_reducible apply xlate_same2; with_reducible assumption)
    | with_reducible apply writeBack_same | split | (with_reducible apply Same.foldl) | (intro _ _ _))

theorem holdOrphans_same {ak : State} (s : State) (o : Order) (hk : Same ak s) : Same ak (State.holdOrphans s o) := by
  unfold State.holdOrphans
  repeat' (first
    | with_reducible assumption | with_reducible apply upPart_same | split)

theorem removeOrder_same {ak : State} (s : State) (o : Order) (hk : Same ak s) : Same ak (State.removeOrder s o) := by
  unfold State.removeOrder
  repeat' (first
    | with_reducible assumption | with_reducible apply clearSkips_same | with_reducible apply dropOrderReads_same
    | dsimp only | (simp; done) | (with_reducible apply Same.recB))

theorem freeOrder_same {ak : State} (s : State) (o : Order) (hk : Same ak s) : Same ak (State.freeOrder s o) := by
  unfold State.freeOrder
  repeat' (first
    | with_reducible assumption | with_reducible apply upPart_same | with_reducible apply removeOrder_same)

theorem sessionDone_same {ak : State} (s : State) (o : Order) (st : Nat) (hk : Same ak s) : Same ak (State.sessionDone s o st) := by
  unfold State.sessionDone
  repeat' (first
    | with_reducible assumption | with_reducible apply upCtx_same | with_reducible apply fresh_same
    | with_reducible apply countSess_same | with_reducible apply serve_same | with_reducible apply maybeSteep_same
    | with_reducible apply releaseIf_same | with_reducible apply drainParks_same | dsimp only | split)

theorem complete_same {ak : State} (s : State) (oid : Nat) (hk : Same ak s) : Same ak (State.complete s oid) := by
  unfold State.complete
  repeat' (first
    | with_reducible assumption | with_reducible apply upPart_same | with_reducible apply countPart_same
    | with_reducible apply queueRecord_same | with_reducible apply checkTiles_same | with_reducible apply finishScale_same
    | with_reducible apply pauseDone_same | with_reducible apply holdOrphans_same | with_reducible apply freeOrder_same
    | with_reducible apply sessionDone_same | dsimp only | split)

theorem orderComplete_same {ak : State} (s : State) (oid : Nat) (hk : Same ak s) : Same ak (State.orderComplete s oid) := by
  unfold State.orderComplete
  repeat' (first
    | with_reducible assumption | with_reducible apply flushOrder_same | with_reducible apply endStreams_same
    | with_reducible apply complete_same | dsimp only | split)

/-! Clocks.lean -/

theorem Clk.xaGone_count (osc : Bool) (c : Clk) : (c.xaGone osc).count = c.count := by
  unfold Clk.xaGone Clk.hang
  dsimp only
  repeat' split
  all_goals rfl
theorem Clk.setSrc_count (d x : Nat) (c : Clk) : (c.setSrc d x).count = c.count := by
  unfold Clk.setSrc
  split <;> rfl

theorem trainFace_same {ak : State} (s : State) (f : Nat) (hk : Same ak s) : Same ak (State.trainFace s f) := by
  unfold State.trainFace
  repeat' (first
    | with_reducible assumption | with_reducible apply upFace_same | dsimp only | (intro _) | (simp; done))

theorem pwrGoodHigh_same {ak : State} (s : State) (hk : Same ak s) : Same ak (State.pwrGoodHigh s) := by
  unfold State.pwrGoodHigh
  repeat' (first
    | with_reducible assumption | with_reducible apply upClk_same | exact fun _ => rfl | simp only [Same.rec1] | split)

theorem afterPowerOff_kept (s : State) : Kept s s.afterPowerOff :=
  ⟨rfl, rfl, fun _ => ⟨rfl, rfl, rfl, rfl⟩, List.prefix_rfl, fun _ => tagsOk_empty rfl rfl⟩

theorem pwrGoodLow_kept (s : State) : Kept s s.pwrGoodLow := by
  unfold State.pwrGoodLow
  split
  · exact afterPowerOff_kept s
  · exact Kept.refl s

theorem xaOscillation_same {ak : State} (s : State) (hk : Same ak s) : Same ak (State.xaOscillation s) := by
  unfold State.xaOscillation
  repeat' (first
    | with_reducible assumption | with_reducible apply upClk_same | exact fun _ => rfl | split)

theorem xaWindow_same {ak : State} (s : State) (n : Nat) (hk : Same ak s) : Same ak (State.xaWindow s n) := by
  unfold State.xaWindow
  repeat' (first
    | with_reducible assumption | with_reducible apply upClk_same | exact fun _ => rfl | exact Clk.xaGone_count _ | split)

theorem xaEdgeTimeout_same {ak : State} (s : State) (hk : Same ak s) : Same ak (State.xaEdgeTimeout s) := by
  unfold State.xaEdgeTimeout
  repeat' (first
    | with_reducible assumption | with_reducible apply upClk_same | exact fun _ => rfl | exact Clk.xaGone_count _ | split)

theorem xaFailTimeout_same {ak : State} (s : State) (hk : Same ak s) : Same ak (State.xaFailTimeout s) := by
  unfold State.xaFailTimeout
  repeat' (first
    | with_reducible assumption | with_reducible apply upClk_same | exact fun _ => rfl | with_reducible apply trainFace_same | dsimp only
    | split)

theorem xtalStableCount_same {ak : State} (s : State) (xb : Bool) (hk : Same ak s) : Same ak (State.xtalStableCount s xb) := by
  unfold State.xtalStableCount
  repeat' (first
    | with_reducible assumption | with_reducible apply upClk_same | exact fun _ => rfl | split)

theorem xtalAmplitudeLost_same {ak : State} (s : State) (xb : Bool) (hk : Same ak s) : Same ak (State.xtalAmplitudeLost s xb) := by
  unfold State.xtalAmplitudeLost
  repeat' (first
    | with_reducible assumption | with_reducible apply upClk_same | exact fun _ => rfl | (intro c; split <;> (try split) <;> rfl) | exact Clk.xaGone_count _ | dsimp only | split)

theorem endStep2_same {ak : State} (s : State) (hk : Same ak s) : Same ak (State.endStep2 s) := by
  unfold State.endStep2
  repeat' (first
    | with_reducible assumption | with_reducible apply upClk_same | exact fun _ => rfl | with_reducible apply trainFace_same | split)

theorem loopLock_same {ak : State} (s : State) (loop : Nat) (hk : Same ak s) : Same ak (State.loopLock s loop) := by
  unfold State.loopLock
  repeat' (first
    | with_reducible assumption | with_reducible apply upClk_same | exact fun _ => rfl | with_reducible apply endStep2_same | dsimp only
    | split)

theorem loopLockLost_same {ak : State} (s : State) (loop : Nat) (hk : Same ak s) : Same ak (State.loopLockLost s loop) := by
  unfold State.loopLockLost
  repeat' (first
    | with_reducible assumption | with_reducible apply upClk_same | exact fun _ => rfl | split)

theorem switchForced_same {ak : State} (s : State) (domain : Nat) (hk : Same ak s) : Same ak (State.switchForced s domain) := by
  unfold State.switchForced
  repeat' (first
    | with_reducible assumption | with_reducible apply upClk_same | exact fun _ => rfl | exact Clk.setSrc_count _ _ | with_reducible apply dieEvent_same | dsimp only
    | split)

/-! Txn.lean -/

theorem txnRefuse_same {ak : State} (s : State) (p reason : Nat) (hk : Same ak s) : Same ak (State.txnRefuse s p reason) := by
  unfold State.txnRefuse
  repeat' (first
    | with_reducible assumption | with_reducible apply upPart_same)

theorem txnDone_same {ak : State} (s : State) (p command reason sect : Nat) (hk : Same ak s) :
    Same ak (State.txnDone s p command reason sect) := by
  unfold State.txnDone
  repeat' (first
    | with_reducible assumption | with_reducible apply upPart_same | with_reducible apply event_same)

theorem txnBegin_same {ak : State} (s : State) (p : Nat) (hk : Same ak s) : Same ak (State.txnBegin s p) := by
  unfold State.txnBegin
  repeat' (first
    | with_reducible assumption | with_reducible apply upCfg_same | with_reducible apply txnRefuse_same | dsimp only
    | split)

theorem endStageReads_same {ak : State} (s : State) (hk : Same ak s) : Same ak (State.endStageReads s) := by
  unfold State.endStageReads
  repeat' (first
    | with_reducible assumption | with_reducible apply quitReads_same)

theorem askStage_same {ak : State} (s : State) (hk : Same ak s) : Same ak (State.askStage s) := by
  unfold State.askStage
  repeat' (first
    | with_reducible assumption | with_reducible apply ask_same)

theorem txnStage_same {ak : State} (s : State) (p : Nat) (hk : Same ak s) : Same ak (State.txnStage s p) := by
  unfold State.txnStage
  repeat' (first
    | with_reducible assumption | with_reducible apply upTxn_same | with_reducible apply txnRefuse_same
    | with_reducible apply askStage_same | dsimp only | split)

theorem stageDone_same {ak : State} (s : State) (hk : Same ak s) : Same ak (State.stageDone s) := by
  unfold State.stageDone
  repeat' (first
    | with_reducible assumption | with_reducible apply upTxn_same | with_reducible apply txnDone_same
    | with_reducible apply endStageReads_same | with_reducible apply askStage_same | dsimp only | split)

theorem txnCommit_same {ak : State} (s : State) (p : Nat) (hk : Same ak s) : Same ak (State.txnCommit s p) := by
  unfold State.txnCommit
  repeat' (first
    | with_reducible assumption | with_reducible apply upTxn_same | with_reducible apply txnRefuse_same | split)

theorem txnEnd_same {ak : State} (s : State) (hk : Same ak s) : Same ak (State.txnEnd s) := by
  unfold State.txnEnd
  repeat' (first
    | with_reducible assumption | with_reducible apply upTxn_same | with_reducible apply endStageReads_same)

theorem txnRollback_same {ak : State} (s : State) (p : Nat) (hk : Same ak s) : Same ak (State.txnRollback s p) := by
  unfold State.txnRollback
  repeat' (first
    | with_reducible assumption | with_reducible apply txnRefuse_same | with_reducible apply txnDone_same
    | with_reducible apply txnEnd_same | split)

theorem txnExpired_same {ak : State} (s : State) (hk : Same ak s) : Same ak (State.txnExpired s) := by
  unfold State.txnExpired
  repeat' (first
    | with_reducible assumption | with_reducible apply event_same | with_reducible apply txnEnd_same | split)

theorem txnCommand_same {ak : State} (s : State) (p cmd : Nat) (hk : Same ak s) : Same ak (State.txnCommand s p cmd) := by
  unfold State.txnCommand
  repeat' (first
    | with_reducible assumption | with_reducible apply txnBegin_same | with_reducible apply txnStage_same
    | with_reducible apply txnCommit_same | with_reducible apply txnRollback_same | split)

theorem retire_same {ak : State} (s : State) (hk : Same ak s) : Same ak (State.retire s) := by
  unfold State.retire
  repeat' (first
    | with_reducible assumption | with_reducible apply upCfg_same | dsimp only)

theorem moveWarming_same {ak : State} (s : State) (p : Nat) (hk : Same ak s) : Same ak (State.moveWarming s p) := by
  unfold State.moveWarming
  repeat' (first
    | with_reducible assumption | with_reducible apply upCtx_same | with_reducible apply powerUp_same
    | with_reducible apply dropSlot_same | dsimp only | split | (with_reducible apply Same.foldl) | (intro _ _ _))

theorem switchPart_same {ak : State} (s : State) (old new : List Sec) (p : Nat) (hk : Same ak s) :
    Same ak (State.switchPart s old new p) := by
  unfold State.switchPart
  repeat' (first
    | with_reducible assumption | with_reducible apply upPart_same | with_reducible apply upBench_same
    | with_reducible apply clearTags_same | with_reducible apply moveWarming_same | dsimp only | split
    | (with_reducible apply Same.foldl) | (intro _ _ _))

theorem firstCommit_same {ak : State} (s : State) (hk : Same ak s) : Same ak (State.firstCommit s) := by
  unfold State.firstCommit
  repeat' (first
    | with_reducible assumption | with_reducible apply upClk_same | exact fun _ => rfl | with_reducible apply upKettle_same
    | with_reducible apply upDrain_same | with_reducible apply dieEvent_same | with_reducible apply trainFace_same
    | dsimp only | split | (with_reducible apply Same.foldl) | (intro _ _ _))

theorem switchDrop_same {ak : State} (s : State) (hk : Same ak s) : Same ak (State.switchDrop s) := by
  unfold State.switchDrop
  repeat' (first
    | with_reducible assumption | with_reducible apply dropScales_same | with_reducible apply dropResidents_same
    | with_reducible apply dropCached_same | simp only [Same.rec1] | (with_reducible apply Same.foldl) | (intro _ _ _))

theorem install_kept (s : State) : Kept s s.install :=
  ⟨rfl, rfl, fun x => ⟨x.1, x.2.1, by simp [State.install, keepWindows], x.2.2.2⟩, List.prefix_rfl, tagsOk_of_eq rfl rfl (Nat.le_refl _)⟩

theorem afterInstall_same {ak : State} (s : State) (old : List Sec) (first : Bool) (hk : Same ak s) :
    Same ak (State.afterInstall s old first) := by
  unfold State.afterInstall
  repeat' (first
    | with_reducible assumption | with_reducible apply upPart_same | with_reducible apply upClk_same | exact fun _ => rfl
    | with_reducible apply upMig_same | with_reducible apply trimShares_same | with_reducible apply serve_same
    | with_reducible apply resetFilters_same | with_reducible apply retire_same | with_reducible apply switchPart_same
    | with_reducible apply firstCommit_same | dsimp only | split | (with_reducible apply Same.foldl) | (intro _ _ _))

theorem switchOver_kept (s : State) : Kept s s.switchOver := by
  unfold State.switchOver State.withLevels
  refine ((switchDrop_same s (Same.refl s)).toKept.trans ?_).trans (afterInstall_same _ _ _ (Same.refl _)).toKept
  exact (install_kept _).trans (Same.foldl (Same.refl _) (fun s e h => slowed_same _ _ _ h)).toKept

theorem advanceSwitch_kept (s : State) : Kept s s.advanceSwitch := by
  unfold State.advanceSwitch
  dsimp only
  split
  · exact Kept.refl s
  split
  · exact Kept.refl s
  · exact switchOver_kept s

theorem validationDone_kept (s : State) : Kept s s.validationDone := by
  unfold State.validationDone
  dsimp only
  split
  · exact Kept.refl s
  split
  · exact (readRegion_same s (Same.refl s)).toKept
  generalize (if s.cfg.txn.failed = true then _ else _ : Nat × Option Nat) = r
  split
  · exact (upTxn_same s _ (Same.refl s)).toKept.trans (advanceSwitch_kept _)
  refine Same.toKept ?_
  repeat' (first | with_reducible exact Same.refl _ | with_reducible apply abandonMig_same | with_reducible apply txnDone_same | with_reducible apply txnEnd_same | split | dsimp only)

theorem switchDone_kept (s : State) : Kept s s.switchDone := by
  unfold State.switchDone
  dsimp only
  refine (advanceSwitch_kept s).trans (Same.toKept ?_)
  repeat' (first | with_reducible exact Same.refl _ | with_reducible apply txnDone_same | with_reducible apply txnEnd_same | split | dsimp only)

theorem epochRetire_kept (s : State) : Kept s s.epochRetire :=
  (retire_same s (Same.refl s)).toKept.trans (advanceSwitch_kept _)

theorem migrateSwitch_same {ak : State} (s : State) (hk : Same ak s) : Same ak (State.migrateSwitch s) := by
  unfold State.migrateSwitch
  repeat' (first
    | with_reducible assumption | with_reducible apply upTxn_same | with_reducible apply abandonMig_same | dsimp only
    | split)

/-! Kettle.lean -/

theorem upWear_same {ak : State} (s : State) (f : Wear → Wear) (hk : Same ak s) : Same ak (State.upWear s f) := by
  unfold State.upWear
  repeat' (first
    | with_reducible assumption | simp only [Same.rec1])

theorem gauge_same {ak : State} (s : State) (hk : Same ak s) : Same ak (State.gauge s) := by
  unfold State.gauge
  repeat' (first
    | with_reducible assumption | with_reducible apply upWear_same)

theorem writeDeferred_same {ak : State} (s : State) (hk : Same ak s) : Same ak s.writeDeferred := by
  unfold State.writeDeferred
  split
  · exact hk
  · exact Same.lens hk rfl rfl rfl rfl rfl rfl (List.prefix_append _ _) (tagsOk_of_eq rfl rfl (Nat.le_refl _)) rfl rfl

theorem wearRecord_same {ak : State} (s : State) (readings : List (List Nat)) (hk : Same ak s) : Same ak (State.wearRecord s readings) := by
  unfold State.wearRecord
  repeat' (first
    | with_reducible assumption | with_reducible apply upWear_same | dsimp only | split)

theorem thermalCycle_same {ak : State} (s : State) (hk : Same ak s) : Same ak (State.thermalCycle s) := by
  unfold State.thermalCycle
  repeat' (first
    | with_reducible assumption | with_reducible apply upKettle_same | with_reducible apply upWear_same | dsimp only
    | split)

theorem thermalTrip_same {ak : State} (s : State) (hk : Same ak s) : Same ak (State.thermalTrip s) := by
  unfold State.thermalTrip
  repeat' (first
    | with_reducible assumption | with_reducible apply upKettle_same | with_reducible apply klog_same
    | with_reducible apply beginReset_same | simp only [Same.rec1])

theorem railStrays_same {ak : State} (s : State) (n mv : Nat) (hk : Same ak s) : Same ak (State.railStrays s n mv) := by
  unfold State.railStrays
  repeat' (first
    | with_reducible assumption | with_reducible apply klog_same | with_reducible apply beginReset_same)

theorem sensorSample_same {ak : State} (s : State) (temps : List Int) (rails : List (Nat × Nat)) (hk : Same ak s) :
    Same ak (State.sensorSample s temps rails) := by
  unfold State.sensorSample
  repeat' (first
    | with_reducible assumption | with_reducible apply upKettle_same | with_reducible apply writeDeferred_same
    | with_reducible apply thermalCycle_same | with_reducible apply thermalTrip_same | with_reducible apply railStrays_same
    | dsimp only | split | (with_reducible apply Same.foldl) | (intro _ _ _))

theorem thermalClear_same {ak : State} (s : State) (hk : Same ak s) : Same ak (State.thermalClear s) := by
  unfold State.thermalClear
  repeat' (first
    | with_reducible assumption | with_reducible apply upKettle_same | split)

theorem kettleTick_same {ak : State} (s : State) (hk : Same ak s) : Same ak (State.kettleTick s) := by
  unfold State.kettleTick
  repeat' (first
    | with_reducible assumption | with_reducible apply filterTick_same | simp only [Same.rec1] | split)

theorem powerGate_same {ak : State} (s : State) (b : Nat) (hk : Same ak s) : Same ak (State.powerGate s b) := by
  unfold State.powerGate
  repeat' (first
    | with_reducible assumption | with_reducible apply upBench_same | with_reducible apply upKettle_same | dsimp only
    | split)

theorem powerUpDone_same {ak : State} (s : State) (b : Nat) (hk : Same ak s) : Same ak (State.powerUpDone s b) := by
  unfold State.powerUpDone
  repeat' (first
    | with_reducible assumption | with_reducible apply upBench_same | with_reducible apply upKettle_same | dsimp only
    | split)

theorem startDrain_same {ak : State} (s : State) (cause : Nat) (hk : Same ak s) : Same ak (State.startDrain s cause) := by
  unfold State.startDrain
  repeat' (first
    | with_reducible assumption | with_reducible apply upDrain_same | with_reducible apply dieEvent_same
    | with_reducible apply drainParks_same | simp only [Same.rec1] | split)

theorem cancelDrain_same {ak : State} (s : State) (hk : Same ak s) : Same ak (State.cancelDrain s) := by
  unfold State.cancelDrain
  repeat' (first
    | with_reducible assumption | with_reducible apply upDrain_same | simp only [Same.rec1] | split)

theorem ackDrain_same {ak : State} (s : State) (hk : Same ak s) : Same ak (State.ackDrain s) := by
  unfold State.ackDrain
  repeat' (first
    | with_reducible assumption | with_reducible apply upDrain_same)

theorem drainDone_same {ak : State} (s : State) (hk : Same ak s) : Same ak (State.drainDone s) := by
  unfold State.drainDone
  repeat' (first
    | with_reducible assumption | with_reducible apply upDrain_same | with_reducible apply dieEvent_same
    | with_reducible apply drainParks_same | dsimp only | split)

theorem blueTimeout_same {ak : State} (s : State) (hk : Same ak s) : Same ak (State.blueTimeout s) := by
  unfold State.blueTimeout
  repeat' (first
    | with_reducible assumption | with_reducible apply upDrain_same | dsimp only | split)

theorem benchSession_same {ak : State} (s : State) (b : Nat) (c : Ctx) (hk : Same ak s) : Same ak (State.benchSession s b c) := by
  unfold State.benchSession
  repeat' (first
    | with_reducible assumption | with_reducible apply upCtx_same | with_reducible apply endOrder_same
    | with_reducible apply dropSlot_same | with_reducible apply releaseIf_same | with_reducible apply rewindOthers_same
    | (with_reducible apply Same.foldl) | (intro _ _ _))

theorem flushWc_same {ak : State} (s : State) (b : Nat) (hk : Same ak s) : Same ak (State.flushWc s b) := by
  unfold State.flushWc
  repeat' (first
    | with_reducible assumption | with_reducible apply flushEntry_same | (with_reducible apply Same.foldl) | (intro _ _ _))

theorem resetBench_same {ak : State} (s : State) (b : Nat) (hk : Same ak s) : Same ak (State.resetBench s b) := by
  unfold State.resetBench
  repeat' (first
    | with_reducible assumption | with_reducible apply upBench_same | with_reducible apply endOrder_same
    | with_reducible apply settleEnded_same | with_reducible apply serve_same | with_reducible apply benchSession_same
    | with_reducible apply flushWc_same | simp only [Same.rec1] | (with_reducible apply Same.foldl) | (intro _ _ _))

theorem abortTest_same {ak : State} (s : State) (b : Nat) (hk : Same ak s) : Same ak (State.abortTest s b) := by
  unfold State.abortTest
  repeat' (first
    | with_reducible assumption | with_reducible apply upBench_same | with_reducible apply upClk_same | exact fun _ => rfl
    | with_reducible apply upKettle_same | dsimp only | split)

theorem putReset_same {ak : State} (s : State) (b : Nat) (hk : Same ak s) : Same ak (State.putReset s b) := by
  unfold State.putReset
  repeat' (first
    | with_reducible assumption | with_reducible apply upBench_same | with_reducible apply resetBench_same
    | with_reducible apply abortTest_same)

theorem benchReset_same {ak : State} (s : State) (mask : Nat) (hk : Same ak s) : Same ak (State.benchReset s mask) := by
  unfold State.benchReset
  repeat' (first
    | with_reducible assumption | with_reducible apply putReset_same | split | (with_reducible apply Same.foldl))

theorem benchResetDone_same {ak : State} (s : State) (b : Nat) (hk : Same ak s) : Same ak (State.benchResetDone s b) := by
  unfold State.benchResetDone
  repeat' (first
    | with_reducible assumption | with_reducible apply upBench_same | with_reducible apply serve_same | dsimp only
    | split | (with_reducible apply Same.foldl))

theorem abortOn_same {ak : State} (s : State) (b : Nat) (hk : Same ak s) : Same ak (State.abortOn s b) := by
  unfold State.abortOn
  repeat' (first
    | with_reducible assumption | with_reducible apply endOrder_same | (with_reducible apply Same.foldl) | (intro _ _ _))

theorem makeSuspect_same {ak : State} (s : State) (b cause : Nat) (hk : Same ak s) : Same ak (State.makeSuspect s b cause) := by
  unfold State.makeSuspect
  repeat' (first
    | with_reducible assumption | with_reducible apply logRepair_same | with_reducible apply gauge_same
    | with_reducible apply startDrain_same | with_reducible apply putReset_same | with_reducible apply abortOn_same | split)

theorem suspects_same {ak : State} (s : State) (hk : Same ak s) : Same ak (State.suspects s) := by
  unfold State.suspects
  repeat' (first
    | with_reducible assumption | with_reducible apply makeSuspect_same | (with_reducible apply Same.foldl) | (intro _ _ _))

theorem benchSuspect_same {ak : State} (s : State) (b cause : Nat) (hk : Same ak s) : Same ak (State.benchSuspect s b cause) := by
  unfold State.benchSuspect
  repeat' (first
    | with_reducible assumption | with_reducible apply makeSuspect_same | split)

theorem startTest_same {ak : State} (s : State) (b : Nat) (hk : Same ak s) : Same ak (State.startTest s b) := by
  unfold State.startTest
  repeat' (first
    | with_reducible assumption | with_reducible apply upBench_same | with_reducible apply upKettle_same
    | with_reducible apply flushWc_same)

theorem selftestStart_same {ak : State} (s : State) (hk : Same ak s) : Same ak (State.selftestStart s) := by
  unfold State.selftestStart
  repeat' (first
    | with_reducible assumption | with_reducible apply startTest_same | split)

theorem rowError_same {ak : State} (s : State) (st : Store) (b row : Nat) (hk : Same ak s) : Same ak (State.rowError s st b row) := by
  unfold State.rowError
  repeat' (first
    | with_reducible assumption | with_reducible apply upKettle_same | dsimp only | split)

theorem testResult_same {ak : State} (s : State) (b code row : Nat) (hk : Same ak s) : Same ak (State.testResult s b code row) := by
  unfold State.testResult
  repeat' (first
    | with_reducible assumption | with_reducible apply upKettle_same | with_reducible apply dieEvent_same
    | with_reducible apply makeSuspect_same | dsimp only | split)

theorem selftestDone_same {ak : State} (s : State) (code row : Nat) (hk : Same ak s) : Same ak (State.selftestDone s code row) := by
  unfold State.selftestDone
  repeat' (first
    | with_reducible assumption | with_reducible apply upClk_same | exact fun _ => rfl | with_reducible apply upKettle_same
    | with_reducible apply testResult_same | dsimp only | split)

theorem repaired_same {ak : State} (s : State) (st : Store) (b row : Nat) (hk : Same ak s) : Same ak (State.repaired s st b row) := by
  unfold State.repaired
  repeat' (first
    | with_reducible assumption | with_reducible apply upKettle_same)

theorem remapRow_same {ak : State} (s : State) (st : Store) (b row : Nat) (hk : Same ak s) : Same ak (State.remapRow s st b row) := by
  unfold State.remapRow
  repeat' (first
    | with_reducible assumption | with_reducible apply logRepair_same | with_reducible apply gauge_same
    | with_reducible apply repaired_same)

theorem retireWay_same {ak : State} (s : State) (b row : Nat) (hk : Same ak s) : Same ak (State.retireWay s b row) := by
  unfold State.retireWay
  repeat' (first
    | with_reducible assumption | with_reducible apply upBench_same | with_reducible apply logRepair_same
    | with_reducible apply dieEvent_same | with_reducible apply gauge_same | with_reducible apply repaired_same
    | dsimp only | split)

theorem cupboardSuspect_same {ak : State} (s : State) (row : Nat) (hk : Same ak s) : Same ak (State.cupboardSuspect s row) := by
  unfold State.cupboardSuspect
  repeat' (first
    | with_reducible assumption | with_reducible apply logRepair_same | with_reducible apply contextEccError_same
    | with_reducible apply gauge_same | with_reducible apply startDrain_same | with_reducible apply repaired_same | split)

theorem spareRemap_same {ak : State} (s : State) (store b row : Nat) (hk : Same ak s) : Same ak (State.spareRemap s store b row) := by
  unfold State.spareRemap
  repeat' (first
    | with_reducible assumption | with_reducible apply makeSuspect_same | with_reducible apply repaired_same
    | with_reducible apply remapRow_same | with_reducible apply retireWay_same | with_reducible apply cupboardSuspect_same | split)

theorem remapCupboard_same {ak : State} (s : State) (hk : Same ak s) : Same ak (State.remapCupboard s) := by
  unfold State.remapCupboard
  repeat' (first
    | with_reducible assumption | with_reducible apply remapRow_same | with_reducible apply cupboardSuspect_same | split
    | (with_reducible apply Same.foldl) | (intro _ _ _))

/-! Resets.lean -/

theorem dieResetError_same {ak : State} (s : State) (code : Nat) (hk : Same ak s) : Same ak (State.dieResetError s code) := by
  unfold State.dieResetError
  repeat' (first
    | with_reducible assumption | with_reducible apply beginReset_same | split)

theorem dieResetRequest_same {ak : State} (s : State) (hk : Same ak s) : Same ak (State.dieResetRequest s) := by
  unfold State.dieResetRequest
  repeat' (first
    | with_reducible assumption | with_reducible apply beginReset_same)

theorem cleared_kept (s : State) (r : DieRst) : Kept s (s.cleared r) :=
  ⟨rfl, rfl, fun _ => ⟨rfl, rfl, rfl, rfl⟩, List.prefix_rfl, fun _ => tagsOk_empty rfl rfl⟩

theorem dieReset_kept (s : State) : Kept s s.dieReset := by
  unfold State.dieReset
  split
  · exact Kept.refl s
  split
  · exact Kept.refl s
  refine (cleared_kept s ‹DieRst›).trans (Same.toKept ?_)
  repeat' (first | with_reducible exact Same.refl _ | with_reducible apply trainFace_same | with_reducible apply remapCupboard_same | with_reducible apply klog_same | split | dsimp only)

theorem resetTxn_same {ak : State} (s : State) (p : Nat) (hk : Same ak s) : Same ak (State.resetTxn s p) := by
  unfold State.resetTxn
  repeat' (first
    | with_reducible assumption | with_reducible apply txnEnd_same | split)

theorem stopOrder_same {ak : State} (s : State) (o : Order) (hk : Same ak s) : Same ak (State.stopOrder s o) := by
  unfold State.stopOrder
  repeat' (first
    | with_reducible assumption | with_reducible apply flushOrder_same | with_reducible apply untrackDone_same
    | with_reducible apply removeOrder_same | dsimp only | (with_reducible apply Same.foldl) | (intro _ _ _))

theorem stopOrders_same {ak : State} (s : State) (p : Nat) (hk : Same ak s) : Same ak (State.stopOrders s p) := by
  unfold State.stopOrders
  repeat' (first
    | with_reducible assumption | with_reducible apply stopOrder_same | (with_reducible apply Same.foldl))

theorem clearWindow_same {ak : State} (s : State) (p : Nat) (hk : Same ak s) : Same ak (State.clearWindow s p) := by
  unfold State.clearWindow
  repeat' (first
    | with_reducible assumption | simp only [Same.rec1])

theorem quitPart_same {ak : State} (s : State) (p : Nat) (hk : Same ak s) : Same ak (State.quitPart s p) := by
  unfold State.quitPart
  repeat' (first
    | with_reducible assumption | with_reducible apply quitWhere_same)

theorem beginPartReset_same {ak : State} (s : State) (p : Nat) (hk : Same ak s) : Same ak (State.beginPartReset s p) := by
  unfold State.beginPartReset
  repeat' (first
    | with_reducible assumption | with_reducible apply upPart_same | with_reducible apply dropMig_same
    | with_reducible apply flushWc_same | with_reducible apply resetTxn_same | with_reducible apply stopOrders_same
    | with_reducible apply clearWindow_same | with_reducible apply quitPart_same | (with_reducible apply Same.foldl))

theorem partReset_same {ak : State} (s : State) (p : Nat) (hk : Same ak s) : Same ak (State.partReset s p) := by
  unfold State.partReset
  repeat' (first
    | with_reducible assumption | with_reducible apply upPart_same | with_reducible apply beginPartReset_same | split)

theorem resetsDue_same {ak : State} (s : State) (hk : Same ak s) : Same ak (State.resetsDue s) := by
  unfold State.resetsDue
  repeat' (first
    | with_reducible assumption | with_reducible apply beginPartReset_same | (with_reducible apply Same.foldl))

theorem clearPart_same {ak : State} (s : State) (p : Nat) (hk : Same ak s) : Same ak (State.clearPart s p) := by
  unfold State.clearPart
  repeat' (first
    | with_reducible assumption | with_reducible apply upPart_same | with_reducible apply dropPartTranslations_same
    | with_reducible apply clearWindow_same | dsimp only | (simp; done) | (with_reducible apply Same.recB))

theorem partResetDone_same {ak : State} (s : State) (p : Nat) (hk : Same ak s) : Same ak (State.partResetDone s p) := by
  unfold State.partResetDone
  repeat' (first
    | with_reducible assumption | with_reducible apply dropPartTranslations_same | with_reducible apply stopOrders_same
    | with_reducible apply clearPart_same | dsimp only | split)

theorem dropLost_same {ak : State} (s : State) (f : Nat) (os : List Nat) (hk : Same ak s) : Same ak (s.dropLost f os) :=
  hk.lens rfl rfl rfl (by simp [State.dropLost]) rfl rfl List.prefix_rfl
    (tagsOk_sub (f := fun w => w) (g := fun w => w) (List.map_id' _).symm (List.Sublist.refl _) (List.map_id' _).symm List.filter_sublist rfl
      (fun r => by first | exact ⟨rfl, rfl, rfl, .inl rfl⟩ | (split <;> exact ⟨rfl, rfl, rfl, .inl rfl⟩)) (fun r => by first | exact ⟨rfl, rfl, rfl, .inl rfl⟩ | (split <;> exact ⟨rfl, rfl, rfl, .inl rfl⟩))) rfl rfl

theorem dropBusy_same {ak : State} (s : State) (f : Nat) (hk : Same ak s) : Same ak (s.dropBusy f) :=
  hk.lens rfl rfl rfl rfl rfl rfl List.prefix_rfl
    (tagsOk_sub (f := fun w => w) (g := fun w => w) (List.map_id' _).symm List.filter_sublist (List.map_id' _).symm List.filter_sublist rfl
      (fun r => by first | exact ⟨rfl, rfl, rfl, .inl rfl⟩ | (split <;> exact ⟨rfl, rfl, rfl, .inl rfl⟩)) (fun r => by first | exact ⟨rfl, rfl, rfl, .inl rfl⟩ | (split <;> exact ⟨rfl, rfl, rfl, .inl rfl⟩))) rfl rfl

theorem txnLost_same {ak : State} (s : State) (f : Nat) (hk : Same ak s) : Same ak (State.txnLost s f) := by
  unfold State.txnLost
  repeat' (first
    | with_reducible assumption | with_reducible apply upTxn_same | dsimp only | split)

theorem faceLost_same {ak : State} (s : State) (f : Nat) (hk : Same ak s) : Same ak (State.faceLost s f) := by
  unfold State.faceLost
  repeat' (first
    | with_reducible assumption | with_reducible apply upFace_same | with_reducible apply quitReads_same
    | with_reducible apply ringError_same | with_reducible apply endOrder_same | with_reducible apply settleEnded_same
    | with_reducible apply dropLost_same | with_reducible apply dropBusy_same | with_reducible apply txnLost_same
    | dsimp only | split | (with_reducible apply Same.foldl) | (intro _ _ _) | (intro _))

end Sys2Proof.Machine
end

