-- ==== Sys2Proof/Laws/SameHost.lean ====
section
/-! SUPPORT. One lemma per operation that gives a state: `Same` holds of what it is given and what it gives. Here:
registers, the monitor, and what arrives on a module. -/

namespace Sys2Proof.Machine

set_option Elab.async false

/-! RegRead.lean -/

theorem foreign_same {ak : State} (s : State) (f p off : Nat) (hk : Same ak s) : Same ak (State.foreign s f p off) := by
  unfold State.foreign
  repeat' (first
    | with_reducible assumption | with_reducible apply upInts_same | with_reducible apply event_same | dsimp only
    | split)

theorem setLatch_same {ak : State} (s : State) (f p off v : Nat) (hk : Same ak s) : Same ak (State.setLatch s f p off v) := by
  unfold State.setLatch
  repeat' (first
    | with_reducible assumption | simp only [Same.rec1])

theorem takeLatch_same {ak : State} (s : State) (f p off : Nat) (hk : Same ak s) : Same ak (State.takeLatch s f p off) := by
  unfold State.takeLatch
  repeat' (first
    | with_reducible assumption | simp only [Same.rec1])

theorem regRead_same {ak : State} (s : State) (f p off : Nat) (hk : Same ak s) : Same ak (State.regRead s f p off) := by
  unfold State.regRead
  repeat' (first
    | with_reducible assumption | with_reducible apply foreign_same | with_reducible apply setLatch_same
    | with_reducible apply takeLatch_same | split)

/-! Regs.lean -/

theorem regionLo_same {ak : State} (s : State) (v : Nat) (hk : Same ak s) : Same ak (State.regionLo s v) := by
  unfold State.regionLo
  repeat' (first
    | with_reducible assumption | with_reducible apply upCfg_same | dsimp only | split)

theorem regionHi_same {ak : State} (s : State) (v : Nat) (hk : Same ak s) : Same ak (State.regionHi s v) := by
  unfold State.regionHi
  repeat' (first
    | with_reducible assumption | with_reducible apply upCfg_same | dsimp only | split)

theorem clearLost_same {ak : State} (s : State) (v : Nat) (hk : Same ak s) : Same ak (State.clearLost s v) := by
  unfold State.clearLost
  repeat' (first
    | with_reducible assumption | with_reducible apply upClk_same | exact fun _ => rfl)

theorem rstCtrl_same {ak : State} (s : State) (v : Nat) (hk : Same ak s) : Same ak (State.rstCtrl s v) := by
  unfold State.rstCtrl
  repeat' (first
    | with_reducible assumption | with_reducible apply benchReset_same | with_reducible apply dieResetRequest_same | split)

theorem retrain_same {ak : State} (s : State) (f mask : Nat) (hk : Same ak s) : Same ak (State.retrain s f mask) := by
  unfold State.retrain
  repeat' (first
    | with_reducible assumption | with_reducible apply retrainMod_same | (with_reducible apply Same.foldl) | (intro _ _ _))

theorem setCap_same {ak : State} (s : State) (v : Nat) (hk : Same ak s) : Same ak (State.setCap s v) := by
  unfold State.setCap
  repeat' (first
    | with_reducible assumption | with_reducible apply upKettle_same)

theorem setThrottleC_same {ak : State} (s : State) (v : Nat) (hk : Same ak s) : Same ak (State.setThrottleC s v) := by
  unfold State.setThrottleC
  repeat' (first
    | with_reducible assumption | with_reducible apply upKettle_same)

theorem svcDrain_same {ak : State} (s : State) (v : Nat) (hk : Same ak s) : Same ak (State.svcDrain s v) := by
  unfold State.svcDrain
  repeat' (first
    | with_reducible assumption | with_reducible apply upDrain_same | with_reducible apply cancelDrain_same
    | with_reducible apply ackDrain_same | dsimp only | split)

theorem setUnlock_same {ak : State} (s : State) (v : Nat) (hk : Same ak s) : Same ak (State.setUnlock s v) := by
  unfold State.setUnlock
  repeat' (first
    | with_reducible assumption | with_reducible apply upMon_same | split)

theorem unlockExpire_same {ak : State} (s : State) (hk : Same ak s) : Same ak (State.unlockExpire s) := by
  unfold State.unlockExpire
  repeat' (first
    | with_reducible assumption | with_reducible apply upMon_same | split)

theorem setRate_same {ak : State} (s : State) (r : Nat) (hk : Same ak s) : Same ak (State.setRate s r) := by
  unfold State.setRate
  repeat' (first
    | with_reducible assumption | with_reducible apply upMon_same | split)

theorem setPeak_same {ak : State} (s : State) (e v : Nat) (hk : Same ak s) : Same ak (State.setPeak s e v) := by
  unfold State.setPeak
  repeat' (first
    | with_reducible assumption | with_reducible apply upWindow_same | dsimp only | split)

theorem globalWrite_same {ak : State} (s : State) (off v : Nat) (hk : Same ak s) : Same ak (State.globalWrite s off v) := by
  unfold State.globalWrite
  repeat' (first
    | with_reducible assumption | with_reducible apply regionLo_same | with_reducible apply regionHi_same
    | with_reducible apply clearLost_same | with_reducible apply rstCtrl_same | with_reducible apply retrain_same
    | with_reducible apply setCap_same | with_reducible apply setThrottleC_same | with_reducible apply svcDrain_same
    | with_reducible apply setUnlock_same | with_reducible apply setRate_same | with_reducible apply setPeak_same | split)

theorem partDb_same {ak : State} (s : State) (p q v : Nat) (hk : Same ak s) : Same ak (State.partDb s p q v) := by
  unfold State.partDb
  repeat' (first
    | with_reducible assumption | with_reducible apply doorbell_same | with_reducible apply hint_same | dsimp only
    | split)

theorem chestCtrl_same {ak : State} (s : State) (p v : Nat) (hk : Same ak s) : Same ak (State.chestCtrl s p v) := by
  unfold State.chestCtrl
  repeat' (first
    | with_reducible assumption | with_reducible apply chestInvalidate_same | with_reducible apply chestEnable_same
    | with_reducible apply chestDisable_same | split)

theorem migAcceptWord_same {ak : State} (s : State) (p v : Nat) (hk : Same ak s) : Same ak (State.migAcceptWord s p v) := by
  unfold State.migAcceptWord
  repeat' (first
    | with_reducible assumption | with_reducible apply migAccept_same | split)

theorem faultCmd_same {ak : State} (s : State) (p v : Nat) (hk : Same ak s) : Same ak (State.faultCmd s p v) := by
  unfold State.faultCmd
  repeat' (first
    | with_reducible assumption | with_reducible apply faultResume_same | with_reducible apply faultAbort_same | split)

theorem clearMig_same {ak : State} (s : State) (p v : Nat) (hk : Same ak s) : Same ak (State.clearMig s p v) := by
  unfold State.clearMig
  repeat' (first
    | with_reducible assumption | with_reducible apply upPart_same)

theorem clearRefused_same {ak : State} (s : State) (p v : Nat) (hk : Same ak s) : Same ak (State.clearRefused s p v) := by
  unfold State.clearRefused
  repeat' (first
    | with_reducible assumption | with_reducible apply upPart_same)

theorem stageLo_same {ak : State} (s : State) (p v : Nat) (hk : Same ak s) : Same ak (State.stageLo s p v) := by
  unfold State.stageLo
  repeat' (first
    | with_reducible assumption | with_reducible apply upPart_same)

theorem stageHi_same {ak : State} (s : State) (p v : Nat) (hk : Same ak s) : Same ak (State.stageHi s p v) := by
  unfold State.stageHi
  repeat' (first
    | with_reducible assumption | with_reducible apply upPart_same)

theorem sqWrite_same {ak : State} (s : State) (p q o v : Nat) (hk : Same ak s) : Same ak (State.sqWrite s p q o v) := by
  unfold State.sqWrite
  repeat' (first
    | with_reducible assumption | with_reducible apply sqBaseLo_same | with_reducible apply ringBaseHi_same
    | with_reducible apply sqCfg_same | with_reducible apply ringStatus_same | split)

theorem pqWrite_same {ak : State} (s : State) (p r o v : Nat) (hk : Same ak s) : Same ak (State.pqWrite s p r o v) := by
  unfold State.pqWrite
  repeat' (first
    | with_reducible assumption | with_reducible apply pqBaseLo_same | with_reducible apply ringBaseHi_same
    | with_reducible apply pqSize_same | with_reducible apply pqHead_same | with_reducible apply pqIrq_same
    | with_reducible apply ringStatus_same | split)

theorem windowWrite_same {ak : State} (s : State) (p o v : Nat) (hk : Same ak s) : Same ak (State.windowWrite s p o v) := by
  unfold State.windowWrite
  repeat' (first
    | with_reducible assumption | with_reducible apply upPart_same | with_reducible apply invalTag_same
    | with_reducible apply setRootLo_same | with_reducible apply setRootHi_same | with_reducible apply migPoolLo_same
    | with_reducible apply migPoolHi_same | with_reducible apply txnCommand_same | with_reducible apply partReset_same
    | with_reducible apply partDb_same | with_reducible apply chestCtrl_same | with_reducible apply migAcceptWord_same
    | with_reducible apply faultCmd_same | with_reducible apply clearMig_same | with_reducible apply clearRefused_same
    | with_reducible apply stageLo_same | with_reducible apply stageHi_same | with_reducible apply sqWrite_same
    | with_reducible apply pqWrite_same | split)

theorem clearDone_same {ak : State} (s : State) (p v : Nat) (hk : Same ak s) : Same ak (State.clearDone s p v) := by
  unfold State.clearDone
  repeat' (first
    | with_reducible assumption | with_reducible apply upPart_same | split)

theorem regWrite_same {ak : State} (s : State) (f p off : Nat) (value : Word) (hk : Same ak s) :
    Same ak (State.regWrite s f p off value) := by
  unfold State.regWrite
  repeat' (first
    | with_reducible assumption | with_reducible apply event_same | with_reducible apply foreign_same
    | with_reducible apply globalWrite_same | with_reducible apply windowWrite_same | with_reducible apply clearDone_same
    | dsimp only | split)

/-! Yelir.lean -/

theorem attnPress_same {ak : State} (s : State) (hk : Same ak s) : Same ak (State.attnPress s) := by
  unfold State.attnPress
  repeat' (first
    | with_reducible assumption | with_reducible apply upPanel_same | split)

theorem attnHold3_same {ak : State} (s : State) (hk : Same ak s) : Same ak (State.attnHold3 s) := by
  unfold State.attnHold3
  repeat' (first
    | with_reducible assumption | with_reducible apply upPanel_same | with_reducible apply startDrain_same | dsimp only
    | split)

theorem attnHold10_same {ak : State} (s : State) (beganInDrain : Bool) (hk : Same ak s) : Same ak (State.attnHold10 s beganInDrain) := by
  unfold State.attnHold10
  repeat' (first
    | with_reducible assumption | with_reducible apply upDrain_same | with_reducible apply upPanel_same | dsimp only
    | split)

theorem statusEnd_same {ak : State} (s : State) (hk : Same ak s) : Same ak (State.statusEnd s) := by
  unfold State.statusEnd
  repeat' (first
    | with_reducible assumption | with_reducible apply upPanel_same)

theorem boundaryScan_same {ak : State} (s : State) (op value : Nat) (hk : Same ak s) : Same ak (State.boundaryScan s op value) := by
  unfold State.boundaryScan
  repeat' (first
    | with_reducible assumption | with_reducible apply fresh_same | simp only [Same.rec1] | split)

theorem say_same {ak : State} (s : State) (o : List YOut) (hk : Same ak s) : Same ak (State.say s o) := by
  unfold State.say
  repeat' (first
    | with_reducible assumption | with_reducible apply upMon_same)

theorem sayOk_same {ak : State} (s : State) (hk : Same ak s) : Same ak (State.sayOk s) := by
  unfold State.sayOk
  repeat' (first
    | with_reducible assumption | with_reducible apply say_same)

theorem sayErr_same {ak : State} (s : State) (code : Nat) (hk : Same ak s) : Same ak (State.sayErr s code) := by
  unfold State.sayErr
  repeat' (first
    | with_reducible assumption | with_reducible apply say_same)

theorem sayReply_same {ak : State} (s : State) (cmd : Nat) (vs : List Nat) (hk : Same ak s) : Same ak (State.sayReply s cmd vs) := by
  unfold State.sayReply
  repeat' (first
    | with_reducible assumption | with_reducible apply say_same)

theorem cablePresent_same {ak : State} (s : State) (hk : Same ak s) : Same ak (State.cablePresent s) := by
  unfold State.cablePresent
  repeat' (first
    | with_reducible assumption | with_reducible apply upMon_same | with_reducible apply upPanel_same | split)

theorem endRun_same {ak : State} (s : State) (hk : Same ak s) : Same ak (State.endRun s) := by
  unfold State.endRun
  repeat' (first
    | with_reducible assumption | with_reducible apply upMon_same | simp only [Same.rec1])

theorem cableRemoved_same {ak : State} (s : State) (hk : Same ak s) : Same ak (State.cableRemoved s) := by
  unfold State.cableRemoved
  repeat' (first
    | with_reducible assumption | with_reducible apply upMon_same | with_reducible apply upPanel_same
    | with_reducible apply endRun_same | split)

theorem yId_same {ak : State} (s : State) (hk : Same ak s) : Same ak (State.yId s) := by
  unfold State.yId
  repeat' (first
    | with_reducible assumption | with_reducible apply performed_same | with_reducible apply sayReply_same)

theorem startNarrow_same {ak : State} (s : State) (addr : Nat) (write : Option Nat) (hk : Same ak s) :
    Same ak (State.startNarrow s addr write) := by
  unfold State.startNarrow
  repeat' (first
    | with_reducible assumption | with_reducible apply upMon_same | with_reducible apply pumpNarrow_same | simp only [Same.rec1])

theorem yPeek_same {ak : State} (s : State) (addr words : Nat) (hk : Same ak s) : Same ak (State.yPeek s addr words) := by
  unfold State.yPeek
  repeat' (first
    | with_reducible assumption | with_reducible apply upMon_same | with_reducible apply performed_same
    | with_reducible apply sayErr_same | with_reducible apply startNarrow_same | split)

theorem yPoke_same {ak : State} (s : State) (addr value : Nat) (hk : Same ak s) : Same ak (State.yPoke s addr value) := by
  unfold State.yPoke
  repeat' (first
    | with_reducible assumption | with_reducible apply upMon_same | with_reducible apply sayErr_same
    | with_reducible apply startNarrow_same | split)

theorem yCupboard_same {ak : State} (s : State) (arg : Option (Nat × Nat)) (hk : Same ak s) : Same ak (State.yCupboard s arg) := by
  unfold State.yCupboard
  repeat' (first
    | with_reducible assumption | with_reducible apply performed_same | with_reducible apply sayErr_same
    | with_reducible apply sayReply_same | dsimp only | split)

theorem yWear_same {ak : State} (s : State) (hk : Same ak s) : Same ak (State.yWear s) := by
  unfold State.yWear
  repeat' (first
    | with_reducible assumption | with_reducible apply performed_same | with_reducible apply sayReply_same)

theorem yTemps_same {ak : State} (s : State) (hk : Same ak s) : Same ak (State.yTemps s) := by
  unfold State.yTemps
  repeat' (first
    | with_reducible assumption | with_reducible apply performed_same | with_reducible apply sayReply_same)

theorem yClocks_same {ak : State} (s : State) (hk : Same ak s) : Same ak (State.yClocks s) := by
  unfold State.yClocks
  repeat' (first
    | with_reducible assumption | with_reducible apply performed_same | with_reducible apply sayReply_same)

theorem yEvents_same {ak : State} (s : State) (n : Option Nat) (hk : Same ak s) : Same ak (State.yEvents s n) := by
  unfold State.yEvents
  repeat' (first
    | with_reducible assumption | with_reducible apply performed_same | with_reducible apply sayErr_same
    | with_reducible apply sayReply_same | dsimp only | split)

theorem yCutlist_same {ak : State} (s : State) (hk : Same ak s) : Same ak (State.yCutlist s) := by
  unfold State.yCutlist
  repeat' (first
    | with_reducible assumption | with_reducible apply performed_same | with_reducible apply sayReply_same)

theorem ySelftest_same {ak : State} (s : State) (b : Option Nat) (hk : Same ak s) : Same ak (State.ySelftest s b) := by
  unfold State.ySelftest
  repeat' (first
    | with_reducible assumption | with_reducible apply performed_same | with_reducible apply startTest_same
    | with_reducible apply sayOk_same | with_reducible apply sayErr_same | with_reducible apply sayReply_same
    | dsimp only | split)

theorem yDrainStatus_same {ak : State} (s : State) (hk : Same ak s) : Same ak (State.yDrainStatus s) := by
  unfold State.yDrainStatus
  repeat' (first
    | with_reducible assumption | with_reducible apply performed_same | with_reducible apply sayReply_same)

theorem yDrainStart_same {ak : State} (s : State) (hk : Same ak s) : Same ak (State.yDrainStart s) := by
  unfold State.yDrainStart
  repeat' (first
    | with_reducible assumption | with_reducible apply performed_same | with_reducible apply startDrain_same
    | with_reducible apply sayOk_same | with_reducible apply sayErr_same | split)

theorem yDrainCancel_same {ak : State} (s : State) (hk : Same ak s) : Same ak (State.yDrainCancel s) := by
  unfold State.yDrainCancel
  repeat' (first
    | with_reducible assumption | with_reducible apply performed_same | with_reducible apply cancelDrain_same
    | with_reducible apply sayOk_same | with_reducible apply sayErr_same | split)

theorem yDrainReset_same {ak : State} (s : State) (hk : Same ak s) : Same ak (State.yDrainReset s) := by
  unfold State.yDrainReset
  repeat' (first
    | with_reducible assumption | with_reducible apply beginReset_same | with_reducible apply performed_same
    | with_reducible apply sayOk_same | with_reducible apply sayErr_same | split)

theorem failRun_same {ak : State} (s : State) (code : Nat) (hk : Same ak s) : Same ak (State.failRun s code) := by
  unfold State.failRun
  repeat' (first
    | with_reducible assumption | with_reducible apply upMon_same | with_reducible apply sayErr_same)

theorem peekData_same {ak : State} (s : State) (status value : Nat) (hk : Same ak s) : Same ak (State.peekData s status value) := by
  unfold State.peekData
  repeat' (first
    | with_reducible assumption | with_reducible apply upMon_same | with_reducible apply sayReply_same
    | with_reducible apply startNarrow_same | with_reducible apply failRun_same | dsimp only | split)

theorem narrowLost_same {ak : State} (s : State) (f : Nat) (hk : Same ak s) : Same ak (State.narrowLost s f) := by
  unfold State.narrowLost
  repeat' (first
    | with_reducible assumption | with_reducible apply failRun_same | simp only [Same.rec1] | split)

theorem yBreak_same {ak : State} (s : State) (hk : Same ak s) : Same ak (State.yBreak s) := by
  unfold State.yBreak
  repeat' (first
    | with_reducible assumption | with_reducible apply sayReply_same | with_reducible apply endRun_same | dsimp only
    | split)

theorem perform_same {ak : State} (s : State) (z0 : YCmd) (hk : Same ak s) : Same ak (State.perform s z0) := by
  unfold State.perform
  repeat' (first
    | with_reducible assumption | with_reducible apply yId_same | with_reducible apply yPeek_same
    | with_reducible apply yPoke_same | with_reducible apply yCupboard_same | with_reducible apply yWear_same
    | with_reducible apply yTemps_same | with_reducible apply yClocks_same | with_reducible apply yEvents_same
    | with_reducible apply yCutlist_same | with_reducible apply ySelftest_same | with_reducible apply yDrainStatus_same
    | with_reducible apply yDrainStart_same | with_reducible apply yDrainCancel_same | with_reducible apply yDrainReset_same
    | split)

theorem yRun_same {ak : State} (s : State) (c : YCmd) (hk : Same ak s) : Same ak (State.yRun s c) := pump_same _ (perform_same s c hk)

theorem yCommand_same {ak : State} (s : State) (c : YCmd) (hk : Same ak s) : Same ak (State.yCommand s c) := by
  unfold State.yCommand
  repeat' (first
    | with_reducible assumption | with_reducible apply yRun_same | split)

theorem yLine_same {ak : State} (s : State) (long : Bool) (l : List Nat) (hk : Same ak s) : Same ak (State.yLine s long l) := by
  unfold State.yLine
  repeat' (first
    | with_reducible assumption | with_reducible apply say_same | with_reducible apply sayErr_same
    | with_reducible apply yRun_same | split)

theorem yChar_same {ak : State} (s : State) (c : Nat) (hk : Same ak s) : Same ak (State.yChar s c) := by
  unfold State.yChar
  repeat' (first
    | with_reducible assumption | with_reducible apply upMon_same | with_reducible apply say_same
    | with_reducible apply yBreak_same | with_reducible apply yLine_same | dsimp only | split)

/-! Faces.lean -/

theorem walkDone_same {ak : State} (s : State) (w : Walk) (hk : Same ak s) : Same ak (State.walkDone s w) := by
  unfold State.walkDone
  repeat' (first
    | with_reducible assumption | with_reducible apply pumpRing_same | with_reducible apply poolStep_same
    | with_reducible apply pumpOrphans_same | split)

theorem walkFault_same {ak : State} (s : State) (w : Walk) (perm outside : Bool) (hk : Same ak s) :
    Same ak (State.walkFault s w perm outside) := by
  unfold State.walkFault
  repeat' (first
    | with_reducible assumption | with_reducible apply upOrder_same | with_reducible apply ringError_same
    | with_reducible apply poolStep_same | simp only [Same.rec1] | split)

theorem walkPoison_same {ak : State} (s : State) (w : Walk) (hk : Same ak s) : Same ak (State.walkPoison s w) := by
  unfold State.walkPoison
  repeat' (first
    | with_reducible assumption | with_reducible apply ringError_same | with_reducible apply endOrder_same
    | with_reducible apply walkFault_same | split)

theorem grantFace_same {ak : State} (s : State) (f : Nat) (z0 : Nat) (hk : Same ak s) : Same ak (State.grantFace s f z0) := by
  induction z0 generalizing s with
  | zero => exact hk
  | succ n ih =>
  unfold State.grantFace
  repeat' (first
    | with_reducible apply ih | with_reducible assumption | with_reducible apply upFace_same
    | (with_reducible apply rewalk_same2; with_reducible assumption) | with_reducible apply walkFault_same | dsimp only
    | split | (intro _))

theorem grantWalks_same {ak : State} (s : State) (hk : Same ak s) : Same ak (State.grantWalks s) := by
  unfold State.grantWalks
  repeat' (first
    | with_reducible assumption | with_reducible apply grantFace_same | (with_reducible apply Same.foldl) | (intro _ _ _))

theorem walkData_same {ak : State} (s : State) (id : Nat) (line : Line) (bad : Bool) (hk : Same ak s) :
    Same ak (State.walkData s id line bad) := by
  unfold State.walkData
  repeat' (first
    | with_reducible assumption | with_reducible apply endWalk_same | with_reducible apply walkLine_same
    | with_reducible apply rewalk_same | with_reducible apply walkDone_same | with_reducible apply walkFault_same
    | with_reducible apply walkPoison_same | split | (with_reducible apply Same.pair2; with_reducible assumption))

theorem fillRow_same {ak : State} (s : State) (o b l : Nat) (bytes : Line) (bad : Bool) (since : List Passed) (pre : Bool) (hk : Same ak s) :
    Same ak (State.fillRow s o b l bytes bad since pre) := by
  unfold State.fillRow
  repeat' (first
    | with_reducible assumption | with_reducible apply upBench_same | dsimp only | split)

theorem handOver_same {ak : State} (s : State) (r : ReadReq) (c : Consumer) (l : Nat) (bytes : Line) (bad : Bool) (hk : Same ak s) :
    Same ak (State.handOver s r c l bytes bad) := by
  unfold State.handOver
  repeat' (first
    | with_reducible assumption | with_reducible apply upTxn_same | with_reducible apply enterRow_same
    | with_reducible apply poolStep_same | with_reducible apply walkData_same | with_reducible apply fillRow_same
    | simp only [Same.rec1] | split)

theorem countPoison_same {ak : State} (s : State) (cs : List Consumer) (bad : Bool) (hk : Same ak s) :
    Same ak (State.countPoison s cs bad) := by
  unfold State.countPoison
  repeat' (first
    | with_reducible assumption | with_reducible apply upInts_same | dsimp only | split)

theorem decodeError_same {ak : State} (s : State) (f status : Nat) (hk : Same ak s) : Same ak (State.decodeError s f status) := by
  unfold State.decodeError
  repeat' (first
    | with_reducible assumption | with_reducible apply upFace_same | dsimp only | split | (intro _))

theorem answered_same {ak : State} (s : State) (f m : Nat) (p : Msg → Bool) (hk : Same ak s) : Same ak (State.answered s f m p) := by
  unfold State.answered
  repeat' (first
    | with_reducible assumption | with_reducible apply upMod_same)

theorem dataIn_same {ak : State} (s : State) (f m tag index status : Nat) (line : Line) (hk : Same ak s) :
    Same ak (State.dataIn s f m tag index status line) := by
  unfold State.dataIn
  repeat' (first
    | with_reducible assumption | with_reducible apply setRead_same | with_reducible apply pump_same
    | with_reducible apply protocolError_same | with_reducible apply settleEnded_same | with_reducible apply grantWalks_same
    | with_reducible apply handOver_same | with_reducible apply countPoison_same | with_reducible apply decodeError_same
    | with_reducible apply answered_same | dsimp only | split | (with_reducible apply Same.foldl) | (intro _ _ _)
    | (intro _) | (with_reducible apply Same.recRF) | exact ⟨rfl, rfl, rfl, .inl rfl⟩)

theorem backAcked_same {ak : State} (s : State) (p o : Nat) (hk : Same ak s) : Same ak (State.backAcked s p o) := by
  unfold State.backAcked
  repeat' (first
    | with_reducible assumption | with_reducible apply upPart_same | split)

theorem ackFor_same {ak : State} (s : State) (w : WriteReq) (z0 : WriteFor) (hk : Same ak s) : Same ak (State.ackFor s w z0) := by
  unfold State.ackFor
  repeat' (first
    | with_reducible assumption | with_reducible apply recordAcked_same | with_reducible apply untrackDone_same
    | with_reducible apply backAcked_same | split)

theorem lostFor_same {ak : State} (s : State) (w : WriteReq) (z0 : WriteFor) (hk : Same ak s) : Same ak (State.lostFor s w z0) := by
  unfold State.lostFor
  repeat' (first
    | with_reducible assumption | with_reducible apply recordLost_same | with_reducible apply endOrder_same
    | with_reducible apply rowPoisoned_same | with_reducible apply dropMigRow_same | with_reducible apply ackFor_same
    | dsimp only | split)

theorem writeLost_same {ak : State} (s : State) (w : WriteReq) (hk : Same ak s) : Same ak (State.writeLost s w) := by
  unfold State.writeLost
  repeat' (first
    | with_reducible assumption | with_reducible apply lineLost_same | with_reducible apply lostFor_same | dsimp only
    | split | (with_reducible apply Same.foldl) | (intro _ _ _))

theorem wackIn_same {ak : State} (s : State) (f m tag status : Nat) (hk : Same ak s) : Same ak (State.wackIn s f m tag status) := by
  unfold State.wackIn
  repeat' (first
    | with_reducible assumption | with_reducible apply upFace_same | with_reducible apply pump_same
    | with_reducible apply pumpNarrow_same | with_reducible apply protocolError_same | with_reducible apply settleEnded_same
    | with_reducible apply decodeError_same | with_reducible apply answered_same | with_reducible apply ackFor_same
    | with_reducible apply writeLost_same | dsimp only | split | (with_reducible apply Same.foldl) | (intro _ _ _)
    | (intro _) | (simp; done) | (with_reducible apply Same.recWF))

theorem regRdIn_same {ak : State} (s : State) (f m p offset tag : Nat) (hk : Same ak s) : Same ak (State.regRdIn s f m p offset tag) := by
  unfold State.regRdIn
  repeat' (first
    | with_reducible assumption | with_reducible apply queueMsg_same | with_reducible apply regRead_same)

theorem regWrIn_same {ak : State} (s : State) (f m p offset seq : Nat) (value : Word) (hk : Same ak s) :
    Same ak (State.regWrIn s f m p offset seq value) := by
  unfold State.regWrIn
  repeat' (first
    | with_reducible assumption | with_reducible apply upFace_same | with_reducible apply queueMsg_same
    | with_reducible apply protocolError_same | with_reducible apply regWrite_same | dsimp only | split | (intro _))

theorem ndataIn_same {ak : State} (s : State) (f m tag status value : Nat) (hk : Same ak s) :
    Same ak (State.ndataIn s f m tag status value) := by
  unfold State.ndataIn
  repeat' (first
    | with_reducible assumption | with_reducible apply protocolError_same | with_reducible apply peekData_same
    | with_reducible apply answered_same | simp only [Same.rec1] | split)

theorem nwackIn_same {ak : State} (s : State) (f m tag status : Nat) (hk : Same ak s) : Same ak (State.nwackIn s f m tag status) := by
  unfold State.nwackIn
  repeat' (first
    | with_reducible assumption | with_reducible apply upMon_same | with_reducible apply pump_same
    | with_reducible apply pumpNarrow_same | with_reducible apply protocolError_same | with_reducible apply sayOk_same
    | with_reducible apply failRun_same | with_reducible apply answered_same | simp only [Same.rec1] | split)

theorem credited_same {ak : State} (s : State) (f m : Nat) (x : InMsg) (act : State → State) (hk : Same ak s) (hact : ∀ s, Same ak s → Same ak (act s)) :
    Same ak (State.credited s f m x act) := by
  unfold State.credited
  repeat' (first
    | with_reducible assumption | with_reducible apply protocolError_same | with_reducible apply usedBuffer_same
    | with_reducible apply hact | dsimp only | split)

theorem receive_same {ak : State} (s : State) (f m : Nat) (x : InMsg) (hk : Same ak s) : Same ak (State.receive s f m x) := by
  unfold State.receive
  repeat' (first
    | with_reducible assumption | with_reducible apply creditIn_same | with_reducible apply snoop_same
    | with_reducible apply throttle_same | with_reducible apply dataIn_same | with_reducible apply wackIn_same
    | with_reducible apply regRdIn_same | with_reducible apply regWrIn_same | with_reducible apply ndataIn_same
    | with_reducible apply nwackIn_same | with_reducible apply credited_same | split | (intro _))

theorem takeMsgs_same {ak : State} (s : State) (f m : Nat) (z0 : Nat) (hk : Same ak s) : Same ak (State.takeMsgs s f m z0) := by
  induction z0 generalizing s with
  | zero => exact hk
  | succ n ih =>
  unfold State.takeMsgs
  repeat' (first
    | with_reducible apply ih | with_reducible assumption | with_reducible apply upMod_same
    | with_reducible apply protocolError_same | with_reducible apply receive_same | split)

theorem discardFlit_same {ak : State} (s : State) (f m : Nat) (crc : Bool) (hk : Same ak s) : Same ak (State.discardFlit s f m crc) := by
  unfold State.discardFlit
  repeat' (first
    | with_reducible assumption | with_reducible apply upFace_same | with_reducible apply upMod_same | dsimp only
    | (intro _))

theorem goodFlit_same {ak : State} (s : State) (f m v : Nat) (hk : Same ak s) : Same ak (State.goodFlit s f m v) := by
  unfold State.goodFlit
  repeat' (first
    | with_reducible assumption | with_reducible apply upMod_same | with_reducible apply protocolError_same
    | with_reducible apply ackNak_same | with_reducible apply takeMsgs_same | with_reducible apply discardFlit_same
    | dsimp only | split)

theorem flitIn_same {ak : State} (s : State) (f m v : Nat) (hk : Same ak s) : Same ak (State.flitIn s f m v) := by
  unfold State.flitIn
  repeat' (first
    | with_reducible assumption | with_reducible apply sendFlit_same | with_reducible apply discardFlit_same
    | with_reducible apply goodFlit_same | split)

theorem trainingDone_same {ak : State} (s : State) (f m : Nat) (failIn failOut farHalf : Nat) (fast : Bool) (hk : Same ak s) :
    Same ak (State.trainingDone s f m failIn failOut farHalf fast) := by
  unfold State.trainingDone
  repeat' (first
    | with_reducible assumption | with_reducible apply trained_same | with_reducible apply pumpOrphans_same
    | with_reducible apply gauge_same | dsimp only | split | (with_reducible apply Same.foldl))

theorem faceLostTimeout_same {ak : State} (s : State) (f : Nat) (hk : Same ak s) : Same ak (State.faceLostTimeout s f) := by
  unfold State.faceLostTimeout
  repeat' (first
    | with_reducible assumption | with_reducible apply faceLost_same | with_reducible apply narrowLost_same | split)

/-! Errors.lean -/

theorem corrected_same {ak : State} (s : State) (hk : Same ak s) : Same ak (State.corrected s) := by
  unfold State.corrected
  repeat' (first
    | with_reducible assumption | with_reducible apply upInts_same)

theorem mergeCorrected_same {ak : State} (s : State) (b : Nat) (hk : Same ak s) : Same ak (State.mergeCorrected s b) := by
  unfold State.mergeCorrected
  repeat' (first
    | with_reducible assumption | with_reducible apply upPart_same | with_reducible apply corrected_same
    | (with_reducible apply Same.foldl) | (intro _ _ _))

theorem inputStruck_same {ak : State} (s : State) (h : Held) (hk : Same ak s) : Same ak (State.inputStruck s h) := by
  unfold State.inputStruck
  repeat' (first
    | with_reducible assumption | with_reducible apply upInts_same | simp only [Same.rec1] | split)

theorem outputStruck_same {ak : State} (s : State) (w : WriteReq) (hk : Same ak s) : Same ak (State.outputStruck s w) := by
  unfold State.outputStruck
  repeat' (first
    | with_reducible assumption | with_reducible apply upBench_same | with_reducible apply upInts_same
    | with_reducible apply setWrite_same | with_reducible apply endOrder_same | with_reducible apply rowPoisoned_same
    | dsimp only | split | (with_reducible apply Same.foldl) | (intro _ _ _) | (intro _)
    | exact ⟨rfl, rfl, rfl, .inl rfl⟩)

theorem fragStruck_same {ak : State} (s : State) (o : Order) (f : Frag) (hk : Same ak s) : Same ak (State.fragStruck s o f) := by
  unfold State.fragStruck
  repeat' (first
    | with_reducible assumption | with_reducible apply upPart_same | with_reducible apply upOrder_same
    | with_reducible apply upInts_same)

theorem accStruck_same {ak : State} (s : State) (k : Strike) (hk : Same ak s) : Same ak (State.accStruck s k) := by
  unfold State.accStruck
  repeat' (first
    | with_reducible assumption | with_reducible apply upOrder_same | with_reducible apply upCtx_same
    | with_reducible apply upInts_same | split)

theorem queryStruck_same {ak : State} (s : State) (o b : Nat) (hk : Same ak s) : Same ak (State.queryStruck s o b) := by
  unfold State.queryStruck
  repeat' (first
    | with_reducible assumption | with_reducible apply upOrder_same | with_reducible apply upInts_same | split)

theorem strike_same {ak : State} (s : State) (k : Strike) (hk : Same ak s) : Same ak (State.strike s k) := by
  unfold State.strike
  repeat' (first
    | with_reducible assumption | with_reducible apply upPart_same | with_reducible apply upBench_same
    | with_reducible apply upOrder_same | with_reducible apply upCfg_same | with_reducible apply endOrder_same
    | with_reducible apply corrected_same | with_reducible apply mergeCorrected_same | with_reducible apply inputStruck_same
    | with_reducible apply outputStruck_same | with_reducible apply fragStruck_same | with_reducible apply accStruck_same
    | with_reducible apply queryStruck_same | simp only [Same.rec1] | split)

theorem strikeRow_same {ak : State} (s : State) (x : Strike × Nat) (hk : Same ak s) : Same ak (State.strikeRow s x) := by
  unfold State.strikeRow
  repeat' (first
    | with_reducible assumption | with_reducible apply rowError_same | with_reducible apply strike_same | split)

/-! Idle.lean -/

theorem edge_kept (s : State) : Kept s s.edge :=
  ⟨rfl, rfl, id, List.prefix_rfl, fun h => tagsOk_of_eq (s := s) rfl rfl (Nat.le_succ _) h⟩

theorem idle_kept {ak : State} (s : State) (hk : Kept ak s) : Kept ak (idle s) := by
  unfold idle
  split
  · exact (hk.trans (edge_kept s)).trans
      (pump_same _ (settleEnded_same _ (Same.foldl (Same.refl _) (fun s k h => strikeRow_same s k h)))).toKept
  · exact hk

/-! Registers.lean -/

theorem inWindow_same {ak : State} (s : State) (p : Nat) (f : State → State) (hk : Same ak s) (hf : ∀ s, Same ak s → Same ak (f s)) :
    Same ak (State.inWindow s p f) := by
  unfold State.inWindow
  repeat' (first
    | with_reducible assumption | with_reducible apply hf | split)

theorem loRead_same {ak : State} (s : State) (f p off : Nat) (hk : Same ak s) : Same ak (State.loRead s f p off) := by
  unfold State.loRead
  repeat' (first
    | with_reducible assumption | with_reducible apply regRead_same | split)

end Sys2Proof.Machine
end

