-- ==== Sys2Proof/Laws/Widths.lean ====
section
/-! SUPPORT. What sending, sending again and posting leave of the modules and faces: their states and widths (R346 to R348, R363, R364). -/

namespace Sys2Proof.Machine

theorem State.Widths.foldl {a s : State} {α : Type} {f : State → α → State} {l : List α} (h : a.Widths s)
    (hf : ∀ (s : State) (x : α), s.Widths (f s x)) : a.Widths (l.foldl f s) := by
  induction l generalizing s with
  | nil => exact h
  | cons x l ih => exact ih (h.trans (hf s x))

theorem dieEvent_widths (s : State) (ps : List Nat) (code a0 a1 : Nat) : s.Widths (s.dieEvent ps code a0 a1) :=
  (eventAll_posts s ps code a0 a1).widths.trans (fun _ => rfl)

theorem sendNarrow_widths (s : State) (n : NarrowReq) : s.Widths (s.sendNarrow n) := by
  unfold State.sendNarrow
  split
  · exact .refl _
  split
  · exact .refl _
  · extract_lets msg s1 nth
    have h1 : s.Widths s1 := by
      unfold s1
      split
      · unfold State.performed; extract_lets y; split <;> exact fun _ => rfl
      · exact .refl _
    refine .trans ?_ (State.upFace_widths _ _ _ (fun _ => rfl))
    refine .trans ?_ (State.queueMsg_widths _ _ _ _)
    exact h1.trans (fun _ => rfl)

theorem pumpNarrow_widths (s : State) : s.Widths s.pumpNarrow := .foldl (.refl s) (fun s n => sendNarrow_widths s n)

/-- Sending requests again moves no module (R363). -/
theorem resend_widths (s : State) (f : Nat) : s.Widths (s.resend f) := by
  unfold State.resend
  extract_lets ws rs ns
  have hall : ∀ x ∈ ws ++ rs ++ ns, ∀ s : State, s.Widths (x.2 s) := by
    intro x hx s
    simp only [ws, rs, ns, List.mem_append, List.mem_map] at hx
    rcases hx with (⟨w, -, rfl⟩ | ⟨r, -, rfl⟩) | ⟨n, -, rfl⟩
    · exact (tryWrite_sends s w.id).widths
    · exact (tryRead_sends s r.id).widths
    · exact sendNarrow_widths s n
  have hs : ∀ x ∈ sortBy (fun (x y : Nat × (State → State)) => decide (x.1 ≤ y.1)) (ws ++ rs ++ ns), ∀ s : State, s.Widths (x.2 s) :=
    fun x hx => hall x ((mem_sortBy _).1 hx)
  generalize sortBy (fun (x y : Nat × (State → State)) => decide (x.1 ≤ y.1)) (ws ++ rs ++ ns) = l at hs
  suffices ∀ (a b : State), a.Widths b → a.Widths (l.foldl (fun s x => x.2 s) b) from this s s (.refl s)
  induction l with
  | nil => exact fun _ _ h => h
  | cons x l ih =>
    exact fun a b h => ih (fun y hy => hs y (List.mem_cons_of_mem _ hy)) a _ (h.trans (hs x (List.mem_cons_self ..) b))

theorem slowed_widths (s : State) (e old : Nat) : s.Widths (s.slowed e old) := by
  unfold State.slowed
  extract_lets new v
  split
  · exact .refl _
  split <;> exact .foldl (.refl s) (fun s o => .trans (fun _ => rfl) (eventOf_posts _ _ _ _ _ _ _ _).widths)

theorem newTable_widths (s : State) (f : Nat) (old : List Nat) : s.Widths (s.newTable f old) := by
  unfold State.newTable
  split
  · exact .refl _
  · exact .trans (fun _ => rfl) (State.upFace_widths _ _ _ (fun _ => rfl))

theorem gatherWaiting_widths (s : State) (f m : Nat) : s.Widths (s.gatherWaiting f m) := by
  unfold State.gatherWaiting
  extract_lets x waiting s1
  refine .trans (s.upFace_widths f _ (fun y => ?_)) (s1.upMod_widths f m _ (fun _ => rfl))
  have e : ((y.mods.zipIdx).map (fun z : Modl × Nat => if z.2 != m && z.1.state != .inService then { z.1 with txMsgs := [] } else z.1)).map
      Modl.width = y.mods.map Modl.width := by
    rw [List.map_map]
    have : (Modl.width ∘ fun z : Modl × Nat => if z.2 != m && z.1.state != .inService then { z.1 with txMsgs := [] } else z.1) =
        (fun z : Modl × Nat => z.1.width) := by
      funext z; simp only [Function.comp]; split <;> rfl
    rw [this, show (fun z : Modl × Nat => z.1.width) = Modl.width ∘ Prod.fst from rfl, ← List.map_map, List.zipIdx_map_fst]
  simp only [Face.shape, e]

theorem reissue_widths (s : State) (f m : Nat) : s.Widths (s.reissue f m) := fun _ => rfl

theorem unseat_widths (s : State) (f m : Nat) (g : Modl → Modl) : (s.upMod f m g).Widths (s.unseat f m g) := by
  unfold State.unseat
  extract_lets s1
  refine .trans ?_ (reissue_widths _ f m)
  exact (newTable_widths _ _ _).trans (s1.upFace_widths f _ (fun _ => rfl))

theorem reseat_widths (s : State) (f : Nat) (ctl : List Msg) : s.Widths (s.reseat f ctl) :=
  ((resend_widths s f).trans (pumpNarrow_widths _)).trans (.foldl (.refl _) (fun s _ => s.queueMsg_widths _ _ _))

/-- What seating a module makes of its width (R347). -/
theorem Modl.seat_width (y : Modl) (half lanes : Nat) (repaired : Nat × Nat) :
    (y.seat half lanes repaired).width = (if lanes = 0 then .down else .inService, lanes, half, repaired, y.retrains, true, 0) := rfl

theorem seat_widths (s : State) (f m half lanes : Nat) (repaired : Nat × Nat) (fast : Bool) :
    ((s.upMod f m (fun y => y.seat half lanes repaired)).upFace f (fun y => { y with fast := if (s.face f).up then y.fast else fast })).Widths
      (s.seat f m half lanes repaired fast) := by
  unfold State.seat
  extract_lets s1
  by_cases h : lanes = 0
  · rw [if_pos h]; exact .refl _
  · rw [if_neg h]; exact (newTable_widths s1 _ _).trans (gatherWaiting_widths _ _ _)

theorem faceUp_widths (s : State) (f : Nat) :
    (s.upFace f (fun y => { y with regSeq := 0, lost := false, downPosted := false, oldWrites := [] })).Widths (s.faceUp f) := by
  unfold State.faceUp
  extract_lets s1 s2
  have h : s1.Widths s2 := ((resend_widths _ _).trans (pump_sends _).widths).trans (pumpNarrow_widths _)
  split
  · exact h.trans (dieEvent_widths _ _ _ _ _)
  · exact h

theorem slowed_kettle (s : State) (e old : Nat) : (s.slowed e old).kettle = s.kettle := by
  have k : ∀ (g : State → Order → State), (∀ t o, (g t o).kettle = t.kettle) → ∀ (l : List Order) (t : State), (l.foldl g t).kettle = t.kettle := by
    intro g hg l
    induction l with
    | nil => exact fun _ => rfl
    | cons y l ih => exact fun t => (ih _).trans (hg _ _)
  unfold State.slowed
  extract_lets new v
  split
  · rfl
  split <;> (refine k _ (fun t o => ?_) _ _; exact (eventOf_posts _ _ _ _ _ _ _ _).kettle)

theorem postDown_modl (s : State) (f i m : Nat) : ((s.postDown f).modl i m).width = (s.modl i m).width := by
  unfold State.postDown
  split
  · rw [(dieEvent_widths _ _ _ _ _).modl]; exact congrArg Modl.width (State.modl_upFace _ _ _ (by intro x; rfl) _ _)
  · rfl

theorem withLevels_widths (s : State) (f : State → State) : (f s).Widths (s.withLevels f) :=
  State.Widths.foldl (.refl _) (fun t e => slowed_widths t e _)

/-- A module in service that leaves it has the width and the count that `Modl.out` gives (R346). -/
theorem leave_modl (s : State) (f m : Nat) (next : ModState) (retrain : Bool) (h : (s.modl f m).state = .inService) :
    ((s.leave f m next retrain).modl f m).width = ((s.modl f m).out next retrain).width := by
  obtain ⟨hf, hm⟩ := s.modl_bounds f m (by intro e; rw [e] at h; cases h)
  unfold State.leave
  dsimp only
  rw [if_neg (by simp [h]), (withLevels_widths _ _).modl, postDown_modl, (reseat_widths _ _ _).modl, (unseat_widths _ _ _ _).modl,
    State.modl_upMod_same _ _ _ _ hf hm]

/-- The gauge moves the components of the wear index and nothing else (R398). -/
theorem gauge_wear (s : State) : s.gauge = { s with wear := s.gauge.wear } := by
  unfold State.gauge State.upWear
  dsimp only

/-- Of the wear record it moves the spares and the lanes (R398). -/
theorem gauge_components (s : State) :
    s.gauge.wear = { s.wear with spares := s.gauge.wear.spares, lanes := s.gauge.wear.lanes } := by
  unfold State.gauge State.upWear
  dsimp only

@[simp] theorem gauge_faces (s : State) : s.gauge.faces = s.faces := by rw [gauge_wear]

theorem gauge_widths (s : State) : s.Widths s.gauge := fun f => by
  unfold State.face; rw [gauge_faces]

end Sys2Proof.Machine
end

