-- ==== Sys2Proof/WellFormed.lean ====
section
/-! DEFINITION. The ranges of the operands: partitions 0 to 7, benches 0 to 7, faces 0 to 3, modules 0 to 5,
rings and tags as 00_scope.md and 04_work_orders.md number them, offsets of the 1 MiB register space (R356, R431). -/

namespace Sys2Proof

def okP (p : Nat) : Bool := p < 8
def okF (f : Nat) : Bool := f < 4
def okM (m : Nat) : Bool := m < 6
def okB (b : Nat) : Bool := b < 8
def okS (s : Nat) : Bool := s < 0xFFFF

/-- An operand outside the range the spec gives it makes a term that is no command. -/
def Instr.wf : Instr → Bool
  | .loopLock l | .loopLockLost l => l < 3
  | .switchForced d => d < 4
  | .sensorSample ts rs => ts.length = 32 && rs.length = 7 && rs.all (fun r => r.1 < 4096)
  | .migrateDecision p m s => okP p && m < 256 && s < 4096
  | .benchPowerGate b | .benchPowerUpDone b | .selftestAbort b | .benchResetDone b | .wcFlush b => okB b
  | .selftestDone c _ => c ∈ [0, 1, 2, 3, 4, 0x10, 0x11, 0x12, 0x13, 0x14, 0x15]
  | .spareRemap st b _ => st ≤ 6 && okB b
  | .benchSuspect b c => okB b && 1 ≤ c && c ≤ 4
  | .dieResetError c => 1 ≤ c && c ≤ 8
  | .contextEccError p s | .sessionSteeping p s | .sessionParked p s | .hintIdle p s => okP p && okS s
  | .yelirChar c => c < 128
  | .flit f m _ | .linkDown f m => okF f && okM m
  | .trainingDone f m a b h c d _ => okF f && okM m && h < 4 && [a, b, c, d].all (fun x => x < 2 ^ 32)
  | .faceLostTimeout f => okF f
  | .regRd f m p off tag => okF f && okM m && okP p && off < 2 ^ 20 && off % 4 = 0 && tag < 2 ^ 16
  | .regWr f m p off seq _ => okF f && okM m && okP p && off < 2 ^ 20 && off % 4 = 0 && seq < 2 ^ 16
  | .registerWrite f p off _ | .latchedLoRead f p off => okF f && okP p && off < 2 ^ 20 && off % 4 = 0
  | .dataMsg f m tag i st _ => okF f && okM m && tag < 4096 && i < 4 && st < 3
  | .wack f m tag st => okF f && okM m && tag < 4096 && (st = 0 || st = 2)
  | .throttle f m v a => okF f && okM m && v ≤ 256 && a < 2 ^ 64
  | .credit f m c0 c1 c2 c3 => okF f && okM m && c0 < 256 && c1 < 256 && c2 < 256 && c3 < 256
  | .snp f m a tag => okF f && okM m && a < 2 ^ 48 && tag < 4096
  | .ndata f m tag st v => okF f && okM m && tag < 4096 && st < 3 && v < 2 ^ 64
  | .nwack f m tag st => okF f && okM m && tag < 4096 && (st = 0 || st = 2)
  | .boundaryScan op _ => op < 4
  | .txnBegin p | .stage p | .commit p | .rollback p | .partReset p | .partResetDone p | .chestInvalidate p
  | .invalidateDone p | .chestEnable p | .chestDisable p | .invalDone p | .sliceExpire p | .migPoolEnable p _ => okP p
  | .partDb p q _ | .orderFetch p q => okP p && q < 16
  | .ringEnable p r _ | .ringDisable p r => okP p && r < 34
  | .partCqHead p r h => okP p && 16 ≤ r && r < 34 && h < 2 ^ 16
  | .irqHoldoff p r => okP p && 16 ≤ r && r < 34
  | .partInvalTag p t | .partTagRootLo p t _ => okP p && t < 256
  | .faultResume p i | .faultAbort p i => okP p && i < 1024
  | .partMigAccept p m s => okP p && m < 256 && s < 4096
  | .benchReset mask => mask < 256
  | .retrain f mask => okF f && mask < 64
  | .monUart r => r < 8
  | .readLimiterInterval e => e < 16
  | _ => true

end Sys2Proof
end

