-- ==== Sys2Proof/Tests/Slice0.lean ====
section
/-! SUPPORT. Tests: an ill-formed term for each check, worked examples of the spec, and for each statement of
Certificates/Slice0 that has hypotheses states and operands that meet them. Expected values stand in the spec, in the
rule or worked example that a comment names. -/

namespace Sys2Proof.Tests

open Sys2Proof Sys2Proof.Machine

set_option Elab.async false

/-! ### Ill-formed commands -/

theorem test_wf_clock : Instr.wf (.loopLock 3) = false ∧ Instr.wf (.loopLockLost 3) = false ∧ Instr.wf (.switchForced 4) = false ∧
    Instr.wf (.loopLock 2) = true ∧ Instr.wf (.switchForced 3) = true := by decide
theorem test_wf_samples : Instr.wf (.sensorSample (List.replicate 31 400) (List.replicate 7 (700, 0))) = false ∧
    Instr.wf (.sensorSample (List.replicate 32 400) (List.replicate 6 (700, 0))) = false ∧
    Instr.wf (.sensorSample (List.replicate 32 400) (List.replicate 7 (4096, 0))) = false ∧
    Instr.wf (.sensorSample (List.replicate 32 400) (List.replicate 7 (700, 0))) = true := by decide
theorem test_wf_shards : Instr.wf (.migrateDecision 8 0 0) = false ∧ Instr.wf (.migrateDecision 0 256 0) = false ∧
    Instr.wf (.migrateDecision 0 0 4096) = false ∧ Instr.wf (.partMigAccept 8 0 0) = false ∧ Instr.wf (.partMigAccept 0 256 0) = false ∧
    Instr.wf (.partMigAccept 0 0 4096) = false ∧ Instr.wf (.partMigAccept 7 255 4095) = true := by decide
theorem test_wf_benches : (∀ c ∈ [Instr.benchPowerGate 8, .benchPowerUpDone 8, .selftestAbort 8, .benchResetDone 8, .wcFlush 8,
    .selftestDone 5 0, .selftestDone 0x16 0, .spareRemap 7 0 0, .spareRemap 0 8 0, .benchSuspect 8 1, .benchSuspect 0 0,
    .benchSuspect 0 5, .benchReset 256], Instr.wf c = false) ∧ Instr.wf (.benchSuspect 7 4) = true := by decide
theorem test_wf_errors : Instr.wf (.dieResetError 0) = false ∧ Instr.wf (.dieResetError 9) = false ∧ Instr.wf (.dieResetError 8) = true := by decide
theorem test_wf_sessions : (∀ c ∈ [Instr.contextEccError 8 0, .contextEccError 0 0xFFFF, .sessionSteeping 8 0, .sessionSteeping 0 0xFFFF,
    .sessionParked 8 0, .sessionParked 0 0xFFFF, .hintIdle 8 0, .hintIdle 0 0xFFFF], Instr.wf c = false) ∧
    Instr.wf (.hintIdle 7 0xFFFE) = true := by decide
theorem test_wf_panel : Instr.wf (.yelirChar 128) = false ∧ Instr.wf (.monUart 8) = false ∧ Instr.wf (.boundaryScan 4 0) = false ∧
    Instr.wf (.yelirChar 127) = true := by decide
theorem test_wf_faces : (∀ c ∈ [Instr.flit 4 0 0, .flit 0 6 0, .linkDown 4 0, .linkDown 0 6, .trainingDone 4 0 0 0 0 0 0 true,
    .trainingDone 0 6 0 0 0 0 0 true, .trainingDone 0 0 (2 ^ 32) 0 0 0 0 true, .trainingDone 0 0 0 (2 ^ 32) 0 0 0 true, .trainingDone 0 0 0 0 0 (2 ^ 32) 0 true, .trainingDone 0 0 0 0 0 0 (2 ^ 32) true, .trainingDone 0 0 0 0 4 0 0 true, .faceLostTimeout 4, .retrain 4 0, .retrain 0 64], Instr.wf c = false) ∧
    Instr.wf (.trainingDone 3 5 (2 ^ 32 - 1) (2 ^ 32 - 1) 3 (2 ^ 32 - 1) (2 ^ 32 - 1) true) = true := by decide
theorem test_wf_registers : (∀ c ∈ [Instr.regRd 4 0 0 0 0, .regRd 0 6 0 0 0, .regRd 0 0 8 0 0, .regRd 0 0 0 (2 ^ 20) 0, .regRd 0 0 0 2 0,
    .regRd 0 0 0 0 (2 ^ 16), .regWr 4 0 0 0 0 0, .regWr 0 6 0 0 0 0, .regWr 0 0 8 0 0 0, .regWr 0 0 0 (2 ^ 20) 0 0, .regWr 0 0 0 1 0 0,
    .regWr 0 0 0 0 (2 ^ 16) 0, .registerWrite 4 0 0 0, .registerWrite 0 8 0 0, .registerWrite 0 0 (2 ^ 20) 0, .registerWrite 0 0 3 0,
    .latchedLoRead 4 0 0, .latchedLoRead 0 8 0, .latchedLoRead 0 0 (2 ^ 20), .latchedLoRead 0 0 6], Instr.wf c = false) ∧
    Instr.wf (.regRd 3 5 7 0xFFFFC 0xFFFF) = true := by decide
theorem test_wf_messages : (∀ c ∈ [Instr.dataMsg 4 0 0 0 0 0, .dataMsg 0 6 0 0 0 0, .dataMsg 0 0 4096 0 0 0, .dataMsg 0 0 0 4 0 0,
    .dataMsg 0 0 0 0 3 0, .wack 4 0 0 0, .wack 0 6 0 0, .wack 0 0 4096 0, .wack 0 0 0 1, .throttle 4 0 0 0, .throttle 0 6 0 0,
    .throttle 0 0 257 0, .throttle 0 0 0 (2 ^ 64), .credit 4 0 0 0 0 0, .credit 0 6 0 0 0 0, .credit 0 0 256 0 0 0, .credit 0 0 0 256 0 0,
    .credit 0 0 0 0 256 0, .credit 0 0 0 0 0 256, .snp 4 0 0 0, .snp 0 6 0 0, .snp 0 0 (2 ^ 48) 0, .snp 0 0 0 4096, .ndata 4 0 0 0 0,
    .ndata 0 6 0 0 0, .ndata 0 0 4096 0 0, .ndata 0 0 0 3 0, .ndata 0 0 0 0 (2 ^ 64), .nwack 4 0 0 0, .nwack 0 6 0 0, .nwack 0 0 4096 0,
    .nwack 0 0 0 1], Instr.wf c = false) ∧ Instr.wf (.throttle 3 5 256 0) = true := by decide
theorem test_wf_windows : (∀ c ∈ [Instr.txnBegin 8, .stage 8, .commit 8, .rollback 8, .partReset 8, .partResetDone 8, .chestInvalidate 8,
    .invalidateDone 8, .chestEnable 8, .chestDisable 8, .invalDone 8, .sliceExpire 8, .migPoolEnable 8 0, .partInvalTag 8 0,
    .partInvalTag 0 256, .partTagRootLo 8 0 0, .partTagRootLo 0 256 0, .faultResume 8 0, .faultResume 0 1024, .faultAbort 8 0,
    .faultAbort 0 1024, .readLimiterInterval 16], Instr.wf c = false) ∧ Instr.wf (.faultResume 7 1023) = true := by decide
theorem test_wf_rings : (∀ c ∈ [Instr.partDb 8 0 0, .partDb 0 16 0, .orderFetch 8 0, .orderFetch 0 16, .ringEnable 8 0 0, .ringEnable 0 34 0,
    .ringDisable 8 0, .ringDisable 0 34, .partCqHead 8 16 0, .partCqHead 0 15 0, .partCqHead 0 34 0, .partCqHead 0 16 (2 ^ 16),
    .irqHoldoff 8 16, .irqHoldoff 0 15, .irqHoldoff 0 34], Instr.wf c = false) ∧ Instr.wf (.partCqHead 7 33 0xFFFF) = true := by decide

/-- spec/opcode_table.json gives no row any bits. -/
theorem test_no_word_spells_a_command : decodeTableWord 32 0x1A7C5110 = none ∧ State.reset.withFetchWord 32 0 = State.reset := by decide

/-! ### States -/

/-- Power is good and the Kettle runs. -/
def up : State := { State.reset with panel := { State.reset.panel with pwrGood := true } }
def l4 : State := { up with fuses := { up.fuses with variant := .l4 } }

/-- What holds of the next state of a command. -/
def after (c : Instr) (s : State) (f : State → Bool) : Bool := match exec c s with | .next t => f t | _ => false

/-- A table of 1,000 rows of 64 BF16 elements, trailers in the slots. -/
def table : Binding := { base := 0x100000, rowCount := 1000, rowBytes := 128, fmt := 4, stride := 160 }
/-- The same, in one shard with a replica. -/
def shardTable : Binding := { table with shardMap := 2, stride := 256 }
def shards : ShardMap := { shardRows := 1000, shards := [{ primary := 0x100000, replica := 0x180000, pStack := 0, rStack := 0 }], redirects := [] }

def gatherJig : Jig := { kind := 1, benchMask := 0x0F, lead := 0, tileOrder := 1 }

/-- Two partitions: benches 0 to 3 behind face 0 with tags 0 to 3, and benches 4 to 7 behind face 1 with tags 4 to 7. -/
def sections : List Sec := [
  ⟨1, 0, 0, .partitions [{ enabled := true, benchMask := 0x0F, hostFace := 0, tagBase := 0, tagCount := 4 },
    { enabled := true, benchMask := 0xF0, hostFace := 1, tagBase := 4, tagCount := 4 }]⟩,
  ⟨2, 0, 0, .ways [0xFFFF, 0xFFFF]⟩,
  ⟨3, 0, 0, .stacks [⟨0, 2 ^ 32, 0, 0, 0, 0⟩]⟩,
  ⟨4, 0, 1, .binding table⟩, ⟨4, 0, 2, .binding shardTable⟩,
  ⟨5, 0, 2, .shardMap shards⟩,
  ⟨6, 0, 1, .jig gatherJig⟩,
  ⟨9, 0, 0, .quotas [(64, 16), (64, 16)]⟩,
  ⟨0xA, 0, 0, .policy { idleTest := true, holdMs := 2, rowsMax := 4 }⟩,
  ⟨0xB, 0, 0, .plan {}⟩]

/-- The first 4 MiB of tag 0 and of tag 4 are mapped onto themselves; face 0 has a module in service with credit. -/
def die : State := { up with
  cfg := { committed := true, regionValid := true, epoch := 1, oldest := 1, live := sections }
  parts := (State.reset.parts.set 0 { roots := [(0, 0x40000000, true)] }).set 1 { roots := [(4, 0x40000000, true)] }
  ranges := [(0, ⟨0, 0, 1024, 0, true, false, 0⟩), (1, ⟨4, 0, 1024, 0, true, false, 1⟩)]
  faces := State.reset.faces.modify 0 (fun f => { f with mods := f.mods.set 0 { state := .inService, lanes := 64, trained := true, credits := [64, 64, 64, 64], avail := [64, 64, 16, 16], advertised := [64, 64, 64, 64] } }) }

/-- An order of partition 0: its bytes are the fields given as offset, size and value, over a header of `op` with no session, no
binding and no jig. -/
def mkOrder (op : Nat) (fields : List (Nat × Nat × Nat)) : Order :=
  { id := 7, p := 0, q := 0, slot := 0, cq := 0, phase := .running, pinned := true,
    bytes := BitVec.ofNat 1024 (fields.foldl (fun v x => v + (x.2.2 % 2 ^ (8 * x.2.1)) <<< (8 * x.1)) (op + 0x100 +
      (fields.foldl (fun m x => if x.1 = 4 then m - 0xFFFF <<< 32 else if x.1 = 6 then m - 0xFFFF <<< 48 else if x.1 = 8 then m - 0xFFFF <<< 64 else if x.1 = 10 then m - 0xFFFF <<< 80 else m) (0xFFFFFFFFFFFFFFFF <<< 32)))) }

/-! ### What the statements assume: the whole machine, power, clocks, Kettle -/

theorem test_meets_IdleEdgeIsCounted : up.pending = [] ∧ up.panel.pwrGood = true ∧ up.clk.coreRuns = true ∧ State.reset.panel.pwrGood = false ∧
    ({ up with clk := { up.clk with switching := [(0, 0)] } } : State).clk.coreRuns = false := by decide
theorem test_meets_HostMessagesReadBack : (∀ m ∈ [InMsg.pad, .data 4095 3 2 (2 ^ 1024 - 1), .wack 4095 2, .throttle 256 (2 ^ 64 - 1),
    .regRd 7 0xFFFFC 0xFFFF, .regWr 7 0xFFFFC 0xFFFF 0xFFFFFFFF, .credit 255 255 255 255, .snp (2 ^ 41 - 1) 4095, .ndata 4095 2 (2 ^ 64 - 1),
    .nwack 4095 2], m.fits = true) := by decide +kernel
theorem test_meets_EveryCommandKeepsTheDie : (after .pwrGoodHigh State.reset (fun t => t.clk.step == 2) &&
    after .dieReset { up with rstDie := some ⟨3, false⟩ } (fun t => t.ints.lastCode == 3)) = true := by decide
theorem test_meets_OutstandingTagsStayDistinct :
    let s : State := { die with nextId := 2, pending := [.orderFetch 0 0], reads := [{ id := 0, wants := [(.stage, 0)], face := 0, modl := some 0, tag := 4095, line := 1, lines := 1, left := [0], part := 0 }, { id := 1, wants := [(.stage, 0)], face := 0, modl := some 0, tag := 0, line := 2, lines := 1, left := [0], part := 0 }] }
    s.reads.Pairwise (fun a b => ¬(a.id = b.id ∨ (a.face = b.face ∧ a.modl = b.modl ∧ a.modl.isSome = true ∧ a.tag = b.tag))) ∧
      (∀ r ∈ s.reads, r.id < s.nextId ∧ r.tag < 4096) ∧ s.writes = [] := by decide
theorem test_meets_OnlySwitchesChangeTheConfiguration : after (.txnBegin 0) { die with clk := { die.clk with coreSrc := 1, controlSrc := 1 } } (fun t => t.cfg.txn.state == .opened) = true ∧
    Instr.txnBegin 0 ∉ [Instr.validationDone, .switchDone, .epochRetire, .dieReset, .pwrGoodLow] := by decide
theorem test_meets_PowerOffClearsAllButFusesAndLog : up.panel.pwrGood = true ∧ State.reset.panel.pwrGood = false := by decide
theorem test_meets_PowerOnBeginsBringUp :
    State.reset.panel.pwrGood = false ∧ State.reset.fuses.fwGood = true ∧ logSuspect State.reset.log = false ∧
    logSuspect ({ State.reset with log := [.suspectBench 2 1], fuses := { State.reset.fuses with fwGood := false } } : State).log = true := by decide
theorem test_meets_XaIsJudgedByEightWindows : up.alive = true ∧ up.variant ≠ .l4 ∧ up.clk.xaStable = false ∧
    (∀ r ∈ [([15650, 15807, 15700, 15700, 15700, 15700, 15700], 15649), ([], 15808)],
      r.1.length < 8 ∧ (∀ x ∈ r.1, 15650 ≤ x ∧ x ≤ 15807) ∧ (r.2 < 15650 ∨ 15807 < r.2)) ∧
    (∀ l ∈ [List.replicate 7 15650, List.replicate 8 15807, List.replicate 9 15700], ∀ x ∈ l, 15650 ≤ x ∧ x ≤ 15807) := by decide
def xaRuns : State := { up with clk := { up.clk with xaOsc := true, xaStable := true, coreEn := true, controlEn := true, coreSrc := 1, controlSrc := 1, coreLock := true, controlLock := true } }
def l4Runs : State := { l4 with clk := { xaRuns.clk with xbStable := true, kettleEn := true, kettleLock := true, kfastSrc := 1, kslowSrc := 3 } }
theorem test_meets_XaIsLostOrFails : xaRuns.alive = true ∧ xaRuns.clk.xaStable = true ∧ xaRuns.variant ≠ .l4 ∧ xaRuns.clk.xaOsc = true ∧
    xaRuns.clk.coreSrc = 1 ∧ xaRuns.clk.controlSrc = 1 ∧ (15414 < 15415 ∨ 16043 < 15414) ∧ (16044 < 15415 ∨ 16043 < 16044) ∧
    l4Runs.alive = true ∧ l4Runs.variant = .l4 ∧ l4Runs.clk.xaStable = true ∧ l4Runs.clk.xbStable = true ∧ l4Runs.clk.kfastSrc = 1 ∧ l4Runs.clk.kslowSrc = 3 ∧
    up.clk.xaStable = false ∧ up.clk.xaFailed = false ∧ up.clk.step ≠ 2 ∧ ({ up with clk := { up.clk with step := 2 } } : State).alive = true := by decide
theorem test_meets_CrystalsOfL4AreJudgedByCount :
    let s : State := { l4 with clk := { l4.clk with xaOsc := true } }
    s.alive = true ∧ s.variant = .l4 ∧ s.clk.xaOsc = true ∧ s.clk.xaStable = false ∧ s.clk.xbStable = false ∧ up.variant ≠ .l4 := by decide
theorem test_meets_DomainsTakeTheirSources :
    let s : State := { l4 with clk := { l4.clk with coreEn := true, controlEn := true, kettleEn := true, switching := [(3, 2), (0, 1)] } }
    s.alive = true ∧ s.clk.coreEn = true ∧ s.clk.coreLock = false ∧ s.clk.controlEn = true ∧ s.clk.controlLock = false ∧ s.variant = .l4 ∧
    s.clk.kettleEn = true ∧ s.clk.kettleLock = false ∧ s.clk.switching.find? (fun x => x.1 == 3) = some (3, 2) ∧
    s.clk.switching.find? (fun x => x.1 == 0) = some (0, 1) ∧ s.clk.switching.find? (fun x => x.1 == 1) = none := by decide
theorem test_meets_ThrottleFollowsTheRule : up.alive = true ∧ up.benchPresent 7 = true ∧ (up.bench 7).power = .running ∧ l4.benchPresent 4 = false ∧
    up.benchTemp 0 < 16 * (up.kettle.throttleC : Int) - 16 * 3 ∧
    ({ up with kettle := { up.kettle with samples := [List.replicate 32 1600] } } : State).benchTemp 0 ≥ 16 * (up.kettle.throttleC : Int) ∧
    ({ up with kettle := { up.kettle with samples := [List.replicate 32 1560] } } : State).benchTemp 0 = 1560 ∧
    ((up.upBench 7 (fun b => { b with power := .powering })).bench 7).power = .powering := by decide
theorem test_meets_KettleTickFrame : up.alive = true ∧ up.wear.millis + 1 < 1000 ∧ ({ up with wear := { up.wear with millis := 999 } } : State).wear.millis + 1 ≥ 1000 := by decide
theorem test_meets_SampleTripsAndHoldEnds :
    let s : State := { up with kettle := { up.kettle with samples := List.replicate 7 (List.replicate 32 1600), beginHold := true, cool := 10 } }
    s.alive = true ∧ (List.replicate 32 (3000 : Int)).length = 32 ∧ s.hottest < 1760 ∧ s.rstDie = none ∧
    after (.sensorSample (List.replicate 32 3000) (List.replicate 7 (0, 0))) s (fun t => decide (t.hottest ≥ 1760)) = true ∧
    after (.sensorSample (List.replicate 32 1600) (List.replicate 7 (0, 0))) s (fun t => decide (t.hottest < 1760)) = true ∧
    (∀ r ∈ s.kettle.rails, (r.lowLast || r.highLast) = false) ∧ (List.replicate 7 (0, 0))[6]? = some (0, 0) ∧ 0 < (railRange 6).1 ∧
    (let r := ({ s with kettle := { s.kettle with rails := s.kettle.rails.set 6 { lowLast := true } } } : State).kettle.rails.getD 6 {}
     r.lowLast = true ∧ r.low = false ∧ r.high = false) ∧ s.kettle.beginHold = true ∧ s.kettle.cool ≥ 10 ∧
    ({ s with kettle := { s.kettle with cool := 9 } } : State).kettle.cool < 10 := by decide +kernel
theorem test_meets_WearRecordIsKept : ({ up with wear := { up.wear with seconds := 3600 } } : State).wear.lastHour < 1 ∧ up.alive = true ∧
    up.wear.seconds / 3600 ≤ up.wear.lastHour ∧ up.railsBad = false ∧
    ({ up with kettle := { up.kettle with rails := up.kettle.rails.set 6 { lowLast := true } } } : State).railsBad = true := by decide
def calm : State := { die with kettle := { die.kettle with idle := List.replicate 8 100 }, wear := { die.wear with seconds := 3600 } }
theorem test_meets_BenchPowerIsGatedAndReturns : calm.alive = true ∧ 0 < calm.benches.length ∧ calm.benchPresent 0 = true ∧ (calm.bench 0).power = .running ∧
    (calm.bench 0).reset = false ∧ (calm.ownerOf 0).isSome = true ∧ calm.suspect 0 = false ∧ calm.kettle.idle.getD 0 0 ≥ 100 ∧
    calm.benchBusy 0 = false ∧ (calm.bench 0).residents = [] ∧ (calm.bench 0).wc = [] ∧ calm.kettle.testBench ≠ some 0 ∧ 0 ∉ calm.kettle.bringTest ∧
    ((calm.upBench 7 (fun b => { b with power := .powering })).bench 7).power = .powering := by decide
theorem test_meets_SelfTestRunsAndReports : calm.alive = true ∧ (policyOf calm.cfg.live).idleTest = true ∧ calm.mayTest = true ∧ calm.testDue = some 0 ∧
    calm.kettle.level.getD 0 0 = 0 ∧ (∀ x ∈ calm.kettle.failing, x.1 ≠ .cupboard → x.2.1 ≠ 0) ∧
    (let s := calm.upKettle (fun k => { k with testBench := some 7 })
     s.kettle.testBench = some 7 ∧ (∀ c ∈ [0, 1, 4, 0x10], s.variant.testPart c = true) ∧ (∃ c ∈ [0x10, 0x14], (marchStore c).isSome = true) ∧ marchStore 1 = none) ∧
    (let s := calm.upKettle (fun k => { k with bringTest := [3, 4] }); s.kettle.testBench ≠ some 3 ∧ 3 ∈ s.kettle.bringTest) := by decide
theorem test_meets_SpareRowIsTaken : storeOf 0 = some .chest ∧
    (let s := calm.upKettle (fun k => { k with failing := [(.chest, 0, 16383)] })
     s.alive = true ∧ s.benchPresent 0 = true ∧ s.benchIdle 0 = true ∧ s.kettle.testBench ≠ some 0 ∧ 16383 < 16384 ∧ s.remappable .chest 0 16383 = true ∧
     (.chest, 0, 16383) ∈ s.kettle.failing ∧ s.variant.hasStore .chest = true ∧ s.railsBad = false) := by decide
theorem test_meets_SuspectBenchIsHeldAndDrains : die.alive = true ∧ die.benchPresent 7 = true ∧ die.sized ∧ 1 ≤ 4 ∧ die.suspect 7 = false ∧
    ({ die with log := [.suspectBench 7 4] } : State).suspect 7 = true ∧ die.drain.inForce = false := by unfold State.sized; decide
def drained : State := { die with drain := { die.drain with inForce := true, cause := 0 } }
/-- In a drain of another cause, and of cause 1, the bench is held and the drain is as it was. -/
theorem test_meets_SuspectBenchIsHeldAndDrains_drain : (let u := drained.upBench 7 (fun b => { b with reset := true }); u.drain.inForce = true ∧ u.drain.cause ≠ 1) ∧
    drained.benchPresent 7 = true ∧ drained.suspect 7 = false ∧ (let t : State := { drained with drain := { drained.drain with cause := 1 } }; t.drain.inForce = true ∧ t.drain.cause = 1) := by decide
theorem test_meets_DrainsEndAndShow : drained.drain.inForce = true ∧ drained.drain.owed = false ∧ drained.drain.done = false ∧ drained.rstDie = none ∧
    drained.orders = [] ∧ drained.mig.phase = 0 ∧ drained.ctxs = [] ∧ drained.drain.ack = false ∧ drained.drain.cause ≠ 1 ∧
    ({ drained with drain := { drained.drain with ack := true, cause := 1 } } : State).drain.cause = 1 := by decide
theorem test_meets_DieResetRunsItsSteps : die.rstDie = none ∧ die.panel.pwrGood = true ∧ die.enabledParts = [0, 1] ∧
    (let s : State := { die with rstDie := some ⟨8, false⟩ }
     s.pendingUnacked = false ∧ (∀ x ∈ s.clk.switching, 1 < x.1) ∧ s.kettle.failing = []) ∧
    ({ die with rstDie := some ⟨0, true⟩ } : State).rstDie = some ⟨0, true⟩ ∧ logSuspect die.repairs = false ∧
    logSuspect ({ die with log := [.suspectBench 7 4] } : State).repairs = true := by decide

/-! ### Resets, panel, monitor, faces -/

theorem test_meets_BenchResetStopsItsWork : die.rstDie = none ∧ 7 < die.benches.length ∧ die.sized ∧
    (let s := die.upBench 7 (fun b => { b with reset := true }); (s.bench 7).reset = true ∧ s.orders = []) ∧
    (let s : State := { die with orders := [{ mkOrder 1 [(60, 4, 1), (64, 4, 1)] with tiles := [{ t := 0, bench := 7, delivered := true }] }] }
     ∃ o ∈ s.orders, o.onBench 7 = true ∧ s.losesBench o 7 = true ∧ ∀ x ∈ s.orders, x.id = o.id → x.status = none) ∧
    ({ die with kettle := { die.kettle with testBench := some 7 } } : State).kettle.testBench = some 7 := by unfold State.sized; decide
/-- Session 5 of partition 0 steeps on bench 0, sessions 6 and 9 are parked, 7 warms and 8 leaves. -/
def crowd : State := { die with ctxs := [{ p := 0, session := 5, state := .steeping, home := 0 }, { p := 0, session := 6 },
  { p := 0, session := 7, state := .warming, home := 1, contextIn := true }, { p := 0, session := 8, state := .leaving, home := 2 },
  { p := 0, session := 9, hinted := true }, { p := 0, session := 10, state := .steeping, home := 3, hinted := true, steepSince := 1 }] }
theorem test_meets_ContextErrorPoisonsTheSession : (crowd.ctx? 0 5).isSome = true ∧ crowd.ctx? 1 5 = none := by decide
theorem test_meets_AttentionButtonActs : die.alive = true ∧ die.drain.inForce = false ∧ drained.drain.inForce = true ∧ drained.drain.blue = false ∧
    ({ drained with drain := { drained.drain with blue := true } } : State).drain.blue = true := by decide
/-- The serial line is there and Yelir waits for a command; then unlocked. -/
def wired : State := { die with panel := { die.panel with cable := true }, mon := { die.mon with connected := true } }
def unlocked : State := { wired with mon := { wired.mon with unlocked := true, minutes := 1 } }
theorem test_meets_ServicePortsAct : die.alive = true ∧ die.panel.cable = false ∧ wired.panel.cable = true ∧ unlocked.mon.unlocked = true ∧
    unlocked.mon.minutes ≠ 0 ∧ ({ unlocked with mon := { unlocked.mon with minutes := 0 } } : State).mon.minutes = 0 ∧
    (0xA5000001 : Word).extractLsb 31 24 = 0xA5#8 ∧
    (∃ n ∈ [{ face := 0, modl := some 0, tag := 2, addr := 16, write := some 3, issued := true }], NarrowReq.write n |>.isSome) ∧
    (State.reset.lamps.1 ∈ [0, 1]) ∧ (State.reset.lamps.2.1 ∈ [0, 1]) ∧ ({ drained with drain := { drained.drain with blue := true } } : State).lamps.2.2 = true := by decide
theorem test_meets_LinesRunTheirCommands : wired.alive = true ∧ wired.mon.connected = true ∧ wired.mon.running = false ∧ wired.mon.line = [] ∧
    wired.mon.tooLong = false ∧ (∀ c ∈ [32, 105, 100, 126], 32 ≤ c ∧ c ≤ 126) ∧
    ({ wired with mon := { wired.mon with running := true, runCmd := 2 } } : State).mon.runCmd = 2 ∧ 128 < (List.replicate 129 32).length ∧
    ({ wired with mon := { wired.mon with sawCr := true } } : State).mon.sawCr = true ∧ tokens (List.replicate 128 32) = [] := by decide +kernel
/-- `peek 0x10 2` spells a command and `peek` none. -/
theorem test_meets_LinesRunTheirCommands_words : parseCmd (tokens (wordPeek ++ [32, 48, 120, 49, 48, 32, 50])) = some (.peek 16 2) ∧
    tokens wordPeek = [wordPeek] ∧ parseCmd [wordPeek] = none ∧ number [48, 120, 49, 48] = some 16 ∧ number [50] = some 2 ∧ 32 ∉ wordPeek := by decide
theorem test_meets_ReadCommandsReply : wired.yReady = true ∧ wired.mon.unlocked = false ∧ unlocked.yReady = true ∧ unlocked.mon.unlocked = true ∧
    (let s : State := { unlocked with ctxs := crowd.ctxs }; s.yReady = true ∧ (s.ctx? 0 5).isSome = true ∧ s.ctx? 0 4 = none) ∧
    (∀ n ∈ [some 1, some 64, none], 1 ≤ n.getD 16 ∧ n.getD 16 ≤ 64) ∧ (some 0).getD 16 = 0 ∧ 64 < (some 65).getD 16 := by decide
theorem test_meets_WriteCommandsNeedTheUnlock : wired.yReady = true ∧ wired.mon.unlocked = false ∧ unlocked.yReady = true ∧ unlocked.mon.unlocked = true ∧
    unlocked.rstDie = none ∧ ({ unlocked with rstDie := some ⟨1, false⟩ } : State).rstDie.isSome = true ∧ unlocked.benchPresent 8 = false ∧
    unlocked.benchPresent 0 = true ∧ unlocked.mayTest = true ∧ (unlocked.bench 0).reset = false ∧ (unlocked.ownerOf 0).isSome = true ∧ unlocked.benchBusy 0 = false ∧
    unlocked.narrowOk (2 ^ 32 - 8) = true ∧ unlocked.narrowOk 0 = true ∧ (∀ i, i < 64 → unlocked.narrowOk (0x1000 + 8 * i) = true) ∧
    (4 % 8 ≠ 0) ∧ 2 ^ 64 - 1 < 2 ^ 64 := by decide
/-- A read of two lines, a write, and a peek and a poke are outstanding on module 0 of face 0. -/
def asking : State := { unlocked with
  nextId := 5
  reads := [{ id := 1, wants := [(.stage, 0), (.stage, 1)], face := 0, modl := some 0, tag := 9, line := 64, lines := 2, left := [0, 1], part := 0 }]
  writes := [{ id := 2, own := .record 0 33, face := 0, modl := some 0, tag := 9, line := 70, mask := 0xFFFFFFFF, bytes := 0, part := 0 }]
  narrows := [{ face := 0, modl := some 0, tag := 1, addr := 8, issued := true }, { face := 0, modl := some 0, tag := 2, addr := 16, write := some 3, issued := true, stale := true }] }
theorem test_meets_ModulesRetrainAndTrain : die.modPresent 0 0 = true ∧ (die.modl 0 0).state = .inService ∧ die.modPresent 4 0 = false ∧
    (let s := die.upMod 0 1 (fun m => { m with trained := true }); (s.modl 0 1).state = .down ∧ (s.modl 0 1).trained = true ∧ s.modPresent 0 1 = true) ∧
    (die.modl 1 0).state = .down ∧ (die.modl 1 0).trained = false ∧ (die.face 0).up = true ∧ (die.face 1).up = false ∧ die.modPresent 1 0 = true ∧
    (let s := die.upMod 1 5 (fun m => { m with state := .training })
     s.modPresent 1 5 = true ∧ (s.modl 1 5).state = .training ∧ (s.face 1).up = false ∧
     ((s.trained 1 5 0 0 (0, 0) false).gauge.face 1).up = true ∧ ((s.trained 1 5 3 0 (0, 0) false).gauge.face 1).up = false) ∧
    (let s := die.upFace 2 (fun f => { f with downPosted := true }); (s.face 2).up = false ∧ (s.face 2).downPosted = true) ∧ (die.face 2).downPosted = false := by decide +kernel
theorem test_meets_ModulesRetrainAndTrain_down :
    (∃ r ∈ asking.reads, r.face = 0 ∧ r.modl = some 0) ∧ (∃ w ∈ asking.writes, w.face = 0 ∧ w.modl = some 0) ∧ (∃ n ∈ asking.narrows, n.face = 0 ∧ n.modl = some 0) ∧
    die.sized ∧ (∀ n < 6, n ≠ 0 → (die.modl 0 n).slots = 0) ∧ (die.face 0).downPosted = false ∧
    (let s := die.upMod 0 1 (fun m => { m with state := .inService, lanes := 64 }); (s.modl 0 1).slots ≠ 0) ∧
    (let s := die.upMod 0 1 (fun m => { m with state := .held }); (s.modl 0 1).state = .held) := by unfold State.sized; decide
/-- Widths that agree at full and at half, that differ, and a full end with a half end, either way; and a face that is lost while an order reads through it. -/
theorem test_meets_ModulesRetrainAndTrain_trains : ownHalf 0 0 0 = 0 ∧ ownHalf (laneMask 0 (2 ^ 32 - 1)) (laneMask 3 0) 0 = 1 ∧ ownHalf (laneMask 3 0) (laneMask (2 ^ 32 - 1) 3) 0 = 2 ∧ ownHalf 0 0 1 = 1 ∧ ownHalf (2 ^ 64 - 1) 0 0 = 3 ∧
    (let s : State := ({ die with orders := [mkOrder 6 []], reads := [{ id := 1, wants := [(.order 7, 0)], face := 2, tag := 9, line := 64, lines := 1, left := [0], part := 0 }] }).upFace 2 (fun f => { f with downPosted := true })
     (s.face 2).up = false ∧ (s.face 2).downPosted = true ∧ s.needing 2 = [7] ∧ (∀ y ∈ s.orders, y.id = 7 → y.status = none) ∧ ∃ o ∈ s.orders, o.id = 7) := by decide +kernel
/-- The known check value of this CRC over the nine characters 1 to 9. -/
theorem test_crc_check_value : crc32c 0x393837363534333231 9 = 0xE3069283 := by decide +kernel
theorem crcBytes_add (m n v c : Nat) : crcBytes (m + n) v c = crcBytes n (v / 256 ^ m) (crcBytes m v c) := by
  induction m generalizing v c with
  | zero => simp [crcBytes]
  | succ m ih => rw [Nat.succ_add, crcBytes, ih, crcBytes, Nat.div_div_eq_div_mul, pow_succ']
theorem test_crc_of_a_flit : crc32c 1 252 = 1942027060 := by
  rw [crc32c, show (252 : Nat) = 63 + (63 + (63 + 63)) from rfl, crcBytes_add, crcBytes_add 63, crcBytes_add 63,
    show crcBytes 63 1 0xFFFFFFFF = 3950754026 by decide +kernel, show (1 : Nat) / 256 ^ 63 = 0 by decide +kernel, Nat.zero_div,
    show crcBytes 63 0 3950754026 = 2190718633 by decide +kernel, show crcBytes 63 0 2190718633 = 3390876409 by decide +kernel, Nat.zero_div,
    show crcBytes 63 0 3390876409 = 2352940235 by decide +kernel]
  rfl
theorem test_meets_FlitsCarryMessages : (die.modl 0 0).state = .inService ∧ (die.modl 1 0).state ≠ .inService ∧
    ((die.ackNak 0 0 0 false).modl 0 0).state = .inService ∧
    (let v := 1 + 1 <<< 32; fld v 31 24 = 0 ∧ fld v 23 22 = 0 ∧ fld v 9 0 = ((die.modl 0 0).rxSeq + 1) % 1024) ∧
    2 ≤ fld (2 <<< 22) 23 22 ∧ fld (1 <<< 24) 31 24 ≠ 0 ∧ fld (1 <<< 22) 23 22 = 1 ∧ fld 2 9 0 ≠ ((die.modl 0 0).rxSeq + 1) % 1024 ∧
    (InMsg.wack 4095 2).fits = true ∧ ((die.upMod 0 0 (fun m => { m with rxWords := (InMsg.wack 4095 2).wire ++ [7] })).modl 0 0).rxWords = (InMsg.wack 4095 2).wire ++ [7] := by decide +kernel
theorem test_meets_FlitsCarryMessages_crc : (let v := (1 + 1942027060 <<< 2016 : BitVec 2048).toNat; crc32c (v % 2 ^ (8 * 252)) 252 = leAt v 252 4) ∧
    (let v := (1 : BitVec 2048).toNat; ¬crc32c (v % 2 ^ (8 * 252)) 252 = leAt v 252 4) := by
  constructor
  · show crc32c _ 252 = _
    rw [show (1 + 1942027060 <<< 2016 : BitVec 2048).toNat % 2 ^ (8 * 252) = 1 by decide +kernel, test_crc_of_a_flit]
    decide +kernel
  · show ¬crc32c _ 252 = _
    rw [show (1 : BitVec 2048).toNat % 2 ^ (8 * 252) = 1 by decide +kernel, test_crc_of_a_flit]
    decide +kernel
/-- Three flits wait for their acknowledgement; a nak of the first has been said `n` times. -/
def sending (n : Nat) : State := die.upMod 0 0 (fun m => { m with txKept := [(1, []), (2, []), (3, [])], txSeq := 3, nakRun := n, nakAck := 1 })
theorem test_meets_FlitsCarryMessages_sends :
    (∀ n ∈ [0, 6, 7], (let x := (sending n).modl 0 0
      x.state = .inService ∧ x.txKept = [] ++ (1, []) :: [(2, []), (3, [])] ∧ (∀ z ∈ [(2, ([] : List Nat)), (3, [])], z.1 ≠ 1) ∧ x.nakAck = 1 ∧ x.nakRun = n)) ∧
    (let x := ((sending 0).upMod 0 0 (fun m => { m with txAgain := [(2, []), (3, [])] })).modl 0 0; x.txAgain = (2, []) :: [(3, [])]) ∧
    (let x := (die.upMod 0 0 (fun m => { m with owed := [0, 0, 0, 0] })).modl 0 0; x.txAgain = [] ∧ x.txWords = [] ∧ (∀ o ∈ x.owed, o = 0) ∧ (nextMsg x.txMsgs x.credits).isSome = false ∧ x.txKept.length < 256) ∧
    (let x := (die.upMod 0 0 (fun m => { m with txMsgs := [.regAck 1] })).modl 0 0; (nextMsg x.txMsgs x.credits).isSome = true) ∧
    256 ≤ (List.replicate 256 ((0 : Nat), ([] : List Nat))).length := by decide +kernel
theorem test_meets_MessagesTakeCredit : (die.modl 1 0).state ≠ .inService ∧ (die.modl 0 0).state = .inService ∧ 1 ≤ (die.modl 0 0).avail.getD 0 0 ∧
    1 ≤ (die.modl 0 0).avail.getD 1 0 ∧ (let s := die.upMod 0 0 (fun m => { m with avail := [4, 0, 16, 0], spent := [true, false, false, false] })
      (s.modl 0 0).state = .inService ∧ (s.modl 0 0).avail.getD 0 0 < 5 ∧ (s.modl 0 0).avail.getD 1 0 < 1 ∧ (s.modl 0 0).avail.getD 3 0 < 1 ∧
      (s.modl 0 0).spent.getD 0 false = true ∧ (s.modl 0 0).advertised.getD 0 0 < (s.modl 0 0).credits.getD 0 0 + 1) ∧
    die.cfg.committed = true ∧ stackIx die.stacks (2 ^ 32 - 1) = some 0 ∧ stackIx die.stacks (2 ^ 32) = none ∧
    ({ die with cfg := { die.cfg with committed := false } } : State).cfg.committed = false ∧ (∀ i < 4, (die.modl 0 0).spent.getD i false = false) := by decide
theorem test_meets_AnswersFindTheirRequests : (asking.modl 0 0).state = .inService ∧ 5 ≤ (asking.modl 0 0).avail.getD 0 0 ∧ 1 ≤ (asking.modl 0 0).avail.getD 3 0 ∧
    asking.reads.find? (fun r => r.face == 0 && r.modl == some 0 && r.tag == 8) = none ∧
    (∃ r ∈ asking.reads, asking.reads.find? (fun r => r.face == 0 && r.modl == some 0 && r.tag == 9) = some r ∧ 0 ∈ r.left ∧ 1 ∈ r.left ∧ 2 ∉ r.left) ∧
    asking.writes.find? (fun r => r.face == 0 && r.modl == some 0 && r.tag == 8) = none ∧
    (asking.writes.find? (fun r => r.face == 0 && r.modl == some 0 && r.tag == 9)).isSome = true ∧
    (asking.narrows.find? (fun n => n.face == 0 && n.modl == some 0 && n.tag == 1 && (n.write.isSome == false))).isSome = true ∧
    (asking.narrows.find? (fun n => n.face == 0 && n.modl == some 0 && n.tag == 2 && (n.write.isSome == true))).isSome = true ∧
    asking.narrows.find? (fun n => n.face == 0 && n.modl == some 0 && n.tag == 1 && (n.write.isSome == true)) = none ∧
    asking.narrows.find? (fun n => n.face == 0 && n.modl == some 0 && n.tag == 2 && (n.write.isSome == false)) = none := by decide
theorem test_meets_RegisterMessagesAreOrdered : (die.modl 0 0).state = .inService ∧ 1 ≤ (die.modl 0 0).avail.getD 0 0 ∧ (die.face 0).regSeq = 0 ∧
    (0 + 65536 - 32768) % 65536 ≤ 32768 ∧ (0 + 65536 - 65535) % 65536 ≤ 32768 ∧ 32768 < (0 + 65536 - 32767) % 65536 ∧ 32768 < (0 + 65536 - 1) % 65536 ∧
    hiOf 0x1000 = none ∧ (∀ off ∈ [0x2008, 0x1014, 0x6000, 0x60F0], (hiOf off).isSome = true ∧ (regAt die off).isSome = true ∧ die.admits 0 0 off = true) := by decide

/-! ### Rings, partitions, faults, registers, migration -/

/-- Submission ring 3 and completion ring 3 of partition 0 are enabled, with 64 entries each: two orders wait at entries 0 and 1. -/
def ringed : State :=
  let s := die.upSq 0 3 (fun x => { x with enabled := true, base := 0x10000, log2 := 6, tail := 2 })
  let s := s.upPq 0 19 (fun x => { x with enabled := true, base := 0x20000, log2 := 6, phase := true, irqEn := true })
  s.upPq 0 33 (fun x => { x with enabled := true, base := 0x30000, log2 := 6, phase := true, irqEn := true })
theorem test_meets_RingsAreEnabledAndDisabled : die.windowOpen 7 = true ∧ (die.upPart 7 (fun x => { x with busy := true })).windowOpen 7 = false ∧ l4.windowOpen 4 = false ∧
    (die.sq 0 15).enabled = false ∧ (die.sq 0 15).log2 < 6 ∧ (ringed.sq 0 3).enabled = true ∧
    (let s := die.upSq 0 3 (fun x => { x with log2 := 16 }); (s.sq 0 3).enabled = false ∧ 6 ≤ (s.sq 0 3).log2 ∧ (s.sq 0 3).log2 ≤ 16) ∧
    (let s := die.upPq 0 33 (fun x => { x with log2 := 6 }); (s.pq 0 33).enabled = false ∧ 6 ≤ (s.pq 0 33).log2 ∧ (s.pq 0 33).log2 ≤ 16) ∧
    (let s := die.upPq 0 16 (fun x => { x with log2 := 17 }); (s.pq 0 16).enabled = false ∧ 16 < (s.pq 0 16).log2) ∧ (ringed.pq 0 19).enabled = true ∧
    ringed.feeding 0 3 = 0 ∧ ({ ringed with orders := [{ mkOrder 0x0B [] with cq := 3 }] } : State).feeding 0 (19 - 16) ≠ 0 := by decide
theorem test_meets_DoorbellsMoveForward : ringed.windowOpen 0 = true ∧ ringed.cfg.committed = true ∧ ringed.kettle.bringTest = [] ∧
    (State.reset.cfg.committed = false ∧ State.reset.windowOpen 0 = true) ∧ (ringed.sq 0 0).enabled = false ∧ (ringed.sq 0 3).enabled = true ∧
    2 ^ (ringed.sq 0 3).log2 ≤ 64 ∧ 63 < 2 ^ (ringed.sq 0 3).log2 ∧ (1 + 64 - (ringed.sq 0 3).head) % 64 < ((ringed.sq 0 3).tail + 64 - (ringed.sq 0 3).head) % 64 ∧
    (let x := (ringed.upPq 0 19 (fun x => { x with tail := 1 })).pq 0 19
     x.enabled = true ∧ x.irqEn = true ∧ x.flying.length < (x.tail + 2 ^ x.log2 - x.head) % 2 ^ x.log2) ∧
    (ringed.pq 0 33).enabled = true ∧ (let x := ringed.pq 0 33; (x.tail + 2 ^ x.log2 - x.head) % 2 ^ x.log2 ≤ x.flying.length) ∧ (ringed.pq 0 16).enabled = false := by decide
theorem test_meets_PartitionResetClears : die.windowOpen 0 = true ∧ die.rstDie = none ∧ (die.pe 0).benchMask.testBit 3 = true ∧ die.cfg.txn.state ≠ .switching ∧
    (let s := die.upPart 0 (fun x => { x with busy := true })
     s.windowOpen 0 = false ∧ (s.part 0).busy = true ∧ s.inFlight 0 = false) ∧ asking.inFlight 0 = true ∧ (die.part 0).busy = false ∧
    ({ die with rstDie := some ⟨1, false⟩ } : State).rstDie.isSome = true ∧
    ({ die with cfg := { die.cfg with txn := { state := .opened, owner := 0 } } } : State).cfg.txn.owner = 0 ∧
    (let s : State := { die with cfg := { die.cfg with txn := { state := .switching, owner := 0 } } }
     s.windowOpen 0 = true ∧ s.rstDie = none ∧ s.cfg.txn.owner = 0 ∧ s.cfg.txn.state = .switching) ∧ die.mig.p = 0 ∧ die.resetting 0 = false ∧
    (let s := die.upPart 0 (fun x => { x with busy := true }); s.resetting 0 = true ∧ s.orders = [] ∧ (s.dropPartTranslations 0).inFlight 0 = false) ∧
    (let s := asking.upPart 0 (fun x => { x with busy := true }); s.resetting 0 = true ∧ s.orders = [] ∧ (s.dropPartTranslations 0).inFlight 0 = true) := by decide
/-- An order of partition 0 has a tile at work, and another has none. -/
def working : State := { die with orders := [{ mkOrder 1 [] with tiles := [{ t := 0, bench := 0, delivered := true }] }, { mkOrder 1 [] with id := 8 }] }
theorem test_meets_PartitionResetClears_orders : (∃ x ∈ working.orders, x.p = 0 ∧ x.underWay = false ∧ x.id = 8) ∧
    (working.order? 7).isSome = true ∧ (∀ x ∈ working.orders, x.p = 0 → x.underWay = false → x.id ≠ 7) ∧
    (let s := working.upPart 0 (fun x => { x with busy := true }); s.resetting 0 = true ∧ ∃ o ∈ (s.stopOrders 0).orders, o.p = 0) := by decide +kernel
theorem test_meets_ChestsAreInvalidatedBeforeUse : die.windowOpen 0 = true ∧ (die.part 0).chest.invBusy = false ∧ (die.part 0).chest.invDone = false ∧
    (die.part 0).chest.enable = false ∧ (let s := die.upPart 0 (fun x => { x with chest := { enable := true, invDone := true, invBusy := true } })
      s.windowOpen 0 = true ∧ (s.part 0).chest.invBusy = true ∧ s.rowsSettled 0 = true ∧ (s.part 0).chest.invDone = true ∧ (s.part 0).chest.enable = true) ∧
    ({ die with writes := [{ id := 0, own := .rowOf 7 1 0 0, face := 0, line := 1, mask := 1, bytes := 0, part := 0 }] } : State).rowsSettled 0 = false := by decide
theorem test_meets_TranslationsOfATagAreDropped : die.windowOpen 0 = true ∧ (die.pe 0).hasTag 4 = false ∧ (die.pe 0).hasTag 3 = true ∧ (die.pe 0).hasTag 0 = true ∧
    (∃ r ∈ ({ die with reads := [{ id := 1, wants := [(.stage, 0)], face := 0, tag := 0, line := 1, lines := 1, left := [0], part := 0, space := some { tag := 0, gen := 2 } }] } : State).reads,
      r.part = 0 ∧ ∃ x, r.space = some x ∧ x.tag = 0 ∧ x.gen < 3) ∧
    (die.pe 1).hasTag 4 = true ∧ (∃ x ∈ die.ranges, x.2.part = 0 ∧ x.2.tag = 0) ∧ (∃ x ∈ die.ranges, ¬(x.2.part = 0 ∧ x.2.tag = 0)) ∧ die.invalReady 0 = false ∧
    (die.upPart 0 (fun x => { x with invTags := [{ tag := 0, gen := 0 }] })).invalReady 0 = true := by decide
/-- An order has faults pending under numbers 5 and, on a write-back of its stream 0, 4; fault 3 is one that it has no more; fault
6 is of an order that is gone; fault 9 is of none. -/
def faulted : State := (({ die with orders := [{ mkOrder 0x0C [] with faults := [{ info := { addr := 0x1000, access := 4, page := 0x1000 }, id := some 5 },
    { info := { addr := 0x2000, access := 3, stream := 0, page := 0x2000 }, id := some 4 }] }] }).upPart 0 (fun x =>
  { x with faults := [{ id := 5, order := some 7 }, { id := 4, order := some 7 }, { id := 3, order := some 7 }, { id := 6, order := some 8 }, { id := 9, order := none }] }))
theorem test_meets_FaultsAreAnswered : faulted.windowOpen 0 = true ∧ (∀ f ∈ (faulted.part 0).faults, f.id ≠ 1023) ∧
    (faulted.part 0).faults.find? (fun f => f.id == 5) = some { id := 5, order := some 7 } ∧ faulted.windowOpen 0 = true ∧
    (∃ o x, faulted.order? 7 = some o ∧ o.faults.find? (fun x => x.id == some 5) = some x ∧ x.info.access ≠ 3) ∧
    (faulted.part 0).faults.find? (fun f => f.id == 4) = some { id := 4, order := some 7 } ∧
    (∃ o x, faulted.order? 7 = some o ∧ o.faults.find? (fun x => x.id == some 4) = some x ∧ x.info.access = 3) ∧
    (faulted.part 0).faults.find? (fun f => f.id == 3) = some { id := 3, order := some 7 } ∧ (∃ o, faulted.order? 7 = some o ∧ ∀ x ∈ o.faults, x.id ≠ some 3) ∧
    (faulted.part 0).faults.find? (fun f => f.id == 6) = some { id := 6, order := some 8 } ∧ faulted.order? 8 = none ∧
    (faulted.part 0).faults.find? (fun f => f.id == 9) = some { id := 9, order := none } ∧ (mkOrder 0x0C []).phase ≠ .stage2 ∧
    faulted.ctx? 0 0xFFFF = none := ⟨by decide, by decide, by decide, by decide, ⟨_, _, rfl, rfl, by decide⟩, by decide, ⟨_, _, rfl, rfl, by decide⟩, by decide, ⟨_, rfl, by decide⟩,
    by decide, by decide, by decide, by decide, by decide⟩
/-- A halt of order 7 on its one fault, number 5, has parked session 5; the fault is resumed. -/
def halted : State := (({ die with ctxs := [{ p := 0, session := 5, state := .parked, leave := 1, preemptOrder := some 7 }]
                                   orders := [{ mkOrder 0x01 [(4, 2, 5)] with faults := [{ info := { addr := 0x1000, access := 1, page := 0x1000 }, id := some 5 }] }] }).upPart 0 (fun x =>
  { x with faults := [{ id := 5, order := some 7 }] }))
theorem test_meets_FaultsAreAnswered_park :
    let x : FaultInfo := { addr := 0x1000, access := 1, page := 0x1000 }
    let u := halted.upPart 0 (fun x => { x with faults := x.faults.filter (fun g => g.id != 5) })
    let w := ((u.dropPage (eaTag x.page) (eaVa x.page / 4096)).upOrder 7 (fun o => (o.endFault x).forgetPage x.page)).discardFrom 7 x.tile
    (∃ c, w.ctx? 0 5 = some c ∧ c.state = .parked ∧ c.leave = 1 ∧ c.preemptOrder = some 7) ∧ ∃ y, w.order? 7 = some y ∧ y.faults = [] :=
  ⟨⟨_, rfl, by decide⟩, ⟨_, rfl, by decide⟩⟩
theorem test_meets_RegisterWritesAreTheirCommands : die.windowOpen 0 = true ∧ regAt die 0xFFFFC = none ∧ (regAt die 0).isSome = true ∧ die.admits 2 0 0 = false ∧
    die.mayReset 2 0 0 = false ∧ (∀ q < 16, (regAt die (0x18000 + 8 * q)).isSome = true ∧ die.admits 0 0 (0x18000 + 8 * q) = true) ∧
    (∀ o ∈ [0x1000, 0x1018, 0x10, 0x20, 0x58, 0x70, 0x78], (regAt die (0x10000 + o)).isSome = true ∧ die.admits 0 0 (0x10000 + o) = true) ∧
    (∀ o ∈ [0xF0, 0x0C, 0x210, 0x74, 0x7C, 0x14, 0x17F8], (regAt die (0x10000 + o)).isSome = true ∧ die.admits 0 0 (0x10000 + o) = true ∧ regWindow (0x10000 + o) = some (0, o)) ∧
    (∀ o ∈ [0x4200, 0x4204, 0x400C, 0x1000, 0x1004, 0x2000, 0x2100, 0x3004, 0x3C04, 0x4010, 0x4104, 0x600C, 0x60FC], (regAt die o).isSome = true ∧ die.admits 0 0 o = true) ∧ (regAt die (0x20000 + 0x10)).isSome = true ∧ die.admits 1 1 0x20010 = true ∧
    ((regAt die 0).isSome = true ∧ die.admits 1 1 0 = true ∧ regWindow 0 = none) ∧
    (let s := die.upPart 0 (fun x => { x with busy := true })
     (regAt s 0x10010).isSome = true ∧ s.admits 0 0 0x10010 = true ∧ (s.part 0).busy = true) ∧ (99 < 100 ∧ 100 ≤ die.kettle.capReset) := by decide
theorem test_register_writes_complete : (after (.registerWrite 0 0 0x100F0 7) die (fun t => (t.part 0).scratch == 7) &&
    after (.registerWrite 1 1 0x100F0 7) die (fun t => t.ints.foreign == 1 && (t.part 0).scratch == 0)) = true := by decide
/-- Row 3 of the sharded table was sampled, its shard is hot for the hold time, and the replica is its target. -/
def hot : State := { die with
  sampleRead := [{ p := 0, bind := 2, row := 3, count := 2 }, { p := 0, bind := 2, row := 4, count := 1 }]
  filters := [{ p := 0, map := 2, shard := 0, hot := true, hotMs := 2 }] }
def accepted : State := { die with sampleRead := hot.sampleRead, parts := die.parts.modify 0 (fun x => { x with mig := { x.mig with accepts := [(2, 0, true)], proposals := [(2, 0)] } }) }
theorem test_meets_MigrationsAreDecided : (∃ x ∈ hot.filters, x.p = 0 ∧ x.map = 2 ∧ x.shard = 0 ∧ x.hot = true ∧ (policyOf hot.cfg.live).holdMs ≤ x.hotMs) ∧
    (2, 0, true) ∉ (hot.part 0).mig.accepts ∧ (2, 0, true) ∈ (accepted.part 0).mig.accepts ∧ accepted.filters = [] ∧ die.filters = [] ∧
    shardMapOf hot.cfg.live 0 2 = some shards ∧ soleBinding hot.cfg.live 0 2 = some 2 ∧ bindingOf hot.cfg.live 0 2 = some shardTable ∧ (shards.shards[0]?).isSome = true ∧
    (hot.part 0).paused = [] ∧ hot.mig.phase = 0 ∧ (policyOf hot.cfg.live).auto.testBit 0 = false ∧ hot.resetting 0 = false ∧
    (hot.upPart 0 (fun x => { x with busy := true })).resetting 0 = true ∧ hot.draining = false ∧
    (let s : State := { accepted with drain := { inForce := true } }; s.draining = true ∧ (2, 0, true) ∈ (s.part 0).mig.accepts) := by decide
theorem test_meets_MigrationsAreDecided_rows : hot.chosenRows 0 2 0 shards (policyOf hot.cfg.live) = [3] ∧
    (∀ m x, m = shards → m.shards[0]? = some x → ((hot.targets 0 shardTable m x [3]).map Prod.snd) = some none ∧
      hot.targets 0 shardTable m { x with replica := 0 } [3] = none)   := by
  constructor
  · decide
  · intro m x hm hx
    subst hm
    simp [shards] at hx
    subst hx
    decide
/-- A migration of row 3 in a phase. -/
def moving (phase : Nat) (acked : Bool) (rest : Bool) : State := { die with mig := { phase := phase, p := 0, map := 2, shard := 0, bind := 2, replica := true, epoch := 1, id := 3, rows := if rest then [{ row := 3, old := 0x100300, target := 0x180300, stack := 0, copied := acked, acked := acked }] else [] } }
theorem test_meets_MigrationsCopySwitchAndRelease : die.mig.phase = 0 ∧ (let s := moving 1 true true
      s.mig.phase = 1 ∧ bindingOf s.cfg.live s.mig.p s.mig.bind = some shardTable ∧ s.mig.rows ≠ [] ∧ (∀ r ∈ s.mig.rows, r.acked = true)) ∧
    (let s := moving 2 true true
     s.mig.phase = 2 ∧ s.cfg.txn.state = .idle ∧ s.cfg.committed = true ∧ shardMapOf s.cfg.live s.mig.p s.mig.map = some shards) ∧
    (let s : State := { moving 2 true true with cfg := { die.cfg with live := [] } }; shardMapOf s.cfg.live s.mig.p s.mig.map = none) ∧
    (let s := moving 3 true false
     s.mig.phase = 3 ∧ s.mig.abandoned = false ∧ s.mig.epoch ≤ s.cfg.oldest ∧ bindingOf s.cfg.live s.mig.p s.mig.bind = some shardTable ∧ s.mig.rows = []) ∧
    ({ moving 3 true true with cfg := { die.cfg with oldest := 0 } } : State).cfg.oldest < (moving 3 true true).mig.epoch ∧
    ({ (moving 3 true false).mig with abandoned := true } : Mig).abandoned = true ∧ accepted.windowOpen 0 = true ∧ (2, 0) ∈ (accepted.part 0).mig.proposals ∧
    (2, 0) ∉ (die.part 0).mig.proposals ∧ (moving 1 true true).mig.p = 0 ∧ (moving 1 true true).mig.p ≠ 1 := by decide

/-! ### Transactions and orders -/

/-- Core and control run on their loops, so that BEGIN is allowed. -/
def fast : State := { die with clk := { die.clk with coreSrc := 1, controlSrc := 1, coreLock := true, controlLock := true } }
/-- A transaction of partition 0 in a state. -/
def txn (x : TxnState) (owner : Nat) : State := { fast with cfg := { fast.cfg with txn := { state := x, owner := owner } } }
theorem test_meets_TransactionsOpenAndEnd : fast.windowOpen 0 = true ∧ fast.cfg.txn.state = .idle ∧ fast.cfg.regionValid = true ∧ fast.clk.onFastRc = false ∧
    fast.kettle.beginHold = false ∧ die.clk.onFastRc = true ∧ State.reset.cfg.regionValid = false ∧ State.reset.windowOpen 0 = true ∧
    ({ fast with kettle := { fast.kettle with beginHold := true } } : State).kettle.beginHold = true ∧ (fast.upPart 0 (fun x => { x with busy := true })).windowOpen 0 = false ∧ (fast.face 0).up = true ∧ (State.reset.face 0).up = false ∧
    ((txn .opened 0).cfg.txn.state = .opened ∧ (txn .opened 0).cfg.txn.owner = 0) ∧ (txn .opened 1).cfg.txn.owner ≠ 0 ∧
    ((txn .staging 0).cfg.txn.state ≠ .idle ∧ (txn .staging 0).cfg.txn.state ≠ .opened) := by decide
/-- A delta image that deletes binding 1 of partition 0 (R34, R35), with the check value of R37. -/
def deltaImage : Nat := 0x100010004000000000000000000000000000000000000000000000000000000000000000000000000000000000000000090c4ef050000000100000080010100014c434b48
theorem test_image_check : Image.check ⟨deltaImage, 128⟩ die.fuses 0 = (0, 0xFFF) ∧ Image.check ⟨deltaImage, 128⟩ l4.fuses 0 = (2, 0xFFF) ∧
    Image.check ⟨deltaImage + 1 <<< 160, 128⟩ die.fuses 0 = (3, 0xFFF) ∧ Image.check ⟨deltaImage, 128⟩ die.fuses 1 = (8, 0) := by decide +kernel
/-- STAGE of an image of `n` bytes at address 0 whose first line has come. -/
def staging (n bytes : Nat) (poisoned : Bool) : State :=
  let s := txn .staging 0
  { s with cfg := { s.cfg with txn := { s.cfg.txn with length := n } }, held := [{ cons := .stage, line := 0, bytes := BitVec.ofNat 1024 bytes, poisoned := poisoned }] }
theorem test_meets_ImagesAreStagedWhole : (txn .opened 0).cfg.txn.state ≠ .staging ∧ (staging 64 0 false).cfg.txn.state = .staging ∧ (staging 64 0 false).cfg.txn.failed = false ∧
    (let s := staging (2 ^ 26 + 1) 0 false; 2 ^ 26 < s.cfg.txn.length) ∧ (staging 64 0 false).cfg.txn.length ≤ 2 ^ 26 ∧
    (staging 129 0 false).getBytes .stage 0 129 = none ∧ (staging 64 5 true).getBytes .stage 0 64 = some (5, true) ∧
    (staging 64 5 false).getBytes .stage 0 64 = some (5, false) ∧ (Image.check ⟨5, 64⟩ die.fuses 0).1 ≠ 0 ∧
    (staging 128 deltaImage false).getBytes .stage 0 128 = some (deltaImage, false) ∧
    ({ (txn .staging 0).cfg.txn with failed := true } : Txn).failed = true := by decide +kernel
/-- A transaction that replaces the policy section, in a state; with `bad` it also has a binding on a shard map that does not exist. -/
def switching (x : TxnState) (bad : Bool) (owner : Nat) : State :=
  let s := txn x owner
  { s with cfg := { s.cfg with txn := { s.cfg.txn with staged := ⟨0xA, 0, 0, .policy {}⟩ :: if bad then [⟨4, 0, 9, .binding { table with shardMap := 77 }⟩] else [] } } }
theorem test_meets_SwitchesInstallTheStagedSections : (txn .opened 0).cfg.txn.state ≠ .validating ∧
    (let s := switching .validating true 0
     s.cfg.txn.state = .validating ∧ s.cfg.regionBad = false ∧ s.cfg.txn.failed = false ∧ s.cfg.txn.owner ≠ 0xFE ∧ (overlay s.cfg.live s.cfg.txn.staged).length = 11) ∧
    ({ fast with cfg := { fast.cfg with regionBad := true, txn := { state := .validating, owner := 0 } } } : State).cfg.regionBad = true ∧
    ({ (switching .validating false 0).cfg.txn with failed := true } : Txn).failed = true ∧
    (let s := switching .validating false 0
     let new := s.cfg.txn.result s.cfg.live
     s.cfg.txn.failed = false ∧ s.cfg.oldest = s.cfg.epoch ∧ (List.range 8).any (fun p => s.cachedPending p (s.switchLine new p) (s.switchSLine new p)) = false) ∧
    (let s : State := { fast with cfg := { fast.cfg with txn := { state := .validating, owner := 0, staged := [⟨2, 0, 0, .ways [0xFFFE, 0xFFFF]⟩] } }
                                  benches := die.benches.set 0 { chest := [{ set := 0, way := 0, line := 4, bytes := 0, pending := some 3 }] } }
     let new := s.cfg.txn.result s.cfg.live
     (List.range 8).any (fun p => s.cachedPending p (s.switchLine new p) (s.switchSLine new p)) = true) ∧
    (let s : State := { switching .validating false 0 with cfg := { (switching .validating false 0).cfg with epoch := 2 } }
     s.cfg.oldest ≠ s.cfg.epoch) ∧
    (let s := switching .switching false 0
     s.cfg.txn.state = .switching ∧ s.cfg.txn.switched = false ∧ s.oldestTile = s.cfg.epoch ∧ s.cfg.oldest ≤ s.cfg.epoch ∧ s.cfg.txn.owner ≠ 0xFE) ∧
    (switching .switching false 0xFE).cfg.txn.owner = 0xFE ∧ ({ (switching .switching false 0).cfg.txn with switched := true } : Txn).switched = true := by decide
/-- A new clock plan passes, and a spill segment under a tag that no partition has does not (R51, R59). -/
def policyTxn : Txn := { state := .validating, owner := 0, staged := [⟨0xB, 0, 0, .plan { depth := 1 }⟩] }
def brokenTxn : Txn := { state := .validating, owner := 0, staged := [⟨0xB, 0, 0, .plan {}⟩, ⟨0xC, 0, 0, .spill ⟨5 <<< 56, 4096⟩⟩] }
theorem test_meets_SwitchesInstallTheStagedSections_validate : (fast.face 0).up = true ∧ (State.reset.face 0).up = false ∧
    (let s : State := { fast with cfg := { fast.cfg with txn := policyTxn } }
     (s.validate (s.cfg.txn.result s.cfg.live)).1 = 0) ∧
    (let s : State := { fast with cfg := { fast.cfg with txn := brokenTxn } }
     s.validate (s.cfg.txn.result s.cfg.live) = (10, some 0xC000000)) := by decide +kernel
theorem test_meets_OrdersAreFetchedInTurn : (∃ o, ({ ringed with orders := [{ mkOrder 0x0B [] with q := 3, phase := .stage2 }] } : State).liveOf 0 = [o] ∧ o.q = 3 ∧ o.phase = .stage2) ∧
    ringed.eligible 0 3 = true ∧ ringed.eligible 0 2 = false ∧ (ringed.liveOf 0).find? (fun o => o.q == 3 && o.phase == .stage2) = none ∧
    (let s := ringed.upSq 0 3 (fun x => { x with base := 9 <<< 56 + 0x10000 })
     s.eligible 0 3 = true ∧ (s.xlate 0 (eaAdd (s.sq 0 3).base 0) false (.ring 0 3)).2 = .fault false false) ∧
    (let u := ringed.xlate 0 (eaAdd (ringed.sq 0 3).base 0) false (.ring 0 3)
     u.2 = .ok 0x10000 true ∧ u.1.heldLine (.ring 0 3) (0x10000 / 128) = none ∧ u.1.nextRing 0 = some 3) ∧
    (let s : State := { ringed with held := [{ cons := .ring 0 3, line := 512, bytes := 11, poisoned := true }] }
     (s.xlate 0 0x10000 false (.ring 0 3)).1.heldLine (.ring 0 3) 512 = some { cons := .ring 0 3, line := 512, bytes := 11, poisoned := true }) ∧
    (let s : State := { ringed with held := [{ cons := .ring 0 3, line := 512, bytes := 11 }] }
     (s.xlate 0 0x10000 false (.ring 0 3)).1.heldLine (.ring 0 3) 512 = some { cons := .ring 0 3, line := 512, bytes := 11 } ∧ (s.xlate 0 0x10000 false (.ring 0 3)).1.nextRing 0 = some 3) := by
  refine ⟨⟨_, rfl, rfl, rfl⟩, ?_⟩
  decide +kernel
/-- An order alone, at a phase. -/
def alone (o : Order) : State := { die with orders := [o] }
theorem test_meets_OrdersAreFetchedInTurn_proceed :
    (let o := { mkOrder 0x0C [(24, 1, 2)] with phase := .waiting }
     (alone o).order? o.id = some o ∧ o.status = none ∧ o.phase = .waiting ∧ (alone o).fenceHeld o = false ∧ o.pinned = true ∧ o.moves = false ∧ o.op ≠ 0x0A ∧ o.name ≠ some .pause) ∧
    (∀ op ∈ [0x0A, 0x0D], (let o := { mkOrder op [(4, 2, 5), (6, 2, 1)] with phase := .waiting }
     (alone o).fenceHeld o = false ∧ o.pinned = true ∧ o.moves = false ∧ (o.op = 0x0A ∨ o.name = some .pause))) ∧
    (let o := { mkOrder 0x06 [(6, 2, 1)] with phase := .waiting }
     (alone o).fenceHeld o = false ∧ o.pinned = true ∧ o.moves = true ∧ o.session = 0xFFFF ∧
     ({ alone o with orders := [{ mkOrder 0x0B [(24, 1, 2)] with id := 3 }, o] } : State).fenceHeld o = true) ∧
    (let o := { mkOrder 0x06 [(6, 2, 1)] with phase := .waiting, pinned := false, bindNo := 1 }
     ((alone o).upPart 0 (fun x => { x with paused := [(1, false)] })).waitsOnPause o = true) := by decide +kernel

/-! ### Control and session orders -/

/-- What holds of order 7 of a state. -/
def onOrder (s : State) (f : Order → Bool) : Bool := match s.order? 7 with | some o => f o | none => false
theorem test_meets_FencesPausesAndCountersAct :
    (let o := { mkOrder 0x0B [(24, 1, 2)] with waitFor := [3] }
     (alone o).order? o.id = some o ∧ (alone o).controlReady o = true ∧ o.name = some .fence ∧ (∀ i ∈ o.waitFor, (alone o).order? i = none) ∧
     (∃ i ∈ o.waitFor, (({ alone o with orders := [{ mkOrder 6 [] with id := 3 }, o] } : State).order? i).isSome = true)) ∧
    (let o := { mkOrder 0x0E [(6, 2, 1)] with bindNo := 1 }
     (alone o).controlReady o = true ∧ o.name = some .resume) ∧
    (let o := { mkOrder 0x0D [(6, 2, 1)] with bindNo := 1 }
     (alone o).controlReady o = true ∧ o.name = some .pause ∧ ¬((alone o).mig.phase ≠ 0 ∧ (alone o).mig.p = o.p ∧ (alone o).mig.bind = o.bindNo) ∧
     (alone o).bindingIdle 0 1 = true ∧ ({ alone o with orders := [{ mkOrder 6 [] with id := 3, bindNo := 1 }, o] } : State).bindingIdle 0 1 = false) ∧
    (let o := mkOrder 0x0C [(24, 1, 2), (32, 8, 0x1F00), (40, 4, 256)]
     (alone o).controlReady o = true ∧ o.name = some .stats ∧ o.pinned = true ∧ o.faults = [] ∧ ((alone o).statsRecord o).isSome = true ∧
     ((alone o).needPages o.id { t := 0xFFFFFFFF, bench := 0 } [{ ea := o.f 32 8, len := o.statsSize, write := true, kind := 4 }]).2.2 = .ok) ∧
    (let o := mkOrder 0x0C [(4, 2, 5)]; (alone o).statsRecord o = none) := by decide +kernel
/-- The crowd of sessions with one order of session `n`. -/
def crowdWith (o : Order) : State := { crowd with orders := [o] }
/-- The partition has one slot, which session 5 has, hinted or not; session 6 is parked. -/
def tight (h : Bool) (o : Order) : State := { die with
  cfg := { die.cfg with live := sections.filter (fun x => x.type != 9) ++ [⟨9, 0, 0, .quotas [(64, 1)]⟩] }
  ctxs := [{ p := 0, session := 5, state := .steeping, home := 0, hinted := h }, { p := 0, session := 6 }], orders := [o] }
theorem test_meets_SessionOrdersAct :
    (∀ n ∈ [5, 7], (let o := mkOrder 0x0A [(4, 2, n)]
      (crowdWith o).order? o.id = some o ∧ o.name = some .wake ∧ (crowdWith o).controlReady o = true ∧
      ((crowdWith o).ctx? 0 n).any (fun c => c.state == .warming || c.state == .steeping) = true)) ∧
    (let o := mkOrder 0x0A [(4, 2, 6)]
     ((crowdWith o).ctx? 0 6).any (fun c => c.state == .parked) = true ∧ (crowdWith o).freeSlot 0 = true ∧ (∀ w ∈ ((crowdWith o).part 0).waits, w.wake ≠ some o.id)) ∧
    (let o := mkOrder 0x0A [(4, 2, 8)]; ((crowdWith o).ctx? 0 8).any (fun c => c.state == .leaving) = true ∧ (crowdWith o).controlReady o = true) ∧
    (let o := mkOrder 0x0A [(4, 2, 0xFFFE)]; (crowdWith o).ctx? 0 0xFFFE = none ∧ (o.f 24 1).testBit 0 = false) ∧
    (∀ h ∈ [true, false], (let s := tight h (mkOrder 0x0A [(4, 2, 6)])
      (s.ctx? 0 6).any (fun c => c.state == .parked) = true ∧ s.freeSlot 0 = false ∧ s.canWake 0 = !h ∧ (s.part 0).waits = [])) ∧
    (let o := mkOrder 0x0A [(4, 2, 0xFFFE), (24, 1, 1)]
     (crowdWith o).ctx? o.p o.session = none ∧ (o.f 24 1).testBit 0 = true ∧ (crowdWith o).controlReady o = true ∧
     (crowdWith o).freeSlot 0 = true ∧ (crowd.ctxs.filter (fun c => c.p == 0)).length < (quotaOf crowd.cfg.live 0).1 ∧
     (freeTag (crowd.ctxs.map Ctx.index ++ crowd.repairs.filterMap (fun e => match e with | .withdrawn k => some k | _ => none)) 16384 0).isSome = true) ∧
    (let o := mkOrder 0x09 [(4, 2, 5)]
     o.name = some .park ∧ (crowdWith o).controlReady o = true ∧ (o.f 25 1).testBit 0 = false ∧ ((crowdWith o).ctx? 0 5).any (fun c => c.state == .steeping) = true ∧
     o.f 24 1 = 0 ∧ (crowdWith o).parkWaits o = false ∧ (crowdWith o).glueLive 0 5 = false ∧
     (let s : State := { crowd with orders := [{ mkOrder 0x04 [(4, 2, 5), (6, 2, 1)] with id := 3 }, o] }; s.parkWaits o = true ∧ s.glueLive 0 5 = true)) ∧
    (let o := mkOrder 0x09 [(4, 2, 5), (24, 1, 1)]
     (crowdWith o).controlReady o = true ∧ (o.f 25 1).testBit 0 = false ∧ ((crowdWith o).ctx? 0 5).any (fun c => c.state == .steeping) = true ∧ o.f 24 1 = 1) ∧
    (let o := mkOrder 0x09 [(4, 2, 6), (24, 1, 1)]; ((crowdWith o).ctx? 0 6).any (fun c => c.state == .parked) = true ∧ o.f 24 1 = 1) ∧
    (let o := mkOrder 0x09 [(4, 2, 0xFFFE)]; (crowdWith o).ctx? o.p o.session = none) ∧
    (∀ k ∈ [0, 1, 2, 3], (let o := mkOrder 0x07 [(24, 8, 0x1000), (32, 8, 0x400000), (40, 1, k)]
      o.name = some .advise ∧ o.status = none ∧ o.phase = .running ∧ o.acted = false ∧ o.f 40 1 = k)) := by decide +kernel
/-- Session 7 of partition 0 warms and its context is to move; with `n` sessions of partition 1 whose contexts are to move too. -/
def moves (n : Nat) : State := { die with
  ctxs := { p := 0, session := 7, state := .warming, home := 1 } :: List.replicate n { p := 1, session := 7, state := .warming, home := 4 } }
theorem test_meets_SessionsWarmSteepAndLeave :
    (∃ c, crowd.ctx? 0 7 = some c ∧ c.state = .warming ∧ crowd.benchReady c.home = true ∧ c.contextIn = true ∧ crowd.stage3Done c = true) ∧ crowd.resetting 0 = false ∧
    crowd.draining = false ∧ (∃ c, crowd.ctx? 0 5 = some c ∧ c.state ≠ .warming) ∧ (crowd.part 0).waits = [] ∧
    (let s : State := { crowd.upPart 0 (fun x => { x with waits := [⟨6, none, false, none⟩] }) with cfg := { crowd.cfg with live := sections.filter (fun x => x.type != 9) } }
     (s.part 0).waits ≠ [] ∧ (s.part 0).slice ≠ 0 ∧ s.freeSlot 0 = false ∧ s.orders = [] ∧ (∃ c ∈ s.ctxs, c.p = 0 ∧ c.state = .steeping) ∧
     (∀ c ∈ ({ s with ctxs := [{ p := 0, session := 6 }] } : State).ctxs, c.state ≠ .steeping)) ∧
    (∃ c, crowd.ctx? 0 8 = some c ∧ c.state = .leaving ∧ crowd.runningOf 0 8 = none ∧ crowd.savePending 0 8 = false ∧ c.preemptOrder = none ∧ (∀ o ∈ crowd.sessionOrders 0 8, o.phase ≠ .ending)) ∧ crowd.cupFor 0 = true ∧
    (∃ c, (moves 0).ctx? 0 7 = some c ∧ c.state = .warming ∧ c.contextIn = false ∧ (moves 0).benchReady c.home = true ∧ (moves 0).cupFor 0 = true ∧ (moves 1).cupFor 0 = false) ∧
    (∃ c, crowd.ctx? 0 10 = some c ∧ c.hinted = true ∧ c.state = .steeping) ∧ crowd.sessionOrders 0 10 = [] ∧ (∃ c, crowd.ctx? 0 9 = some c ∧ c.state ≠ .steeping) :=
  ⟨⟨_, rfl, by decide +kernel⟩, by decide +kernel, by decide +kernel, ⟨_, rfl, by decide +kernel⟩, by decide +kernel, by decide +kernel, ⟨_, rfl, by decide +kernel⟩, by decide +kernel,
    ⟨_, rfl, by decide +kernel⟩, ⟨_, rfl, by decide +kernel⟩, by decide +kernel, ⟨_, rfl, by decide +kernel⟩⟩

/-! ### Data orders -/

/-- Every line asked for comes, with one content. -/
def supply (bytes : Line) (s : State) : State :=
  { s with reads := [], held := s.held ++ s.reads.flatMap (fun r => r.left.map (fun i => { cons := ((r.wants.find? (fun w => w.2 == i)).map Prod.fst).getD .stage, line := r.line + i, bytes := bytes })) }
/-- Rows 3 and 4 of the table come, of zeros, with the witness marks of R160. -/
def rowLines (s : State) : State :=
  { s with reads := [], held := s.held ++ s.reads.flatMap (fun r => r.left.map (fun i => { cons := ((r.wants.find? (fun w => w.2 == i)).map Prod.fst).getD .stage, line := r.line + i, bytes := if r.line + i = 8196 then 4221774754 <<< 768 else if r.line + i = 8198 then 4221774754 else 0 })) }
/-- The lines that have come are poisoned, or the one of that number. -/
def poisons (l : Option Nat) (s : State) : State := { s with held := s.held.map (fun h => if l.isNone || l == some h.line then { h with poisoned := true } else h) }
/-- The state after a command. -/
def does (s : State) (c : Instr) : State := match exec c s with | .next t => t | _ => s
/-- A GATHER_POOL of one bag of two rows, which one stream names. -/
def gatherOrder : Order := { mkOrder 1 [(6, 2, 1), (10, 2, 1), (24, 8, 0x1000), (48, 8, 0x200000), (56, 4, 160), (60, 4, 1), (64, 4, 2), (68, 1, 0xFF), (69, 1, 4)] with
  binding := some table, bindNo := 1, jig := some gatherJig
  streams := [{ field := 24, addr := 0x1000, base := 0x3000, counts := (2, 1, 1, 1), strides := (0, 0, 0), elem := 0 }] }
/-- Its tile after the elements have come, and delivered. -/
def delivered : State := does (supply (3 + 4 <<< 32) (does (alone gatherOrder) (.tileDeliver 7 0))) (.tileDeliver 7 0)
def pooled : State := does (rowLines delivered) (.gatherPool 7 0)
/-- What the delivery of tile 0 of order 7 finds: what its pages answer, and what its source rows do. -/
def deliverable (s : State) (f : Need → Need → Bool) : Bool := onOrder s (fun o =>
  let s0 := s.powerUp 0
  let x := match o.tile? 0 with | some tile => (o.setTile tile).setTile tile | none => o
  let u := s0.upOrder 7 (fun _ => x)
  o.phase == .running && o.status.isNone && o.bagsKnown && !o.needsBags 0 && o.tileSpan 0 == some (0, 2, 0) && s.tileBench o 0 0 == 0 && s0.mayPrepare o 0 0 && decide (s0.openBefore o 0 ≤ o.pagesAhead) &&
  match o.tile? 0 with
  | some tile =>
    let r := u.needPages 7 tile (u.tileAccesses x 0 0 2 tile.elems (u.tileSlots x 0 2 tile.elems))
    tile.elems == [3, 4] && r.1.mayDeliver x 0 0 && r.1.shareFree x 0 &&
      f r.2.2 (r.1.tileNeeds x r.2.1 (State.sourceLines x r.2.1 0 2) (r.1.sourceSpace x r.2.1 0 2)).2.2
  | none => false)
theorem test_meets_TilesAreDeliveredAndConsumed :
    deliverable (alone { gatherOrder with tiles := [{ t := 0, bench := 0, elems := [3, 4] }] }) (fun p n => p == .ok && n == .ok) = true ∧
    deliverable { alone { gatherOrder with tiles := [{ t := 0, bench := 0, elems := [3, 4] }] } with ranges := [] } (fun p _ => p == .wait) = true ∧
    onOrder pooled (fun o => o.tile? 0 |>.any (fun t => t.worked && !t.consumed && pooled.tileIssued o t)) = true ∧
    onOrder delivered (fun o => o.tile? 0 |>.any (fun t => t.delivered && !t.worked)) = true ∧
    onOrder (does pooled (.tileConsumed 7 0)) (fun o => (o.tile? 0).any (fun t => t.consumed) || decide (o.watermark = 1)) = true := by decide +kernel
theorem test_meets_TilesAreDeliveredAndConsumed_faults :
    (let o := { gatherOrder with faults := [{ info := { addr := 0x1000, access := 0 } }] }
     (o.faults.find? (fun x => x.id.isNone && (o.status.isNone || x.info.access == 3))).isSome = true ∧ (alone o).resetting o.p = false ∧
     freeTag (((alone o).part o.p).faults.map PFault.id) 1024 0 = some 0) ∧ gatherOrder.faults = [] ∧
    (let o := { gatherOrder with faults := [{ info := { addr := 0x1000, access := 0, stream := 0, tile := 0 }, id := some 0 }] }
     o.phase = .running ∧ (alone o).resetting o.p = false ∧ o.status = none ∧ (∀ t ∈ o.tiles, t.inUse = false) ∧
     (match o.streams.filter (fun x => o.quiescedAt x && !x.faulted) with
      | [x] => o.stream? x.field == some x && ((alone { o with streams := [{ x with back := some 1 }] }).backStream 7 x (o.descBytes x 9)).2
      | _ => false) = true) ∧
    (let o := { gatherOrder with faults := [{ info := { addr := 0x1000, access := 3 } }], status := some (0x11, 0) }
     (o.faults.find? (fun x => x.id.isNone && (o.status.isNone || x.info.access == 3))).isSome = true) ∧
    onOrder delivered (fun o => o.tiles.any Tile.inUse) = true := by decide +kernel
/-- The hypotheses on order 7 and its tile 0 that every row reader has. -/
def readyTile (s : State) (f : Order → Binding → Tile → Nat → Nat → Bool) : Bool := onOrder s (fun o =>
  match o.binding, o.tile? 0, o.tileSpan 0 with
  | some b, some tile, some (first, len, _) => o.status.isNone && o.phase == .running && tile.delivered && !tile.worked && s.benchTurn o 0 && f o b tile first len
  | _, _, _ => false)
def copyOut : Order := { mkOrder 8 [(6, 2, 1), (24, 8, 0x200000), (40, 4, 3), (44, 4, 2), (48, 4, 128), (52, 1, 1)] with binding := some table, bindNo := 1 }
def copyIn : Order := { mkOrder 8 [(6, 2, 1), (24, 8, 0x200000), (40, 4, 3), (44, 4, 2), (48, 4, 128), (52, 1, 0)] with binding := some table, bindNo := 1 }
def warm : Order := { mkOrder 6 [(6, 2, 1), (32, 4, 999), (36, 4, 2), (40, 1, 3)] with binding := some table, bindNo := 1 }
def copying : State := does (alone copyOut) (.tileDeliver 7 0)
def writing : State := supply 0 (does (does (supply 0 (does (alone copyIn) (.tileDeliver 7 0))) (.tileDeliver 7 0)) (.copyRows 7 0))
/-- The bag of order 7 lies whole in its tile and no part of it is pooled: its first row whose mark fails, and whether one is poisoned. -/
def wholeBag (s : State) (f : Option Nat → Bool → Bool) : Bool := readyTile s (fun o b tile first len =>
  o.bagParts first len == [(0, 0, 2)] && (o.emptyBags tile.t first len).isEmpty && o.outDone.isEmpty && o.parts.isEmpty && o.struck.isEmpty &&
  o.bagList[0]? == some (first, 2) && s.outRoom tile.bench &&
  match s.tileRows o tile b with
  | some rows =>
    let used := rows.filter (fun r => tile.elems.any (fun i => (b.map i).row? == some r.1.row))
    let bad := fun (r : RowAt × ℕ × ℕ × Bool) => r.2.2.2 || trPoisoned r.2.2.1
    f ((used.find? (fun r => !bad r && !markGood b r.2.1 r.2.2.1)).map (fun r => r.1.row)) (used.any bad)
  | none => false)
theorem test_meets_RowReadersWorkTheirTiles_bag : wholeBag (rowLines delivered) (fun r p => r.isNone && !p) = true ∧
    wholeBag (supply 0 delivered) (fun r p => r == some 3 && !p) = true ∧ wholeBag (poisons none (supply 0 delivered)) (fun r p => r.isNone && p) = true := by decide +kernel
/-- The tile of a COPY_ROWS out of the table has its rows, of which row 3 is poisoned or has a good mark; row 1000 is outside the table. -/
def rowsOut (s : State) (poisoned good : Bool) : Bool := readyTile s (fun o b tile _ _ => o.f 52 1 == 1 && s.outRoom tile.bench && (b.map 1000).row?.isNone &&
  match s.tileRows o tile b, (b.map 3).row? with
  | some rows, some r => (match rows.find? (fun y => y.1.row == r) with
    | some y => r == 3 && (y.2.2.2 || trPoisoned y.2.2.1) == poisoned && (poisoned || markGood b y.2.1 y.2.2.1 == good) && !trDefault y.2.2.1
    | none => false)
  | _, _ => false)
theorem test_meets_RowReadersWorkTheirTiles_row : rowsOut (rowLines copying) false true = true ∧ rowsOut (supply 0 copying) false false = true ∧
    rowsOut (poisons none (supply 0 copying)) true true = true ∧
    (let s := does (alone warm) (.tileDeliver 7 0); onOrder s (fun o => decide (s.openBefore o 0 ≤ o.rowsAhead)) = true) := by decide +kernel
theorem test_meets_RowReadersWorkTheirTiles_gather :
    readyTile delivered (fun o b tile _ _ => o.name == some .gather && (delivered.tileRows o tile b).isNone) = true ∧
    (let s := supply 0 delivered
     readyTile s (fun o b tile _ _ => (s.tileRows o tile b).isSome && tile.slots.all (fun r => tile.got.contains r.slot) && tile.slots.length == 2)) = true := by decide +kernel
theorem test_meets_RowReadersWorkTheirTiles_copy :
    readyTile copying (fun o b tile _ _ => o.name == some .copy && copying.mayReadRows o && copying.copyTurn o tile && o.f 52 1 != 0 && (copying.tileRows o tile b).isNone) = true ∧
    (let s := supply 0 copying; readyTile s (fun o b tile _ _ => (s.tileRows o tile b).isSome && tile.slots.all (fun r => tile.got.contains r.slot))) = true ∧
    readyTile writing (fun o b tile _ _ => o.name == some .copy && writing.mayReadRows o && writing.copyTurn o tile && o.f 52 1 == 0 && tile.slots.length == 2 &&
      (writing.prepRows o.id tile b o.bindNo (writing.mapFor o.p b o.smap) tile.slots false).2 == .ok) = true := by decide +kernel
theorem test_meets_RowReadersWorkTheirTiles_prefetch :
    (let s := does (alone warm) (.tileDeliver 7 0)
     readyTile s (fun o b tile _ _ => o.name == some .prefetch && s.mayReadRows o && (tile.elems.filter (· < b.rowCount)).eraseDups == [999] && tile.got.isEmpty &&
       (match s.prefetchRow o b tile (s.placeRow b (s.mapFor o.p b o.smap) o.jig 999) with | (_, .done c) => c | _ => false))) = true ∧
    (let s := does (alone warm) (.tileDeliver 7 0)
     onOrder { s with ranges := [] } (fun o => match o.binding, o.tile? 0 with
      | some b, some tile => (match State.prefetchRow { s with ranges := [] } o b tile (s.placeRow b none o.jig 999) with | (_, .wait) => true | _ => false)
      | _, _ => false)) = true := by decide +kernel
/-- A SCORE of session 5, with its queries read, on the benches of a jig. -/
def scoreJig : Jig := { kind := 3, benchMask := 0x0F, lead := 0, tileOrder := 1, qTile := 16, kTile := 256, dims := 128, fmt := 0, topK := 4, accTiles := 1 }
def scoring (op : Nat) : Order := { mkOrder op [(4, 2, 5), (8, 2, 1), (10, 2, 1), (24, 8, 0x200000), (52, 2, 1), (54, 2, 4)] with
  aux := some { table with rowBytes := 64, fmt := 0, stride := 96 }, auxNo := 1, jig := some scoreJig, queries := [(3, [7])], keyRows := 300 }
def accOrder (op : Nat) (addr : Nat) : Order := mkOrder op [(4, 2, 5), (24, 8, addr), (32, 2, 2047), (34, 2, 1), (36, 2, 1)]
theorem test_meets_StrainerOrdersStep :
    (∀ op ∈ [2, 3], (let s := crowdWith (scoring op)
      let o := scoring op
      s.order? o.id = some o ∧ (o.name = some .score ∨ o.name = some .recall) ∧ o.status = none ∧ o.phase = .running ∧ o.stepHeld ((s.nextStep o 3).map (fun y => y.2.2)) = false ∧ o.phase2 = false ∧
      3 ∈ setBits scoreJig.benchMask ∧ s.sessionRuns o = true ∧ s.benchReady 3 = true ∧ s.mayReadRows o = true ∧ s.resetting 0 = false ∧ s.readHeader 7 3 = (s, .ok) ∧ s.readQueries 7 3 = (s, .ok) ∧
      o.saved = [] ∧ o.stopping = false ∧ o.queries ≠ [] ∧ o.steps.any (fun y => y.1 == 3) = false ∧ s.roomOn o 3 = true ∧
      State.roomOn { s with ctxs := s.ctxs.map (fun (c : Ctx) => { c with tiles := [{ slot := 0, rows := 2048, fp := false, vals := [] }] }) } o 3 = false ∧
      ({ o with steps := [(3, 0)] } : Order).steps.any (fun y => y.1 == 3) = true)) ∧
    ({ scoring 2 with phase2 := true } : Order).name = some .recall := by decide +kernel
/-- Bench 0 has tile 0 to score, delivered or not, and bench 3 has no step; the array of bench 0 is free, or has an order that can step. -/
def stepping (d : Bool) : Order := { scoring 3 with tiles := [{ t := 0, bench := 0, elems := [3], left := 1, delivered := d }] }
theorem test_meets_StrainerOrdersStep_steps :
    (∀ d ∈ [true, false], (let o := stepping d
      let s := crowdWith o
      s.nextStep o 0 = some (0, 0, 0) ∧ s.nextStep o 3 = none ∧ s.arrayFree o 0 = true ∧ (o.tile? 0).any (fun t => t.delivered == d) = true ∧ o.tileSpan 0 = some (0, 256, 0) ∧
      State.arrayFree (State.upBench { s with orders := [{ o with id := 3 }, o] } 0 (fun b => { b with array := some 3 })) o 0 = false)) ∧
    ((crowdWith (stepping true)).tileRows (stepping true) { t := 0, bench := 0, slots := [] } table).any List.isEmpty = true ∧
    ((crowdWith (stepping true)).tileRows (stepping true) { t := 0, bench := 0, slots := [{ row := 3, slot := 0x1001E0, trailer := 0x100260 }] } table).isNone = true ∧
    (stepping true).badSels = [] ∧ scoreJig.transposed = false ∧
    (let bad := fun (r : RowAt × ℕ × ℕ × Bool) => r.2.2.2 || trPoisoned r.2.2.1 || !markGood table r.2.1 r.2.2.1
     (([] : List (RowAt × ℕ × ℕ × Bool)).find? bad).isNone = true ∧ ([({ row := 3, slot := 0, trailer := 0 }, 0, 0, false)].find? bad).isSome = true ∧
     ([({ row := 3, slot := 0, trailer := 0 }, 0, 0, true)].find? bad).isSome = true) ∧
    ([({ bench := 3, t := 0, fp := false, vals := [], poisoned := true } : ScoreTile)].find? (fun y => y.bench == 3 && y.t == 0)).any ScoreTile.poisoned = true := by decide +kernel
/-- A line asked for again has come; a kept tile record has no line missing. -/
def loading (header : Nat) (poisoned : Bool) : State :=
  let s := crowdWith (accOrder 0x0F 0x200000)
  { s with held := (List.range 9).map (fun i => { cons := .order 7, line := 0x4000 + i, bytes := BitVec.ofNat 1024 (if i = 0 then header else 0), poisoned := poisoned }) }
theorem test_meets_StrainerOrdersStep_load :
    (∃ c, (loading 0 false).ctx? 0 5 = some c ∧ (loading 0 false).accReady (accOrder 0x0F 0x200000) .accLoad c = true ∧
      (loading 0 false).storeUsed c.home 7 + 1 * 1024 ≤ storeBytes ∧ ((loading 0 false).readArea 7 c.home ((accOrder 0x0F 0x200000).accAt 0) (tileBytes 1) 5).2 = some (0, false) ∧
      ((loading 0 true).readArea 7 c.home ((accOrder 0x0F 0x200000).accAt 0) (tileBytes 1) 5).2 = some (0, true) ∧
      ((loading (1 <<< 24) false).readArea 7 c.home ((accOrder 0x0F 0x200000).accAt 0) (tileBytes 1) 5).2 = some (1 <<< 24, false)) ∧
    (∃ c, (crowdWith (accOrder 0x10 0x200000)).ctx? 0 5 = some c ∧ (crowdWith (accOrder 0x10 0x200000)).accReady (accOrder 0x10 0x200000) .accStore c = true ∧
      ((crowdWith (accOrder 0x10 0x200000)).needPages 7 { t := 0xFFFFFFFF, bench := c.home } [{ ea := (accOrder 0x10 0x200000).accAt 0, len := tileBytes 1, write := true, kind := 4 }]).2.2 = .ok) :=
  ⟨⟨_, rfl, by decide +kernel⟩, ⟨_, rfl, by decide +kernel⟩⟩
theorem crcBytes_low (n k v c : Nat) : crcBytes n (v <<< (8 * (n + k))) c = crcBytes n 0 c := by
  induction n generalizing c with
  | zero => rfl
  | succ n ih =>
    have h0 : v <<< (8 * (n + 1 + k)) % 256 = 0 := by
      rw [Nat.shiftLeft_eq, show 8 * (n + 1 + k) = 8 + 8 * (n + k) by omega, pow_add, show (2 : Nat) ^ 8 = 256 by norm_num, mul_left_comm, Nat.mul_mod_right]
    have h1 : v <<< (8 * (n + 1 + k)) / 256 = v <<< (8 * (n + k)) := by
      rw [Nat.shiftLeft_eq, Nat.shiftLeft_eq, show 8 * (n + 1 + k) = 8 + 8 * (n + k) by omega, pow_add, show (2 : Nat) ^ 8 = 256 by norm_num, mul_left_comm, Nat.mul_div_cancel_left _ (by norm_num)]
    rw [crcBytes, h0, h1, ih, crcBytes]
theorem crcBytes_zeros (m n c : Nat) : crcBytes (m + n) 0 c = crcBytes n 0 (crcBytes m 0 c) := by rw [crcBytes_add, Nat.zero_div]
theorem test_zeros : crcBytes 1024 0 0xFFFFFFFF = 290529667 := by
  rw [show (1024 : Nat) = 64 + (64 + (64 + (64 + (64 + (64 + (64 + (64 + (64 + (64 + (64 + (64 + (64 + (64 + (64 + ( 64))))))))))))))) from rfl, crcBytes_zeros 64, crcBytes_zeros 64, crcBytes_zeros 64, crcBytes_zeros 64, crcBytes_zeros 64, crcBytes_zeros 64, crcBytes_zeros 64, crcBytes_zeros 64, crcBytes_zeros 64, crcBytes_zeros 64, crcBytes_zeros 64, crcBytes_zeros 64, crcBytes_zeros 64, crcBytes_zeros 64, crcBytes_zeros 64,
    show crcBytes 64 0 4294967295 = 4231468184 by decide +kernel,
    show crcBytes 64 0 4231468184 = 4158167844 by decide +kernel,
    show crcBytes 64 0 4158167844 = 2345306063 by decide +kernel,
    show crcBytes 64 0 2345306063 = 1200442991 by decide +kernel,
    show crcBytes 64 0 1200442991 = 64332339 by decide +kernel,
    show crcBytes 64 0 64332339 = 1158271177 by decide +kernel,
    show crcBytes 64 0 1158271177 = 3425213895 by decide +kernel,
    show crcBytes 64 0 3425213895 = 3473084991 by decide +kernel,
    show crcBytes 64 0 3473084991 = 968469611 by decide +kernel,
    show crcBytes 64 0 968469611 = 534250289 by decide +kernel,
    show crcBytes 64 0 534250289 = 2006181900 by decide +kernel,
    show crcBytes 64 0 2006181900 = 3318006521 by decide +kernel,
    show crcBytes 64 0 3318006521 = 4236110739 by decide +kernel,
    show crcBytes 64 0 4236110739 = 225952960 by decide +kernel,
    show crcBytes 64 0 225952960 = 3222365018 by decide +kernel,
    show crcBytes 64 0 3222365018 = 290529667 by decide +kernel]
theorem test_crc_of_a_record : crc32c (5 <<< 8192) (1 * 1024 + 2) = 3206891704 := by
  rw [crc32c, show 1 * 1024 + 2 = 1024 + 2 from rfl, crcBytes_add, show (8192 : Nat) = 8 * (1024 + 0) from rfl, crcBytes_low, test_zeros]
  decide +kernel
theorem test_meets_StrainerOrdersStep_marks : tileGood (3206891704 <<< 64) 1 5 = true ∧ tileGood 0 1 5 = false := by
  have h : (5 % 2 ^ 16) <<< (8 * (1 * 1024)) = 5 <<< 8192 := by decide +kernel
  constructor
  · show (crc32c (((3206891704 <<< 64) >>> 1024) % 2 ^ (8 * (1 * 1024)) + (5 % 2 ^ 16) <<< (8 * (1 * 1024))) (1 * 1024 + 2) == _) = true
    rw [show ((3206891704 <<< 64) >>> 1024) % 2 ^ (8 * (1 * 1024)) + (5 % 2 ^ 16) <<< (8 * (1 * 1024)) = 5 <<< 8192 by decide +kernel, test_crc_of_a_record]
    decide +kernel
  · show (crc32c ((0 >>> 1024) % 2 ^ (8 * (1 * 1024)) + (5 % 2 ^ 16) <<< (8 * (1 * 1024))) (1 * 1024 + 2) == _) = false
    rw [show (0 >>> 1024) % 2 ^ (8 * (1 * 1024)) + (5 % 2 ^ 16) <<< (8 * (1 * 1024)) = 5 <<< 8192 by decide +kernel, test_crc_of_a_record]
    decide +kernel
def scatterJig : Jig := { kind := 4, benchMask := 0x0F, lead := 0, tileOrder := 1, mergeShare := 16384 }
def scatterOrder : Order := { mkOrder 4 [(6, 2, 1), (10, 2, 1), (24, 8, 0x1000), (32, 8, 0x200000), (40, 4, 256), (44, 1, 5)] with
  binding := some { table with update := 2 }, bindNo := 1, jig := some scatterJig
  streams := [{ field := 24, addr := 0x1000, base := 0x3000, counts := (2, 1, 1, 1), strides := (0, 0, 0), elem := 0 }] }
/-- A SCATTER_MERGE whose tile is delivered, and after its work and its consumption. -/
def scattering : State :=
  let s := does (supply (3 + 4 <<< 32) (does (alone scatterOrder) (.tileDeliver 7 0))) (.tileDeliver 7 0)
  does (supply 0 s) (.tileDeliver 7 0)
def appendOrder : Order := { mkOrder 5 [(4, 2, 5), (6, 2, 1), (10, 2, 1), (24, 8, 0x200000), (40, 4, 128), (48, 4, 2)] with
  binding := some table, bindNo := 1, jig := some { scatterJig with kind := 5 } }
def appending : State :=
  let s := does (supply 0 (does (crowdWith appendOrder) (.tileDeliver 7 0))) (.tileDeliver 7 0)
  supply 0 (does s (.appendRows 7 0))
def merged : State := does (does scattering (.scatterMerge 7 0)) (.tileConsumed 7 0)
/-- The merge until the rows of the order have come. -/
def merging : State := rowLines (does merged (.mergePoint 7))
/-- Order 7 comes to stage 2 from ring 3 on a die of a variant, with the records of its epoch, its session (poisoned or not), and
the line of its descriptors. -/
def checked (v : Variant) (bad : Bool) (desc : Nat) (o : Order) : State :=
  { die with fuses := { die.fuses with variant := v }, ctxs := [{ p := 0, session := 5, state := .steeping, home := 0, poisoned := bad }]
             held := [{ cons := .desc 7, line := 32, bytes := BitVec.ofNat 1024 desc }]
             orders := [{ o with q := 3, phase := .stage2, book := ⟨4, 0, 3, .binding { table with update := 2 }⟩ :: ⟨6, 0, 2, .jig scatterJig⟩ :: sections }] }
/-- The failures of the order's own fields, those of its descriptors and counts (9 where they have not come), and what is armed at each
descriptor (0 nothing). -/
def checks (s : State) : List (List (Nat × Nat)) :=
  match s.order? 7 with
  | some o => match o.name with
    | some n =>
      let w := s.withRecords o.book o n
      let r := s.readDescs 7 (w.descs.filter (fun d => (s.pe 0).hasTag (eaTag d.2)))
      [s.headerFails w n ++ s.bodyFails w n, (r.2.map (fun vs => let xs := vs.map (fun d => (readDesc d.1 d.2.1 d.2.2, d.2.2))
        xs.flatMap (fun x => descFails (s.pe 0) n x.1 x.2) ++ countFails w n (xs.map Prod.fst))).getD [(9, 9)], w.descs.map (fun d => (d.1, (r.1.armedAt 0 d.2).getD 0))]
    | none => []
  | none => []
/-- A descriptor of two elements, a pooling of one bag of two rows that it names, and one of two bags whose descriptors are one. -/
def twoElems : Nat := 0x3000 + 2 <<< 64 + 1 <<< 96 + 1 <<< 128 + 1 <<< 160
def pooling (n : Nat) : Order := mkOrder 1 [(4, 2, n), (6, 2, 1), (10, 2, 1), (24, 8, 0x1000), (48, 8, 0x200000), (56, 4, 160), (60, 4, 1), (64, 4, 2), (68, 1, 0xFF), (69, 1, 4)]
def bagged : Order := mkOrder 1 [(6, 2, 1), (10, 2, 1), (24, 8, 0x1000), (32, 8, 0x1000), (48, 8, 0x200000), (56, 4, 160), (60, 4, 2), (68, 1, 0xFF), (69, 1, 4)]
theorem test_meets_OrdersAreFetchedInTurn_checks :
    (∃ o, (checked .t8 false twoElems (pooling 0xFFFF)).liveOf 0 = [o] ∧ o.q = 3 ∧ o.phase = .stage2 ∧ o.status = none ∧ o.faulty = false ∧
      (checked .t8 false twoElems (pooling 0xFFFF)).fenceHeld o = false) ∧
    (mkOrder 0xEE []).name = none ∧ unitFails .t8 .gather = [] ∧
    (let s := checked .t8 false twoElems (pooling 0xFFFF); s.draining = false ∧ ({ s with drain := { inForce := true } } : State).draining = true) := by
  refine ⟨⟨_, rfl, rfl, rfl, rfl, rfl, by decide +kernel⟩, ?_⟩
  decide +kernel
theorem test_meets_OrdersAreFetchedInTurn_pass :
    checks (checked .t8 false twoElems (pooling 0xFFFF)) = [[], [], [(24, 0)]] ∧
    checks (checked .t8 true twoElems (pooling 5)) = [[], [], [(24, 0)]] ∧ ((checked .t8 true twoElems (pooling 5)).ctx? 0 5).any Ctx.poisoned = true := by decide +kernel
theorem test_meets_OrdersAreFetchedInTurn_fails :
    checks (checked .t8 false 0 (mkOrder 6 [])) = [[(1, 6), (1, 36), (1, 40)], [], []] ∧
    checks { checked .t8 false twoElems (pooling 0xFFFF) with held := [] } = [[], [(9, 9)], [(24, 0)]] ∧
    checks (checked .t8 false (twoElems + 1 <<< 64) (pooling 0xFFFF)) = [[], [(1, 24)], [(24, 0)]] ∧
    checks (checked .t8 false twoElems bagged) = [[], [], [(24, 0), (32, 0)]] ∧
    checks (checked .t8 false twoElems gatherOrder) = [[], [], [(24, 1)]] ∧
    checks (checked .l4 false 0 (accOrder 0x0F 0x200000)) = [[(5, 8)], [], []] ∧
    checks (checked .s8 false twoElems (mkOrder 4 [(6, 2, 3), (10, 2, 2), (24, 8, 0x1000), (32, 8, 0x200000), (40, 4, 256), (44, 1, 5)])) = [[], [(5, 3)], [(24, 0)]] := by decide +kernel
theorem test_meets_GlueUpWorksItsTiles_scatter :
    readyTile scattering (fun o b tile first len => o.name == some .scatter && o.jig == some scatterJig && !o.faultAt 0 && len == 2 &&
      (scattering.needPages o.id tile ((scattering.scatter o b scatterJig tile first len).spills.map (fun y =>
          { ea := spillAt scatterJig (o.spill.getD ⟨0, 0⟩) b.elems y.2.bench y.2.lane y.1, len := spillBytes b.elems, write := true, kind := 6 }))).2.2 == .ok) = true := by decide +kernel
theorem test_meets_GlueUpWorksItsTiles_append :
    readyTile appending (fun o b tile _ _ => o.name == some .append && appending.mayReadRows o && tile.slots.length == 2 &&
      (let r := (appending.appendTables o b).foldl (fun (st : State × Need) x => if st.2 = .stop then st else
          ((st.1.prepRows o.id tile x.bind x.no x.map (tile.slots.filter (fun r => r.aux == x.aux)) false).1,
            if (st.1.prepRows o.id tile x.bind x.no x.map (tile.slots.filter (fun r => r.aux == x.aux)) false).2 = .ok then st.2
            else (st.1.prepRows o.id tile x.bind x.no x.map (tile.slots.filter (fun r => r.aux == x.aux)) false).2)) (appending, .ok)
       r.2 == .ok)) = true := by decide +kernel
theorem test_meets_GlueUpWorksItsTiles_merge :
    onOrder scattering (fun o => o.name == some .scatter && o.status.isNone && o.phase == .running && o.jig == some scatterJig && o.watermark < o.tileCount) = true ∧ scattering.resetting 0 = false ∧
    onOrder merged (fun o => o.tileCount ≤ o.watermark && !o.rowsLeft.isEmpty && !((merged.upOrder 7 (fun o => { o with merging := true })).mergeRow 7 3).2) = true ∧
    onOrder merging (fun o => ((setBits scatterJig.benchMask).filterMap (fun b => o.rowsLeft.find? (fun r => rowOwner scatterJig r == b))).filter (fun r => !o.mergeHeld.any (fun x => x.1 == r)) == [4, 3]) = true ∧
    ((merging.upOrder 7 (fun o => { o with merging := true })).mergeRow 7 4).2 = true ∧ onOrder (does (does merging (.mergePoint 7)) (.mergePoint 7)) (fun o => o.tileCount ≤ o.watermark && o.rowsLeft.isEmpty) = true ∧
    ((die.bench 3).wc = [] ∧ (die.upBench 3 (fun b => { b with wc := [⟨5, 1, 0, [.order 7], 0, 0, none⟩] })).bench 3 =
      { ({} : Bench) with wc := [⟨5, 1, 0, [.order 7], 0, 0, none⟩] }) := by decide +kernel
/-- Row 4 of order 7 is entered, nothing of its slot is under way and all that it needs is there. -/
def appliable (s : State) (f : Order → Binding → State → Entered → List (List Frag) → Bool) : Bool := onOrder s (fun o => match o.binding, o.jig with
  | some b, some j =>
    let lists := (setBits j.benchMask).map (fun x => o.fragsOf x 4)
    match s.mergeEnter o.id o b j 4 with
    | (u, some y) =>
      let x : Entered := ⟨y.tile, u.rowNow o y.tile b y.row⟩
      let v := u.readRow o x.tile b o.bindNo (u.mapFor o.p b o.smap) x.row true
      let w := v.1.readSpills o.id o j (o.spill.getD ⟨0, 0⟩) b.elems x (lists.flatten.filter (fun f => f.spilled.isSome))
      let z := w.1.needLines (.upd o.id x.row.slot) o.p { bench := some w.2.1.bench, epoch := w.2.1.epoch, age := w.2.1.born, space := fun _ => w.2.1.under b.stateBase }
        (if b.update = 3 then pieceLines (w.2.1.pieces (b.stateAt 4) 4) else [])
      let q := z.1.migReady o.p b 4
      !u.slotWriting o.id x.row.slot && !u.rowReadsOn o.p x.row.slot && v.2 == .ok && w.2.2 == .ok && z.2 == .ok && q.2 && f o b q.1 ⟨w.2.1, x.row⟩ lists
    | _ => false
  | _, _ => false)
/-- The row it finds: poisoned or not, and whether its mark is good. -/
def rowFound (s : State) (poisoned good : Bool) : Bool := appliable s (fun o b s x lists => match s.rowData (.upd o.id x.row.slot) x.tile b x.row with
  | some (p, tr, bad) => (bad || trPoisoned tr) == poisoned && (poisoned || markGood b p tr == good) && o.struck.isEmpty && !lists.flatten.any Frag.poisoned
  | none => false)
/-- The same merge under the rule with a state entry for each row. -/
def merging3 : State :=
  let o := { scatterOrder with binding := some { table with update := 3, stateBase := 0x300000 } }
  let s := does (supply (3 + 4 <<< 32) (does (alone o) (.tileDeliver 7 0))) (.tileDeliver 7 0)
  let s := does (does (does (supply 0 s) (.tileDeliver 7 0)) (.scatterMerge 7 0)) (.tileConsumed 7 0)
  rowLines (does s (.mergePoint 7))
theorem test_meets_GlueUpWorksItsTiles_apply : rowFound merging false true = true ∧ rowFound (supply 0 (does merged (.mergePoint 7))) false false = true ∧
    rowFound (poisons none merging) true true = true ∧ rowFound merging3 false true = true ∧
    appliable (poisons (some 0x6000) merging3) (fun o b s x _ => s.pieceBytes (.upd o.id x.row.slot) (x.tile.pieces (b.stateAt x.row.row) 4) == some (0, true) &&
      (match s.rowData (.upd o.id x.row.slot) x.tile b x.row with | some (p, tr, bad) => !bad && !trPoisoned tr && markGood b p tr | none => false)) = true := by decide +kernel
/-- A lane with room for 3 fragments: one of row 8 or none, room or none. -/
theorem test_meets_GlueUpWorksItsTiles_lanes : laneSlots scatterJig 64 = 3 ∧
    (let f := fun (r p : Nat) => ({ bench := 0, lane := 5, row := r, count := 1, acc := [], lastPos := p } : Frag)
     let here := fun (f : Frag) => f.bench == 0 && f.lane == laneOf scatterJig 21 && f.spilled.isNone
     (∃ g ∈ [f 7 1, f 8 2], here g = true ∧ g.row = 8) ∧ (∀ g ∈ [f 7 1, f 9 2], here g = true → g.row ≠ 8) ∧ ([f 7 1, f 9 2].filter here).length < 3 ∧
     (∀ g ∈ [f 7 1, f 9 2, f 10 3], here g = true → g.row ≠ 8 ∧ 1 ≤ g.lastPos ∧ (g.lastPos = 1 → g = f 7 1)) ∧ here (f 7 1) = true ∧ 3 ≤ ([f 7 1, f 9 2, f 10 3].filter here).length) := by decide
theorem test_meets_GlueUpWorksItsTiles_rows :
    readyTile appending (fun o b tile first len => first == 0 && len == 2 && (appending.appendTables o b).all (fun x => (List.range 2).all (fun i =>
      appending.pieceBytes (.tile 7 0) (tile.pieces (o.source x.aux i) 128) == some (0, false)))) = true ∧
    (let s := poisons none appending; readyTile s (fun o b tile _ _ => (s.appendTables o b).all (fun x => s.pieceBytes (.tile 7 0) (tile.pieces (o.source x.aux 0) 128) == some (0, true))) = true) ∧
    onOrder merged (fun o => match o.binding, o.jig with | some b, some j => (merged.mergeEnter 7 o b j 4).2.isSome | _, _ => false) = true ∧
    [WriteFor.order 7].any WriteFor.isRow = false ∧ [WriteFor.rowOf 7 1 0 0].any WriteFor.isRow = true ∧ die.badCopy 0 5 = false := by decide +kernel
theorem test_meets_OrdersCompleteInSessionOrder_record :
    (let s := ringed.upPq 0 19 (fun x => { x with held := [⟨2 ^ 192 - 1, false, none⟩] })
     (s.pq 0 19).enabled = true ∧ (s.pq 0 19).free ≠ 0 ∧ s.rstDie = none ∧ (s.pq 0 19).held = ⟨2 ^ 192 - 1, false, none⟩ :: [] ∧
     (s.xlate 0 (eaAdd (s.pq 0 19).base (32 * (s.pq 0 19).tail)) true (.ring 0 19)).2 = .ok 0x20000 true) ∧
    (∀ op ∈ [1, 2, 3, 4, 5, 6, 7, 8, 9, 0x0A, 0x0B, 0x0C, 0x0D, 0x0E, 0x0F, 0x10], (mkOrder op []).name.isSome = true) := by decide +kernel
theorem test_meets_OrdersCompleteInSessionOrder :
    onOrder delivered (fun o => o.status.isNone && !delivered.finished o && o.after.isEmpty) = true ∧ delivered.resetting 0 = false ∧
    (delivered.upPart 0 (fun x => { x with busy := true })).resetting 0 = true ∧
    (let o := { gatherOrder with after := [3] }; (∃ i ∈ o.after, (({ alone o with orders := [{ mkOrder 6 [] with id := 3 }, o] } : State).order? i).isSome = true)) ∧
    (let s := does pooled (.tileConsumed 7 0)
     onOrder s (fun o => s.finished o && ((s.flushOrder 7).owesWrites o) && o.streams.any (fun x => !x.ended)) = true ∧
     (let u := { s.flushOrder 7 with writes := [], benches := die.benches }
      onOrder u (fun o => u.finished o && !(u.flushOrder 7).owesWrites o && (match ((u.flushOrder 7).endStreams o).order? 7 with | some v => v.streams.all Stream.ended | none => false)) = true)) := by decide +kernel

/-! ### Numerics, records, selection -/

theorem test_meets_RequantisationRoundsTheMagnitude : (∀ f ∈ [0, 1], f = 0 ∨ f = 1) ∧ 1 ≤ ((36 : Nat) : Int) + (-35) ∧ ((58 : Nat) : Int) + 4 ≤ 62 ∧ 1610612736 < 2 ^ 31 ∧ (2147483647 : Int).natAbs < 2 ^ 31 ∧
    (-2147483647 : Int).natAbs < 2 ^ 31 ∧
    ({ red := 2, elems := 1, int := true, mode := 1, tree := none, tau := f32one, factors := [] } : Pool).intAcc = true ∧ ({ count := 1, fp := false, iacc := [some 5] } : Partial).count = 1 := by decide
theorem test_meets_EventRecordsHoldTheirFields :
    (let s := ringed.upPq 0 33 (fun x => { x with held := [⟨eventBytes 0xFFFF 0xFF 0xFFFF 0xFFFF (2 ^ 64 - 1) (2 ^ 64 - 1), false, none⟩] })
     (s.pq 0 33).enabled = true ∧ (s.pq 0 33).free ≠ 0 ∧ (s.pq 0 33).held = ⟨eventBytes 0xFFFF 0xFF 0xFFFF 0xFFFF (2 ^ 64 - 1) (2 ^ 64 - 1), false, none⟩ :: [] ∧
     (s.xlate 0 (eaAdd (s.pq 0 33).base (32 * (s.pq 0 33).tail)) true (.ring 0 33)).2 = .ok 0x30000 true) := by decide +kernel
theorem test_meets_SelectionIsExact : [(3, (5 : Int), (0 : F32)), (4, 5, 0), (3, 5, 0)].Perm [(4, 5, 0), (3, 5, 0), (3, 5, 0)] ∧
    (∀ x ∈ [(3, (5 : Int), (0 : F32)), (4, 5, 0), (3, 5, 0)], ∀ y ∈ [(3, (5 : Int), (0 : F32)), (4, 5, 0), (3, 5, 0)], x.1 = y.1 → x = y) ∧
    (selKey true 0x7F800000).isSome = true ∧ (selKey true 0x80000000).isSome = true := by decide +kernel

/-! ### Worked examples of the spec -/

/-- 08_numerics.md, requantising a pooled INT8 row: m = 3 × 2^29, se = 36. -/
theorem test_requantise_example : [5000, -2560, -64, 6000, 1].map (fun a => let r := requant 1 1610612736 36 none (some a); (r.code, r.sat, r.under)) =
    [(117, false, false), (256 - 60, false, false), (256 - 2, false, false), (127, true, false), (0, false, true)] := by decide
/-- 08_numerics.md, the next step: the same accumulators with se = 37. -/
theorem test_requantise_next_step : [6000, 5000, -64].map (fun a => (requant 1 1610612736 37 none (some a)).code) = [70, 59, 256 - 1] := by decide
/-- 02_cut_lists.md, after R61: 384 MiB pass for this binding and jig, and 256 MiB do not. -/
theorem test_spill_example :
    let b : Binding := { table with update := 2, maxBatch := 1048576 }
    let j : Jig := { scatterJig with benchMask := 0xFF, mergeShare := 2 ^ 21 }
    spillReason b j (384 * 2 ^ 20) = [] ∧ spillReason b j (256 * 2 ^ 20) = [0x0C] := by decide
/-- 05_streams_and_tiles.md, a fault mid-way through a three-dimensional stream: offsets of positions 9,472 and 9,727, and the bench of tile 37. -/
theorem test_stream_example :
    let x : Stream := { field := 24, addr := 0, base := 0x21007F0000800000, counts := (64, 32, 8, 1), strides := (2048, 65536, 0), elem := 0 }
    x.offset 9472 = 303104 ∧ x.offset 9727 + 3 = 309503 ∧ x.addrOf 9600 = 0x21007F000084B000 ∧ ({ scatterJig with benchMask := 0x3C } : Jig).benchOf 37 0 = 3 := by decide
/-- 09_glue_up.md, a lane that spills to the bound: the first record of lane 5 of the bench of rank 2. -/
theorem test_spill_record_example :
    spillAt { scatterJig with benchMask := 0xFF, mergeShare := 2 ^ 21 } ⟨0x1300400000000000, 402653184⟩ 64 2 5 0 = 0x1300400006F00000 := by decide
/-- 17_registers.md, from first light to a doorbell, steps 1, 2 and 12. -/
theorem test_register_example : regAt up 0 = some 0x1A7C5110 ∧ regAt up 4 = some 0x00886487 ∧
    regAt { up with cfg := { up.cfg with committed := true, live := [⟨1, 0, 0, .partitions [{}, {}, { enabled := true, benchMask := 0x3C, hostFace := 1, tagBase := 0x20, tagCount := 16 }]⟩] } } 0x30000 =
      some 0x08101E32 := by decide
/-- 17_registers.md, from first light to a doorbell, step 21: tail 1 and the hint in one word. -/
theorem test_doorbell_example : after (.partDb 0 3 0x01070002) (ringed.upSq 0 3 (fun x => { x with tail := 0 })) (fun t => (t.sq 0 3).tail == 2) = true := by decide
/-- 10_stacks_and_shards.md, a hot shard moves: the slot of row 43,000,117. -/
theorem test_shard_example :
    let m : ShardMap := { shardRows := 2097152, shards := List.replicate 20 { primary := 0, pStack := 0 } ++ [{ primary := 0x2200500000000000, pStack := 3 }], redirects := [] }
    (placeWrites { table with rowBytes := 224, stride := 256, shardMap := 6 } (some m) 43000117).map (fun r => (r.slot, r.shard)) = [(0x2200500010213500, some 20)] := by decide

/-- The hypotheses of AccumulatorsHoldTheirInfinity about a raw accumulator word and a format are met at the edge. -/
theorem test_meets_AccumulatorsHoldTheirInfinity :
    (0x80000001 < 2 ^ 32 ∧ 0x80000001 ≠ 0x80000000) ∧ (2 ≤ 5 ∧ 5 ≤ 5) ∧ fltB f32zero f32one = true := by decide
end Sys2Proof.Tests
end

section
/-! SUPPORT. How the oldest record of a produced ring is written (R99, R126, R130), and the event records of R130. -/

namespace Sys2Proof.Machine

/-- The 32 bytes as which ring `r` writes a record: its own 24 bytes with the ring's phase bit set in them, and the stamp (R99, R126). -/
def State.writtenBytes (s : State) (p r : Nat) (rec : Rec) : Nat :=
  rec.bytes % 2 ^ 192 + (s.stamp <<< 192) + (if (s.pq p r).phase then 2 ^ phaseBit r else 0)

theorem State.writtenBytes_eq {s : State} {p r : Nat} {rec : Rec} (hr : r ≠ 32) (hb : rec.bytes < 2 ^ 192) :
    s.writtenBytes p r rec = rec.bytes + 2 ^ 16 * b2n (s.pq p r).phase + 2 ^ 192 * s.stamp := by
  have hphase : (if (s.pq p r).phase then 2 ^ phaseBit r else 0) = 2 ^ 16 * b2n (s.pq p r).phase := by
    cases (s.pq p r).phase <;> simp [phaseBit, hr, b2n]
  rw [State.writtenBytes, hphase, Nat.mod_eq_of_lt hb, Nat.shiftLeft_eq]
  ring

/-- With space in an enabled ring and the tail's page known, `pumpOne` writes the oldest record there. Of the produced rings,
the event ring alone does so under a die reset. -/
theorem State.pumpOne_writes {s u : State} {p r pa : Nat} {wr : Bool} {rec : Rec} {rest : List Rec}
    (hon : (s.pq p r).enabled = true) (hfree : (s.pq p r).free ≠ 0) (hdie : s.rstDie = none ∨ r = 33)
    (hheld : (s.pq p r).held = rec :: rest)
    (hpage : s.xlate p (eaAdd (s.pq p r).base (32 * (s.pq p r).tail)) true (.ring p r) = (u, .ok pa wr)) :
    ∃ v : State, s.pumpOne p r =
      ((v.postLine (.record p r) p (s.hostFace p) (pa / 128) (BitVec.ofNat 128 ((2 ^ 32 - 1) <<< (pa % 128)))
        (BitVec.ofNat 1024 (s.writtenBytes p r rec <<< (8 * (pa % 128)))) false (if rec.now then some (ringVector r, false) else none)
        (u.spaceAt p (s.pq p r).base)).scaleWritten p rec.scale, none) := by
  have hopen : (!(s.pq p r).enabled || decide ((s.pq p r).free = 0) || (s.rstDie.isSome && decide (r ≠ 33))) = false := by
    have hgo : s.rstDie.isSome = true → r = 33 := fun h => hdie.resolve_left fun hn => by simp [hn] at h
    simpa [hon, hfree] using hgo
  simp only [State.pumpOne, hheld, hopen, hpage]
  exact ⟨_, rfl⟩

/-! An event record whose fields have the sizes that R130 gives them. -/

section
variable {code sq session slot a0 a1 : Nat} (hcode : code < 2 ^ 16) (hsq : sq < 2 ^ 8) (hsession : session < 2 ^ 16)
  (hslot : slot < 2 ^ 16) (h0 : a0 < 2 ^ 64) (h1 : a1 < 2 ^ 64)
include hcode hsq hsession hslot h0 h1

theorem eventBytes_eq : eventBytes code sq session slot a0 a1 =
    code + 2 ^ 24 * sq + 2 ^ 32 * session + 2 ^ 48 * slot + 2 ^ 64 * a0 + 2 ^ 128 * a1 := by
  simp only [eventBytes, recordOf, List.foldl, Nat.shiftLeft_eq, Nat.zero_add, Nat.mul_zero, Nat.pow_zero, Nat.mul_one, Nat.reduceMul]
  omega

theorem eventBytes_lt : eventBytes code sq session slot a0 a1 < 2 ^ 192 := by
  rw [eventBytes_eq hcode hsq hsession hslot h0 h1]
  omega

/-- The phase falls into byte 2, which an event record leaves free, and the stamp after its 24 bytes: every field is read back. -/
theorem eventBytes_fields {stamp r : Nat} (phase : Bool)
    (hr : r = eventBytes code sq session slot a0 a1 + 2 ^ 16 * b2n phase + 2 ^ 192 * stamp) :
    r % 2 ^ 16 = code ∧ r / 2 ^ 16 % 2 ^ 8 = b2n phase ∧ r / 2 ^ 24 % 2 ^ 8 = sq ∧ r / 2 ^ 32 % 2 ^ 16 = session ∧
      r / 2 ^ 48 % 2 ^ 16 = slot ∧ r / 2 ^ 64 % 2 ^ 64 = a0 ∧ r / 2 ^ 128 % 2 ^ 64 = a1 ∧ r / 2 ^ 192 = stamp := by
  have hphase : b2n phase ≤ 1 := by cases phase <;> decide
  rw [eventBytes_eq hcode hsq hsession hslot h0 h1] at hr
  refine ⟨?_, ?_, ?_, ?_, ?_, ?_, ?_, ?_⟩ <;> omega

end

end Sys2Proof.Machine

open Sys2Proof.Machine

/-- Settles O59: the two queueing clauses are the definitions of the two kinds of event; the written record is that of
`pumpOne_writes`, whose fields `eventBytes_fields` reads. -/
theorem eventRecordsHoldTheirFields : Obligations.EventRecordsHoldTheirFields := by
  refine ⟨fun _ _ _ _ _ => rfl, fun _ _ _ _ _ => rfl, ?_⟩
  intro s p pa code sq session slot a0 a1 now wr sc rest u hcode hsq hsession hslot h0 h1 hon hfree hheld hpage
  obtain ⟨v, hv⟩ := State.pumpOne_writes hon hfree (.inr rfl) hheld hpage
  have hbytes := State.writtenBytes_eq (s := s) (p := p) (r := 33) (rec := ⟨_, now, sc⟩) (by decide)
    (eventBytes_lt hcode hsq hsession hslot h0 h1)
  exact ⟨v, _, _, hv, eventBytes_fields hcode hsq hsession hslot h0 h1 _ hbytes⟩
end

section
/-! SUPPORT. The selector's order of entries, what an insertion does to a ranked list, and what makes a list the selection of a
sequence of candidates (R206). -/

namespace Sys2Proof.Machine

/-! The order of entries: a strict order, in which entries of different rows are never level. -/

section
variable {a b c : Nat × Int × F32}

theorem selBefore_iff : selBefore a b = true ↔ b.2.1 < a.2.1 ∨ (a.2.1 = b.2.1 ∧ a.1 < b.1) := by
  simp [selBefore]

theorem selBefore_asymm (h : selBefore a b = true) : selBefore b a = false := by
  rw [← Bool.not_eq_true, selBefore_iff]
  rw [selBefore_iff] at h
  omega

theorem selBefore_irrefl (a : Nat × Int × F32) : selBefore a a = false := by
  simp [selBefore]

theorem selBefore_of_row_ne (hrow : a.1 ≠ b.1) (h : selBefore b a = false) : selBefore a b = true := by
  rw [← Bool.not_eq_true, selBefore_iff] at h
  rw [selBefore_iff]
  omega

/-- An entry that ranks before `b` ranks before all that `b` is level with or before. -/
theorem selBefore_of_before_of_rank (hab : selBefore a b = true) (hcb : selBefore c b = false) : selBefore a c = true := by
  rw [← Bool.not_eq_true, selBefore_iff] at hcb
  rw [selBefore_iff] at hab ⊢
  omega

theorem selBefore_trans (hab : selBefore a b = true) (hbc : selBefore b c = true) : selBefore a c = true :=
  selBefore_of_before_of_rank hab (selBefore_asymm hbc)

end

/-- `a` ranks as high as `b`, or higher. -/
def selRank (a b : Nat × Int × F32) : Bool := !selBefore b a

@[simp] theorem selRank_iff {a b : Nat × Int × F32} : selRank a b = true ↔ selBefore b a = false := by
  simp [selRank]

theorem selRank_total (a b : Nat × Int × F32) : selRank a b = true ∨ selRank b a = true := by
  rw [selRank_iff, selRank_iff]
  cases h : selBefore b a
  case false => exact .inl rfl
  case true => exact .inr (selBefore_asymm h)

theorem selRank_trans (a b c : Nat × Int × F32) (hab : selRank a b = true) (hbc : selRank b c = true) : selRank a c = true := by
  rw [selRank_iff] at *
  rw [← Bool.not_eq_true]
  intro hca
  exact absurd (selBefore_of_before_of_rank hca hab) (by simp [hbc])

/-! Ranked lists: best first, each row once. -/

/-- Every entry ranks before all that follow it, and has a row of its own. -/
def Ranked (l : List (Nat × Int × F32)) : Prop := l.Pairwise (fun a b => selBefore a b = true ∧ a.1 ≠ b.1)

theorem ranked_iff {l : List (Nat × Int × F32)} :
    Ranked l ↔ l.Pairwise (fun a b => selRank a b = true) ∧ (l.map Prod.fst).Nodup := by
  rw [Ranked, List.Nodup, List.pairwise_map]
  exact ⟨fun h => ⟨h.imp fun hab => selRank_iff.2 (selBefore_asymm hab.1), h.imp And.right⟩,
    fun ⟨hrank, hrows⟩ => (hrank.and hrows).imp fun ⟨hab, hrow⟩ => ⟨selBefore_of_row_ne hrow (selRank_iff.1 hab), hrow⟩⟩

theorem Ranked.nodup {l : List (Nat × Int × F32)} (h : Ranked l) : l.Nodup := (ranked_iff.1 h).2.of_map

/-- Two ranked lists of the same entries are one list. -/
theorem Ranked.eq_of_mem_iff {l m : List (Nat × Int × F32)} (hl : Ranked l) (hm : Ranked m) (h : ∀ x, x ∈ l ↔ x ∈ m) : l = m := by
  have hperm : l.Perm m := (List.perm_ext_iff_of_nodup hl.nodup hm.nodup).2 h
  exact hperm.eq_of_pairwise (fun a b _ _ hab hba => absurd hba.1 (by simp [selBefore_asymm hab.1])) hl hm

/-- An entry of a ranked list stands among its first `k`, or these are `k` entries which rank before it. -/
theorem Ranked.mem_take_or_before {l : List (Nat × Int × F32)} (h : Ranked l) (k : Nat) {x : Nat × Int × F32} (hx : x ∈ l) :
    x ∈ l.take k ∨ ((l.take k).length = k ∧ ∀ y ∈ l.take k, selBefore y x = true) := by
  have hsplit : Ranked (l.take k ++ l.drop k) := by rwa [List.take_append_drop]
  rw [← List.take_append_drop k l, List.mem_append] at hx
  refine hx.imp_right fun hdrop => ⟨?_, fun y hy => ((List.pairwise_append.1 hsplit).2.2 y hy x hdrop).1⟩
  have : 0 < (l.drop k).length := List.length_pos_of_mem hdrop
  rw [List.length_drop] at this
  rw [List.length_take]
  omega

/-! The insertion: an entry of the same row that is as good stops it; otherwise the new one takes its place among the entries
of the other rows. -/

/-- The entries of other rows than `x`'s. -/
def otherRows (l : List (Nat × Int × F32)) (x : Nat × Int × F32) : List (Nat × Int × F32) := l.filter (fun y => y.1 != x.1)

@[simp] theorem mem_otherRows {l : List (Nat × Int × F32)} {x y : Nat × Int × F32} : y ∈ otherRows l x ↔ y ∈ l ∧ y.1 ≠ x.1 := by
  simp [otherRows]

/-- Of a list with each row once, at most one entry has the row of `x`. -/
theorem length_le_length_otherRows {l : List (Nat × Int × F32)} (h : (l.map Prod.fst).Nodup) (x : Nat × Int × F32) :
    l.length ≤ (otherRows l x).length + 1 := by
  have hone : (l.filter (fun y => y.1 == x.1)).length ≤ 1 := by
    rw [← List.countP_eq_length_filter]
    simpa [List.count, List.countP_map, Function.comp_def] using List.nodup_iff_count_le_one.1 h x.1
  have hparts : l.length = (l.filter (fun y => y.1 == x.1)).length + (otherRows l x).length :=
    l.length_eq_length_filter_add (fun y => y.1 == x.1)
  omega

/-- The ranked list with `x` in the place of the entries of its row. -/
def placed (x : Nat × Int × F32) (l : List (Nat × Int × F32)) : List (Nat × Int × F32) := insertBy selRank x (otherRows l x)

theorem placed_perm (x : Nat × Int × F32) (l : List (Nat × Int × F32)) : (placed x l).Perm (x :: otherRows l x) := insertBy_perm ..

@[simp] theorem mem_placed {l : List (Nat × Int × F32)} {x y : Nat × Int × F32} : y ∈ placed x l ↔ y = x ∨ (y ∈ l ∧ y.1 ≠ x.1) := by
  rw [(placed_perm x l).mem_iff, List.mem_cons, mem_otherRows]

@[simp] theorem length_placed (x : Nat × Int × F32) (l : List (Nat × Int × F32)) :
    (placed x l).length = (otherRows l x).length + 1 := (placed_perm x l).length_eq

theorem place_eq_insertBy (x : Nat × Int × F32) (m : List (Nat × Int × F32)) :
    m.takeWhile (fun y => selBefore y x) ++ x :: m.dropWhile (fun y => selBefore y x) = insertBy selRank x m := by
  induction m with
  | nil => rfl
  | cons y ys ih => cases hyx : selBefore y x <;> simp [insertBy, hyx, ih]

theorem selInsert_of_kept {k : Nat} {l : List (Nat × Int × F32)} {x y : Nat × Int × F32} (hy : y ∈ l) (hrow : y.1 = x.1)
    (hrank : selBefore x y = false) : selInsert k l x = l := by
  rw [selInsert, if_pos]
  exact List.any_eq_true.2 ⟨y, hy, by simp [hrow, hrank]⟩

theorem selInsert_of_better {k : Nat} {l : List (Nat × Int × F32)} {x : Nat × Int × F32}
    (h : ∀ y ∈ l, y.1 = x.1 → selBefore x y = true) : selInsert k l x = (placed x l).take k := by
  have hnone : ¬ l.any (fun y => y.1 == x.1 && !selBefore x y) = true := by
    rw [List.any_eq_true]
    rintro ⟨y, hy, hkept⟩
    simp only [Bool.and_eq_true, beq_iff_eq, Bool.not_eq_true'] at hkept
    simp [h y hy hkept.1] at hkept
  rw [selInsert, if_neg hnone]
  exact congrArg (List.take k) (place_eq_insertBy x (otherRows l x))

theorem ranked_placed {l : List (Nat × Int × F32)} (h : Ranked l) (x : Nat × Int × F32) : Ranked (placed x l) := by
  obtain ⟨hrank, hrows⟩ := ranked_iff.1 h
  refine ranked_iff.2 ⟨insertBy_sorted selRank selRank_total selRank_trans x _ (hrank.filter _), ?_⟩
  rw [((placed_perm x l).map Prod.fst).nodup_iff, List.map_cons, List.nodup_cons]
  exact ⟨by simp, hrows.sublist (List.filter_sublist.map _)⟩

/-! The selection of a sequence of candidates. -/

/-- The candidate `x` stands in `l` as its row at a rank as good, or `l` is full of entries that rank before it. -/
def Covered (k : Nat) (l : List (Nat × Int × F32)) (x : Nat × Int × F32) : Prop :=
  (∃ y ∈ l, y.1 = x.1 ∧ selBefore x y = false) ∨ (l.length = k ∧ ∀ y ∈ l, selBefore y x = true)

/-- `l` holds the `k` best of the candidates `xs`, each row once (R206). -/
structure IsSelection (k : Nat) (xs l : List (Nat × Int × F32)) : Prop where
  length_le : l.length ≤ k
  mem : ∀ x ∈ l, x ∈ xs
  ranked : Ranked l
  covered : ∀ x ∈ xs, Covered k l x

/-- What a ranked list holds at a rank as good, its first `k` entries cover. -/
theorem Ranked.covered_take {l : List (Nat × Int × F32)} (h : Ranked l) (k : Nat) {x y : Nat × Int × F32} (hy : y ∈ l)
    (hrow : y.1 = x.1) (hrank : selBefore x y = false) : Covered k (l.take k) x :=
  (h.mem_take_or_before k hy).imp (fun hmem => ⟨y, hmem, hrow, hrank⟩)
    fun ⟨hlen, hbefore⟩ => ⟨hlen, fun z hz => selBefore_of_before_of_rank (hbefore z hz) hrank⟩

theorem Ranked.covered_take_placed {l : List (Nat × Int × F32)} (h : Ranked l) (k : Nat) (x : Nat × Int × F32) :
    Covered k ((placed x l).take k) x :=
  (ranked_placed h x).covered_take k (mem_placed.2 (.inl rfl)) rfl (selBefore_irrefl x)

section
variable {l : List (Nat × Int × F32)} {x : Nat × Int × F32} (hl : Ranked l) (hnew : ∀ y ∈ l, y.1 = x.1 → selBefore x y = true)
include hl hnew

/-- A new entry that stays in a full list has pushed out one that it ranks before: the one of its row, or else the last. -/
theorem exists_before_of_mem_take_placed (hx : x ∈ (placed x l).take l.length) : ∃ w ∈ l, selBefore x w = true := by
  by_cases hrow : ∃ w ∈ l, w.1 = x.1
  case pos =>
    obtain ⟨w, hw, hwx⟩ := hrow
    exact ⟨w, hw, hnew w hw hwx⟩
  case neg =>
    have hrows : otherRows l x = l := List.filter_eq_self.2 fun y hy => by simpa using fun h => hrow ⟨y, hy, h⟩
    obtain ⟨w, hw⟩ : ∃ w, w ∈ (placed x l).drop l.length := List.exists_mem_of_length_pos (by simp [hrows])
    have hsplit : Ranked ((placed x l).take l.length ++ (placed x l).drop l.length) := by
      rw [List.take_append_drop]
      exact ranked_placed hl x
    have hxw := (List.pairwise_append.1 hsplit).2.2 x hx w hw
    rcases mem_placed.1 (List.mem_of_mem_drop hw) with rfl | ⟨hmem, -⟩
    · exact absurd rfl hxw.2
    · exact ⟨w, hmem, hxw.1⟩

/-- A candidate that a full list has left behind stays left behind. -/
theorem before_of_mem_take_placed {y z : Nat × Int × F32} (hbefore : ∀ y ∈ l, selBefore y z = true)
    (hy : y ∈ (placed x l).take l.length) : selBefore y z = true := by
  rcases mem_placed.1 (List.mem_of_mem_take hy) with rfl | ⟨hmem, -⟩
  · obtain ⟨w, hw, hyw⟩ := exists_before_of_mem_take_placed hl hnew hy
    exact selBefore_trans hyw (hbefore w hw)
  · exact hbefore y hmem

/-- What the list covers, it covers still with a new entry in place. -/
theorem Covered.take_placed {k : Nat} {z : Nat × Int × F32} (h : Covered k l z) : Covered k ((placed x l).take k) z := by
  rcases h with ⟨y, hy, hrow, hrank⟩ | ⟨rfl, hbefore⟩
  · by_cases hyx : y.1 = x.1
    case pos =>
      have hxz := selBefore_of_before_of_rank (hnew y hy hyx) hrank
      exact (ranked_placed hl x).covered_take k (mem_placed.2 (.inl rfl)) (hyx.symm.trans hrow) (selBefore_asymm hxz)
    case neg => exact (ranked_placed hl x).covered_take k (mem_placed.2 (.inr ⟨hy, hyx⟩)) hrow hrank
  · refine .inr ⟨?_, fun y hy => before_of_mem_take_placed hl hnew hbefore hy⟩
    rw [List.length_take, length_placed]
    exact min_eq_left (length_le_length_otherRows (ranked_iff.1 hl).2 x)

end

theorem IsSelection.nil (k : Nat) : IsSelection k [] [] := ⟨by simp, by simp, .nil, by simp⟩

/-- Every insertion keeps the list the selection of the candidates so far. -/
theorem IsSelection.insert {k : Nat} {xs l : List (Nat × Int × F32)} (h : IsSelection k xs l) (x : Nat × Int × F32) :
    IsSelection k (xs ++ [x]) (selInsert k l x) := by
  by_cases hkept : ∃ y ∈ l, y.1 = x.1 ∧ selBefore x y = false
  case pos =>
    obtain ⟨y, hy, hrow, hrank⟩ := hkept
    rw [selInsert_of_kept hy hrow hrank]
    refine ⟨h.length_le, fun z hz => List.mem_append_left _ (h.mem z hz), h.ranked, fun z hz => ?_⟩
    rcases List.mem_append.1 hz with hz | hz
    · exact h.covered z hz
    · rw [List.mem_singleton.1 hz]
      exact .inl ⟨y, hy, hrow, hrank⟩
  case neg =>
    have hnew : ∀ y ∈ l, y.1 = x.1 → selBefore x y = true := by
      simpa only [not_exists, not_and, Bool.not_eq_false] using hkept
    rw [selInsert_of_better hnew]
    refine ⟨List.length_take_le .., fun z hz => ?_, (ranked_placed h.ranked x).take, fun z hz => ?_⟩
    · rcases mem_placed.1 (List.mem_of_mem_take hz) with rfl | ⟨hmem, -⟩
      · simp
      · exact List.mem_append_left _ (h.mem z hmem)
    · rcases List.mem_append.1 hz with hz | hz
      · exact (h.covered z hz).take_placed h.ranked hnew
      · rw [List.mem_singleton.1 hz]
        exact h.ranked.covered_take_placed k x

theorem isSelection_foldl (k : Nat) (xs : List (Nat × Int × F32)) : IsSelection k xs (xs.foldl (selInsert k) []) := by
  induction xs using List.reverseRecOn with
  | nil => exact .nil k
  | append_singleton xs x ih =>
    rw [List.foldl_concat]
    exact ih.insert x

/-! Candidates of which each row has one score have one selection. -/

section
variable {k : Nat} {xs l m : List (Nat × Int × F32)} (hone : ∀ x ∈ xs, ∀ y ∈ xs, x.1 = y.1 → x = y)
include hone

theorem IsSelection.mem_or_full (h : IsSelection k xs l) {x : Nat × Int × F32} (hx : x ∈ xs) :
    x ∈ l ∨ (l.length = k ∧ ∀ y ∈ l, selBefore y x = true) :=
  (h.covered x hx).imp_left fun ⟨y, hy, hrow, _⟩ => hone y (h.mem y hy) x hx hrow ▸ hy

theorem IsSelection.subset (hl : IsSelection k xs l) (hm : IsSelection k xs m) : l ⊆ m := by
  intro x hx
  rcases hm.mem_or_full hone (hl.mem x hx) with hmem | ⟨hfull, hbefore⟩
  · exact hmem
  have hsub : m ⊆ l := fun y hy => (hl.mem_or_full hone (hm.mem y hy)).resolve_right fun ⟨_, hlate⟩ =>
    absurd (hlate x hx) (by simp [selBefore_asymm (hbefore y hy)])
  have hperm : m.Perm l := (hm.ranked.nodup.subperm hsub).perm_of_length_le (hfull ▸ hl.length_le)
  exact hperm.mem_iff.2 hx

theorem IsSelection.unique (hl : IsSelection k xs l) (hm : IsSelection k xs m) : l = m :=
  hl.ranked.eq_of_mem_iff hm.ranked fun _ => ⟨fun h => hl.subset hone hm h, fun h => hm.subset hone hl h⟩

end

/-- A selection does not depend on the order of the candidates. -/
theorem IsSelection.of_perm {k : Nat} {xs ys l : List (Nat × Int × F32)} (h : IsSelection k xs l) (hperm : xs.Perm ys) :
    IsSelection k ys l :=
  ⟨h.length_le, fun x hx => hperm.mem_iff.1 (h.mem x hx), h.ranked, fun x hx => h.covered x (hperm.mem_iff.2 hx)⟩

/-! The keys of score words. -/

theorem iaccRead_of_ne {v : Nat} (hv : v < 2 ^ 32) (hne : v ≠ 0x80000000) :
    iaccRead v = some (if v < 2 ^ 31 then (v : Int) else v - 2 ^ 32) := by
  rw [iaccRead, signedOf, Nat.mod_eq_of_lt hv, if_neg hne]
  congr 1
  split <;> split <;> omega

theorem selKey_int_infinity : selKey false 0x80000000 = some (2 ^ 40, f32pinf) := rfl

theorem selKey_int {v : Nat} {a : Int} (h : iaccRead v = some a) : selKey false v = some (a, f32ofInt a) := by
  simp [selKey, h]

/-- The key of an FP32 pattern that is no NaN: that of the total order, in which +0 and −0 are made one. -/
def zeroKey (v : F32) : Int := if v.toNat % 2 ^ 31 = 0 then 0 else f32key v

theorem selKey_fp (v : F32) : selKey true v.toNat = if isNan v then none else some (zeroKey v, v) := by
  simp [selKey, zeroKey]

theorem selKey_fp_eq_some {v : F32} {x : Int × F32} : selKey true v.toNat = some x ↔ isNan v = false ∧ x = (zeroKey v, v) := by
  cases h : isNan v <;> simp [selKey_fp, h, eq_comm]

theorem fltB_iff {v w : F32} (hv : isNan v = false) (hw : isNan w = false) :
    fltB v w = true ↔ ¬ (v.toNat % 2 ^ 31 = 0 ∧ w.toNat % 2 ^ 31 = 0) ∧ f32key v < f32key w := by
  simp [fltB, hv, hw, imp_iff_not_or]

theorem zeroKey_lt_iff {v w : F32} (hv : isNan v = false) (hw : isNan w = false) : zeroKey v < zeroKey w ↔ fltB v w = true := by
  have hv32 := v.isLt
  have hw32 := w.isLt
  rw [fltB_iff hv hw]
  simp only [zeroKey, f32key]
  split_ifs <;> omega

end Sys2Proof.Machine

open Sys2Proof.Machine

/-- Settles O60. The list is the selection of the candidates so far after every insertion (`IsSelection.insert`), and where a
row comes with one score there is one such list (`IsSelection.unique`). -/
theorem selectionIsExact : Obligations.SelectionIsExact := by
  refine ⟨fun k xs _ => ?_, fun k xs ys _ hperm hone => ?_, fun a b => selBefore_iff, fun v w hv _ hne => ?_, fun v => ?_,
    fun v w x y hx hy => ?_, fun k l => rfl⟩
  · have h := isSelection_foldl k xs
    exact ⟨h.length_le, h.mem, h.ranked, h.covered⟩
  · exact (isSelection_foldl k xs).unique hone ((isSelection_foldl k ys).of_perm hperm.symm)
  · refine ⟨_, selKey_int (iaccRead_of_ne hv hne), rfl, _, selKey_int_infinity, ?_⟩
    dsimp only
    split <;> omega
  · rw [selKey_fp]
    cases isNan v <;> simp
  · obtain ⟨hv, rfl⟩ := selKey_fp_eq_some.1 hx
    obtain ⟨hw, rfl⟩ := selKey_fp_eq_some.1 hy
    exact zeroKey_lt_iff hv hw
end

section
/-! SUPPORT. The INT32 accumulator and its infinity (R222), requantisation to an integer format (R226), and what FP32 +infinity
gives under a product and a narrow write (R220, R224). -/

namespace Sys2Proof.Machine

/-! Requantisation: the rounded quotient, and the fields of the output element in terms of it. -/

/-- The divisor of a requantisation: 2^se, times the bag length of a mean. -/
def requantDen (se : Nat) (n : Option Nat) : Nat := n.getD 1 * 2 ^ se

/-- The q of R226 before it is held to the range, by its two formulas. -/
def requantQuot (m se : Nat) (n : Option Nat) (a : Int) : Nat :=
  match n with
  | some k => (2 * (a.natAbs * m) + k * 2 ^ se) / (2 * (k * 2 ^ se))
  | none => (a.natAbs * m + 2 ^ (se - 1)) / 2 ^ se

/-- Half of 2^se is added before a shift by se where a mean adds its whole divisor to twice the magnitude. -/
theorem add_half_div_two_pow {se : Nat} (hse : 1 ≤ se) (mag : Nat) :
    (mag + 2 ^ (se - 1)) / 2 ^ se = (2 * mag + 2 ^ se) / (2 * 2 ^ se) := by
  have hhalf : 2 * 2 ^ (se - 1) = 2 ^ se := mul_pow_sub_one (by omega) 2
  calc (mag + 2 ^ (se - 1)) / 2 ^ se = 2 * (mag + 2 ^ (se - 1)) / (2 * 2 ^ se) := (Nat.mul_div_mul_left _ _ two_pos).symm
    _ = (2 * mag + 2 ^ se) / (2 * 2 ^ se) := by rw [mul_add, hhalf]

/-- Both formulas of R226 are one quotient rounded to nearest, ties up. -/
theorem requantQuot_eq {se : Nat} (hse : 1 ≤ se) (m : Nat) (n : Option Nat) (a : Int) :
    requantQuot m se n a = (2 * (a.natAbs * m) + requantDen se n) / (2 * requantDen se n) := by
  cases n with
  | some k => rfl
  | none => simpa [requantQuot, requantDen] using add_half_div_two_pow hse (a.natAbs * m)

theorem requantQuot_nearest {se : Nat} (hse : 1 ≤ se) (m : Nat) {n : Option Nat} (hn : 0 < n.getD 1) (a : Int) :
    2 * requantQuot m se n a * requantDen se n ≤ 2 * (a.natAbs * m) + requantDen se n ∧
      2 * (a.natAbs * m) + requantDen se n < 2 * (requantQuot m se n a + 1) * requantDen se n := by
  have hden : 0 < 2 * requantDen se n := Nat.mul_pos two_pos (Nat.mul_pos hn (Nat.two_pow_pos se))
  have hle := Nat.mul_div_le (2 * (a.natAbs * m) + requantDen se n) (2 * requantDen se n)
  have hlt := Nat.lt_mul_div_succ (2 * (a.natAbs * m) + requantDen se n) hden
  rw [← requantQuot_eq hse] at hle hlt
  exact ⟨by linarith, by linarith⟩

/-- An infinite accumulator requantises to the infinity code and is counted as nothing else (R222). -/
@[simp] theorem requant_none (fmt m se : Nat) (n : Option Nat) :
    requant fmt m se n none = { code := if fmt = 0 then 0x8 else 0x80, infinity := true, bin := some 63 } := rfl

theorem requant_none_code {fmt : Nat} (hfmt : fmt = 0 ∨ fmt = 1) (m se : Nat) (n : Option Nat) :
    (requant fmt m se n none).code = 2 ^ (elemBits fmt - 1) := by
  rw [requant_none]
  rcases hfmt with rfl | rfl <;> rfl

section
variable {fmt m se : Nat} {n : Option Nat} {a : Int}

@[simp] theorem requant_some_infinity : (requant fmt m se n (some a)).infinity = false := rfl

@[simp] theorem requant_some_sat : (requant fmt m se n (some a)).sat = true ↔ intMax fmt < requantQuot m se n a := by
  cases n <;> exact decide_eq_true_iff

@[simp] theorem requant_some_under : (requant fmt m se n (some a)).under = true ↔ requantQuot m se n a = 0 ∧ a ≠ 0 := by
  cases n <;> simp [requant, requantQuot]

theorem requant_some_code : (requant fmt m se n (some a)).code =
    toTwos (elemBits fmt) (if a < 0 then -(min (requantQuot m se n a) (intMax fmt) : Nat) else (min (requantQuot m se n a) (intMax fmt) : Nat)) := by
  cases n <;> rfl

end

/-- The two's complement code of a magnitude with the sign restored. -/
theorem toTwos_signed {bits q : Nat} (hq : q < 2 ^ bits) (a : Int) :
    toTwos bits (if a < 0 then -(q : Int) else q) = if a < 0 ∧ q ≠ 0 then 2 ^ bits - q else q := by
  have hpos : ((q : Int) % (2 ^ bits : Nat)).toNat = q := by rw [Int.emod_eq_of_lt] <;> omega
  by_cases ha : a < 0
  case neg => simpa [ha, toTwos] using hpos
  case pos =>
    rcases Nat.eq_zero_or_pos q with rfl | hq0
    · simp [toTwos]
    · have hneg : (-(q : Int)) % (2 ^ bits : Nat) = (2 ^ bits : Nat) - (q : Int) := by
        rw [← Int.add_emod_right, Int.emod_eq_of_lt] <;> omega
      rw [if_pos ha, if_pos ⟨ha, hq0.ne'⟩, toTwos, hneg]
      omega

theorem intMax_lt {fmt : Nat} (hfmt : fmt = 0 ∨ fmt = 1) : intMax fmt < 2 ^ elemBits fmt := by
  rcases hfmt with rfl | rfl <;> decide

/-- The elements of a pooled row with INT32 accumulators, in an integer format. -/
theorem Pool.finish_requant {c : Pool} {p : Partial} {fmt : Nat} {sc : OutScale} (hacc : c.intAcc = true) (hcount : p.count ≠ 0)
    (hfmt : isIntFmt fmt = true) :
    c.finish fmt sc p = p.iacc.map (requant fmt sc.m (sc.s + sc.o).toNat (if c.red = 2 then some p.count else none)) := by
  simp only [Pool.finish, hcount, hacc, hfmt, if_true, if_false]

/-! The accumulator and its infinity. -/

theorem iadd_some (a b : Int) :
    iadd (some a) (some b) = if -2147483647 ≤ a + b ∧ a + b ≤ 2147483647 then some (a + b) else none := by
  have hrange : (a + b).natAbs ≤ 2147483647 ↔ -2147483647 ≤ a + b ∧ a + b ≤ 2147483647 := by omega
  simp only [iadd, iaccOf, hrange]

@[simp] theorem iadd_none_left (a : IAcc) : iadd none a = none := rfl

@[simp] theorem iadd_none_right (a : IAcc) : iadd a none = none := by
  cases a <;> rfl

@[simp] theorem imax_none_left (a : IAcc) : imax none a = none := rfl

@[simp] theorem imax_none_right (a : IAcc) : imax a none = none := by
  cases a <;> rfl

/-- A finite score is below the key of infinity. -/
theorem iaccRead_lt {v : Nat} {a : Int} (h : iaccRead v = some a) : a < 2 ^ 40 := by
  have hmod : v % 2 ^ 32 < 2 ^ 32 := Nat.mod_lt _ (Nat.two_pow_pos 32)
  simp only [iaccRead, Option.ite_none_left_eq_some, Option.some.injEq, signedOf] at h
  obtain ⟨-, rfl⟩ := h
  split <;> omega

/-! FP32 +infinity. -/

@[simp] theorem decodeF32_pinf : decodeF32 f32pinf = .inf false := by decide

/-- A positive pattern is +infinity or a positive finite value. -/
theorem decodeF32_of_pos {f : F32} (h : fltB f32zero f = true) :
    decodeF32 f = .inf false ∨ ∃ m e, decodeF32 f = .fin false m e ∧ m ≠ 0 := by
  have hnan : decodeF32 f ≠ .nan := by
    intro hn
    simp [fltB, isNan, hn] at h
  have hkey : f32key f32zero < f32key f := ((fltB_iff (by decide) (by simpa [isNan] using hnan)).1 h).2
  have hzero : f32key f32zero = 0 := by decide
  have hrange : 0 < f.toNat ∧ f.toNat < 2 ^ 31 := by
    rw [hzero, f32key] at hkey
    split at hkey <;> omega
  have hsign : f.toNat.testBit (8 + 23) = false := Nat.testBit_lt_two_pow hrange.2
  simp only [decodeF32, decodeIeee, hsign, Nat.shiftRight_eq_div_pow] at hnan ⊢
  split_ifs with htop hfrac hlow
  · exact .inl rfl
  · exact absurd (by rw [if_pos htop, if_neg hfrac]) hnan
  · exact .inr ⟨_, _, rfl, by omega⟩
  · exact .inr ⟨_, _, rfl, by omega⟩

theorem fmul_pinf_of_pos {f : F32} (h : fltB f32zero f = true) : fmul f32pinf f = f32pinf := by
  rcases decodeF32_of_pos h with hf | ⟨m, e, hf, hm⟩
  · simp [fmul, hf, mulFV, encodeFV]
  · simp [fmul, hf, mulFV, encodeFV, hm]

@[simp] theorem outF_pinf_infinity (fmt : Nat) (nz : Bool) : (outF fmt f32pinf nz).infinity = true := by
  simp [outF, convertF]

@[simp] theorem outF_pinf_sat (fmt : Nat) (nz : Bool) : (outF fmt f32pinf nz).sat = false := by
  simp [outF, convertF]

end Sys2Proof.Machine

open Sys2Proof.Machine

/-- Settles O57: the two formulas of R226 are one rounded quotient (`requantQuot_eq`), and the fields of the output element are
read from it. -/
theorem requantisationRoundsTheMagnitude : Obligations.RequantisationRoundsTheMagnitude := by
  intro fmt m s n o hfmt hlow _ _ hn se qmax bits
  have hse : 1 ≤ se := by omega
  have hmax : intMax fmt = qmax := rfl
  have hbits : elemBits fmt = bits := by rcases hfmt with rfl | rfl <;> rfl
  have hint : isIntFmt fmt = true := by rcases hfmt with rfl | rfl <;> rfl
  refine ⟨fun c p fp hacc hcount => ?_, fun k => ?_, ?_⟩
  · rw [Pool.finish_requant hacc (by omega) hint, hcount]
  · exact ⟨hbits ▸ requant_none_code hfmt m se k, by simp, by simp⟩
  · intro mean a _ mag den r
    have hden : requantDen se (if mean then some n else none) = den := by cases mean <;> simp [requantDen, den]
    have hcount : 0 < (if mean then some n else none).getD 1 := by
      cases mean
      case false => exact one_pos
      case true => exact hn
    obtain ⟨hle, hlt⟩ := requantQuot_nearest hse m hcount a
    rw [hden] at hle hlt
    refine ⟨_, hle, hlt, ?_, ?_, requant_some_sat, requant_some_under, requant_some_infinity, ?_⟩
    · rintro rfl
      rfl
    · rintro rfl
      rfl
    · rw [requant_some_code, toTwos_signed ((Nat.min_le_right _ _).trans_lt (intMax_lt hfmt)), hmax, hbits]

/-- Settles O58: the infinity is the `none` of an accumulator, which every operation hands on, and FP32 +infinity after it. -/
theorem accumulatorsHoldTheirInfinity : Obligations.AccumulatorsHoldTheirInfinity := by
  refine ⟨iadd_some, rfl, fun c hc hne => iaccRead_of_ne hc hne, fun a => ⟨iadd_none_left a, iadd_none_right a, imax_none_left a, imax_none_right a⟩,
    fun _ _ => rfl, fun fmt m se n => by simp, rfl, fun f hf => fmul_pinf_of_pos hf,
    fun fmt _ _ => ⟨outF_pinf_infinity fmt _, outF_pinf_sat fmt _⟩, by decide, by decide, by decide, fun c hc hne => ?_⟩
  have hfin := iaccRead_of_ne hc hne
  exact ⟨_, _, selKey_int hfin, selKey_int_infinity, fun r q => selBefore_iff.2 (.inl (iaccRead_lt hfin))⟩
end

section
/-! SUPPORT. What a window of XA does on T8 and S8 while its edges are counted (R368, R370), and the state of the check after a
run of agreeing windows. -/

namespace Sys2Proof.Machine

theorem State.xaOscillation_of_unjudged {s : State} (halive : s.alive = true) (hjudged : s.clk.xaStable = false) :
    s.xaOscillation = s.upClk (fun c => { c with xaOsc := true, xaRun := 0 }) := by
  simp [State.xaOscillation, halive, hjudged]

theorem execAll_xaWindows (l : List Nat) (s : State) : execAll (l.map Instr.xaWindow) s = some (l.foldl State.xaWindow s) := by
  induction l generalizing s with
  | nil => rfl
  | cons n l ih => exact ih (s.xaWindow n)

/-! The four outcomes of a window. -/

section
variable {s : State} {n : Nat} (halive : s.alive = true) (hvariant : s.variant ≠ .l4) (hosc : s.clk.xaOsc = true)
include halive hvariant hosc

theorem State.xaWindow_of_stable (hstable : s.clk.xaStable = true) (hlow : 15415 ≤ n) (hhigh : n ≤ 16043) : s.xaWindow n = s := by
  have hkept : windowLost n = false := by
    simp only [windowLost, Bool.or_eq_false_iff, decide_eq_false_iff_not]
    omega
  simp [State.xaWindow, halive, hvariant, hosc, hstable, hkept]

theorem State.xaWindow_of_disagrees (hjudged : s.clk.xaStable = false) (hn : n < 15650 ∨ 15807 < n) :
    s.xaWindow n = s.upClk (fun c => { c with xaRun := 0 }) := by
  have hout : windowAgrees n = false := by
    simp only [windowAgrees, Bool.and_eq_false_iff, decide_eq_false_iff_not]
    omega
  simp [State.xaWindow, halive, hvariant, hosc, hjudged, hout]

theorem State.xaWindow_of_agrees (hjudged : s.clk.xaStable = false) (hn : 15650 ≤ n ∧ n ≤ 15807) :
    s.xaWindow n = if s.clk.xaRun + 1 ≥ 8 then s.upClk (fun c => { c with xaRun := 8 }.xaGood)
      else s.upClk (fun c => { c with xaRun := c.xaRun + 1 }) := by
  have hin : windowAgrees n = true := by simpa [windowAgrees] using hn
  simp [State.xaWindow, halive, hvariant, hosc, hjudged, hin]

end

/-- The check of XA begun from `s`, after `k` agreeing windows in a row: XA is judged stable, and its loops are enabled, from the
eighth on (R368, R372). -/
def State.xaAfter (s : State) (k : Nat) : State :=
  s.upClk (fun c => { c with
    xaOsc := true, xaRun := min k 8, xaStable := decide (8 ≤ k), coreEn := c.coreEn || decide (8 ≤ k),
    controlEn := c.controlEn || decide (8 ≤ k) })

@[simp] theorem State.xaAfter_alive (s : State) (k : Nat) : (s.xaAfter k).alive = s.alive := rfl
@[simp] theorem State.xaAfter_variant (s : State) (k : Nat) : (s.xaAfter k).variant = s.variant := rfl
@[simp] theorem State.xaAfter_xaOsc (s : State) (k : Nat) : (s.xaAfter k).clk.xaOsc = true := rfl
@[simp] theorem State.xaAfter_xaRun (s : State) (k : Nat) : (s.xaAfter k).clk.xaRun = min k 8 := rfl
@[simp] theorem State.xaAfter_xaStable (s : State) (k : Nat) : (s.xaAfter k).clk.xaStable = decide (8 ≤ k) := rfl

/-- XA_OSCILLATION begins the check with no window counted. -/
theorem State.xaOscillation_eq_xaAfter {s : State} (halive : s.alive = true) (hjudged : s.clk.xaStable = false) :
    s.xaOscillation = s.xaAfter 0 := by
  simp [State.xaOscillation_of_unjudged halive hjudged, State.xaAfter, State.upClk, hjudged]

theorem execAll_xaOscillation_xaWindows {s : State} (halive : s.alive = true) (hjudged : s.clk.xaStable = false) (l : List Nat) :
    execAll (.xaOscillation :: l.map Instr.xaWindow) s = some (l.foldl State.xaWindow (s.xaAfter 0)) := by
  rw [← State.xaOscillation_eq_xaAfter halive hjudged]
  exact execAll_xaWindows l s.xaOscillation

/-- From the eighth agreeing window on, one more changes nothing in the state of the check. -/
theorem State.xaAfter_succ_of_le (s : State) {k : Nat} (hk : 8 ≤ k) : s.xaAfter (k + 1) = s.xaAfter k := by
  simp [State.xaAfter, hk, Nat.le_succ_of_le hk]

section
variable {s : State} (halive : s.alive = true) (hvariant : s.variant ≠ .l4)
include halive hvariant

theorem State.xaWindow_xaAfter_of_stable {k n : Nat} (hk : 8 ≤ k) (hlow : 15415 ≤ n) (hhigh : n ≤ 16043) :
    (s.xaAfter k).xaWindow n = s.xaAfter k :=
  State.xaWindow_of_stable (by simpa) (by simpa) (by simp) (by simpa) hlow hhigh

theorem State.xaWindow_xaAfter_of_agrees (k : Nat) {n : Nat} (hn : 15650 ≤ n ∧ n ≤ 15807) :
    (s.xaAfter k).xaWindow n = s.xaAfter (k + 1) := by
  by_cases hk : 8 ≤ k
  · rw [State.xaWindow_xaAfter_of_stable halive hvariant hk (by omega) (by omega), s.xaAfter_succ_of_le hk]
  · rw [State.xaWindow_of_agrees (by simpa) (by simpa) (by simp) (by simpa using hk) hn]
    have hrun : min k 8 = k := by omega
    split_ifs with heighth
    · obtain rfl : k = 7 := by
        rw [State.xaAfter_xaRun] at heighth
        omega
      simp [State.xaAfter, State.upClk, Clk.xaGood]
    · have hnext : ¬ 8 ≤ k + 1 ∧ min (k + 1) 8 = k + 1 := by
        rw [State.xaAfter_xaRun] at heighth
        omega
      simp [State.xaAfter, State.upClk, hk, hrun, hnext]

theorem State.xaWindow_xaAfter_of_disagrees {k n : Nat} (hk : k < 8) (hn : n < 15650 ∨ 15807 < n) :
    (s.xaAfter k).xaWindow n = s.xaAfter 0 := by
  rw [State.xaWindow_of_disagrees (by simpa) (by simpa) (by simp) (by simpa using hk) hn]
  simp [State.xaAfter, State.upClk, hk]

/-- Agreeing windows in a row are counted. -/
theorem State.foldl_xaWindow_agreeing {l : List Nat} (hl : ∀ x ∈ l, 15650 ≤ x ∧ x ≤ 15807) (k : Nat) :
    l.foldl State.xaWindow (s.xaAfter k) = s.xaAfter (k + l.length) := by
  induction l generalizing k with
  | nil => rfl
  | cons n l ih =>
    obtain ⟨hn, hrest⟩ := List.forall_mem_cons.1 hl
    rw [List.foldl_cons, State.xaWindow_xaAfter_of_agrees halive hvariant k hn, ih hrest, List.length_cons]
    congr 1
    omega

/-- Broken runs leave nothing counted: each of their windows that does not agree restarts the run of 8 (R368). -/
theorem State.foldl_xaWindow_broken {runs : List (List Nat × Nat)}
    (hruns : ∀ r ∈ runs, r.1.length < 8 ∧ (∀ x ∈ r.1, 15650 ≤ x ∧ x ≤ 15807) ∧ (r.2 < 15650 ∨ 15807 < r.2)) :
    (runs.flatMap (fun r => r.1 ++ [r.2])).foldl State.xaWindow (s.xaAfter 0) = s.xaAfter 0 := by
  induction runs with
  | nil => rfl
  | cons r runs ih =>
    obtain ⟨⟨hshort, hagree, hbreak⟩, hrest⟩ := List.forall_mem_cons.1 hruns
    rw [List.flatMap_cons, List.foldl_append, List.foldl_append, State.foldl_xaWindow_agreeing halive hvariant hagree, Nat.zero_add,
      List.foldl_cons, List.foldl_nil, State.xaWindow_xaAfter_of_disagrees halive hvariant hshort hbreak, ih hrest]

end

end Sys2Proof.Machine

open Sys2Proof.Machine

/-- Settles O10: the broken runs leave the count at 0 and the last run counts its windows, so the state reached is
`State.xaAfter` of its length. -/
theorem xaIsJudgedByEightWindows : Obligations.XaIsJudgedByEightWindows := by
  refine ⟨fun s halive hjudged => congrArg _ (State.xaOscillation_of_unjudged halive hjudged), ?_⟩
  intro s runs last halive hvariant hjudged hruns hlast
  refine ⟨s.xaAfter last.length, ?_, rfl, fun hstable => ?_, fun hlength n hlow hhigh => ?_, rfl⟩
  · rw [execAll_xaOscillation_xaWindows halive hjudged, List.foldl_append, State.foldl_xaWindow_broken halive hvariant hruns,
      State.foldl_xaWindow_agreeing halive hvariant hlast, Nat.zero_add]
  · have hlength : 8 ≤ last.length := of_decide_eq_true hstable
    simp [State.xaAfter, hlength]
  · exact congrArg _ (State.xaWindow_xaAfter_of_stable halive hvariant hlength hlow hhigh)
end

section
/-! SUPPORT. Every command gives a next state; what the relations `Same` and `Kept` say of it, by the lemma of the operation that the
command calls. -/

namespace Sys2Proof.Machine

theorem exec_same (c : Instr) (s : State) (hc : c ∉ [Instr.validationDone, .switchDone, .epochRetire, .dieReset, .pwrGoodLow]) :
    ∃ t, exec c s = .next t ∧ Same s t := by
  have h := Same.refl s
  cases c with
  | pwrGoodHigh => exact ⟨_, rfl, pwrGoodHigh_same s h⟩
  | pwrGoodLow => exact absurd hc (by simp)
  | xaOscillation => exact ⟨_, rfl, xaOscillation_same s h⟩
  | xaWindow => exact ⟨_, rfl, xaWindow_same s _ h⟩
  | xaEdgeTimeout => exact ⟨_, rfl, xaEdgeTimeout_same s h⟩
  | xaFailTimeout => exact ⟨_, rfl, xaFailTimeout_same s h⟩
  | xtalStableCount => exact ⟨_, rfl, xtalStableCount_same s _ h⟩
  | xtalAmplitudeLost => exact ⟨_, rfl, xtalAmplitudeLost_same s _ h⟩
  | loopLock => exact ⟨_, rfl, loopLock_same s _ h⟩
  | switchForced => exact ⟨_, rfl, pump_same _ (switchForced_same s _ h)⟩
  | kettleTick => exact ⟨_, rfl, kettleTick_same s h⟩
  | sensorSample => exact ⟨_, rfl, pump_same _ (sensorSample_same s _ _ h)⟩
  | thermalClear => exact ⟨_, rfl, thermalClear_same s h⟩
  | wearRecord => exact ⟨_, rfl, wearRecord_same s _ h⟩
  | migrateDecision => exact ⟨_, rfl, pump_same _ (migDecision_same s _ _ _ h)⟩
  | migrateCopyDone => exact ⟨_, rfl, pump_same _ (migCopy_same s h)⟩
  | migrateSwitch => exact ⟨_, rfl, migrateSwitch_same s h⟩
  | migrateRelease => exact ⟨_, rfl, pump_same _ (migRelease_same s h)⟩
  | benchPowerGate => exact ⟨_, rfl, powerGate_same s _ h⟩
  | benchPowerUpDone => exact ⟨_, rfl, powerUpDone_same s _ h⟩
  | selftestStart => exact ⟨_, rfl, pump_same _ (selftestStart_same s h)⟩
  | selftestDone => exact ⟨_, rfl, pump_same _ (selftestDone_same s _ _ h)⟩
  | selftestAbort => exact ⟨_, rfl, abortTest_same s _ h⟩
  | spareRemap => exact ⟨_, rfl, pump_same _ (spareRemap_same s _ _ _ h)⟩
  | benchSuspect => exact ⟨_, rfl, pump_same _ (benchSuspect_same s _ _ h)⟩
  | drainDone => exact ⟨_, rfl, pump_same _ (drainDone_same s h)⟩
  | blueTimeout => exact ⟨_, rfl, blueTimeout_same s h⟩
  | dieResetError => exact ⟨_, rfl, pump_same _ (dieResetError_same s _ h)⟩
  | dieReset => exact absurd hc (by simp)
  | contextEccError => exact ⟨_, rfl, contextEccError_same s _ _ h⟩
  | attnPress => exact ⟨_, rfl, attnPress_same s h⟩
  | attnHold3s => exact ⟨_, rfl, pump_same _ (attnHold3_same s h)⟩
  | attnHold10s => exact ⟨_, rfl, attnHold10_same s _ h⟩
  | statusDisplayEnd => exact ⟨_, rfl, statusEnd_same s h⟩
  | cablePresent => exact ⟨_, rfl, cablePresent_same s h⟩
  | cableRemoved => exact ⟨_, rfl, cableRemoved_same s h⟩
  | yelirChar => exact ⟨_, rfl, yChar_same s _ h⟩
  | yelirBreak => exact ⟨_, rfl, yBreak_same s h⟩
  | yId => exact ⟨_, rfl, yCommand_same s _ h⟩
  | yPeek => exact ⟨_, rfl, yCommand_same s _ h⟩
  | yPoke => exact ⟨_, rfl, yCommand_same s _ h⟩
  | yCupboard => exact ⟨_, rfl, yCommand_same s _ h⟩
  | yWear => exact ⟨_, rfl, yCommand_same s _ h⟩
  | yTemps => exact ⟨_, rfl, yCommand_same s _ h⟩
  | yClocks => exact ⟨_, rfl, yCommand_same s _ h⟩
  | yEvents => exact ⟨_, rfl, yCommand_same s _ h⟩
  | yCutlist => exact ⟨_, rfl, yCommand_same s _ h⟩
  | ySelftest => exact ⟨_, rfl, yCommand_same s _ h⟩
  | yDrainStatus => exact ⟨_, rfl, yCommand_same s _ h⟩
  | yDrainStart => exact ⟨_, rfl, yCommand_same s _ h⟩
  | yDrainCancel => exact ⟨_, rfl, yCommand_same s _ h⟩
  | yDrainReset => exact ⟨_, rfl, yCommand_same s _ h⟩
  | monUnlockExpire => exact ⟨_, rfl, unlockExpire_same s h⟩
  | flit => exact ⟨_, rfl, pump_same _ (flitIn_same s _ _ _ h)⟩
  | linkDown => exact ⟨_, rfl, pump_same _ (retrainMod_same s _ _ h)⟩
  | trainingDone => exact ⟨_, rfl, pump_same _ (trainingDone_same s _ _ _ _ _ _ h)⟩
  | faceLostTimeout => exact ⟨_, rfl, pump_same _ (faceLostTimeout_same s _ h)⟩
  | regRd => exact ⟨_, rfl, pump_same _ (receive_same s _ _ _ h)⟩
  | regWr => exact ⟨_, rfl, pump_same _ (receive_same s _ _ _ h)⟩
  | dataMsg => exact ⟨_, rfl, pump_same _ (receive_same s _ _ _ h)⟩
  | wack => exact ⟨_, rfl, pump_same _ (receive_same s _ _ _ h)⟩
  | throttle => exact ⟨_, rfl, pump_same _ (receive_same s _ _ _ h)⟩
  | credit => exact ⟨_, rfl, pump_same _ (receive_same s _ _ _ h)⟩
  | snp => exact ⟨_, rfl, pump_same _ (receive_same s _ _ _ h)⟩
  | ndata => exact ⟨_, rfl, pump_same _ (receive_same s _ _ _ h)⟩
  | nwack => exact ⟨_, rfl, pump_same _ (receive_same s _ _ _ h)⟩
  | boundaryScan => exact ⟨_, rfl, boundaryScan_same s _ _ h⟩
  | registerWrite => exact ⟨_, rfl, pump_same _ (regWrite_same s _ _ _ _ h)⟩
  | latchedLoRead => exact ⟨_, rfl, loRead_same s _ _ _ h⟩
  | txnBegin => exact ⟨_, rfl, txnBegin_same s _ h⟩
  | stage => exact ⟨_, rfl, pump_same _ (txnStage_same s _ h)⟩
  | stageDone => exact ⟨_, rfl, pump_same _ (stageDone_same s h)⟩
  | commit => exact ⟨_, rfl, txnCommit_same s _ h⟩
  | validationDone => exact absurd hc (by simp)
  | switchDone => exact absurd hc (by simp)
  | epochRetire => exact absurd hc (by simp)
  | rollback => exact ⟨_, rfl, pump_same _ (txnRollback_same s _ h)⟩
  | txnExpired => exact ⟨_, rfl, pump_same _ (txnExpired_same s h)⟩
  | partDb => exact ⟨_, rfl, pump_same _ (inWindow_same s _ _ h fun s h => partDb_same s _ _ _ h)⟩
  | ringEnable => exact ⟨_, rfl, pump_same _ (inWindow_same s _ _ h fun s h => baseLo_same s _ _ _ h)⟩
  | ringDisable => exact ⟨_, rfl, pump_same _ (inWindow_same s _ _ h fun s h => baseLo_same s _ _ _ h)⟩
  | partCqHead => exact ⟨_, rfl, pump_same _ (inWindow_same s _ _ h fun s h => pqHead_same s _ _ _ h)⟩
  | irqHoldoff => exact ⟨_, rfl, irqHoldoff_same s _ _ h⟩
  | partReset => exact ⟨_, rfl, pump_same _ (partReset_same s _ h)⟩
  | partResetDone => exact ⟨_, rfl, pump_same _ (grantWalks_same _ (partResetDone_same s _ h))⟩
  | chestInvalidate => exact ⟨_, rfl, inWindow_same s _ _ h fun s h => chestInvalidate_same s _ h⟩
  | invalidateDone => exact ⟨_, rfl, invalidateDone_same s _ h⟩
  | chestEnable => exact ⟨_, rfl, inWindow_same s _ _ h fun s h => chestEnable_same s _ h⟩
  | chestDisable => exact ⟨_, rfl, inWindow_same s _ _ h fun s h => chestDisable_same s _ h⟩
  | partInvalTag => exact ⟨_, rfl, inWindow_same s _ _ h fun s h => invalTag_same s _ _ h⟩
  | partTagRootLo => exact ⟨_, rfl, inWindow_same s _ _ h fun s h => setRootLo_same s _ _ _ h⟩
  | invalDone => exact ⟨_, rfl, invalDone_same s _ h⟩
  | faultResume => exact ⟨_, rfl, inWindow_same s _ _ h fun s h => faultResume_same s _ _ h⟩
  | faultAbort => exact ⟨_, rfl, pump_same _ (inWindow_same s _ _ h fun s h => faultAbort_same s _ _ h)⟩
  | migPoolEnable => exact ⟨_, rfl, pump_same _ (inWindow_same s _ _ h fun s h => migPoolLo_same s _ _ h)⟩
  | partMigAccept => exact ⟨_, rfl, inWindow_same s _ _ h fun s h => migAccept_same s _ _ _ h⟩
  | dieResetRequest => exact ⟨_, rfl, pump_same _ (dieResetRequest_same s h)⟩
  | benchReset => exact ⟨_, rfl, pump_same _ (benchReset_same s _ h)⟩
  | benchResetDone => exact ⟨_, rfl, benchResetDone_same s _ h⟩
  | retrain => exact ⟨_, rfl, pump_same _ (retrain_same s _ _ h)⟩
  | svcDrainCancel => exact ⟨_, rfl, cancelDrain_same s h⟩
  | svcDrainAck => exact ⟨_, rfl, ackDrain_same s h⟩
  | monUnlock => exact ⟨_, rfl, setUnlock_same s _ h⟩
  | monUart => exact ⟨_, rfl, setRate_same s _ h⟩
  | orderFetch => exact ⟨_, rfl, pump_same _ (orderFetch_same s _ _ h)⟩
  | orderProceed => exact ⟨_, rfl, pump_same _ (orderProceed_same s _ h)⟩
  | gatherPool => exact ⟨_, rfl, pump_same _ (suspects_same _ (gatherPool_same s _ _ h))⟩
  | recallRows => exact ⟨_, rfl, pump_same _ (suspects_same _ (recall_same s _ _ h))⟩
  | score => exact ⟨_, rfl, pump_same _ (score_same s _ _ h)⟩
  | scatterMerge => exact ⟨_, rfl, pump_same _ (scatterTile_same s _ _ h)⟩
  | appendRows => exact ⟨_, rfl, pump_same _ (appendTile_same s _ _ h)⟩
  | prefetch => exact ⟨_, rfl, pump_same _ (prefetchTile_same s _ _ h)⟩
  | advise => exact ⟨_, rfl, pump_same _ (advise_same s _ h)⟩
  | copyRows => exact ⟨_, rfl, pump_same _ (copyRows_same s _ _ h)⟩
  | park => exact ⟨_, rfl, pump_same _ (parkOrder_same s _ h)⟩
  | wake => exact ⟨_, rfl, wake_same s _ h⟩
  | fence => exact ⟨_, rfl, fence_same s _ h⟩
  | readStats => exact ⟨_, rfl, pump_same _ (readStats_same s _ h)⟩
  | tablePause => exact ⟨_, rfl, tablePause_same s _ h⟩
  | tableResume => exact ⟨_, rfl, tableResume_same s _ h⟩
  | accLoad => exact ⟨_, rfl, pump_same _ (accLoad_same s _ h)⟩
  | accStore => exact ⟨_, rfl, pump_same _ (accStore_same s _ h)⟩
  | tileDeliver => exact ⟨_, rfl, pump_same _ (tileDeliver_same s _ _ h)⟩
  | tileConsumed => exact ⟨_, rfl, pump_same _ (tileConsumed_same s _ _ h)⟩
  | faultRecordWrite => exact ⟨_, rfl, pump_same _ (faultRecord_same s _ h)⟩
  | streamQuiesce => exact ⟨_, rfl, pump_same _ (streamQuiesce_same s _ h)⟩
  | mergePoint => exact ⟨_, rfl, pump_same _ (suspects_same _ (mergePoint_same s _ h))⟩
  | wcFlush => exact ⟨_, rfl, pump_same _ (wcFlush_same s _ h)⟩
  | sessionSteeping => exact ⟨_, rfl, sessionSteeping_same s _ _ h⟩
  | sessionParked => exact ⟨_, rfl, pump_same _ (sessionParked_same s _ _ h)⟩
  | sliceExpire => exact ⟨_, rfl, sliceExpire_same s _ h⟩
  | hintIdle => exact ⟨_, rfl, hintIdle_same s _ _ h⟩
  | orderComplete => exact ⟨_, rfl, pump_same _ (grantWalks_same _ (orderComplete_same s _ h))⟩
  | readLimiterInterval => exact ⟨_, rfl, limiterInterval_same s _ h⟩
  | loopLockLost => exact ⟨_, rfl, loopLockLost_same s _ h⟩

/-- A change of the queue alone leaves the requests as they are. -/
theorem tagsOk_with_pending {s : State} (l : List Instr) (h : s.tagsOk) : State.tagsOk { s with pending := l } :=
  tagsOk_of_eq (s := s) rfl rfl (Nat.le_refl s.nextId) h

/-- Whatever a command does, it keeps what `Kept` names. -/
theorem exec_kept (c : Instr) (s : State) : ∃ t, exec c s = .next t ∧ Kept s t := by
  by_cases hc : c ∈ [Instr.validationDone, .switchDone, .epochRetire, .dieReset, .pwrGoodLow]
  case neg =>
    obtain ⟨t, ht, hst⟩ := exec_same c s hc
    exact ⟨t, ht, hst.toKept⟩
  case pos =>
    have hpump (t : State) : Kept t (pump t) := (pump_same t (.refl t)).toKept
    simp only [List.mem_cons, List.not_mem_nil, or_false] at hc
    rcases hc with rfl | rfl | rfl | rfl | rfl
    · exact ⟨_, rfl, (validationDone_kept s).trans (hpump _)⟩
    · exact ⟨_, rfl, ((switchDone_kept s).trans (resetsDue_same _ (.refl _)).toKept).trans (hpump _)⟩
    · exact ⟨_, rfl, (epochRetire_kept s).trans (hpump _)⟩
    · exact ⟨_, rfl, (dieReset_kept s).trans (hpump _)⟩
    · exact ⟨_, rfl, pwrGoodLow_kept s⟩

theorem next_congr {s t : State} (h : s = t) : (.next s : Host.Outcome State Fault Refusal) = .next t := congrArg _ h

theorem next_pump_congr {s t : State} (h : s = t) : (.next (pump s) : Host.Outcome State Fault Refusal) = .next (pump t) :=
  next_congr (congrArg pump h)

/-- A command that gives `t` gives no other state. -/
theorem of_exec_next {c : Instr} {s t : State} {P : State → Prop} (h : exec c s = .next t) (hP : ∃ u, exec c s = .next u ∧ P u) : P t := by
  obtain ⟨u, hu, hPu⟩ := hP
  cases h.symm.trans hu
  exact hPu

end Sys2Proof.Machine

open Sys2Proof.Machine

/-- Settles O5. -/
theorem everyCommandKeepsTheDie : Obligations.EveryCommandKeepsTheDie :=
  fun c s _ h => of_exec_next h (exec_kept c s)

/-- Settles O7: the five commands named are those of which `exec_same` does not speak. -/
theorem onlySwitchesChangeTheConfiguration : Obligations.OnlySwitchesChangeTheConfiguration := by
  intro c s t h hc
  have hst : Same s t := of_exec_next h (exec_same c s hc)
  exact ⟨hst.live, hst.epoch, hst.count⟩

/-- Settles O6: a step is a command on the rest of the queue, or an edge of the core clock (`idle_kept`). -/
theorem outstandingTagsStayDistinct : Obligations.OutstandingTagsStayDistinct := by
  intro s t hs h
  unfold step at h
  split at h
  case h_1 =>
    cases h
    exact (idle_kept s (.refl s)).tags hs
  case h_2 c rest _ =>
    have hkept := of_exec_next h (exec_kept c { s with pending := rest })
    exact hkept.tags (tagsOk_with_pending rest hs)
end

section
/-! SUPPORT. The words of the host's messages, read back (R354 to R356). -/

namespace Sys2Proof.Machine

theorem fld_eq (w hi lo : Nat) : fld w hi lo = w / 2 ^ lo % 2 ^ (hi + 1 - lo) := by
  rw [fld, Nat.shiftRight_eq_div_pow]

@[simp] theorem length_wordsOf (v n : Nat) : (wordsOf v n).length = n := by
  simp [wordsOf]

theorem wordsOf_succ (v n : Nat) : wordsOf v (n + 1) = v % 2 ^ 32 :: wordsOf (v >>> 32) n := by
  have hnext (i : Nat) : v >>> (32 * (i + 1)) = v >>> 32 >>> (32 * i) := by rw [← Nat.shiftRight_add, Nat.mul_succ, Nat.add_comm]
  simp only [wordsOf, List.range_succ_eq_map, List.map_cons, List.map_map, Function.comp_def, Nat.succ_eq_add_one, hnext, Nat.mul_zero,
    Nat.shiftRight_zero]

theorem ofWords_cons (w : Nat) (ws : List Nat) : ofWords (w :: ws) = w % 2 ^ 32 + 2 ^ 32 * ofWords ws := by
  rw [Nat.mul_comm, ← Nat.shiftLeft_eq]
  rfl

/-- The words of a byte string give its low bytes back. -/
theorem ofWords_wordsOf (v n : Nat) : ofWords (wordsOf v n) = v % 2 ^ (32 * n) := by
  induction n generalizing v with
  | zero => exact (Nat.mod_one v).symm
  | succ n ih =>
    rw [wordsOf_succ, ofWords_cons, ih, Nat.mod_mod, Nat.shiftRight_eq_div_pow, Nat.mul_succ, Nat.add_comm (32 * n), Nat.pow_add 2 32 (32 * n), Nat.mod_mul]

/-- A double word is put together from its two words. -/
theorem wordsOf_two_join {v : Nat} (hv : v < 2 ^ 64) : (wordsOf v 2)[0] + (wordsOf v 2)[1] <<< 32 = v := by
  simp only [wordsOf_succ, List.getElem_cons_zero, List.getElem_cons_succ, Nat.shiftRight_eq_div_pow, Nat.shiftLeft_eq]
  omega

/-- A message whose words are `w0 :: ws` is taken off the stream where its header names its channel, type and length. -/
theorem parseMsg_append {chan type : Nat} {w0 : Nat} {ws : List Nat} {m : InMsg} (rest : List Nat)
    (hchan : w0 % 4 = chan) (htype : w0 / 4 % 64 = type) (hlen : inWords chan type = some (ws.length + 1))
    (hread : readMsg chan type (w0 :: ws) = some m) : parseMsg (w0 :: ws ++ rest) = .got m rest := by
  have hc : fld w0 1 0 = chan := by simpa [fld_eq] using hchan
  have ht : fld w0 7 2 = type := by simpa [fld_eq] using htype
  have henough : ¬ (ws ++ rest).length + 1 < ws.length + 1 := by simp
  simp only [List.cons_append, parseMsg, hc, ht, hlen, if_neg henough, List.take_succ_cons, List.take_left, List.drop_succ_cons,
    List.drop_left, hread]

/-- The fields of the first word of an answer: its tag, and what stands at bits 20 and 22 (R356). -/
theorem answerHeader_fields {chan type tag x y w : Nat} (hchan : chan < 4) (htype : type < 64) (htag : tag < 2 ^ 12) (hx : x < 4) (hy : y < 4)
    (hw : w = hdr chan type + tag <<< 8 + x <<< 20 + y <<< 22) :
    w % 4 = chan ∧ w / 4 % 64 = type ∧ fld w 19 8 = tag ∧ fld w 21 20 = x ∧ fld w 23 22 = y ∧ fld w 31 22 = y ∧ fld w 31 24 = 0 := by
  simp only [hdr, Nat.shiftLeft_eq] at hw
  simp only [fld_eq]
  omega

/-- The fields of the first word of a register message: its partition and the number of its register (R356). -/
theorem registerHeader_fields {type p reg w : Nat} (htype : type < 64) (hp : p < 8) (hreg : reg < 2 ^ 18)
    (hw : w = hdr 0 type + p <<< 8 + reg <<< 12) :
    w % 4 = 0 ∧ w / 4 % 64 = type ∧ fld w 10 8 = p ∧ fld w 11 11 = 0 ∧ fld w 29 12 = reg ∧ fld w 31 30 = 0 := by
  simp only [hdr, Nat.shiftLeft_eq] at hw
  simp only [fld_eq]
  omega

theorem fld_low_half {n : Nat} (hn : n < 2 ^ 16) : fld n 15 0 = n ∧ fld n 31 16 = 0 := by
  simp only [fld_eq]
  omega

/-- The words of a host's message by the fields of its first word, and what they are read as. -/
theorem parseMsg_wire {chan type w : Nat} {ws : List Nat} {m : InMsg} (rest : List Nat) (hm : m.wire = w :: ws) (hc : w % 4 = chan)
    (ht : w / 4 % 64 = type) (hlen : inWords chan type = some (ws.length + 1)) (hread : readMsg chan type (w :: ws) = some m) :
    parseMsg (m.wire ++ rest) = .got m rest := by
  rw [hm]
  exact parseMsg_append rest hc ht hlen hread

section
variable (rest : List Nat) {tag status : Nat}

theorem parseMsg_data {index : Nat} (htag : tag < 2 ^ 12) (hindex : index < 4) (hstatus : status < 3) (line : Line) :
    parseMsg ((InMsg.data tag index status line).wire ++ rest) = .got (.data tag index status line) rest := by
  have hline : BitVec.ofNat 1024 (ofWords (wordsOf line.toNat 32)) = line := by
    rw [ofWords_wordsOf, show 32 * 32 = 1024 from rfl, Nat.mod_eq_of_lt line.isLt, BitVec.ofNat_toNat, BitVec.setWidth_eq]
  have hlen : inWords 0 3 = some ((wordsOf line.toNat 32).length + 1) := by
    rw [length_wordsOf]
    rfl
  obtain ⟨w, hw⟩ : ∃ w, w = hdr 0 3 + tag <<< 8 + index <<< 20 + status <<< 22 := ⟨_, rfl⟩
  obtain ⟨hc, ht, h1, h2, h3, -, h5⟩ := answerHeader_fields (by decide) (by decide) htag hindex (by omega) hw
  have hreserved : status ≠ 3 := by omega
  refine parseMsg_wire rest (by rw [hw, InMsg.wire]) hc ht hlen ?_
  simp [readMsg, clear, h1, h2, h3, h5, hline, hreserved]

theorem parseMsg_wack (htag : tag < 2 ^ 12) (hstatus : status = 0 ∨ status = 2) :
    parseMsg ((InMsg.wack tag status).wire ++ rest) = .got (.wack tag status) rest := by
  obtain ⟨w, hw⟩ : ∃ w, w = hdr 0 4 + tag <<< 8 + 0 <<< 20 + status <<< 22 := ⟨_, rfl⟩
  obtain ⟨hc, ht, h1, h2, h3, -, h5⟩ := answerHeader_fields (by decide) (by decide) htag (by decide) (by omega) hw
  refine parseMsg_wire rest (by rw [hw, InMsg.wire, Nat.zero_shiftLeft, Nat.add_zero]) hc ht rfl ?_
  rcases hstatus with rfl | rfl <;> simp [readMsg, clear, h1, h2, h3, h5]

theorem parseMsg_ndata {value : Nat} (htag : tag < 2 ^ 12) (hstatus : status < 3) (hvalue : value < 2 ^ 64) :
    parseMsg ((InMsg.ndata tag status value).wire ++ rest) = .got (.ndata tag status value) rest := by
  obtain ⟨w, hw⟩ : ∃ w, w = hdr 3 3 + tag <<< 8 + status <<< 20 + 0 <<< 22 := ⟨_, rfl⟩
  obtain ⟨hc, ht, h1, h2, -, h4, -⟩ := answerHeader_fields (by decide) (by decide) htag (by omega) (by decide) hw
  have hreserved : status ≠ 3 := by omega
  refine parseMsg_wire rest (by rw [hw, InMsg.wire, Nat.zero_shiftLeft, Nat.add_zero]) hc ht rfl ?_
  simp [readMsg, clear, h1, h2, h4, hreserved, wordsOf_two_join hvalue]

theorem parseMsg_nwack (htag : tag < 2 ^ 12) (hstatus : status = 0 ∨ status = 2) :
    parseMsg ((InMsg.nwack tag status).wire ++ rest) = .got (.nwack tag status) rest := by
  obtain ⟨w, hw⟩ : ∃ w, w = hdr 3 4 + tag <<< 8 + status <<< 20 + 0 <<< 22 := ⟨_, rfl⟩
  obtain ⟨hc, ht, h1, h2, -, h4, -⟩ := answerHeader_fields (by decide) (by decide) htag (by omega) (by decide) hw
  refine parseMsg_wire rest (by rw [hw, InMsg.wire, Nat.zero_shiftLeft, Nat.add_zero]) hc ht rfl ?_
  rcases hstatus with rfl | rfl <;> simp [readMsg, clear, h1, h2, h4]

theorem parseMsg_throttle {fraction addr : Nat} (hfraction : fraction ≤ 256) (haddr : addr < 2 ^ 64) :
    parseMsg ((InMsg.throttle fraction addr).wire ++ rest) = .got (.throttle fraction addr) rest := by
  obtain ⟨w, hw⟩ : ∃ w, w = hdr 0 5 + fraction <<< 8 := ⟨_, rfl⟩
  have hfields : w % 4 = 0 ∧ w / 4 % 64 = 5 ∧ fld w 16 8 = fraction ∧ fld w 31 17 = 0 := by
    simp only [hdr, Nat.shiftLeft_eq] at hw
    simp only [fld_eq]
    omega
  obtain ⟨hc, ht, h1, h2⟩ := hfields
  refine parseMsg_wire rest (by rw [hw, InMsg.wire]) hc ht rfl ?_
  simp [readMsg, clear, h1, h2, hfraction, wordsOf_two_join haddr]

theorem parseMsg_regRd {p offset : Nat} (hp : p < 8) (hoffset : offset < 2 ^ 20) (haligned : offset % 4 = 0) (htag : tag < 2 ^ 16) :
    parseMsg ((InMsg.regRd p offset tag).wire ++ rest) = .got (.regRd p offset tag) rest := by
  obtain ⟨w, hw⟩ : ∃ w, w = hdr 0 0x10 + p <<< 8 + (offset / 4) <<< 12 := ⟨_, rfl⟩
  obtain ⟨hc, ht, h1, h2, h3, h4⟩ := registerHeader_fields (by decide) hp (by omega) hw
  obtain ⟨htag, hreserved⟩ := fld_low_half htag
  have hword : offset / 4 * 4 = offset := by omega
  refine parseMsg_wire rest (by rw [hw, InMsg.wire]) hc ht rfl ?_
  simp [readMsg, clear, h1, h2, h3, h4, htag, hreserved, hword]

theorem parseMsg_regWr {p offset seq : Nat} (hp : p < 8) (hoffset : offset < 2 ^ 20) (haligned : offset % 4 = 0) (hseq : seq < 2 ^ 16)
    (value : Word) : parseMsg ((InMsg.regWr p offset seq value).wire ++ rest) = .got (.regWr p offset seq value) rest := by
  obtain ⟨w, hw⟩ : ∃ w, w = hdr 0 0x11 + p <<< 8 + (offset / 4) <<< 12 := ⟨_, rfl⟩
  obtain ⟨hc, ht, h1, h2, h3, h4⟩ := registerHeader_fields (by decide) hp (by omega) hw
  obtain ⟨hseq, hreserved⟩ := fld_low_half hseq
  have hword : offset / 4 * 4 = offset := by omega
  refine parseMsg_wire rest (by rw [hw, InMsg.wire]) hc ht rfl ?_
  simp [readMsg, clear, h1, h2, h3, h4, hseq, hreserved, hword]

theorem parseMsg_credit {a b c d : Nat} (ha : a < 256) (hb : b < 256) (hc : c < 256) (hd : d < 256) :
    parseMsg ((InMsg.credit a b c d).wire ++ rest) = .got (.credit a b c d) rest := by
  obtain ⟨v, hv⟩ : ∃ v, v = a + b <<< 8 + c <<< 16 + d <<< 24 := ⟨_, rfl⟩
  have hfields : fld v 7 0 = a ∧ fld v 15 8 = b ∧ fld v 23 16 = c ∧ fld v 31 24 = d := by
    simp only [Nat.shiftLeft_eq] at hv
    simp only [fld_eq]
    omega
  obtain ⟨h1, h2, h3, h4⟩ := hfields
  refine parseMsg_wire (chan := 0) (type := 0x3F) (w := hdr 0 0x3F) rest (by rw [InMsg.wire, ← hv]) rfl rfl rfl ?_
  have hheader : clear (hdr 0 0x3F) [(31, 8)] = true := by decide
  simp [readMsg, hheader, h1, h2, h3, h4]

theorem parseMsg_snp {line : Nat} (hline : line < 2 ^ 41) (htag : tag < 2 ^ 12) :
    parseMsg ((InMsg.snp line tag).wire ++ rest) = .got (.snp line tag) rest := by
  obtain ⟨w, hw⟩ : ∃ w, w = hdr 1 1 + (line % 2 ^ 24) <<< 8 := ⟨_, rfl⟩
  obtain ⟨v, hv⟩ : ∃ v, v = (line >>> 24) % 2 ^ 17 + tag <<< 17 := ⟨_, rfl⟩
  have hfields : w % 4 = 1 ∧ w / 4 % 64 = 1 ∧ fld w 31 8 = line % 2 ^ 24 ∧ fld v 16 0 = line / 2 ^ 24 ∧ fld v 28 17 = tag ∧ fld v 31 29 = 0 := by
    simp only [hdr, Nat.shiftLeft_eq, Nat.shiftRight_eq_div_pow] at hw hv
    simp only [fld_eq]
    omega
  obtain ⟨hc, ht, h1, h2, h3, h4⟩ := hfields
  have hjoin : line % 2 ^ 24 + (line / 2 ^ 24) <<< 24 = line := by
    rw [Nat.shiftLeft_eq]
    omega
  refine parseMsg_wire (ws := [v]) rest (by rw [hw, hv, InMsg.wire, addrPair]) hc ht rfl ?_
  simp only [readMsg, clear, List.getD_cons_zero, List.getD_cons_succ, List.all_cons, List.all_nil, h1, h2, h3, h4, hjoin]
  rfl

end

end Sys2Proof.Machine

open Sys2Proof.Machine

/-- Settles O4: each message stands under its header (`parseMsg_wire`), and each field is read from the bits it was put at. -/
theorem hostMessagesReadBack : Obligations.HostMessagesReadBack := by
  intro m rest hm
  cases m <;> simp only [InMsg.fits, Bool.and_eq_true, Bool.or_eq_true, decide_eq_true_eq] at hm
  case pad => exact parseMsg_wire (chan := 0) (type := 0) rest rfl rfl rfl rfl rfl
  case data tag index status line =>
    obtain ⟨⟨htag, hindex⟩, hstatus⟩ := hm
    exact parseMsg_data rest htag hindex hstatus line
  case wack tag status => exact parseMsg_wack rest hm.1 hm.2
  case throttle fraction addr => exact parseMsg_throttle rest hm.1 hm.2
  case regRd p offset tag =>
    obtain ⟨⟨⟨hp, hoffset⟩, haligned⟩, htag⟩ := hm
    exact parseMsg_regRd rest hp hoffset haligned htag
  case regWr p offset seq value =>
    obtain ⟨⟨⟨hp, hoffset⟩, haligned⟩, hseq⟩ := hm
    exact parseMsg_regWr rest hp hoffset haligned hseq value
  case credit a b c d =>
    obtain ⟨⟨⟨ha, hb⟩, hc⟩, hd⟩ := hm
    exact parseMsg_credit rest ha hb hc hd
  case snp line tag => exact parseMsg_snp rest hm.1 hm.2
  case ndata tag status value =>
    obtain ⟨⟨htag, hstatus⟩, hvalue⟩ := hm
    exact parseMsg_ndata rest htag hstatus hvalue
  case nwack tag status => exact parseMsg_nwack rest hm.1 hm.2
end

section
/-! SUPPORT. The record of a powered hour (R399), the tick of the Kettle (R393) and its sample (R394, R397, R424). -/

namespace Sys2Proof.Machine

/-! The wear store. -/

/-- The wear store with the ring oscillators sampled (R394). -/
def State.sampledWear (s : State) (readings : List (List Nat)) : Wear :=
  { s.wear with ageing := ageingOf (s.fuses.oscBase.take (if s.variant = .l4 then 8 else 16)) readings }

/-- The record of the powered hour (R398, R399). -/
def State.hourRecord (s : State) (readings : List (List Nat)) : WearRec :=
  let w := s.sampledWear readings
  ⟨w.seconds / 3600, w.index, w.ageing, w.spares, w.lanes, w.thermal, w.seconds, w.cycles⟩

theorem State.wearRecord_of_due {s : State} (readings : List (List Nat)) (halive : s.alive = true) (hdue : s.wear.lastHour < s.wear.seconds / 3600) :
    s.wearRecord readings = { s with wear := if s.railsBad then
        { s.sampledWear readings with deferred := s.wear.deferred ++ [s.hourRecord readings] }
      else (s.sampledWear readings).write (s.hourRecord readings) } := by
  have hgoes : ¬ (!s.alive || decide (s.wear.seconds / 3600 ≤ s.wear.lastHour)) = true := by simp [halive, hdue]
  unfold State.wearRecord
  rw [if_neg hgoes]
  extract_lets n s1 w r
  have hrails : s1.railsBad = s.railsBad := rfl
  rw [hrails]
  split <;> rfl

/-- The index of a store is the largest of its components (R398). -/
theorem Wear.index_largest (w : Wear) :
    (w.ageing ≤ w.index ∧ w.spares ≤ w.index ∧ w.lanes ≤ w.index ∧ w.thermal ≤ w.index) ∧
      (w.index = w.ageing ∨ w.index = w.spares ∨ w.index = w.lanes ∨ w.index = w.thermal) := by
  unfold Wear.index
  omega

end Sys2Proof.Machine

open Sys2Proof.Machine

/-- Settles O17: what a due hour writes is `State.wearRecord_of_due`. -/
theorem wearRecordIsKept : Obligations.WearRecordIsKept := by
  intro s readings halive
  refine ⟨fun hdue => ?_, fun hsame => ?_⟩
  case refine_1 =>
    obtain ⟨⟨h1, h2, h3, h4⟩, hone⟩ := (s.sampledWear readings).index_largest
    refine ⟨_, s.hourRecord readings, next_congr (State.wearRecord_of_due readings halive hdue), rfl, rfl, rfl, rfl, rfl, rfl, rfl, rfl,
      h1, h2, h3, h4, hone, fun hgood => ?_, fun hbad => ?_⟩
    · rw [hgood]
      exact ⟨rfl, rfl⟩
    · rw [hbad]
      exact ⟨rfl, rfl⟩
  case refine_2 =>
    have hstays : s.wearRecord readings = s := if_pos (by simp [hsame])
    exact next_congr hstays
end

section
/-! SUPPORT. What the tick of the Kettle leaves of the partitions, the windows and the sampler (R277, R393). -/

namespace Sys2Proof.Machine

theorem Drain.tick_eq (d : Drain) : d.tick = { d with ms := if d.inForce ∧ !d.owed then d.ms + 1 else d.ms } := by
  obtain ⟨inForce, _, _, _, _, _, _, _, owed⟩ := d
  cases inForce <;> cases owed <;> rfl

/-- A tick moves the Kettle's own state, and then the filters. -/
theorem State.kettleTick_of_alive {s : State} (halive : s.alive = true) :
    ∃ u : State, s.kettleTick = u.filterTick ∧ u.kettle.ms = s.kettle.ms + 1 ∧ u.wear = s.wear.tick ∧ u.drain = s.drain.tick ∧
      u = { s with kettle := u.kettle, wear := u.wear, drain := u.drain, mon := u.mon, panel := u.panel } :=
  ⟨_, if_neg (by simp [halive]), rfl, rfl, rfl, rfl⟩

theorem State.filterTick_rest (s : State) : s.filterTick = { s with
    filters := s.filterTick.filters, parts := s.filterTick.parts, windows := s.filterTick.windows, sampler := s.filterTick.sampler,
    sampleRead := s.filterTick.sampleRead } := rfl

theorem State.part_filterTick (s : State) (p : Nat) :
    ∃ ps as, s.filterTick.part p = { s.part p with mig := { (s.part p).mig with proposals := ps, accepts := as } } := by
  simp only [State.part, State.filterTick, List.getD_eq_getElem?_getD, List.getElem?_map, List.getElem?_zipIdx]
  cases s.parts[p]? <;> exact ⟨_, _, rfl⟩

theorem State.window_filterTick (s : State) (e : Nat) : (s.filterTick.window e).lines = (s.window e).lines ∧
    (s.filterTick.window e).v = (s.window e).v ∧ (s.filterTick.window e).admitted = (s.window e).admitted := by
  simp only [State.window, State.filterTick, List.getD_eq_getElem?_getD, List.getElem?_map]
  cases s.windows[e]? <;> exact ⟨rfl, rfl, rfl⟩

end Sys2Proof.Machine

open Sys2Proof.Machine

/-- Settles O15: the tick itself is `State.kettleTick_of_alive`, and what follows it are the filters. -/
theorem kettleTickFrame : Obligations.KettleTickFrame := by
  intro s halive
  obtain ⟨u, htick, hms, hwear, hdrain, hrest⟩ := State.kettleTick_of_alive halive
  have hpart (p : Nat) : u.part p = s.part p := by rw [hrest]; rfl
  have hwindow (e : Nat) : u.window e = s.window e := by rw [hrest]; rfl
  refine ⟨u.filterTick, next_congr htick, hms, fun h => hwear.trans (if_pos h), fun h => hwear.trans (if_neg (by omega)), hdrain.trans s.drain.tick_eq, ?_,
    ?_, fun p => hpart p ▸ u.part_filterTick p, fun e => hwindow e ▸ u.window_filterTick e, ?_⟩
  all_goals
    rw [hrest]
    rfl
end

section
/-! SUPPORT. What a sample of the Kettle does (R394, R397, R424). -/

namespace Sys2Proof.Machine

/-! The rails as sampled. -/

/-- The seven rails before a sample. -/
def State.lastRails (s : State) : List Rail := (List.range 7).map (fun n => s.kettle.rails.getD n {})

/-- The seven rails after it. -/
def State.newRails (s : State) (rails : List (Nat × Nat)) : List Rail :=
  (s.lastRails.zipIdx).map (fun (r, i) => let x := rails.getD i (r.mv, r.amps16); r.sampled i x.1 x.2)

/-- The rails that stray at the sample, with their numbers (R424). -/
def State.strayRails (s : State) (rails : List (Nat × Nat)) : List ((Rail × Rail) × Nat) :=
  ((s.lastRails.zip (s.newRails rails)).zipIdx).filter (fun x => x.1.1.strays x.1.2)

theorem State.lastRails_getElem? {s : State} {n : Nat} (hn : n < 7) : s.lastRails[n]? = some (s.kettle.rails.getD n {}) := by
  simp [State.lastRails, List.getElem?_range hn]

theorem State.newRails_getElem? {s : State} {rails : List (Nat × Nat)} {n mv a : Nat} (hn : n < 7) (hr : rails[n]? = some (mv, a)) :
    (s.newRails rails)[n]? = some ((s.kettle.rails.getD n {}).sampled n mv a) := by
  simp only [State.newRails, List.getElem?_map, List.getElem?_zipIdx, State.lastRails_getElem? hn, Option.map_some, Nat.zero_add,
    List.getD_eq_getElem?_getD, hr, Option.getD_some]

theorem State.length_strayRails (s : State) (rails : List (Nat × Nat)) : (s.strayRails rails).length ≤ 7 := by
  refine (List.length_filter_le _ _).trans ?_
  simp [State.lastRails, State.newRails]

theorem State.mem_strayRails {s : State} {rails : List (Nat × Nat)} {n mv a : Nat} (hn : n < 7) (hr : rails[n]? = some (mv, a))
    (hstray : (s.kettle.rails.getD n {}).strays ((s.kettle.rails.getD n {}).sampled n mv a) = true) :
    ((s.kettle.rails.getD n {}, (s.kettle.rails.getD n {}).sampled n mv a), n) ∈ s.strayRails rails := by
  refine List.mem_filter.2 ⟨List.mem_zipIdx_iff_getElem?.2 ?_, hstray⟩
  rw [List.getElem?_zip_eq_some]
  exact ⟨State.lastRails_getElem? hn, State.newRails_getElem? hn hr⟩

/-- No rail strays that read in its range at the sample before. -/
theorem State.strayRails_eq_nil {s : State} (rails : List (Nat × Nat))
    (h : ∀ n, n < 7 → (s.kettle.rails.getD n {}).lowLast = false ∧ (s.kettle.rails.getD n {}).highLast = false) : s.strayRails rails = [] := by
  refine List.filter_eq_nil_iff.2 fun x hx => ?_
  have hx := List.mem_zipIdx_iff_getElem?.1 hx
  rw [List.getElem?_zip_eq_some] at hx
  have hold := hx.1
  simp only [State.lastRails, List.getElem?_map, Option.map_eq_some_iff] at hold
  obtain ⟨n, hn, hrail⟩ := hold
  obtain ⟨hlow, hhigh⟩ := h n (List.mem_range.1 (List.mem_of_getElem? hn))
  rw [← hrail, Rail.strays, hlow, hhigh]
  simp

/-! Steps of a sample, and what each leaves. -/

/-- Nothing but the Kettle, the wear store and the repair log differs, and of the Kettle neither its samples nor its rails nor its log, nor
the powered seconds. -/
structure State.Gauges (s t : State) : Prop where
  rest : t = { s with kettle := t.kettle, wear := t.wear, log := t.log, logDue := t.logDue }
  seconds : t.wear.seconds = s.wear.seconds
  samples : t.kettle.samples = s.kettle.samples
  rails : t.kettle.rails = s.kettle.rails

theorem State.Gauges.trans {a b c : State} (h : a.Gauges b) (k : b.Gauges c) : a.Gauges c := by
  have hrest := k.rest
  rw [h.rest] at hrest
  exact ⟨hrest, k.seconds.trans h.seconds, k.samples.trans h.samples, k.rails.trans h.rails⟩

theorem State.thermalCycle_gauges (s : State) : s.Gauges s.thermalCycle := by
  unfold State.thermalCycle
  dsimp only
  split
  · split <;> exact ⟨rfl, rfl, rfl, rfl⟩
  · split <;> exact ⟨rfl, rfl, rfl, rfl⟩

theorem Wear.foldl_write_seconds (l : List WearRec) (w : Wear) : (l.foldl Wear.write w).seconds = w.seconds := by
  induction l generalizing w with
  | nil => rfl
  | cons r l ih => exact ih (w.write r)

theorem State.writeDeferred_gauges (s : State) : s.Gauges s.writeDeferred := by
  unfold State.writeDeferred
  split
  · exact ⟨rfl, rfl, rfl, rfl⟩
  · exact ⟨rfl, Wear.foldl_write_seconds _ _, rfl, rfl⟩

/-- The state after the sample is taken and the deferred writes are made, before a trip or a rail is acted on. -/
def State.sampled (s : State) (temps : List Int) (rails : List (Nat × Nat)) : State :=
  (s.upKettle (fun k => { k with
    samples := (((List.range 32).map (fun i => temps.getD i 0)) :: k.samples).take 8, rails := s.newRails rails,
    powerSum := k.powerSum + rails.foldl (fun a x => a + x.1 * x.2) 0, powerN := k.powerN + 1 })).thermalCycle.writeDeferred

/-- The die was at 110 degrees before (R397). -/
def State.wasHot (s : State) : Bool := !s.kettle.samples.isEmpty && s.hottest ≥ 1760

/-- The trip, where the sample begins it. -/
def State.tripped (s : State) (wasHot : Bool) : State := if !wasHot && s.hottest ≥ 1760 then s.thermalTrip else s

theorem State.sensorSample_of_alive {s : State} (temps : List Int) (rails : List (Nat × Nat)) (halive : s.alive = true) :
    s.sensorSample temps rails =
      (s.strayRails rails).foldl (fun s x => s.railStrays x.2 x.1.2.mv) ((s.sampled temps rails).tripped s.wasHot) :=
  if_neg (by simp [halive])

theorem range_map_getD {l : List Int} {n : Nat} (h : l.length = n) : (List.range n).map (fun i => l.getD i 0) = l := by
  subst h
  refine List.ext_getElem (by simp) fun i _ hi => ?_
  simp [List.getElem?_eq_getElem hi]

/-- The Kettle with a sample taken. -/
def State.taken (s : State) (temps : List Int) (rails : List (Nat × Nat)) : State :=
  s.upKettle (fun k => { k with
    samples := (((List.range 32).map (fun i => temps.getD i 0)) :: k.samples).take 8, rails := s.newRails rails,
    powerSum := k.powerSum + rails.foldl (fun a x => a + x.1 * x.2) 0, powerN := k.powerN + 1 })

theorem State.taken_gauges_sampled (s : State) (temps : List Int) (rails : List (Nat × Nat)) :
    (s.taken temps rails).Gauges (s.sampled temps rails) :=
  (State.thermalCycle_gauges _).trans (State.writeDeferred_gauges _)

theorem State.sampled_rest (s : State) (temps : List Int) (rails : List (Nat × Nat)) :
    s.sampled temps rails = { s with
      kettle := (s.sampled temps rails).kettle, wear := (s.sampled temps rails).wear, log := (s.sampled temps rails).log,
      logDue := (s.sampled temps rails).logDue } := (s.taken_gauges_sampled temps rails).rest

theorem State.sampled_samples (s : State) {temps : List Int} (rails : List (Nat × Nat)) (htemps : temps.length = 32) :
    (s.sampled temps rails).kettle.samples = (temps :: s.kettle.samples).take 8 := by
  rw [(s.taken_gauges_sampled temps rails).samples, ← range_map_getD htemps]
  rfl

/-! A trip and a rail that strays, on a die with power good. -/

/-- An entry of the Kettle log is among its newest `i + 1`. -/
def State.Logged (s : State) (e : KLog) (i : Nat) : Prop := ∃ j ≤ i, s.kettle.log[j]? = some e

theorem State.Logged.mem {s : State} {e : KLog} {i : Nat} (h : s.Logged e i) : e ∈ s.kettle.log := by
  obtain ⟨j, -, hj⟩ := h
  exact List.mem_of_getElem? hj

theorem State.Logged.klog {s : State} {e : KLog} {i : Nat} (h : s.Logged e i) (hi : i + 1 < 256) (code a b : Nat) :
    (s.klog code a b).Logged e (i + 1) := by
  obtain ⟨j, hji, hj⟩ := h
  refine ⟨j + 1, by omega, ?_⟩
  show (List.take 256 (_ :: s.kettle.log))[j + 1]? = some e
  rw [List.getElem?_take_of_lt (by omega), List.getElem?_cons_succ, hj]

theorem State.klog_logged (s : State) (code a b : Nat) : (s.klog code a b).Logged ⟨s.wear.seconds, code, a, b⟩ 0 :=
  ⟨0, Nat.le_refl 0, rfl⟩

/-- What a reset that may begin leaves: the Kettle but for its log, the wear store, the panel and the fuses; and on a die with power good a
die reset is under way then, the one asked for where none was. -/
structure State.Alarms (s t : State) (code : Nat) : Prop where
  kettle : t.kettle = { s.kettle with log := t.kettle.log }
  wear : t.wear = s.wear
  panel : t.panel = s.panel
  fuses : t.fuses = s.fuses
  reset : s.panel.pwrGood = true → t.rstDie = some (s.rstDie.getD ⟨code, false⟩)

theorem State.beginReset_alarms (s : State) (code : Nat) : s.Alarms (s.beginReset code false) code ∧
    ∀ e i, s.Logged e i → i + 1 < 256 → (s.beginReset code false).Logged e (i + 1) := by
  have h := beginReset_posts s code false
  by_cases hgoes : (s.rstDie.isSome || !s.panel.pwrGood) = true
  · rw [if_pos hgoes] at h
    rw [h]
    refine ⟨⟨rfl, rfl, rfl, rfl, fun hpower => ?_⟩, fun e i ⟨j, hji, hj⟩ _ => ⟨j, by omega, hj⟩⟩
    obtain ⟨r, hr⟩ : ∃ r, s.rstDie = some r := by simpa [hpower, Option.isSome_iff_exists] using hgoes
    rw [hr]
    rfl
  · rw [if_neg hgoes] at h
    obtain ⟨t, ht, hreset⟩ := h
    rw [hreset]
    have hkettle : t.kettle = s.kettle := ht.kettle
    refine ⟨⟨?_, ht.wear, ht.panel, ht.fuses, fun _ => ?_⟩, fun e i ⟨j, hji, hj⟩ hi => ?_⟩
    · rw [← hkettle]
      rfl
    · obtain ⟨hnone, -⟩ : s.rstDie = none ∧ s.panel.pwrGood = true := by simpa using hgoes
      rw [hnone]
      exact ht.rstDie
    · have hlogged : t.Logged e i := ⟨j, hji, hkettle ▸ hj⟩
      exact hlogged.klog hi _ _ _

theorem State.Alarms.trans {a b c : State} {code : Nat} (h : a.Alarms b code) (k : b.Alarms c code) : a.Alarms c code := by
  refine ⟨?_, k.wear.trans h.wear, k.panel.trans h.panel, k.fuses.trans h.fuses, fun hpower => ?_⟩
  · rw [k.kettle, h.kettle]
  · rw [k.reset (h.panel ▸ hpower), h.reset hpower]
    rfl

/-- A rail that strays is the newest but one in the log at most, and what was logged before moves down by two at most. -/
theorem State.railStrays_alarms (s : State) (n mv : Nat) : s.Alarms (s.railStrays n mv) 8 ∧
    (∀ e i, s.Logged e i → i + 2 < 256 → (s.railStrays n mv).Logged e (i + 2)) ∧
    (s.railStrays n mv).Logged ⟨s.wear.seconds, 0x0103, n, mv⟩ 1 := by
  obtain ⟨halarms, hkeeps⟩ := (s.klog 0x0103 n mv).beginReset_alarms 8
  refine ⟨⟨?_, halarms.wear, halarms.panel, halarms.fuses, halarms.reset⟩, fun e i he hi => ?_, ?_⟩
  · exact halarms.kettle
  · exact hkeeps e (i + 1) (he.klog (by omega) _ _ _) (by omega)
  · exact hkeeps _ 0 (s.klog_logged _ _ _) (by decide)

/-- The stray rails of a sample, one after another. -/
theorem State.foldl_railStrays (l : List ((Rail × Rail) × Nat)) (s : State) (hl : l.length ≤ 7) :
    let t := l.foldl (fun s x => s.railStrays x.2 x.1.2.mv) s
    (l ≠ [] → s.Alarms t 8) ∧ (∀ e i, s.Logged e i → i + 2 * l.length < 256 → t.Logged e (i + 2 * l.length)) ∧
      ∀ x ∈ l, ⟨s.wear.seconds, 0x0103, x.2, x.1.2.mv⟩ ∈ t.kettle.log := by
  induction l generalizing s with
  | nil => exact ⟨fun h => absurd rfl h, fun _ _ he _ => he, fun _ hx => absurd hx List.not_mem_nil⟩
  | cons x l ih =>
    simp only [List.length_cons, List.foldl_cons] at hl ⊢
    obtain ⟨hone, hkeeps, hlogged⟩ := s.railStrays_alarms x.2 x.1.2.mv
    obtain ⟨hrest, hrestKeeps, hrestLogged⟩ := ih (s.railStrays x.2 x.1.2.mv) (by omega)
    refine ⟨fun _ => ?_, fun e i he hi => ?_, fun y hy => ?_⟩
    · by_cases hnil : l = []
      · subst hnil
        exact hone
      · exact hone.trans (hrest hnil)
    · have := hrestKeeps e (i + 2) (hkeeps e i he (by omega)) (by omega)
      rwa [show i + 2 + 2 * l.length = i + 2 * (l.length + 1) by omega] at this
    · rcases List.mem_cons.1 hy with rfl | hy
      · exact (hrestKeeps _ 1 hlogged (by omega)).mem
      · have := hrestLogged y hy
        rwa [hone.wear] at this

/-- A trip latches, drives THERM_TRIP_N and holds BEGIN (R397). -/
theorem State.thermalTrip_latches (s : State) (hpower : s.panel.pwrGood = true) :
    let t := s.thermalTrip
    t.panel.tripN = true ∧ t.kettle.trip = true ∧ t.kettle.beginHold = true ∧ t.kettle.samples = s.kettle.samples ∧ t.kettle.rails = s.kettle.rails ∧
      t.wear = s.wear ∧ t.fuses = s.fuses ∧ t.panel.pwrGood = true ∧ t.rstDie = some (s.rstDie.getD ⟨7, false⟩) := by
  obtain ⟨halarms, -⟩ := ((({ s with panel := { s.panel with tripN := true } }).upKettle (fun k =>
    { k with trip := true, beginHold := true, cool := 0 })).klog 0x0100 (Config.klogArg 0x0100 0 s.wear.seconds)
      (Config.klogArg 0x0100 1 s.wear.seconds)).beginReset_alarms 7
  have hkettle := halarms.kettle
  have hpanel := halarms.panel
  refine ⟨?_, ?_, ?_, ?_, ?_, halarms.wear, halarms.fuses, ?_, halarms.reset hpower⟩
  · exact (congrArg Panel.tripN hpanel :)
  · exact (congrArg Kettle.trip hkettle :)
  · exact (congrArg Kettle.beginHold hkettle :)
  · exact (congrArg Kettle.samples hkettle :)
  · exact (congrArg Kettle.rails hkettle :)
  · exact (congrArg Panel.pwrGood hpanel).trans hpower

/-- The hottest sensor is read from the samples of the sensors that the variant has. -/
theorem State.hottest_congr {s t : State} (hfuses : t.fuses = s.fuses) (hsamples : t.kettle.samples = s.kettle.samples) :
    t.hottest = s.hottest := by
  have hpresent : t.sensorPresent = s.sensorPresent := by
    funext n
    unfold State.sensorPresent State.benchPresent State.facePresent State.variant
    rw [hfuses]
  have hfiltered : t.kettle.filtered = s.kettle.filtered := by
    funext n
    simp only [Kettle.filtered, hsamples]
  simp only [State.hottest, State.sensors, hpresent, hfiltered]

/-- The state of a sample with its trip, where it begins one. -/
theorem State.tripped_of_not {s : State} {wasHot : Bool} (h : wasHot = true ∨ s.hottest < 1760) : s.tripped wasHot = s :=
  if_neg (by rcases h with h | h <;> simp [h])

theorem State.tripped_of_hot {s : State} {wasHot : Bool} (hwas : wasHot = false) (hhot : 1760 ≤ s.hottest) : s.tripped wasHot = s.thermalTrip :=
  if_pos (by simp [hwas, hhot])

theorem State.tripped_keeps {s : State} (wasHot : Bool) (hpower : s.panel.pwrGood = true) :
    (s.tripped wasHot).kettle.samples = s.kettle.samples ∧ (s.tripped wasHot).kettle.rails = s.kettle.rails ∧ (s.tripped wasHot).wear = s.wear ∧
      (s.tripped wasHot).fuses = s.fuses ∧ (s.tripped wasHot).panel.pwrGood = true := by
  unfold State.tripped
  split
  · obtain ⟨-, -, -, h1, h2, h3, h4, h5, -⟩ := s.thermalTrip_latches hpower
    exact ⟨h1, h2, h3, h4, h5⟩
  · exact ⟨rfl, rfl, rfl, rfl, hpower⟩

/-! The state after the rails have been acted on, from the state `v` before. -/

/-- The rails that stray are acted on in their order. -/
def State.strayed (s v : State) (rails : List (Nat × Nat)) : State :=
  (s.strayRails rails).foldl (fun s x => s.railStrays x.2 x.1.2.mv) v

theorem State.strayed_of_none {s : State} {rails : List (Nat × Nat)} (v : State) (h : s.strayRails rails = []) : s.strayed v rails = v := by
  rw [State.strayed, h]
  rfl

theorem State.strayed_alarms {s : State} {rails : List (Nat × Nat)} (v : State) (h : s.strayRails rails ≠ []) :
    v.Alarms (s.strayed v rails) 8 := (State.foldl_railStrays _ v (s.length_strayRails rails)).1 h

theorem State.strayed_keeps (s v : State) (rails : List (Nat × Nat)) : (s.strayed v rails).kettle.samples = v.kettle.samples ∧
    (s.strayed v rails).kettle.rails = v.kettle.rails ∧ (s.strayed v rails).fuses = v.fuses ∧ (s.strayed v rails).panel = v.panel ∧
    (s.strayed v rails).kettle.trip = v.kettle.trip ∧ (s.strayed v rails).kettle.beginHold = v.kettle.beginHold := by
  by_cases h : s.strayRails rails = []
  · rw [State.strayed_of_none v h]
    exact ⟨rfl, rfl, rfl, rfl, rfl, rfl⟩
  · have hkept := State.strayed_alarms v h
    have hkettle := hkept.kettle
    exact ⟨(congrArg Kettle.samples hkettle :), (congrArg Kettle.rails hkettle :), hkept.fuses, hkept.panel, (congrArg Kettle.trip hkettle :),
      (congrArg Kettle.beginHold hkettle :)⟩

/-- A die reset that is under way stays under way as it is. -/
theorem State.strayed_rstDie {s v : State} {r : DieRst} (rails : List (Nat × Nat)) (hpower : v.panel.pwrGood = true) (hr : v.rstDie = some r) :
    (s.strayed v rails).rstDie = some r := by
  by_cases h : s.strayRails rails = []
  · rw [State.strayed_of_none v h, hr]
  · rw [(State.strayed_alarms v h).reset hpower, hr]
    rfl

section
variable {s : State} {temps : List Int} (rails : List (Nat × Nat)) (halive : s.alive = true)
include halive

theorem State.sensorSample_eq : s.sensorSample temps rails = s.strayed ((s.sampled temps rails).tripped s.wasHot) rails :=
  State.sensorSample_of_alive temps rails halive

theorem State.pwrGood_of_alive : s.panel.pwrGood = true := by
  simp only [State.alive, Bool.and_eq_true] at halive
  exact halive.1

theorem State.sampled_keeps : (s.sampled temps rails).fuses = s.fuses ∧ (s.sampled temps rails).panel.pwrGood = true ∧
    (s.sampled temps rails).rstDie = s.rstDie ∧ (s.sampled temps rails).wear.seconds = s.wear.seconds := by
  have hrest := s.sampled_rest temps rails
  refine ⟨?_, ?_, ?_, (s.taken_gauges_sampled temps rails).seconds⟩
  · rw [hrest]
  · rw [hrest]
    exact State.pwrGood_of_alive halive
  · rw [hrest]

theorem State.sensorSample_keeps : (s.sensorSample temps rails).kettle.samples = (s.sampled temps rails).kettle.samples ∧
    (s.sensorSample temps rails).kettle.rails = s.newRails rails ∧ (s.sensorSample temps rails).hottest = (s.sampled temps rails).hottest := by
  obtain ⟨-, hpower, -, -⟩ := State.sampled_keeps (temps := temps) rails halive
  obtain ⟨h1, h2, -, h4, -⟩ := State.tripped_keeps s.wasHot hpower
  obtain ⟨k1, k2, k3, -, -, -⟩ := s.strayed_keeps ((s.sampled temps rails).tripped s.wasHot) rails
  rw [State.sensorSample_eq rails halive]
  exact ⟨k1.trans h1, (k2.trans h2).trans (s.taken_gauges_sampled temps rails).rails, State.hottest_congr (k3.trans h4) (k1.trans h1)⟩

/-- A sample that brings the die to 110 degrees trips it (R397). -/
theorem State.sensorSample_trips (hcold : s.kettle.samples = [] ∨ s.hottest < 1760) (hhot : 1760 ≤ (s.sampled temps rails).hottest) :
    let t := s.sensorSample temps rails
    t.panel.tripN = true ∧ t.kettle.trip = true ∧ t.kettle.beginHold = true ∧ (s.rstDie = none → t.rstDie = some ⟨7, false⟩) := by
  intro t
  have hwas : s.wasHot = false := by
    rcases hcold with h | h <;> simp [State.wasHot, h]
  obtain ⟨-, hpower, hreset, -⟩ := State.sampled_keeps (temps := temps) rails halive
  obtain ⟨h1, h2, h3, -, -, -, -, hpower', hreset'⟩ := (s.sampled temps rails).thermalTrip_latches hpower
  have ht : t = s.strayed (s.sampled temps rails).thermalTrip rails := by
    rw [← State.tripped_of_hot hwas hhot]
    exact State.sensorSample_eq rails halive
  obtain ⟨-, -, -, k4, k5, k6⟩ := s.strayed_keeps (s.sampled temps rails).thermalTrip rails
  rw [ht]
  refine ⟨(congrArg Panel.tripN k4 :).trans h1, k5.trans h2, k6.trans h3, fun hnone => State.strayed_rstDie rails hpower' ?_⟩
  rw [hreset', hreset, hnone]
  rfl

/-- A rail that strays is logged, and begins a die reset unless one is under way or the trip begins one (R424). -/
theorem State.sensorSample_strays {n mv a : Nat} (hn : n < 7) (hr : rails[n]? = some (mv, a))
    (hstray : (s.kettle.rails.getD n {}).strays ((s.kettle.rails.getD n {}).sampled n mv a) = true) :
    let t := s.sensorSample temps rails
    ⟨s.wear.seconds, 0x0103, n, mv⟩ ∈ t.kettle.log ∧ t.rstDie.isSome = true ∧
      (s.rstDie = none → (s.sampled temps rails).hottest < 1760 ∨ s.wasHot = true → t.rstDie = some ⟨8, false⟩) := by
  intro t
  have hmem := State.mem_strayRails hn hr hstray
  have hne : s.strayRails rails ≠ [] := List.ne_nil_of_mem hmem
  obtain ⟨-, hpower, hreset, hseconds⟩ := State.sampled_keeps (temps := temps) rails halive
  obtain ⟨-, -, h3, -, hpower'⟩ := State.tripped_keeps s.wasHot hpower
  obtain ⟨-, -, hlogged⟩ := State.foldl_railStrays (s.strayRails rails) ((s.sampled temps rails).tripped s.wasHot) (s.length_strayRails rails)
  have ht : t = s.strayed ((s.sampled temps rails).tripped s.wasHot) rails := State.sensorSample_eq rails halive
  have halarm := (State.strayed_alarms ((s.sampled temps rails).tripped s.wasHot) hne).reset hpower'
  rw [← ht] at halarm
  refine ⟨?_, by rw [halarm]; rfl, fun hnone hcold => ?_⟩
  · have hentry := hlogged _ hmem
    rw [h3, hseconds] at hentry
    rw [ht]
    exact hentry
  · rw [halarm, State.tripped_of_not hcold.symm, hreset, hnone]
    rfl

end

end Sys2Proof.Machine

open Sys2Proof.Machine

/-- Settles O16: the sample is taken, the trip acts on the state that this gives, and the rails that stray on what the trip leaves. -/
theorem sampleTripsAndHoldEnds : Obligations.SampleTripsAndHoldEnds := by
  refine ⟨fun s temps rails halive htemps => ?_, fun s halive hhold => ⟨fun hcool => ?_, fun hcool => ?_⟩⟩
  case refine_2 => exact next_congr (if_pos (by simp [halive, hhold, hcool]))
  case refine_3 => exact next_congr (if_neg (by simp [hcool]))
  obtain ⟨hsamples, hrails, hhottest⟩ := State.sensorSample_keeps (temps := temps) rails halive
  refine ⟨s.sensorSample temps rails, rfl, hsamples.trans (s.sampled_samples rails htemps), fun hcold hhot => ?_, fun n mv a hn hr => ?_,
    fun hcold hlast => ?_⟩
  · exact State.sensorSample_trips rails halive hcold (hhottest ▸ hhot)
  · have hrail : (s.newRails rails).getD n {} = (s.kettle.rails.getD n {}).sampled n mv a := by
      rw [List.getD_eq_getElem?_getD, State.newRails_getElem? hn hr]
      rfl
    refine ⟨by rw [hrails, hrail]; rfl, fun hout hbefore hlow hhigh => ?_⟩
    have hstray : (s.kettle.rails.getD n {}).strays ((s.kettle.rails.getD n {}).sampled n mv a) = true := by
      have hnew : ((s.kettle.rails.getD n {}).sampled n mv a).lowLast = true ∨ ((s.kettle.rails.getD n {}).sampled n mv a).highLast = true :=
        hout.imp decide_eq_true decide_eq_true
      simp only [Rail.strays, hlow, hhigh, Bool.or_eq_true, hnew, hbefore, Bool.and_eq_true, Bool.or_self, Bool.not_false, and_self]
    obtain ⟨hlog, hsome, hcode⟩ := State.sensorSample_strays (temps := temps) rails halive hn hr hstray
    refine ⟨hlog, hsome, fun hnone hcold => hcode hnone (hcold.imp (fun h => hhottest ▸ h) fun ⟨hne, hhot⟩ => ?_)⟩
    simp [State.wasHot, hne, hhot]
  · rw [hhottest] at hcold
    rw [State.sensorSample_eq rails halive, State.strayed_of_none _ (State.strayRails_eq_nil rails hlast), State.tripped_of_not (.inr hcold)]
    exact s.sampled_rest temps rails
end


section
/-! SUPPORT. Power, crystals, loops and changes of source (R366 to R376, R381 to R386). -/

namespace Sys2Proof.Machine

theorem stateReset_sized : State.reset.sized := ⟨rfl, rfl, rfl, rfl⟩

/-- XA gone: its loops stop, and each domain that ran on one of them has a switch to the fast RC that hangs (R370, R372). -/
theorem Clk.xaGone_spec (c : Clk) (osc : Bool) :
    (c.xaGone osc).xaStable = false ∧ (c.xaGone osc).xaLost = true ∧ (c.xaGone osc).xaRun = 0 ∧
      (c.xaGone osc).coreEn = false ∧ (c.xaGone osc).controlEn = false ∧ (c.xaGone osc).coreLock = false ∧
      (c.xaGone osc).controlLock = false ∧ (c.coreSrc = 1 → (0, 0) ∈ (c.xaGone osc).switching) ∧
      (c.controlSrc = 1 → (1, 0) ∈ (c.xaGone osc).switching) ∧ (c.xaGone osc).coreSrc = c.coreSrc ∧
      (c.xaGone osc).controlSrc = c.controlSrc := by
  by_cases hcore : c.coreSrc = 1 <;> by_cases hcontrol : c.controlSrc = 1 <;> simp [Clk.xaGone, hcore, hcontrol, Clk.hang]

/-- A switch that ended hangs no more, and the others stay. -/
theorem switching_filter (l : List (Nat × Nat)) (d : Nat) :
    (∀ x, (d, x) ∉ l.filter (fun y => y.1 != d)) ∧
      ∀ e x, e ≠ d → ((e, x) ∈ l.filter (fun y => y.1 != d) ↔ (e, x) ∈ l) := by
  refine ⟨fun x => by simp, fun e x he => by simp [he]⟩

/-- A source that a domain below 4 takes is its own. -/
theorem Clk.setSrc_spec (c : Clk) {d : Nat} (src : Nat) (hd : d < 4) :
    (c.setSrc d src).coreSrc = (if d = 0 then src else c.coreSrc) ∧ (c.setSrc d src).controlSrc = (if d = 1 then src else c.controlSrc) ∧
      (c.setSrc d src).kfastSrc = (if d = 2 then src else c.kfastSrc) ∧ (c.setSrc d src).kslowSrc = (if d = 3 then src else c.kslowSrc) ∧
      (c.setSrc d src).forced = c.forced := by
  obtain rfl | rfl | rfl | rfl : d = 0 ∨ d = 1 ∨ d = 2 ∨ d = 3 := by omega
  all_goals exact ⟨rfl, rfl, rfl, rfl, rfl⟩

theorem satAdd_one_255 (n : Nat) : satAdd n 1 255 = min 255 (n + 1) := by
  unfold satAdd
  omega

end Sys2Proof.Machine

open Sys2Proof Sys2Proof.Machine

/-- Settles O1: a step on a queue that is not empty is `exec` of its front. -/
theorem stepRunsTheFrontCommand : Obligations.StepRunsTheFrontCommand := fun _ _ _ => rfl

/-- Settles O2: the errors that strike keep what `Same` names (`strikeRow_same`), and so do the settling and the grants. -/
theorem idleEdgeIsCounted : Obligations.IdleEdgeIsCounted := by
  intro s hq
  have hstep : step s = .next (idle s) := by unfold step; rw [hq]
  refine ⟨fun hpower hruns => ?_, fun hoff => ?_⟩
  · have hedge : idle s = pump ((Config.strikes s.nextId).foldl State.strikeRow s.edge).settleEnded := by
      simp [idle, hpower, hruns]
    have hstrikes : Same s.edge ((Config.strikes s.nextId).foldl State.strikeRow s.edge) :=
      Same.foldl (Same.refl _) (fun s k h => strikeRow_same s k h)
    have hsame : Same s.edge (idle s) := by
      rw [hedge]
      exact pump_same _ (settleEnded_same _ hstrikes)
    exact ⟨idle s, hstep, hsame, hsame.count, hedge⟩
  · have hstays : idle s = s := if_neg (by rcases hoff with h | h <;> simp [h])
    rw [hstep, hstays]

/-- Settles O3. -/
theorem resetMeetsTheInvariants : Obligations.ResetMeetsTheInvariants :=
  ⟨stateReset_sized, tagsOk_empty rfl rfl, rfl, ⟨_, rfl⟩⟩

/-- Settles O8: what power-on restores of the wear store keeps its records, and drops what was deferred. -/
theorem powerOffClearsAllButFusesAndLog : Obligations.PowerOffClearsAllButFusesAndLog := by
  intro s
  refine ⟨fun hpower => ⟨s.afterPowerOff, next_congr (if_pos hpower), ?_, ?_, rfl⟩, fun hoff => next_congr (if_neg (by simp [hoff]))⟩
  · show s.wear.restored.records = s.wear.records
    unfold Wear.restored
    split
    · next h => exact h.symm
    · rfl
  · show s.wear.restored.deferred = []
    unfold Wear.restored
    split <;> rfl

/-- Settles O9. -/
theorem powerOnBeginsBringUp : Obligations.PowerOnBeginsBringUp := by
  intro s hoff
  refine ⟨s.pwrGoodHigh, rfl, ?_⟩
  unfold State.pwrGoodHigh
  rw [if_neg (by simp [hoff])]
  cases hgood : s.fuses.fwGood <;> cases hsuspect : logSuspect s.log <;> simp [State.upClk]

/-- Settles O11: what the loss of XA leaves is `Clk.xaGone_spec`. -/
theorem xaIsLostOrFails : Obligations.XaIsLostOrFails := by
  refine ⟨fun s halive => ⟨fun hstable c hc => ?_, fun hstable hvariant n hlo hhi => ?_, fun hl4 hstable => ?_⟩, fun s halive => ⟨fun hstable hfailed => ?_, fun hstable => ?_⟩⟩
  · have hgone : ∃ osc, exec c s = .next (s.upClk (fun x => x.xaGone osc)) := by
      rcases hc with ⟨hvariant, ⟨n, rfl, hosc, hbeyond⟩ | rfl⟩ | ⟨hvariant, rfl⟩
      · have hlost : windowLost n = true := by simpa [windowLost] using hbeyond
        exact ⟨true, next_congr (by simp [State.xaWindow, halive, hvariant, hosc, hstable, hlost])⟩
      · exact ⟨false, next_congr (by simp [State.xaEdgeTimeout, halive, hvariant, hstable])⟩
      · exact ⟨false, next_congr (by simp [State.xtalAmplitudeLost, halive, hvariant, hstable])⟩
    obtain ⟨osc, hexec⟩ := hgone
    obtain ⟨h1, h2, h3, h4, h5, h6, h7, h8, h9, h10, h11⟩ := s.clk.xaGone_spec osc
    exact ⟨_, hexec, h1, h2, h3, h4, h5, h6, h7, h8, h9, h10, h11, rfl⟩
  · have hin : windowLost n = false := by
      simp only [windowLost, Bool.or_eq_false_iff, decide_eq_false_iff_not]
      omega
    exact next_congr (by simp [State.xaWindow, hstable, hin])
  · refine ⟨_, rfl, ?_⟩
    by_cases hfast : s.clk.kfastSrc = 1 <;> by_cases hslow : s.clk.kslowSrc = 3 <;>
      simp [State.xtalAmplitudeLost, halive, hl4, hstable, hfast, hslow, Clk.hang, State.upClk]
  · refine ⟨fun hstep => next_congr ?_, fun hstep => next_congr ?_⟩
    · simp [State.xaFailTimeout, halive, hstable, hfailed, hstep, State.upClk]
    · simp [State.xaFailTimeout, halive, hstable, hfailed, hstep, State.upClk]
  · exact next_congr (by simp [State.xaFailTimeout, hstable])

/-- Settles O12. -/
theorem crystalsOfL4AreJudgedByCount : Obligations.CrystalsOfL4AreJudgedByCount := by
  intro s halive
  refine ⟨fun hl4 hosc hstable => next_congr ?_, fun hl4 hstable => ?_, fun hl4 xb => next_congr ?_⟩
  · simp [State.xtalStableCount, halive, hl4, hosc, hstable, State.upClk, Clk.xaGood]
  · have hcount : s.xtalStableCount true = s.upClk (fun c =>
        { c with xbStable := true, kettleEn := true, kslowSrc := 3, switching := c.switching.filter (fun x => x.1 != 3) }) := by
      simp [State.xtalStableCount, halive, hl4, hstable]
    obtain ⟨hends, hothers⟩ := switching_filter s.clk.switching 3
    exact ⟨_, next_congr hcount, rfl, rfl, rfl, hends, hothers, rfl⟩
  · simp [State.xtalStableCount, hl4]

/-- Settles O13. -/
theorem domainsTakeTheirSources : Obligations.DomainsTakeTheirSources := by
  refine ⟨fun s halive => ⟨fun hen hlock => ?_, fun hen hlock => ?_, fun hl4 hen hlock => ?_, ?_, ?_, ?_, ?_⟩, fun s d src halive hd => ⟨fun hhangs => ?_, fun hnone => ?_⟩⟩
  · exact next_congr (by simp [State.loopLock, halive, hen, hlock])
  · exact next_congr (by simp [State.loopLock, halive, hen, hlock])
  · exact next_congr (by simp [State.loopLock, halive, hl4, hen, hlock])
  · simp [State.endStep2, and_assoc]
  · exact next_congr (by simp [State.loopLockLost, halive])
  · exact next_congr (by simp [State.loopLockLost, halive])
  · exact next_congr (by simp [State.loopLockLost, halive])
  · let u := s.upClk (fun c => { (c.setSrc d src) with
      forced := satAdd c.forced 1 255, switching := c.switching.filter (fun x => x.1 != d) })
    have hforced : s.switchForced d = u.dieEvent u.primary 0x0012 d src := by simp [State.switchForced, halive, hhangs, u]
    obtain ⟨hends, hothers⟩ := switching_filter s.clk.switching d
    obtain ⟨hcore, hcontrol, hfast, hslow, -⟩ := s.clk.setSrc_spec src hd
    exact ⟨u, next_pump_congr hforced, rfl, satAdd_one_255 _, hends, hothers, hcore, hcontrol, hfast, hslow⟩
  · exact next_pump_congr (by simp [State.switchForced, halive, hnone])
end

section
/-! SUPPORT. Throttle levels (R395), and how a bench is gated and returns (R380). -/

namespace Sys2Proof.Machine

theorem getD_set_self_zero (l : List Nat) (b : Nat) : (l.set b 0).getD b 0 = 0 := by
  simp only [List.getD_eq_getElem?_getD, List.getElem?_set_self']
  cases l[b]? <;> rfl

theorem nextLevel_eq (l c : Nat) (t : Int) (p cap : Nat) : nextLevel l t (c * 16 : Nat) p cap =
    if t ≥ 16 * (c : Int) ∨ p > cap then min 7 (l + 1) else if t < 16 * (c : Int) - 16 * 3 ∧ 16 * p < 15 * cap then max 0 (l - 1) else l := by
  have hraise : (decide (t ≥ ((c * 16 : Nat) : Int)) || decide (p > cap)) = decide (t ≥ 16 * (c : Int) ∨ p > cap) := by
    rw [Bool.decide_or]
    congr 2
    push_cast
    rw [mul_comm]
  have hlower : (decide (t < ((c * 16 : Nat) : Int) - 48) && decide (p * 16 < cap * 15)) =
      decide (t < 16 * (c : Int) - 16 * 3 ∧ 16 * p < 15 * cap) := by
    rw [Bool.decide_and]
    congr 2
    · push_cast
      rw [mul_comm]
    · rw [mul_comm, mul_comm cap]
  simp only [nextLevel, hraise, hlower, decide_eq_true_eq, Nat.zero_max]

theorem State.nextLevels_getD (s : State) (power : Nat) {b : Nat} (hb : b < 8) : (s.nextLevels power).getD b 0 =
    if s.benchPresent b && (s.bench b).power == .running
      then nextLevel (s.kettle.level.getD b 0) (s.benchTemp b) (s.kettle.throttleC * 16 : Nat) power s.kettle.cap
      else s.kettle.level.getD b 0 := by
  simp [State.nextLevels, hb]

theorem State.powerUpDone_of_powering {s : State} {b : Nat} (h : (s.bench b).power = .powering) : s.powerUpDone b =
    (s.upBench b (fun x => { x.emptied with power := .running })).upKettle (fun k => { k with level := k.level.set b 0 }) := by
  simp [State.powerUpDone, h]

end Sys2Proof.Machine

open Sys2Proof.Machine

/-- Settles O14: the tick takes the levels of `nextLevels`. -/
theorem throttleFollowsTheRule : Obligations.ThrottleFollowsTheRule := by
  intro s b hb
  refine ⟨fun hpowering => ⟨_, next_congr (State.powerUpDone_of_powering hpowering), getD_set_self_zero _ b⟩, fun halive => ?_⟩
  extract_lets P t T l
  have hlevel : s.kettleTick.kettle.level = s.nextLevels P := by
    rw [State.kettleTick, if_neg (by simp [halive]), State.filterTick_rest]
  refine ⟨_, rfl, ?_⟩
  rw [hlevel, State.nextLevels_getD s P hb, nextLevel_eq]
  simp only [Bool.and_eq_true, beq_iff_eq]
  rfl

/-- Settles O18. -/
theorem benchPowerIsGatedAndReturns : Obligations.BenchPowerIsGatedAndReturns := by
  intro s b hb
  refine ⟨fun halive hpresent hruns hreset howner hsuspect hidle hbusy hres hwc htest hbring => ?_, fun hpowering => ?_⟩
  · have hidle' : 100 ≤ s.kettle.idle[b]?.getD 0 := by rwa [← List.getD_eq_getElem?_getD]
    have hgate : s.powerGate b =
        (s.upBench b (fun x => { x.emptied with power := .gated })).upKettle (fun k => { k with level := k.level.set b 0 }) := by
      simp [State.powerGate, halive, hpresent, hruns, hreset, howner, hsuspect, hbusy, hres, hwc, htest, hbring, Nat.not_lt.2 hidle']
    exact ⟨_, next_congr hgate, State.bench_upBench_same s b _ hb, fun c hc => State.bench_upBench_other s b c _ hc.symm, rfl, rfl⟩
  · exact ⟨_, next_congr (State.powerUpDone_of_powering hpowering), State.bench_upBench_same s b _ hb,
      fun c hc => State.bench_upBench_other s b c _ hc.symm, rfl, rfl⟩
end

section
/-! SUPPORT. Self-test, spare rows, drains and die resets (R326 to R341, R384, R385, R405, R413). -/

namespace Sys2Proof.Machine

theorem satAdd_one (n m : Nat) : satAdd n 1 m = min m (n + 1) := by
  unfold satAdd
  omega

theorem marchStore_eq_some_ne_zero {code : Nat} {st : Store} (h : marchStore code = some st) : code ≠ 0 := by
  rintro rfl
  simp [marchStore] at h

theorem Kettle.mem_failing_fails (k : Kettle) (r : Store × Nat × Nat) : r ∈ (k.fails r).failing := by
  by_cases h : r ∈ k.failing <;> simp [Kettle.fails, h]

@[simp] theorem State.repairs_logRepair (s : State) (e : LogEnt) : e ∈ (s.logRepair e).repairs := by
  unfold State.logRepair State.repairs
  split <;> simp

/-- A full repair log or a rail out of range holds an entry back (R333, R424). -/
theorem State.logRepair_cases (s : State) (e : LogEnt) :
    (s.railsBad = false ∧ s.log.length < 256 ∧ s.logRepair e = { s with log := s.log ++ [e] }) ∨
      ((s.railsBad = true ∨ 256 ≤ s.log.length) ∧ s.logRepair e = { s with logDue := s.logDue ++ [e] }) := by
  unfold State.logRepair
  by_cases h : s.railsBad = true ∨ 256 ≤ s.log.length
  · exact .inr ⟨h, if_pos (by simpa using h)⟩
  · rw [not_or] at h
    exact .inl ⟨by simpa using h.1, Nat.lt_of_not_le h.2, if_neg (by simpa using h)⟩

theorem State.logRepair_rest (s : State) (e : LogEnt) :
    s.logRepair e = { s with log := (s.logRepair e).log, logDue := (s.logRepair e).logDue } := by
  unfold State.logRepair
  split <;> rfl

theorem State.remapRow_rest (s : State) (st : Store) (b row : Nat) :
    s.remapRow st b row = { s with log := (s.remapRow st b row).log, logDue := (s.remapRow st b row).logDue,
                                   kettle := { s.kettle with failing := (s.remapRow st b row).kettle.failing,
                                                             rowErrs := (s.remapRow st b row).kettle.rowErrs },
                                   wear := (s.remapRow st b row).wear } := by
  unfold State.remapRow
  rw [s.logRepair_rest]
  rfl

theorem State.remapRow_log (s : State) (st : Store) (b row : Nat) :
    (s.remapRow st b row).log = (s.logRepair (.remap st b row)).log ∧ (s.remapRow st b row).logDue = (s.logRepair (.remap st b row)).logDue := by
  simp only [State.remapRow, State.gauge, State.upWear, State.repaired, State.upKettle, and_self]

theorem State.remapRow_spares (s : State) (st : Store) (b row : Nat) :
    (s.remapRow st b row).wear.spares = sparesOf (s.remapRow st b row).repairs := by
  simp only [State.remapRow, State.gauge, State.upWear, State.repairs]

theorem State.remapRow_failing (s : State) (st : Store) (b row : Nat) : (st, b, row) ∉ (s.remapRow st b row).kettle.failing :=
  fun h => by simpa using (List.mem_filter.1 h).2

theorem State.startDrain_of_started {s : State} (h : s.drain.inForce = true) (hcause : s.drain.cause = 1) (cause : Nat) :
    s.startDrain cause = s := by
  unfold State.startDrain
  rw [if_pos h]
  exact if_neg (by simp [hcause])

end Sys2Proof.Machine

open Sys2Proof Sys2Proof.Machine

/-- Settles O19. -/
theorem selfTestRunsAndReports : Obligations.SelfTestRunsAndReports := by
  intro s b halive
  refine ⟨fun hpolicy hmay hdue hlevel hfailing => ?_, fun code row htest hpart => ⟨_, rfl, ?_, ?_, ?_⟩, fun htest => ?_, fun htest hbring => ?_⟩
  · have hclear : s.kettle.failing.any (fun x => x.1 != .cupboard && x.2.1 == b) = false := by
      simpa [List.any_eq_false] using hfailing
    refine next_pump_congr ?_
    unfold State.selftestStart
    rw [if_neg (by simp [halive, hpolicy, hmay]), hdue]
    exact if_neg (by rw [hlevel, hclear]; decide)
  · rintro rfl
    refine next_pump_congr ?_
    unfold State.selftestDone
    rw [if_neg (by simp [halive, hpart]), htest]
    rfl
  · intro st hst
    have hdone : s.selftestDone code row = ((s.upKettle (fun k => { k with testBench := none })).upKettle (fun k =>
        { k with tested := k.tested.set b s.wear.seconds, testLast := b, testFailed := code != 0,
                 testCode := if code = 0 then k.testCode else code })).upKettle (fun k => k.fails (st, b, row)) := by
      unfold State.selftestDone
      rw [if_neg (by simp [halive, hpart]), htest]
      unfold State.testResult
      dsimp only
      rw [if_neg (marchStore_eq_some_ne_zero hst), hst]
      rfl
    exact ⟨_, next_pump_congr hdone, Kettle.mem_failing_fails _ _, rfl⟩
  · intro hcode hst
    refine next_pump_congr ?_
    unfold State.selftestDone
    rw [if_neg (by simp [halive, hpart]), htest]
    unfold State.testResult
    dsimp only
    rw [if_neg hcode, hst]
    rfl
  · refine next_congr ?_
    simp only [State.abortTest, htest, if_true, satAdd_one]
  · refine ⟨_, rfl, ?_⟩
    by_cases hlast : s.kettle.bringTest.erase b = []
    all_goals simp [State.abortTest, htest, hbring, State.upKettle, State.upBench, State.upClk, hlast, satAdd_one]

/-- Settles O20. -/
theorem spareRowIsTaken : Obligations.SpareRowIsTaken := by
  intro s k b row st halive hstore hbench hpresent hidle htest hrow hremap hfailing hhas
  have howner : ownerBench st b = b := if_neg hbench
  have hexec : s.spareRemap k b row = s.remapRow st b row := by
    unfold State.spareRemap
    rw [if_pos halive, hstore]
    dsimp only
    rw [if_neg (by simp [howner, hfailing]), if_neg hbench,
      if_neg (by simpa [hpresent, hidle, htest, hhas] using hrow), if_pos hremap]
  obtain ⟨hlog, hlogDue⟩ := s.remapRow_log st b row
  refine ⟨s.remapRow st b row, next_pump_congr hexec, ?_, ?_, ?_, s.remapRow_failing st b row, s.remapRow_spares st b row, s.remapRow_rest st b row⟩
  · intro hrails
    rw [hlog, hlogDue]
    rcases s.logRepair_cases (.remap st b row) with ⟨-, -, heq⟩ | ⟨hheld, heq⟩ <;> rw [heq]
    · exact .inl rfl
    · exact .inr ⟨hheld.resolve_left (by simp [hrails]), rfl⟩
  · intro hrails
    rw [hlog, hlogDue]
    rcases s.logRepair_cases (.remap st b row) with ⟨hgood, -, -⟩ | ⟨-, heq⟩
    · exact absurd hgood (by simp [hrails])
    · rw [heq]
      exact ⟨rfl, rfl⟩
  · rw [State.repairs, hlog, hlogDue]
    exact s.repairs_logRepair _

/-- Settles O22. -/
theorem drainsEndAndShow : Obligations.DrainsEndAndShow := by
  intro s hforce
  refine ⟨fun howed hdone hrst horders hmig hctxs => next_pump_congr ?_, fun howed hack => next_congr ?_, fun hack => next_congr ?_, rfl,
    fun hcause => next_congr ?_, fun hcause => next_congr ?_⟩
  · have hquiet : s.ctxs.all (fun c => c.state != .steeping && c.state != .warming) = true := by simpa using hctxs
    unfold State.drainDone
    exact if_pos (by simp [hforce, howed, hdone, hrst, horders, hmig, hquiet])
  · unfold State.blueTimeout
    cases hblue : s.drain.blue
    case false => exact if_pos (by simp [hforce, howed, hack, hblue])
    case true =>
      rw [if_neg (by simp [hblue]), ← hblue]
  · exact if_neg (by simp [hack])
  · simp [State.cancelDrain, hforce, hcause]
  · simp [State.cancelDrain, hforce, hcause, State.upDrain]

/-- Settles O25. -/
theorem contextErrorPoisonsTheSession : Obligations.ContextErrorPoisonsTheSession := by
  intro s p n
  refine ⟨fun hsome => ?_, fun hnone => next_congr (by simp [State.contextEccError, hnone])⟩
  obtain ⟨c, hc⟩ := Option.isSome_iff_exists.1 hsome
  exact ⟨_, _, rfl, rfl, next_congr (by simp [State.contextEccError, hc])⟩

/-- Settles O26. -/
theorem attentionButtonActs : Obligations.AttentionButtonActs := by
  intro s halive
  refine ⟨next_congr (if_pos halive), rfl, fun hforce => next_pump_congr ?_, fun hforce => next_pump_congr ?_, fun began h => next_congr ?_,
    fun began h => next_congr ?_⟩
  · simp [State.attnHold3, halive, hforce]
  · simp [State.attnHold3, halive, hforce]
  · unfold State.attnHold10
    rw [if_neg (by simp [halive])]
    exact if_pos (by simp [h])
  · unfold State.attnHold10
    rw [if_neg (by simp [halive])]
    exact if_neg (by simpa [and_assoc] using h)
end

section
/-! SUPPORT. What a die reset clears (R384, R435). -/

namespace Sys2Proof.Machine

/-- Taking a spread moves sources and locks of the core loop alone. -/
theorem Clk.takeSpread_keeps (c : Clk) :
    c.takeSpread.count = c.count ∧ c.takeSpread.xaStable = c.xaStable ∧ c.takeSpread.heldDepth = c.heldDepth := by
  unfold Clk.takeSpread
  extract_lets same c1
  split
  · exact ⟨rfl, rfl, rfl⟩
  split
  · split <;> exact ⟨rfl, rfl, rfl⟩
  · exact ⟨rfl, rfl, rfl⟩

/-- With no Cupboard row failing, the state after a die reset is the cleared one, but for the Kettle's log and the training of face 0. -/
theorem State.dieReset_of_due {s : State} {r : DieRst} (hr : s.rstDie = some r) (hacked : s.pendingUnacked = false)
    (hsw : ∀ x ∈ s.clk.switching, 1 < x.1) (hfailing : s.kettle.failing = []) :
    s.dieReset = { s.cleared r with kettle := s.dieReset.kettle, faces := s.dieReset.faces } := by
  have hdue : (s.pendingUnacked || s.clk.switching.any (fun x => decide (x.1 ≤ 1))) = false := by
    simpa [hacked, List.any_eq_false] using hsw
  have hnone : (s.cleared r).kettle.failing.filter (fun x => x.1 == .cupboard) = [] := by
    show s.kettle.failing.filter _ = []
    rw [hfailing]
    rfl
  have hclear (t : State) (ht : t.kettle.failing = (s.cleared r).kettle.failing) : t.remapCupboard = t := by
    unfold State.remapCupboard
    rw [ht, hnone]
    rfl
  unfold State.dieReset
  rw [hr]
  simp only [hdue, Bool.false_eq_true, if_false]
  rw [hclear _ (by split <;> rfl)]
  split <;> split <;> rfl

end Sys2Proof.Machine

open Sys2Proof Sys2Proof.Machine

/-- Settles O23: the fields are those of `State.cleared`, through `State.dieReset_of_due`. -/
theorem dieResetRunsItsSteps : Obligations.DieResetRunsItsSteps := by
  intro s
  refine ⟨fun hrst hpower => ⟨fun code hlo hhi => next_pump_congr ?_, next_pump_congr ?_⟩, fun r hr hacked hsw hfailing => ?_⟩
  · unfold State.dieResetError State.beginReset
    rw [if_pos (by simp [hlo, hhi]), if_neg (by simp [hrst, hpower])]
  · unfold State.dieResetRequest State.beginReset
    rw [if_neg (by simp [hrst, hpower])]
  · have heq := State.dieReset_of_due hr hacked hsw hfailing
    have hreads : s.dieReset.reads = [] := by rw [heq]; rfl
    have hwrites : s.dieReset.writes = [] := by rw [heq]; rfl
    have hpump : pump s.dieReset = s.dieReset := pump_of_none _ (by simp [hreads]) (by simp [hwrites])
    obtain ⟨hcount, hstable, hheld⟩ := Clk.takeSpread_keeps { s.clk with count := 0, step := if s.clk.step = 6 then 7 else s.clk.step }
    have hints : s.dieReset.ints = if r.requested then { lastCount := s.ints.lastCount, lastCode := s.ints.lastCode }
        else { lastCount := satAdd s.ints.lastCount 1 0xFFFF, lastCode := r.code } := by rw [heq]; rfl
    have hdrain : s.dieReset.drain = s.drainAfter r := by rw [heq]; rfl
    refine ⟨s.dieReset, next_congr hpump, ?_⟩
    refine ⟨by rw [heq]; rfl, by rw [heq]; rfl, by rw [heq]; rfl, by rw [heq]; rfl, by rw [heq]; rfl, by rw [heq]; rfl, hreads, hwrites,
      by rw [heq]; rfl, by rw [heq]; rfl, ?_, ?_, ?_, by rw [heq]; rfl, by rw [heq]; rfl, by rw [heq]; rfl, fun hs => ?_, fun hs => ?_,
      by rw [heq]; rfl, fun hq => ?_, fun hq => ?_⟩
    · rw [heq]; exact hcount
    · rw [heq]; exact hstable
    · rw [heq]; exact hheld
    · rw [hdrain, State.drainAfter, if_pos hs]
      exact ⟨rfl, rfl, rfl⟩
    · rw [hdrain, State.drainAfter, if_neg (by simp [hs])]
      simp
    · rw [hints, if_pos hq]
      exact ⟨rfl, rfl⟩
    · rw [hints, if_neg (by simp [hq])]
      exact ⟨satAdd_one _ _, rfl⟩
end

section
/-! SUPPORT. The service ports: masks of bits, and the service signals (R419). -/

namespace Sys2Proof.Machine

theorem maskOf_succ (n : Nat) (f : Nat → Bool) : maskOf (n + 1) f = if f n then maskOf n f + 2 ^ n else maskOf n f := by
  simp [maskOf, List.range_succ]

theorem maskOf_lt (n : Nat) (f : Nat → Bool) : maskOf n f < 2 ^ n := by
  induction n with
  | zero => simp [maskOf]
  | succ n ih =>
    rw [maskOf_succ, Nat.pow_succ]
    split <;> omega

theorem testBit_maskOf (n : Nat) (f : Nat → Bool) {i : Nat} (hi : i < n) : (maskOf n f).testBit i = f i := by
  induction n with
  | zero => omega
  | succ n ih =>
    have htop : (maskOf n f).testBit n = false := Nat.testBit_lt_two_pow (maskOf_lt n f)
    rw [maskOf_succ]
    rcases Nat.lt_succ_iff_lt_or_eq.1 hi with hlt | rfl
    · split
      · rw [Nat.add_comm, Nat.testBit_two_pow_add_gt hlt, ih hlt]
      · exact ih hlt
    · split
      · next h => rw [Nat.add_comm, Nat.testBit_two_pow_add_eq, htop, h]; rfl
      · next h => rw [htop]; simpa using h

/-- Each service signal is the pin's level, or under EXTEST that of the boundary register where the die drives the pin. -/
theorem State.testBit_serviceSignals (s : State) {n : Nat} (hn : n < 9) : s.serviceSignals.testBit n =
    if s.tap.driving && pinOut n then s.tap.boundary.testBit n else s.pinLevels.getD n false := testBit_maskOf 9 _ hn

theorem State.testBit_serviceSignals_of_not_driving {s : State} (h : s.tap.driving = false) {n : Nat} (hn : n < 9) :
    s.serviceSignals.testBit n = s.pinLevels.getD n false := by
  rw [State.testBit_serviceSignals s hn, if_neg (by simp [h])]

/-- The pins as R419 names them, from bit 0. -/
theorem State.pinLevels_getD (s : State) :
    s.pinLevels.getD 0 false = s.panel.pwrGood ∧ s.pinLevels.getD 1 false = !s.panel.tripN ∧ s.pinLevels.getD 2 false = !s.panel.attn ∧
      s.pinLevels.getD 3 false = !s.panel.cable ∧ s.pinLevels.getD 4 false = s.lampLevel s.lamps.1 4 ∧
      s.pinLevels.getD 5 false = s.lampLevel s.lamps.2.1 5 ∧ s.pinLevels.getD 6 false = s.lampLevel (b2n s.lamps.2.2) 6 :=
  ⟨rfl, rfl, rfl, rfl, rfl, rfl, rfl⟩

theorem State.lampLevel_b2n (s : State) (b : Bool) (n : Nat) : s.lampLevel (b2n b) n = !b := by
  cases b <;> rfl

theorem State.setUnlock_eq (s : State) (v : Word) : s.setUnlock v.toNat = if v.extractLsb 31 24 = 0xA5#8 then s.upMon (fun m =>
    { m with unlocked := v.toNat.testBit 0, minutes := (v.extractLsb 15 8).toNat, minuteMs := 0 }) else s := by
  have hkey : fld v.toNat 31 24 = (v.extractLsb 31 24).toNat := by simp [fld, BitVec.extractLsb]
  have hminutes : fld v.toNat 15 8 = (v.extractLsb 15 8).toNat := by simp [fld, BitVec.extractLsb]
  have hiff : (v.extractLsb 31 24).toNat = 0xA5 ↔ v.extractLsb 31 24 = 0xA5#8 :=
    ⟨fun h => BitVec.eq_of_toNat_eq h, fun h => congrArg BitVec.toNat h⟩
  unfold State.setUnlock
  rw [hkey, hminutes]
  simp only [ne_eq, ite_not, hiff]

end Sys2Proof.Machine

open Sys2Proof Sys2Proof.Machine

/-- Settles O27. -/
theorem servicePortsAct : Obligations.ServicePortsAct := by
  intro s
  refine ⟨fun halive hcable => ?_, fun hcable => ?_, fun v => next_congr (s.setUnlock_eq v), fun hunlocked hminutes => next_congr ?_,
    fun hunlocked hminutes => next_congr ?_, fun r => next_congr ?_, fun v => ⟨rfl, rfl, ?_, ?_⟩⟩
  · have hpresent : s.cablePresent = (s.upPanel (fun p => { p with cable := true })).upMon (fun m =>
        { m with connected := true, line := [], tooLong := false, sawCr := false, out := [.banner, .prompt] }) := if_neg (by simp [halive, hcable])
    exact ⟨_, next_congr hpresent, rfl, rfl, rfl, rfl, rfl, rfl, rfl⟩
  · have hremoved : s.cableRemoved = (s.upPanel (fun p => { p with cable := false })).endRun.upMon (fun m =>
        { m with connected := false, line := [], tooLong := false, sawCr := false }) := if_neg (by simp [hcable])
    refine ⟨_, next_congr hremoved, rfl, rfl, rfl, rfl, rfl, rfl, fun n hn hwrite hissued => ?_, rfl⟩
    have hkept : n ∈ s.narrows.filter (fun n => n.modl.isSome || (n.write.isSome && n.issued)) :=
      List.mem_filter.2 ⟨hn, by simp [hwrite, hissued]⟩
    exact ⟨{ n with stale := true }, List.mem_map_of_mem hkept, rfl, rfl, rfl⟩
  · exact if_pos (by simp [hunlocked, hminutes])
  · exact if_neg (by simp [hminutes])
  · exact if_congr Nat.lt_succ_iff rfl rfl
  · refine ⟨_, rfl, rfl, fun n hn => ?_⟩
    have hout : pinOut n = true := by simpa [pinOut] using hn
    rw [State.testBit_serviceSignals _ (by omega), if_pos (by simp [State.boundaryScan, hout])]
    rfl
  · let u : State := { s.fresh with tap := { s.tap with driving := false } }
    have hbit {n : Nat} (hn : n < 9) : u.serviceSignals.testBit n = u.pinLevels.getD n false :=
      State.testBit_serviceSignals_of_not_driving rfl hn
    obtain ⟨h0, h1, h2, h3, h4, h5, h6⟩ := u.pinLevels_getD
    refine ⟨u.serviceSignals, rfl, maskOf_lt 9 _, (hbit (by decide)).trans h0, (hbit (by decide)).trans h1, (hbit (by decide)).trans h2,
      (hbit (by decide)).trans h3, fun hl => ?_, fun hl => ?_, fun hl => ?_, fun hl => ?_, ?_⟩
    · have hlamp : u.lamps.1 = 0 := hl
      rw [hbit (by decide), h4, hlamp]
      rfl
    · have hlamp : u.lamps.1 = 1 := hl
      rw [hbit (by decide), h4, hlamp]
      rfl
    · have hlamp : u.lamps.2.1 = 0 := hl
      rw [hbit (by decide), h5, hlamp]
      rfl
    · have hlamp : u.lamps.2.1 = 1 := hl
      rw [hbit (by decide), h5, hlamp]
      rfl
    · rw [hbit (by decide), h6, State.lampLevel_b2n]
      rfl
end

section
/-! SUPPORT. How an order ends early (R128): what `endOrder` changes, and what it leaves. -/

namespace Sys2Proof.Machine

/-- The order whose status is decided: it writes nothing after it (R128). -/
def Order.decided (o : Order) (status detail : Nat) : Order :=
  { o with status := some (status, detail), phase := .ending, waitFor := [], outPa := [] }

section
variable {s : State} {i : Nat} {o : Order}

theorem State.endOrder_of_undecided (h : s.order? i = some o) (hstatus : o.status = none) (status detail : Nat) :
    s.endOrder i status detail = (s.upOrder i (fun x => x.decided status detail)).dropOrderReads i := by
  simp only [State.endOrder, h, hstatus]
  rfl

theorem State.endOrder_of_decided (h : ∀ o, s.order? i = some o → o.status.isSome = true) (status detail : Nat) :
    s.endOrder i status detail = s := by
  unfold State.endOrder
  split
  case h_1 => rfl
  case h_2 x hx => exact if_pos (h x hx)

end

/-- An order that is found first of its number and is undecided takes the status, with all of that number; otherwise nothing changes. -/
theorem State.endOrder_cases (s : State) (i status detail : Nat) : s.endOrder i status detail = s ∨
    s.endOrder i status detail = (s.upOrder i (fun x => x.decided status detail)).dropOrderReads i := by
  cases h : s.order? i with
  | none => exact .inl (State.endOrder_of_decided (by simp [h]) _ _)
  | some o =>
    cases hstatus : o.status with
    | none => exact .inr (State.endOrder_of_undecided h hstatus _ _)
    | some st => exact .inl (State.endOrder_of_decided (by simp [h, hstatus]) _ _)

/-- Beside the orders, only what the order asked to read is touched. -/
theorem State.endOrder_rest (s : State) (i status detail : Nat) : s.endOrder i status detail =
    { s with orders := (s.endOrder i status detail).orders, held := (s.endOrder i status detail).held,
             reads := (s.endOrder i status detail).reads, walks := (s.endOrder i status detail).walks } := by
  rcases s.endOrder_cases i status detail with h | h
  · rw [h]
  · rw [h]
    rfl

@[simp] theorem State.endOrder_ctxs (s : State) (i status detail : Nat) : (s.endOrder i status detail).ctxs = s.ctxs := by
  rw [s.endOrder_rest]

/-- Orders of other numbers stay. -/
theorem State.mem_orders_endOrder_ne {s : State} {i status detail : Nat} {x : Order} (hx : x ∈ (s.endOrder i status detail).orders)
    (hne : x.id ≠ i) : x ∈ s.orders := by
  rcases s.endOrder_cases i status detail with h | h <;> rw [h] at hx
  · exact hx
  · obtain ⟨y, hy, rfl⟩ := List.mem_map.1 hx
    split at hne
    · next h => exact absurd h hne
    · next h => rwa [if_neg h]

/-- The orders of number `i` are undecided. -/
def State.Undecided (s : State) (i : Nat) : Prop := ∀ x ∈ s.orders, x.id = i → x.status = none

/-- The orders of number `i` are ending with a status. -/
def State.Decided (s : State) (i status detail : Nat) : Prop :=
  ∀ x ∈ s.orders, x.id = i → x.status = some (status, detail) ∧ x.phase = .ending

theorem State.Undecided.endOrder_ne {s : State} {i j : Nat} (h : s.Undecided i) (hne : j ≠ i) (status detail : Nat) :
    (s.endOrder j status detail).Undecided i :=
  fun x hx hi => h x (State.mem_orders_endOrder_ne hx (by rw [hi]; exact hne.symm)) hi

theorem State.Undecided.endOrder_self {s : State} {i : Nat} (h : s.Undecided i) (status detail : Nat) :
    (s.endOrder i status detail).Decided i status detail := by
  cases hfind : s.order? i with
  | none =>
    rw [State.endOrder_of_decided (by simp [hfind])]
    exact fun x hx hi => absurd hi (by simpa using List.find?_eq_none.1 hfind x hx)
  | some o =>
    obtain ⟨hmem, hid⟩ := order?_mem hfind
    rw [State.endOrder_of_undecided hfind (h o hmem hid)]
    intro x hx hi
    obtain ⟨y, -, rfl⟩ := List.mem_map.1 hx
    split at hi
    · next hy => rw [if_pos hy]; exact ⟨rfl, rfl⟩
    · next hy => exact absurd hi hy

theorem State.Decided.endOrder {s : State} {i st d : Nat} (h : s.Decided i st d) (j status detail : Nat) :
    (s.endOrder j status detail).Decided i st d := by
  by_cases hne : j = i
  · subst hne
    rw [State.endOrder_of_decided]
    · exact h
    · intro o ho
      obtain ⟨hmem, hid⟩ := order?_mem ho
      rw [(h o hmem hid).1]
      rfl
  · exact fun x hx hi => h x (State.mem_orders_endOrder_ne hx (by rw [hi]; exact fun e => hne e.symm)) hi

theorem State.Decided.foldl {i st d : Nat} (status detail : Nat) (l : List Order) {s : State} (h : s.Decided i st d) :
    (l.foldl (fun x o => x.endOrder o.id status detail) s).Decided i st d := by
  induction l generalizing s with
  | nil => exact h
  | cons o l ih => exact ih (h.endOrder o.id status detail)

/-- Ending every order of a list decides those of a number in the list that were undecided. -/
theorem State.Undecided.foldl_endOrder {s : State} {i : Nat} (status detail : Nat) {l : List Order} (hi : ∃ o ∈ l, o.id = i)
    (h : s.Undecided i) : (l.foldl (fun x o => x.endOrder o.id status detail) s).Decided i status detail := by
  induction l generalizing s with
  | nil => exact absurd hi (by simp)
  | cons o l ih =>
    rw [List.foldl_cons]
    by_cases ho : o.id = i
    · subst ho
      exact State.Decided.foldl _ _ _ (h.endOrder_self status detail)
    · refine ih ?_ (h.endOrder_ne ho status detail)
      obtain ⟨x, hx, hxi⟩ := hi
      rcases List.mem_cons.1 hx with rfl | hx
      · exact absurd hxi ho
      · exact ⟨x, hx, hxi⟩

theorem State.foldl_endOrder_ctxs (status detail : Nat) (l : List Order) (s : State) :
    (l.foldl (fun x o => x.endOrder o.id status detail) s).ctxs = s.ctxs := by
  induction l generalizing s with
  | nil => rfl
  | cons o l ih => rw [List.foldl_cons, ih, State.endOrder_ctxs]

end Sys2Proof.Machine
end

section
/-! SUPPORT. Sessions whose home bench goes into reset are parked (R94). -/

namespace Sys2Proof.Machine

/-- A context has the key of session `n` of partition `p`. -/
def Ctx.hasKey (c : Ctx) (p n : Nat) : Prop := c.p = p ∧ c.session = n

/-- An update of a session leaves the contexts of others. -/
theorem State.mem_ctxs_upCtx {s : State} {p n : Nat} {f : Ctx → Ctx} {d : Ctx} (h : d ∈ (s.upCtx p n f).ctxs) :
    (∃ c ∈ s.ctxs, c.hasKey p n ∧ d = f c) ∨ (d ∈ s.ctxs ∧ ¬d.hasKey p n) := by
  obtain ⟨c, hc, rfl⟩ := List.mem_map.1 h
  by_cases hkey : c.p = p ∧ c.session = n
  · rw [if_pos hkey]
    exact .inl ⟨c, hc, hkey, rfl⟩
  · rw [if_neg hkey]
    exact .inr ⟨hc, hkey⟩

/-- A session that gives its slot up is parked, and the others stay. -/
theorem State.mem_ctxs_dropSlot {s : State} {p n : Nat} {d : Ctx} (h : d ∈ (s.dropSlot p n).ctxs) :
    d.state = .parked ∨ (d ∈ s.ctxs ∧ ¬d.hasKey p n) := by
  unfold State.dropSlot at h
  rcases State.mem_ctxs_upCtx h with ⟨c, -, -, rfl⟩ | ⟨hd, hkey⟩
  · exact .inl rfl
  refine .inr ⟨?_, hkey⟩
  split at hd
  · rcases State.mem_ctxs_upCtx hd with ⟨c, -, hc, rfl⟩ | ⟨hd, -⟩
    · exact absurd hc hkey
    · exact hd
  · exact hd

/-- The release of a session that is parked drops its context, or does nothing. -/
theorem State.mem_ctxs_releaseIf {s : State} {p n : Nat} (hparked : ∀ c ∈ s.ctxs, c.hasKey p n → c.state = .parked) {d : Ctx}
    (h : d ∈ (s.releaseIf p n).ctxs) : d ∈ s.ctxs := by
  unfold State.releaseIf at h
  split at h
  · exact h
  · next c hc =>
    obtain ⟨hmem, hkey⟩ := ctx?_mem hc
    rw [hparked c hmem hkey] at h
    split at h
    · exact h
    · exact (List.mem_filter.1 h).1

theorem State.mem_ctxs_benchSession {s : State} {b : Nat} {c d : Ctx} (h : d ∈ (s.benchSession b c).ctxs) :
    d.state = .parked ∨ (d ∈ s.ctxs ∧ ¬d.hasKey c.p c.session) := by
  unfold State.benchSession at h
  extract_lets halted s1 s2 at h
  have hs2 {e : Ctx} (he : e ∈ s2.ctxs) (hkey : ¬e.hasKey c.p c.session) : e ∈ s.ctxs := by
    rcases State.mem_ctxs_upCtx he with ⟨x, -, hx, rfl⟩ | ⟨he, -⟩
    · exact absurd hx hkey
    · have hs1 : s1.ctxs = s.ctxs := State.foldl_endOrder_ctxs _ _ _ _
      rw [← hs1]
      exact he
  have hdrop {e : Ctx} (he : e ∈ (s2.dropSlot c.p c.session).ctxs) : e.state = .parked ∨ (e ∈ s.ctxs ∧ ¬e.hasKey c.p c.session) :=
    (State.mem_ctxs_dropSlot he).imp_right fun ⟨he, hkey⟩ => ⟨hs2 he hkey, hkey⟩
  refine hdrop (State.mem_ctxs_releaseIf (fun e he hkey => ?_) h)
  exact (hdrop he).resolve_right fun h => h.2 hkey

theorem State.mem_ctxs_foldl_benchSession {b : Nat} {l : List Ctx} {s : State} {d : Ctx}
    (h : d ∈ (l.foldl (fun x c => x.benchSession b c) s).ctxs) :
    d.state = .parked ∨ (d ∈ s.ctxs ∧ ∀ c ∈ l, ¬d.hasKey c.p c.session) := by
  induction l generalizing s with
  | nil => exact .inr ⟨h, by simp⟩
  | cons c l ih =>
    rcases ih h with hp | ⟨hd, hl⟩
    · exact .inl hp
    · rcases State.mem_ctxs_benchSession hd with hp | ⟨hd, hc⟩
      · exact .inl hp
      · exact .inr ⟨hd, List.forall_mem_cons.2 ⟨hc, hl⟩⟩

/-- Once every session at home on a bench is taken, those that have it as their home are parked. -/
theorem State.homes_parked {s : State} {b : Nat} {d : Ctx}
    (h : d ∈ ((s.ctxs.filter (fun c => c.home == b && c.state != .parked)).foldl (fun x c => x.benchSession b c) s).ctxs)
    (hhome : d.home = b) : d.state = .parked := by
  rcases State.mem_ctxs_foldl_benchSession h with hp | ⟨hd, hkeys⟩
  · exact hp
  · by_contra hstate
    exact hkeys d (List.mem_filter.2 ⟨hd, by simp [hhome, hstate]⟩) ⟨rfl, rfl⟩

/-- An order that lives on has nothing of the bench that goes into reset. -/
theorem Order.clearBench_clears (o : Order) (b : Nat) : (∀ q ∈ (o.clearBench b).queries, q.1 ≠ b) ∧ b ∉ (o.clearBench b).rooms := by
  simp [Order.clearBench]

theorem State.length_benches_of_same {s t : State} (h : Same s t) (hs : s.sized) : t.benches.length = 8 := (h.sized hs).2.1

theorem State.putReset_reset {s : State} {b : Nat} (hb : b < 8) (hs : s.sized) : ((s.putReset b).bench b).reset = true := by
  have hlen : ((s.abortTest b).resetBench b).benches.length = 8 :=
    State.length_benches_of_same (resetBench_same _ b (abortTest_same s b (.refl s))) hs
  unfold State.putReset
  rw [State.bench_upBench_same _ _ _ (by omega)]

end Sys2Proof.Machine

open Sys2Proof Sys2Proof.Machine

/-- Settles O24: the orders that end are decided by `State.Undecided.foldl_endOrder`, the sessions parked by `State.homes_parked`. -/
theorem benchResetStopsItsWork : Obligations.BenchResetStopsItsWork := by
  intro s
  refine ⟨fun mask hrst => next_pump_congr (if_neg (by simp [hrst])), fun b hb hs => ?_, fun b hb => ⟨fun hreset hidle => ?_, fun hbusy => ?_⟩⟩
  · intro a
    refine ⟨_, _, _, rfl, ?_, rfl, fun c hc hhome => State.homes_parked hc hhome, rfl, ?_, ?_, rfl, State.putReset_reset hb hs⟩
    · intro o ho hloses hundecided
      refine State.Undecided.foldl_endOrder 0x31 b ⟨o, ?_, rfl⟩ hundecided
      exact List.mem_filter.2 ⟨ho, by simp [hloses, hundecided o ho rfl]⟩
    · have hsame : Same s (((((a.orders.filter (fun o => a.losesBench o b && o.status.isNone)).foldl (fun x o => x.endOrder o.id 0x31 b) a).ctxs.filter
          (fun c => c.home == b && c.state != .parked)).foldl (fun x c => x.benchSession b c)
          ((a.orders.filter (fun o => a.losesBench o b && o.status.isNone)).foldl (fun x o => x.endOrder o.id 0x31 b) a)).flushWc b) :=
        flushWc_same _ b (Same.foldl (Same.foldl (abortTest_same s b (.refl s)) fun x o hx => endOrder_same x _ _ _ hx)
          fun x c hx => benchSession_same x b c hx)
      have hlen := State.length_benches_of_same hsame hs
      rw [State.bench_upBench_same _ _ _ (by simp only; omega)]
      exact ⟨rfl, rfl, rfl, rfl, rfl, rfl, rfl, rfl⟩
    · intro o ho
      obtain ⟨x, -, rfl⟩ := List.mem_map.1 ho
      exact x.clearBench_clears b
  · have hnone : s.orders.any (fun o => o.onBench b) = false := by simpa [List.any_eq_false] using hidle
    refine ⟨_, next_congr ?_, rfl⟩
    unfold State.benchResetDone
    rw [if_neg (by simp [hreset, hnone])]
  · have hany : s.orders.any (fun o => o.onBench b) = true := List.any_eq_true.2 hbusy
    exact next_congr (if_pos (by simp [hany]))
end

section
/-! SUPPORT. A bench in the repair log is suspect (R334, R336); how a drain starts (R338, R340). -/

namespace Sys2Proof.Machine

theorem testBit_foldl_suspect {l : List LogEnt} {m b : Nat} (h : m.testBit b = true ∨ ∃ k, .suspectBench b k ∈ l) :
    (l.foldl (fun m e => match e with | .suspectBench b _ => m ||| (1 <<< b) | _ => m) m).testBit b = true := by
  induction l generalizing m with
  | nil => simpa using h
  | cons e l ih =>
    refine ih ?_
    rcases h with hm | ⟨k, hk⟩
    · left
      dsimp only
      split
      · rw [Nat.testBit_or, hm, Bool.true_or]
      · exact hm
    · rcases List.mem_cons.1 hk with rfl | hk
      · left
        simp [Nat.testBit_or, Nat.one_shiftLeft, Nat.testBit_two_pow_self]
      · exact .inr ⟨k, hk⟩

theorem State.suspect_of_mem_repairs {s : State} {b k : Nat} (h : .suspectBench b k ∈ s.repairs) : s.suspect b = true :=
  testBit_foldl_suspect (.inr ⟨k, h⟩)

theorem dieEvent_drain (s : State) (ps : List Nat) (code a0 a1 : Nat) : (s.dieEvent ps code a0 a1).drain = s.drain :=
  (eventAll_posts s ps code a0 a1).drain

/-- DRAIN_STARTED of cause 1 is posted, or is owed before the first commit and under a die reset (R413). -/
def State.drainPosted (s x : State) : State :=
  if !s.cfg.committed || s.rstDie.isSome then x else x.dieEvent x.enabledParts 0x0013 1 0

theorem State.drainPosted_drain (s x : State) : (s.drainPosted x).drain = x.drain := by
  unfold State.drainPosted
  split
  · rfl
  · exact dieEvent_drain _ _ _ _ _

section
variable {s : State}

theorem State.startDrain_of_idle (h : s.drain.inForce = false) : s.startDrain 1 = (s.drainPosted { s with
    drain := { inForce := true, cause := 1, owed := !s.cfg.committed || s.rstDie.isSome, refused := s.drain.refused, ack := s.drain.ack } }).drainParks :=
  if_neg (by simp [h])

theorem State.startDrain_of_other (h : s.drain.inForce = true) (hcause : s.drain.cause ≠ 1) : s.startDrain 1 = s.drainPosted { s with
    drain := { s.drain with cause := 1, owed := s.drain.owed || (!s.cfg.committed || s.rstDie.isSome) } } := by
  unfold State.startDrain
  rw [if_pos h]
  exact if_pos (by simpa using hcause)

theorem State.startDrain_of_other_drain (h : s.drain.inForce = true) (hcause : s.drain.cause ≠ 1) :
    (s.startDrain 1).drain.inForce = true ∧ (s.startDrain 1).drain.cause = 1 := by
  rw [State.startDrain_of_other h hcause, State.drainPosted_drain]
  exact ⟨h, rfl⟩

end

/-- A bench in reset whose cause is in the repair log, before the drain starts (R336). -/
def State.suspected (s : State) (b cause : Nat) : State := (((s.abortOn b).putReset b).logRepair (.suspectBench b cause)).gauge

theorem State.benchSuspect_of_good {s : State} {b cause : Nat} (halive : s.alive = true) (hpresent : s.benchPresent b = true)
    (hlo : 1 ≤ cause) (hhi : cause ≤ 4) (hgood : s.suspect b = false) : s.benchSuspect b cause = (s.suspected b cause).startDrain 1 := by
  unfold State.benchSuspect State.makeSuspect
  rw [if_pos (by simp [halive, hlo, hhi]), if_neg (by simp [hpresent, hgood])]
  rfl

theorem State.suspected_benches (s : State) (b cause : Nat) : (s.suspected b cause).benches = ((s.abortOn b).putReset b).benches := by
  unfold State.suspected State.gauge State.upWear
  rw [State.logRepair_rest]

theorem State.mem_repairs_suspected (s : State) (b cause : Nat) : .suspectBench b cause ∈ (s.suspected b cause).repairs := by
  have h := ((s.abortOn b).putReset b).repairs_logRepair (.suspectBench b cause)
  simpa only [State.suspected, State.gauge, State.upWear, State.repairs] using h

end Sys2Proof.Machine

open Sys2Proof Sys2Proof.Machine

/-- Settles O21. -/
theorem suspectBenchIsHeldAndDrains : Obligations.SuspectBenchIsHeldAndDrains := by
  intro s b cause halive hpresent hs hlo hhi
  have hb : b < 8 := by
    have h : b < s.variant.benchCount := by simpa [State.benchPresent] using hpresent
    exact lt_of_lt_of_le h (by cases s.variant <;> decide)
  refine ⟨fun hgood => ?_, fun hsuspect => next_pump_congr ?_, fun t hforce hcause => next_congr ?_⟩
  · refine ⟨s.suspected b cause, next_pump_congr (State.benchSuspect_of_good halive hpresent hlo hhi hgood), ?_,
      s.mem_repairs_suspected b cause, State.suspect_of_mem_repairs (s.mem_repairs_suspected b cause), ?_⟩
    · have hreset := State.putReset_reset hb ((abortOn_same s b (.refl s)).sized hs)
      unfold State.bench at hreset ⊢
      rwa [State.suspected_benches]
    · exact ⟨State.startDrain_of_idle, fun hforce hcause => ⟨State.startDrain_of_other hforce hcause, State.startDrain_of_other_drain hforce hcause⟩,
        fun hforce hcause => State.startDrain_of_started hforce hcause 1⟩
  · unfold State.benchSuspect State.makeSuspect
    rw [if_pos (by simp [halive, hlo, hhi]), if_pos (by simp [hsuspect])]
  · simp [State.cancelDrain, hforce, hcause, State.upDrain]
end

section
/-! SUPPORT. The Yelir monitor: lines, words and numbers (R408), and the commands (R409 to R411). -/

namespace Sys2Proof.Machine

/-! ### Words of a line -/

@[simp] theorem tokens_space (r : List Nat) : tokens (32 :: r) = tokens r := by simp [tokens]

theorem tokens_word {w : List Nat} (hw : w ≠ []) (hspace : 32 ∉ w) : tokens w = [w] := by
  induction w with
  | nil => exact absurd rfl hw
  | cons c cs ih =>
    have hc : c ≠ 32 := fun h => hspace (by simp [h])
    have hcs : 32 ∉ cs := fun h => hspace (by simp [h])
    cases cs with
    | nil => simp [tokens, hc]
    | cons d ds =>
      have hd : d ≠ 32 := fun h => hcs (by simp [h])
      rw [tokens, if_neg hc, ih (by simp) hcs]
      simp [hd]

theorem tokens_word_space {w : List Nat} (r : List Nat) (hw : w ≠ []) (hspace : 32 ∉ w) : tokens (w ++ 32 :: r) = w :: tokens r := by
  induction w with
  | nil => exact absurd rfl hw
  | cons c cs ih =>
    have hc : c ≠ 32 := fun h => hspace (by simp [h])
    have hcs : 32 ∉ cs := fun h => hspace (by simp [h])
    cases cs with
    | nil => simp [tokens, hc]
    | cons d ds =>
      have hd : d ≠ 32 := fun h => hcs (by simp [h])
      rw [List.cons_append, List.cons_append, tokens, if_neg hc, ← List.cons_append, ih (by simp) hcs]
      simp [hd]

/-! ### Numbers -/

theorem digits_map {base : Nat} {char : Nat → Nat} (hchar : ∀ d, d < base → char d ≠ 95 ∧ digitOf base (char d) = some d) {ds : List Nat}
    (hds : ∀ d ∈ ds, d < base) (v : Nat) : digits base (ds.map char) (some v) = some (ds.foldl (fun v d => v * base + d) v) := by
  induction ds generalizing v with
  | nil => rfl
  | cons d ds ih =>
    obtain ⟨hund, hdigit⟩ := hchar d (hds d (by simp))
    rw [List.map_cons, digits, if_neg hund, hdigit]
    exact ih (fun x hx => hds x (by simp [hx])) _

theorem digits_map_none {base : Nat} {char : Nat → Nat} (hchar : ∀ d, d < base → char d ≠ 95 ∧ digitOf base (char d) = some d) {ds : List Nat}
    (hne : ds ≠ []) (hds : ∀ d ∈ ds, d < base) : digits base (ds.map char) none = some (ds.foldl (fun v d => v * base + d) 0) := by
  cases ds with
  | nil => exact absurd rfl hne
  | cons d ds =>
    obtain ⟨hund, hdigit⟩ := hchar d (hds d (by simp))
    rw [List.map_cons, digits, if_neg hund, hdigit]
    exact digits_map hchar (fun x hx => hds x (by simp [hx])) _

theorem decimal_char : ∀ d, d < 10 → 48 + d ≠ 95 ∧ digitOf 10 (48 + d) = some d := by decide

theorem hex_char : ∀ d, d < 16 → (if d < 10 then 48 + d else 87 + d) ≠ 95 ∧
    digitOf 16 (if d < 10 then 48 + d else 87 + d) = some d := by decide

theorem number_decimal {ds : List Nat} (hne : ds ≠ []) (hds : ∀ d ∈ ds, d < 10) :
    number (ds.map (48 + ·)) = some (ds.foldl (fun v d => v * 10 + d) 0) := by
  have hplain : number (ds.map (48 + ·)) = digits 10 (ds.map (48 + ·)) none := by
    unfold number
    split
    · next r heq =>
      have hx : 120 ∈ ds.map (48 + ·) := by rw [heq]; simp
      obtain ⟨d, hd, hd'⟩ := List.mem_map.1 hx
      have := hds d hd
      omega
    · rfl
  rw [hplain, digits_map_none decimal_char hne hds]

/-! ### A line as it is typed -/

/-- A character of a line: echoed, and kept while there is room. -/
theorem State.yChar_printable {s : State} {c : Nat} (halive : s.alive = true) (hcon : s.mon.connected = true) (hrun : s.mon.running = false)
    (hlo : 32 ≤ c) (hhi : c ≤ 126) : s.yChar c = s.upMon (fun m => { m with
      out := m.out ++ [.echo c], sawCr := false, line := if 128 ≤ m.line.length then m.line else m.line ++ [c],
      tooLong := m.tooLong || decide (128 ≤ m.line.length) }) := by
  have h10 : c ≠ 10 := by omega
  have h13 : c ≠ 13 := by omega
  have h8 : c ≠ 8 := by omega
  have h127 : c ≠ 127 := by omega
  unfold State.yChar
  rw [if_neg (by simp [halive, hcon]), if_neg (by simp [hrun]), if_neg (by simp [h10])]
  dsimp only
  rw [if_neg (by simp [h10, h13]), if_neg (by simp [h8, h127])]
  by_cases hroom : 128 ≤ s.mon.line.length
  · rw [if_pos hroom]
    simp [State.say, State.upMon, hroom]
  · rw [if_neg hroom]
    simp [State.say, State.upMon, hroom]

/-- The monitor once the characters `l` have been typed after a line that is not beyond the limit. -/
def State.typed (s : State) (l : List Nat) : State :=
  s.upMon (fun m => { m with out := m.out ++ l.map YOut.echo, sawCr := m.sawCr && l.isEmpty, line := (m.line ++ l).take 128,
                             tooLong := m.tooLong || decide (128 < m.line.length + l.length) })

theorem State.typed_nil {s : State} (h : s.mon.line.length ≤ 128) : s.typed [] = s := by
  simp [State.typed, State.upMon, List.take_of_length_le h, Nat.not_lt.2 h]

theorem State.yChar_typed {s : State} {c : Nat} (halive : s.alive = true) (hcon : s.mon.connected = true) (hrun : s.mon.running = false)
    (hlo : 32 ≤ c) (hhi : c ≤ 126) (hline : s.mon.line.length ≤ 128) : s.yChar c = s.typed [c] := by
  rw [State.yChar_printable halive hcon hrun hlo hhi]
  unfold State.typed State.upMon
  by_cases hroom : 128 ≤ s.mon.line.length
  · have hfull : s.mon.line.length = 128 := by omega
    simp [hfull]
  · have htake : (s.mon.line ++ [c]).take 128 = s.mon.line ++ [c] := List.take_of_length_le (by simp; omega)
    simp [hroom, htake]

theorem State.typed_append (s : State) (k l : List Nat) : (s.typed k).typed l = s.typed (k ++ l) := by
  unfold State.typed State.upMon
  have hlong : (decide (128 < s.mon.line.length + k.length) || decide (128 < ((s.mon.line ++ k).take 128).length + l.length)) =
      decide (128 < s.mon.line.length + (k ++ l).length) := by
    rw [← Bool.decide_or, decide_eq_decide]
    simp only [List.length_take, List.length_append]
    omega
  have htake : ((s.mon.line ++ k).take 128 ++ l).take 128 = (s.mon.line ++ (k ++ l)).take 128 := by
    rw [List.take_append, List.take_take, Nat.min_self, ← List.append_assoc, List.take_append (l₁ := s.mon.line ++ k)]
    congr 2
    simp only [List.length_take]
    omega
  have hcr : (s.mon.sawCr && k.isEmpty && l.isEmpty) = (s.mon.sawCr && (k ++ l).isEmpty) := by
    cases k <;> simp
  simp only [Bool.or_assoc, hlong, htake, hcr, List.map_append, List.append_assoc]

theorem execAll_typed {s : State} (halive : s.alive = true) (hcon : s.mon.connected = true) (hrun : s.mon.running = false)
    (hline : s.mon.line.length ≤ 128) {l : List Nat} (hl : ∀ c ∈ l, 32 ≤ c ∧ c ≤ 126) (rest : List Instr) :
    execAll (l.map Instr.yelirChar ++ rest) s = execAll rest (s.typed l) := by
  induction l generalizing s with
  | nil => rw [State.typed_nil hline]; rfl
  | cons c l ih =>
    obtain ⟨hlo, hhi⟩ := hl c (by simp)
    have hstep : exec (.yelirChar c) s = .next (s.typed [c]) := next_congr (State.yChar_typed halive hcon hrun hlo hhi hline)
    have htyped : (s.typed [c]).mon.line.length ≤ 128 := by simp [State.typed, State.upMon]
    have hgo := ih (s := s.typed [c]) halive hcon hrun htyped (fun x hx => hl x (by simp [hx]))
    rw [State.typed_append] at hgo
    rw [List.map_cons, List.cons_append, execAll, hstep]
    exact hgo

/-- A line that ends is parsed as far as it was kept. -/
theorem State.yChar_end {s : State} {e : Nat} (halive : s.alive = true) (hcon : s.mon.connected = true) (hrun : s.mon.running = false)
    (he : e = 13 ∨ (e = 10 ∧ s.mon.sawCr = false)) : s.yChar e =
    (s.upMon (fun m => { m with out := m.out ++ [.echo e], line := [], tooLong := false, sawCr := decide (e = 13) })).yLine s.mon.tooLong s.mon.line := by
  unfold State.yChar
  rw [if_neg (by simp [halive, hcon]), if_neg (by simp [hrun])]
  rw [if_neg (by rcases he with rfl | ⟨rfl, h⟩ <;> simp [*])]
  dsimp only
  rw [if_pos (by rcases he with rfl | ⟨rfl, -⟩ <;> simp)]
  rfl

theorem tokens_ne_nil_of_parseCmd {l : List Nat} {c : YCmd} (h : parseCmd (tokens l) = some c) : tokens l ≠ [] := by
  intro hnil
  rw [hnil] at h
  cases h

/-- The command of the model that a command of Yelir is. -/
def YCmd.instr : YCmd → Instr
  | .id => .yId
  | .peek a n => .yPeek a n
  | .poke a v => .yPoke a v
  | .cupboard x => .yCupboard x
  | .wear => .yWear
  | .temps => .yTemps
  | .clocks => .yClocks
  | .events n => .yEvents n
  | .cutlist => .yCutlist
  | .selftest b => .ySelftest b
  | .drainStatus => .yDrainStatus
  | .drainStart => .yDrainStart
  | .drainCancel => .yDrainCancel
  | .drainReset => .yDrainReset

theorem exec_yCmd (c : YCmd) (s : State) : exec c.instr s = .next (s.yCommand c) := by
  cases c <;> rfl

theorem exec_yCmd_of_ready {s : State} (h : s.yReady = true) (c : YCmd) : exec c.instr s = .next (pump (s.perform c)) := by
  rw [exec_yCmd, State.yCommand, if_pos h]
  rfl

/-- The echo of a typed line and its end, with the line empty again. -/
def State.echoed (s : State) (l : List Nat) (e : Nat) : State :=
  s.upMon (fun m => { m with out := m.out ++ l.map YOut.echo ++ [.echo e], sawCr := decide (e = 13) })

section
variable {s : State} {l : List Nat} {e : Nat} (halive : s.alive = true) (hcon : s.mon.connected = true) (hrun : s.mon.running = false)
  (hline : s.mon.line = []) (hlong : s.mon.tooLong = false) (hl : ∀ c ∈ l, 32 ≤ c ∧ c ≤ 126)
  (he : e = 13 ∨ (e = 10 ∧ (s.mon.sawCr = false ∨ l ≠ [])))
include halive hcon hrun hline hlong hl he

theorem execAll_line : execAll (l.map Instr.yelirChar ++ [.yelirChar e]) s =
    some ((s.echoed l e).yLine (decide (128 < l.length)) (l.take 128)) := by
  rw [execAll_typed halive hcon hrun (by simp [hline]) hl]
  have hcr : e = 13 ∨ (e = 10 ∧ (s.typed l).mon.sawCr = false) := by
    refine he.imp_right fun ⟨h10, h⟩ => ⟨h10, ?_⟩
    simpa [State.typed, State.upMon, or_iff_not_imp_left] using h
  have hend := State.yChar_end (s := s.typed l) halive hcon hrun hcr
  have hstep : exec (.yelirChar e) (s.typed l) = .next ((s.typed l).yChar e) := rfl
  rw [execAll, hstep, hend]
  simp [execAll, State.typed, State.echoed, State.upMon, hline, hlong]

end

theorem State.echoed_ready {s : State} (halive : s.alive = true) (hcon : s.mon.connected = true) (hrun : s.mon.running = false)
    (l : List Nat) (e : Nat) : (s.echoed l e).yReady = true := by
  have h : s.yReady = true := by simp [State.yReady, halive, hcon, hrun]
  exact h

/-! ### Commands while one runs -/

theorem State.yBreak_of_peek {s : State} (halive : s.alive = true) (hcon : s.mon.connected = true) (hrun : s.mon.running = true)
    (hcmd : s.mon.runCmd = 2) : s.yBreak = s.endRun.sayReply 2 s.mon.runGot :=
  if_neg (by simp [halive, hcon, hrun, hcmd])

end Sys2Proof.Machine

open Sys2Proof Sys2Proof.Machine

/-- Settles O28: a typed line is `execAll_line`. -/
theorem linesRunTheirCommands : Obligations.LinesRunTheirCommands := by
  refine ⟨fun s l e halive hcon hrun hline hlong hl he => ?_, ?_, fun s halive hcon => ?_⟩
  · intro u run
    have hexec : run = some ((s.echoed l e).yLine (decide (128 < l.length)) (l.take 128)) := execAll_line halive hcon hrun hline hlong hl he
    have hshort (h : l.length ≤ 128) : run = some ((s.echoed l e).yLine false l) := by
      rw [hexec, List.take_of_length_le h, decide_eq_false (Nat.not_lt.2 h)]
    refine ⟨fun h => ?_, fun h hnil => ?_, fun h hne hnone => ?_, fun c h hc => ?_⟩
    · rw [hexec, decide_eq_true h]
      rfl
    · rw [hshort h]
      simp only [State.yLine, hnil]
      rfl
    · rw [hshort h]
      have hne' : (tokens l).isEmpty = false := by simpa using hne
      simp only [State.yLine, hne', hnone]
      rfl
    · have hne' : (tokens l).isEmpty = false := by simpa using tokens_ne_nil_of_parseCmd hc
      refine ⟨pump ((s.echoed l e).perform c), ?_, ?_⟩
      · rw [hshort h]
        simp only [State.yLine, hne', hc]
        rfl
      · have hgo := exec_yCmd_of_ready (State.echoed_ready halive hcon hrun l e) c
        cases c <;> exact hgo
  · refine ⟨by decide, by decide, by decide, by decide, by decide, by decide, by decide, by decide, by decide, by decide, by decide, by decide,
      by decide, fun x a hx => ?_, fun x y a b hx hy => ?_, fun w r hw hspace => ⟨tokens_word hw hspace, tokens_space r, tokens_word_space r hw hspace⟩,
      fun ds hne hds => number_decimal hne hds, fun ds hne hds => digits_map_none hex_char hne hds⟩
    · refine ⟨?_, ?_, ?_⟩ <;> simp [parseCmd, hx, wordId, wordPeek, wordPoke, wordCupboard, wordWear, wordTemps, wordClocks, wordEvents,
        wordCutlist, wordSelftest]
    · refine ⟨?_, ?_, ?_⟩ <;> simp [parseCmd, hx, hy, wordId, wordPeek, wordPoke, wordCupboard]
  · refine ⟨fun hrun c hc => next_congr ?_, fun hrun hcr => next_congr ?_, fun hrun c hc => next_congr ?_, fun hrun hcmd => ?_, fun h => next_congr ?_⟩
    · unfold State.yChar
      rw [if_neg (by simp [halive, hcon]), if_neg (by simp [hrun]), if_neg (by rcases hc with rfl | rfl <;> simp)]
      dsimp only
      rw [if_neg (by rcases hc with rfl | rfl <;> simp), if_pos (by rcases hc with rfl | rfl <;> simp)]
      rfl
    · unfold State.yChar
      rw [if_neg (by simp [halive, hcon]), if_neg (by simp [hrun]), if_pos (by simp [hcr])]
      rfl
    · unfold State.yChar
      rw [if_neg (by simp [halive, hcon]), if_pos hrun, if_neg hc]
    · have hbreak := State.yBreak_of_peek halive hcon hrun hcmd
      refine ⟨_, next_congr hbreak, next_congr ?_, rfl, rfl⟩
      unfold State.yChar
      rw [if_neg (by simp [halive, hcon]), if_pos hrun, if_pos rfl, hbreak]
    · exact if_pos (by rcases h with h | h <;> simp [h])
end

section
/-! SUPPORT. The commands of Yelir (R409 to R411) where it takes one. -/

namespace Sys2Proof.Machine

/-- A command that only reads is counted. -/
theorem State.performed_read (s : State) (cmd addr : Nat) :
    s.performed cmd addr false = s.upMon (fun m => { m with commands := min 0xFFFF (m.commands + 1) }) := by
  simp [State.performed, satAdd_one]

/-- One that writes is counted twice over, and entered in the Kettle log. -/
theorem State.performed_write (s : State) (cmd addr : Nat) :
    s.performed cmd addr true = (s.upMon (fun m => { m with commands := min 0xFFFF (m.commands + 1), writes := min 255 (m.writes + 1) })).upKettle
      (fun k => { k with log := (⟨s.wear.seconds, 0x0102, Config.klogArg 0x0102 cmd 0, addr⟩ :: k.log).take 256 }) := by
  simp [State.performed, satAdd_one, State.klog]

theorem State.narrowOk_false {s : State} {a : Nat} (h : a % 8 ≠ 0 ∨ 2 ^ 48 ≤ a) : s.narrowOk a = false := by
  rcases h with h | h
  · simp [State.narrowOk, h]
  · have hfar : decide (a < 2 ^ 48) = false := decide_eq_false (Nat.not_lt.2 h)
    simp only [State.narrowOk, hfar, Bool.false_and]

end Sys2Proof.Machine

open Sys2Proof Sys2Proof.Machine

/-- Settles O29. -/
theorem readCommandsReply : Obligations.ReadCommandsReply := by
  intro s hready reply err
  have hread (c : YCmd) {t : State} (h : s.perform c = t) : exec c.instr s = .next (pump t) := by
    rw [exec_yCmd_of_ready hready, h]
  have hsay (k : Nat) (vs : List Nat) : (s.performed k 0 false).sayReply k vs = s.upMon (fun m =>
      { m with commands := min 0xFFFF (m.commands + 1), out := m.out ++ [.reply k vs, .ok, .prompt] }) := by
    rw [State.performed_read]
    rfl
  refine ⟨hread .id (hsay 1 _), fun a hlocked => hread (.cupboard a) (if_pos (by simp [hlocked])), fun hunlocked => hread (.cupboard none) ?_,
    fun p n c hunlocked hc => hread (.cupboard (some (p, n))) ?_, fun p n hunlocked hc => hread (.cupboard (some (p, n))) ?_,
    hread .wear (hsay 5 _), hread .temps (hsay 6 _), hread .clocks (hsay 7 _), fun n hlo hhi => hread (.events n) ?_,
    fun n hn => hread (.events n) ?_, hread .cutlist (hsay 9 _), hread (.selftest none) (hsay 10 _), hread .drainStatus (hsay 11 _)⟩
  · exact (if_neg (by simp [hunlocked])).trans (hsay 4 _)
  · refine (if_neg (by simp [hunlocked])).trans ?_
    simp only [hc]
    exact hsay 4 _
  · refine (if_neg (by simp [hunlocked])).trans ?_
    simp only [hc]
    rfl
  · exact (if_neg (by simp; omega)).trans (hsay 8 _)
  · exact if_pos (by simp; omega)

/-- Settles O30. -/
theorem writeCommandsNeedTheUnlock : Obligations.WriteCommandsNeedTheUnlock := by
  intro s hready
  have hdo (c : YCmd) {t : State} (h : s.perform c = t) : exec c.instr s = .next (pump t) := by
    rw [exec_yCmd_of_ready hready, h]
  refine ⟨fun hlocked c hc => ?_, fun hunlocked => ⟨fun k a => s.performed k a true, fun k a => s.performed_write k a, ?_⟩⟩
  · have hrefuse {t : State} : (if !s.mon.unlocked then s.sayErr 2 else t) = s.sayErr 2 := if_pos (by simp [hlocked])
    rcases hc with ⟨a, w, rfl⟩ | ⟨a, v, rfl⟩ | ⟨b, rfl⟩ | rfl | rfl | rfl
    · exact hdo (.peek a w) hrefuse
    · exact hdo (.poke a v) hrefuse
    · exact hdo (.selftest (some b)) hrefuse
    · exact hdo .drainStart hrefuse
    · exact hdo .drainCancel hrefuse
    · exact hdo .drainReset hrefuse
  · have hallow {t : State} : (if !s.mon.unlocked then s.sayErr 2 else t) = t := if_neg (by simp [hunlocked])
    refine ⟨hdo .drainStart hallow, hdo .drainCancel hallow, fun hrst => hdo .drainReset (hallow.trans (if_neg (by simp [hrst]))),
      fun hrst => hdo .drainReset (hallow.trans (if_pos hrst)), fun b hb => hdo (.selftest (some b)) (hallow.trans (if_pos (by simp [hb]))),
      fun b hb hmay hreset hfree => hdo (.selftest (some b)) (hallow.trans ?_), fun a n hbad => hdo (.peek a n) (hallow.trans (if_pos ?_)),
      fun a v hbad => hdo (.poke a v) (hallow.trans (if_pos (by simp [State.narrowOk_false hbad]))),
      fun a n hlo hhi hok hrst => hdo (.peek a n) (hallow.trans ?_), fun a v hok hv hrst => hdo (.poke a v) (hallow.trans ?_)⟩
    · rw [if_neg (by simp [hb]), if_neg (by simp [hmay, hreset, hfree.2])]
    · by_cases hn : n = 0 ∨ 64 < n
      · rcases hn with h | h <;> simp [h]
      · have hfirst : s.narrowOk (a + 8 * 0) = false := State.narrowOk_false (by omega)
        have hsome : (List.range n).all (fun i => s.narrowOk (a + 8 * i)) = false :=
          List.all_eq_false.2 ⟨0, by simp; omega, by rw [hfirst]; decide⟩
        simp [hsome]
    · have hall : (List.range n).all (fun i => s.narrowOk (a + 8 * i)) = true := by simpa using hok
      rw [if_neg (by rw [hall]; simp; omega), if_neg (by simp [hrst]), State.performed_read]
      rfl
    · rw [if_neg (by simp [hok]; omega), if_neg (by simp [hrst])]
end

section
/-! SUPPORT. Rings: their windows, base words and doorbells (R95, R99 to R104). -/

namespace Sys2Proof.Machine

theorem State.inWindow_of_open {s : State} {p : Nat} (h : s.windowOpen p = true) (f : State → State) : s.inWindow p f = f s := if_pos h

theorem State.inWindow_of_closed {s : State} {p : Nat} (h : s.windowOpen p = false) (f : State → State) : s.inWindow p f = s :=
  if_neg (by simp [h])

/-- A page of the low word of a base. -/
theorem fld_31_12 (v : Nat) : fld v 31 12 * 4096 = v % 2 ^ 32 / 4096 * 4096 := by
  rw [fld_eq]
  omega

theorem fld_15_0 (v : Nat) : fld v 15 0 = v % 2 ^ 16 := by simp [fld_eq]

theorem fld_31_16 (v : Word) : fld v.toNat 31 16 = v.toNat / 2 ^ 16 := by
  have hv : v.toNat < 2 ^ 32 := v.isLt
  rw [fld_eq]
  omega

theorem testBit_zero_or_one (v : Nat) : (v ||| 1).testBit 0 = true := by simp

theorem fld_31_12_or_one (v : Nat) : fld (v ||| 1) 31 12 = fld v 31 12 := by
  have h : (v ||| 1) >>> 12 = v >>> 12 := by
    rw [Nat.shiftRight_or_distrib]
    exact Nat.or_zero _
  rw [fld, fld, h]

theorem testBit_zero_page (a : Nat) : (a / 4096 * 4096).testBit 0 = false := by
  rw [Nat.testBit_zero, decide_eq_false]
  omega

theorem fld_31_12_page (a : Nat) : fld (a % 2 ^ 32 / 4096 * 4096) 31 12 * 4096 = a % 2 ^ 32 / 4096 * 4096 := by
  rw [fld_31_12]
  omega

/-- Records of a produced ring beyond the head. -/
theorem Pq.announced_ne_zero (q : Pq) : q.announced ≠ 0 ↔ q.flying.length < q.used := by
  unfold Pq.announced
  omega

theorem State.sq_upSq_same {s : State} {p q : Nat} (hp : p < s.parts.length) (hq : q < (s.part p).sq.length) (g : Sq → Sq) :
    (s.upSq p q g).sq p q = g (s.sq p q) := by
  unfold State.sq State.upSq
  rw [State.part_upPart_same _ _ _ hp]
  exact getD_modify_same _ _ _ _ hq

section
variable {s : State} {p r : Nat} (v : Nat)

theorem State.sqBaseLo_enabled (h : (s.sq p r).enabled = true) : s.sqBaseLo p r (v ||| 1) = s := by
  unfold State.sqBaseLo
  rw [if_pos (testBit_zero_or_one v), if_pos h]

theorem State.sqBaseLo_enable (h : (s.sq p r).enabled = false) (hlo : 6 ≤ (s.sq p r).log2) (hhi : (s.sq p r).log2 ≤ 16) :
    s.sqBaseLo p r (v ||| 1) = s.upSq p r (fun y =>
      { y with base := y.base / 2 ^ 32 * 2 ^ 32 + v % 2 ^ 32 / 4096 * 4096, enabled := true, head := 0, tail := 0 }) := by
  unfold State.sqBaseLo
  rw [if_pos (testBit_zero_or_one v), if_neg (by simp [h]), if_neg (by simp; omega), fld_31_12_or_one, fld_31_12]

theorem State.sqBaseLo_badSize (h : (s.sq p r).enabled = false) (hsize : (s.sq p r).log2 < 6 ∨ 16 < (s.sq p r).log2) :
    s.sqBaseLo p r (v ||| 1) = s.ringError p r 6 := by
  unfold State.sqBaseLo
  rw [if_pos (testBit_zero_or_one v), if_neg (by simp [h]), if_pos (by simpa using hsize)]

theorem State.sqBaseLo_disable (a : Nat) : s.sqBaseLo p r (a % 2 ^ 32 / 4096 * 4096) = (s.upSq p r (fun y =>
    { y with enabled := false, base := y.base / 2 ^ 32 * 2 ^ 32 + a % 2 ^ 32 / 4096 * 4096 })).quitReads (.ring p r) := by
  unfold State.sqBaseLo
  rw [if_neg (by rw [testBit_zero_page]; decide), fld_31_12_page]

theorem State.pqBaseLo_enabled (h : (s.pq p r).enabled = true) : s.pqBaseLo p r (v ||| 1) = s := by
  unfold State.pqBaseLo
  rw [if_pos (testBit_zero_or_one v), if_pos h]

theorem State.pqBaseLo_enable (h : (s.pq p r).enabled = false) (hlo : 6 ≤ (s.pq p r).log2) (hhi : (s.pq p r).log2 ≤ 16) :
    s.pqBaseLo p r (v ||| 1) = (s.upPq p r (fun y => { y with
      base := y.base / 2 ^ 32 * 2 ^ 32 + v % 2 ^ 32 / 4096 * 4096, enabled := true,
      head := 0, tail := 0, phase := true, lost := 0, lostSince := 0 })).pumpRing p r := by
  unfold State.pqBaseLo
  rw [if_pos (testBit_zero_or_one v), if_neg (by simp [h]), if_neg (by simp; omega), fld_31_12_or_one, fld_31_12]

theorem State.pqBaseLo_badSize (h : (s.pq p r).enabled = false) (hsize : (s.pq p r).log2 < 6 ∨ 16 < (s.pq p r).log2) :
    s.pqBaseLo p r (v ||| 1) = s.ringError p r 6 := by
  unfold State.pqBaseLo
  rw [if_pos (testBit_zero_or_one v), if_neg (by simp [h]), if_pos (by simpa using hsize)]

theorem State.pqBaseLo_fed (hr : r < 32) (h : (s.pq p r).enabled = true) (hfed : s.feeding p (r - 16) ≠ 0) (a : Nat) :
    s.pqBaseLo p r (a % 2 ^ 32 / 4096 * 4096) = s := by
  unfold State.pqBaseLo
  rw [if_neg (by rw [testBit_zero_page]; decide), if_pos (by simp [hr, h, hfed])]

theorem State.pqBaseLo_disable (h : 32 ≤ r ∨ (s.pq p r).enabled = false ∨ s.feeding p (r - 16) = 0) (a : Nat) :
    s.pqBaseLo p r (a % 2 ^ 32 / 4096 * 4096) = s.upPq p r (fun y =>
      { y with enabled := false, base := y.base / 2 ^ 32 * 2 ^ 32 + a % 2 ^ 32 / 4096 * 4096 }) := by
  unfold State.pqBaseLo
  rw [if_neg (by rw [testBit_zero_page]; decide), if_neg (by rcases h with h | h | h <;> simp [h]), fld_31_12_page]

end

section
variable {s : State} {p q tail : Nat} (hcommitted : s.cfg.committed = true) (hbring : s.kettle.bringTest = []) (hbusy : (s.part p).busy = false)
include hcommitted hbring hbusy

/-- A doorbell that is looked at (R95, R388). -/
theorem State.doorbell_eq : s.doorbell p q tail =
    if !(s.sq p q).enabled then s.ringError p q 4
    else if tail ≥ (s.sq p q).size then s.ringError p q 3
    else if (tail + (s.sq p q).size - (s.sq p q).head) % (s.sq p q).size <
      ((s.sq p q).tail + (s.sq p q).size - (s.sq p q).head) % (s.sq p q).size then s.ringError p q 7
    else s.upSq p q (fun y => { y with tail := tail }) := if_neg (by simp [hcommitted, hbring, hbusy])

theorem State.doorbellOk_eq : s.doorbellOk p q tail = ((s.sq p q).enabled && decide (tail < (s.sq p q).size) &&
    decide (((s.sq p q).tail + (s.sq p q).size - (s.sq p q).head) % (s.sq p q).size ≤
      (tail + (s.sq p q).size - (s.sq p q).head) % (s.sq p q).size)) := by
  simp [State.doorbellOk, hcommitted, hbring, hbusy]

theorem State.doorbell_disabled (hoff : (s.sq p q).enabled = false) :
    s.doorbell p q tail = s.ringError p q 4 ∧ s.doorbellOk p q tail = false := by
  rw [State.doorbell_eq hcommitted hbring hbusy, State.doorbellOk_eq hcommitted hbring hbusy]
  simp [hoff]

theorem State.doorbell_beyond (hon : (s.sq p q).enabled = true) (hsize : (s.sq p q).size ≤ tail) :
    s.doorbell p q tail = s.ringError p q 3 ∧ s.doorbellOk p q tail = false := by
  rw [State.doorbell_eq hcommitted hbring hbusy, State.doorbellOk_eq hcommitted hbring hbusy]
  simp [hon, hsize, Nat.not_lt.2 hsize]

theorem State.doorbell_back (hon : (s.sq p q).enabled = true) (hsize : tail < (s.sq p q).size)
    (hback : (tail + (s.sq p q).size - (s.sq p q).head) % (s.sq p q).size < ((s.sq p q).tail + (s.sq p q).size - (s.sq p q).head) % (s.sq p q).size) :
    s.doorbell p q tail = s.ringError p q 7 ∧ s.doorbellOk p q tail = false := by
  rw [State.doorbell_eq hcommitted hbring hbusy, State.doorbellOk_eq hcommitted hbring hbusy]
  simp [hon, Nat.not_le.2 hsize, hback, Nat.not_le.2 hback]

theorem State.doorbell_moves (hon : (s.sq p q).enabled = true) (hsize : tail < (s.sq p q).size)
    (hahead : ((s.sq p q).tail + (s.sq p q).size - (s.sq p q).head) % (s.sq p q).size ≤ (tail + (s.sq p q).size - (s.sq p q).head) % (s.sq p q).size) :
    s.doorbell p q tail = s.upSq p q (fun y => { y with tail := tail }) ∧ s.doorbellOk p q tail = true := by
  rw [State.doorbell_eq hcommitted hbring hbusy, State.doorbellOk_eq hcommitted hbring hbusy]
  simp [hon, hsize, Nat.not_le.2 hsize, hahead, Nat.not_lt.2 hahead]

end

/-- A doorbell that is not taken brings no hint. -/
theorem State.partDb_of_not {s t : State} {p q v : Nat} (h : s.doorbell p q (v % 2 ^ 16) = t ∧ s.doorbellOk p q (v % 2 ^ 16) = false) :
    s.partDb p q v = t := by
  unfold State.partDb
  rw [fld_15_0, h.2, if_neg (by decide), h.1]

theorem State.partDb_of_ok {s t : State} {p q : Nat} {v : Word}
    (h : s.doorbell p q (v.toNat % 2 ^ 16) = t ∧ s.doorbellOk p q (v.toNat % 2 ^ 16) = true) :
    s.partDb p q v.toNat = t.hint p (v.toNat / 2 ^ 16) := by
  unfold State.partDb
  rw [fld_15_0, h.2, if_pos rfl, h.1, fld_31_16]

/-- Ring errors that do not disable a submission ring (R103). -/
theorem State.ringError_keeping {s : State} {p q cause : Nat} (hq : q < 16) (hc : cause = 3 ∨ cause = 4 ∨ cause = 7) :
    s.ringError p q cause = (s.upSq p q (fun y => { y with error := true, cause := cause })).event p 0x0006 q cause := by
  have hoff : (cause == 1 || cause == 2 || cause == 5 || cause == 8) = false := by rcases hc with rfl | rfl | rfl <;> rfl
  unfold State.ringError
  simp only [hoff, if_neg (show q ≠ 33 by omega), if_pos hq, Bool.not_false, Bool.and_true, Bool.false_eq_true, if_false]

end Sys2Proof.Machine

open Sys2Proof Sys2Proof.Machine

/-- Settles O36. -/
theorem ringsAreEnabledAndDisabled : Obligations.RingsAreEnabledAndDisabled := by
  intro s p r v
  refine ⟨fun hclosed => ⟨next_pump_congr (State.inWindow_of_closed hclosed _), next_pump_congr (State.inWindow_of_closed hclosed _)⟩,
    fun hopen hr => ?_, fun hopen hr => ?_⟩
  · have henable {t : State} (h : s.sqBaseLo p r (v.toNat ||| 1) = t) : exec (.ringEnable p r v) s = .next (pump t) :=
      next_pump_congr ((State.inWindow_of_open hopen _).trans ((if_pos hr).trans h))
    have hbase : s.ringBase p r = (s.sq p r).base % 2 ^ 32 / 4096 * 4096 := by rw [State.ringBase, if_pos hr]
    refine ⟨fun hon => henable (State.sqBaseLo_enabled _ hon), fun hoff hlo hhi => ⟨_, henable (State.sqBaseLo_enable _ hoff hlo hhi), rfl, fun hp hq => ?_⟩,
      fun hoff hsize => henable (State.sqBaseLo_badSize _ hoff hsize), next_pump_congr ?_⟩
    · rw [State.sq_upSq_same hp hq]
    · refine (State.inWindow_of_open hopen _).trans ((if_pos hr).trans ?_)
      rw [hbase, State.sqBaseLo_disable]
  · have hr' : ¬r < 16 := by omega
    have henable {t : State} (h : s.pqBaseLo p r (v.toNat ||| 1) = t) : exec (.ringEnable p r v) s = .next (pump t) :=
      next_pump_congr ((State.inWindow_of_open hopen _).trans ((if_neg hr').trans h))
    have hbase : s.ringBase p r = (s.pq p r).base % 2 ^ 32 / 4096 * 4096 := by rw [State.ringBase, if_neg hr']
    have hdisable {t : State} (h : s.pqBaseLo p r ((s.pq p r).base % 2 ^ 32 / 4096 * 4096) = t) : exec (.ringDisable p r) s = .next (pump t) := by
      refine next_pump_congr ((State.inWindow_of_open hopen _).trans ((if_neg hr').trans ?_))
      rw [hbase, h]
    exact ⟨fun hon => henable (State.pqBaseLo_enabled _ hon), fun hoff hlo hhi => henable (State.pqBaseLo_enable _ hoff hlo hhi),
      fun hoff hsize => henable (State.pqBaseLo_badSize _ hoff hsize), fun h32 hon hfed => hdisable (State.pqBaseLo_fed h32 hon hfed _),
      fun h => hdisable (State.pqBaseLo_disable h _)⟩

/-- Settles O37. -/
theorem doorbellsMoveForward : Obligations.DoorbellsMoveForward := by
  intro s p q hopen
  have hbusy : (s.part p).busy = false := by
    unfold State.windowOpen at hopen
    simp only [Bool.and_eq_true, Bool.not_eq_true'] at hopen
    exact hopen.2
  refine ⟨fun v => ?_, fun hq cause hc => State.ringError_keeping hq hc, fun r h => ?_⟩
  · intro tail size ahead
    have hexec {t : State} (h : s.partDb p q v.toNat = t) : exec (.partDb p q v) s = .next (pump t) :=
      next_pump_congr ((State.inWindow_of_open hopen _).trans h)
    refine ⟨fun hearly => hexec (State.partDb_of_not ⟨if_pos ?_, ?_⟩), fun hcommitted hbring =>
      ⟨fun hoff => hexec (State.partDb_of_not (State.doorbell_disabled hcommitted hbring hbusy hoff)),
        fun hon hsize => hexec (State.partDb_of_not (State.doorbell_beyond hcommitted hbring hbusy hon hsize)),
        fun hon hsize hback => hexec (State.partDb_of_not (State.doorbell_back hcommitted hbring hbusy hon hsize hback)),
        fun hon hsize hahead => hexec (State.partDb_of_ok (State.doorbell_moves hcommitted hbring hbusy hon hsize hahead))⟩⟩
    · rcases hearly with h | h <;> simp [h]
    · unfold State.doorbellOk
      rcases hearly with h | h <;> simp [h]
  · intro x ahead
    have hexec {t : State} (hh : s.pqHead p r h = t) : exec (.partCqHead p r h) s = .next (pump t) :=
      next_pump_congr ((State.inWindow_of_open hopen _).trans hh)
    refine ⟨fun hsize hle => hexec (if_neg ?_), fun hbad => hexec (if_pos ?_), fun hlo hhi h32 hon hirq hfly => next_congr (if_pos ?_),
      fun hoff => next_congr (if_neg ?_)⟩
    · simp only [Bool.or_eq_true, decide_eq_true_eq, not_or]
      exact ⟨Nat.not_le.2 hsize, Nat.not_lt.2 hle⟩
    · rw [Bool.or_eq_true, decide_eq_true_eq, decide_eq_true_eq]
      exact hbad
    · have hann : (s.pq p r).announced ≠ 0 := (Pq.announced_ne_zero _).2 hfly
      have hon' : (s.pq p r).enabled = true := hon
      have hirq' : (s.pq p r).irqEn = true := hirq
      simp [hlo, hhi, h32, hon', hirq', hann]
    · rcases hoff with hoff | hoff | hoff | hoff
      · have hoff' : (s.pq p r).enabled = false := hoff
        simp [hoff']
      · have hoff' : (s.pq p r).irqEn = false := hoff
        simp [hoff']
      · have hann : ¬(s.pq p r).announced ≠ 0 := fun hn => Nat.not_lt.2 hoff ((Pq.announced_ne_zero _).1 hn)
        simp only [ne_eq, not_not] at hann
        simp [hann]
      · simp [hoff]
end

section
/-! SUPPORT. Chests (R172), invalidations of translations (R311 to R313) and answers to faults (R308). -/

namespace Sys2Proof.Machine

/-- The same update of each bench of a list: a bench of the list has taken it, the others stay. -/
theorem State.bench_foldl_upBench (g : Bench → Bench) (hg : ∀ x, g (g x) = g x) (hdef : g {} = {}) (l : List Nat) (s : State) (b : Nat) :
    (l.foldl (fun s b => s.upBench b g) s).bench b = if b ∈ l then g (s.bench b) else s.bench b := by
  have hself (s : State) (c : Nat) : (s.upBench c g).bench c = g (s.bench c) := by
    by_cases hc : c < s.benches.length
    · exact State.bench_upBench_same s c g hc
    · have hnone (k : List Bench) (hk : k.length = s.benches.length) : k.getD c {} = {} := by
        rw [List.getD_eq_getElem?_getD, List.getElem?_eq_none (by omega)]
        rfl
      show (s.benches.modify c g).getD c {} = g (s.benches.getD c {})
      rw [hnone _ (by simp), hnone _ rfl, hdef]
  induction l generalizing s with
  | nil => simp
  | cons c l ih =>
    rw [List.foldl_cons, ih]
    by_cases hbc : b = c
    · subst hbc
      rw [hself]
      simp [hg]
    · rw [State.bench_upBench_other _ _ _ _ (Ne.symm hbc)]
      simp [hbc]

theorem State.foldl_upBench_rest (g : Bench → Bench) (l : List Nat) (s : State) :
    l.foldl (fun s b => s.upBench b g) s = { s with benches := (l.foldl (fun s b => s.upBench b g) s).benches } := by
  induction l generalizing s with
  | nil => rfl
  | cons c l ih =>
    rw [List.foldl_cons, ih]
    rfl

/-- What an invalidation of Chests leaves of a bench. -/
def Bench.uncached (x : Bench) : Bench := { x with chest := [], saucer := [], plru := [], cold := [] }

theorem State.invalidateDone_of_settled {s : State} {p : Nat} (hbusy : (s.part p).chest.invBusy = true) (hrows : s.rowsSettled p = true) :
    s.invalidateDone p = ((s.partBenches p).foldl (fun s b => s.upBench b Bench.uncached) s).upPart p
      (fun x => { x with chest := { x.chest with invBusy := false, invDone := true } }) :=
  if_neg (by simp [hbusy, hrows])

end Sys2Proof.Machine

open Sys2Proof Sys2Proof.Machine

/-- Settles O39. -/
theorem chestsAreInvalidatedBeforeUse : Obligations.ChestsAreInvalidatedBeforeUse := by
  intro s p hopen
  refine ⟨next_congr (State.inWindow_of_open hopen _), fun hbusy hrows => ?_, fun h => next_congr (if_pos ?_),
    fun _ => next_congr (State.inWindow_of_open hopen _), fun hdone hp => ?_,
    fun hen => next_congr ((State.inWindow_of_open hopen _).trans (if_neg (by simp [hen]))),
    fun hen => next_congr ((State.inWindow_of_open hopen _).trans (if_pos (by simp [hen])))⟩
  · refine ⟨_, next_congr (State.invalidateDone_of_settled hbusy hrows), fun b hb => ?_, fun b hb => ?_, ?_, ?_⟩
    · have h : (((s.partBenches p).foldl (fun s b => s.upBench b Bench.uncached) s).bench b) = (s.bench b).uncached := by
        rw [State.bench_foldl_upBench Bench.uncached (fun _ => rfl) rfl, if_pos hb]
      show ((((s.partBenches p).foldl (fun s b => s.upBench b Bench.uncached) s).bench b)).chest = [] ∧ _
      rw [h]
      exact ⟨rfl, h ▸ rfl⟩
    · have h : (((s.partBenches p).foldl (fun s b => s.upBench b Bench.uncached) s).bench b) = s.bench b := by
        rw [State.bench_foldl_upBench Bench.uncached (fun _ => rfl) rfl, if_neg hb]
      exact h
    · rw [State.foldl_upBench_rest]
      rfl
    · rw [State.foldl_upBench_rest]
      rfl
  · rcases h with h | h <;> simp [h]
  · refine ⟨_, next_congr (State.inWindow_of_open hopen _), ?_, fun q hq => State.part_upPart_other s p q _ hq.symm, rfl⟩
    rw [State.chestEnable, State.part_upPart_same _ _ _ hp, if_neg (by simp [hdone])]

namespace Sys2Proof.Machine

section
variable {s : State} {p t : Nat}

theorem State.not_mem_ranges_dropTag {x : Nat × Range} (h : x ∈ (s.dropTag p t).ranges) : ¬(x.2.part = p ∧ x.2.tag = t) := by
  have hkept := (List.mem_filter.1 h).2
  rintro ⟨hp, ht⟩
  simp [hp, ht] at hkept

theorem State.not_mem_dirs_dropTag {x : Nat × Dir} (h : x ∈ (s.dropTag p t).dirs) : ¬(x.2.part = p ∧ x.2.tag = t) := by
  have hkept := (List.mem_filter.1 h).2
  rintro ⟨hp, ht⟩
  simp [hp, ht] at hkept

theorem State.mem_ranges_dropTag {x : Nat × Range} (hx : x ∈ s.ranges) (h : ¬(x.2.part = p ∧ x.2.tag = t)) : x ∈ (s.dropTag p t).ranges :=
  List.mem_filter.2 ⟨hx, by by_contra hgone; exact h (by simpa using hgone)⟩

theorem State.mem_dirs_dropTag {x : Nat × Dir} (hx : x ∈ s.dirs) (h : ¬(x.2.part = p ∧ x.2.tag = t)) : x ∈ (s.dropTag p t).dirs :=
  List.mem_filter.2 ⟨hx, by by_contra hgone; exact h (by simpa using hgone)⟩

/-- A walk under the tag that has begun is stale. -/
theorem State.walks_dropTag {w : Walk} (h : w ∈ (s.dropTag p t).walks) (hp : w.part = p) (ht : w.tag = t) : w.stale = true ∨ w.queued = true := by
  obtain ⟨x, -, rfl⟩ := List.mem_map.1 h
  split
  · cases x.queued <;> simp
  · next hne =>
    rw [if_neg hne] at hp ht
    exact absurd ⟨hp, ht⟩ hne

theorem State.orders_dropTag {o : Order} (h : o ∈ (s.dropTag p t).orders) (hp : o.p = p) :
    (∀ r ∈ o.shadow, r.tag ≠ t) ∧ ∀ x ∈ o.streams, ∀ r ∈ x.ranges, r.tag ≠ t := by
  obtain ⟨x, -, rfl⟩ := List.mem_map.1 h
  have hx : x.p = p := by
    split at hp
    · exact hp
    · next hne => simpa using hne
  rw [if_neg (by simp [hx])]
  refine ⟨fun r hr => by simpa using (List.mem_filter.1 hr).2, fun y hy r hr => ?_⟩
  obtain ⟨z, -, rfl⟩ := List.mem_map.1 hy
  simpa using (List.mem_filter.1 hr).2

theorem State.mem_orders_dropTag {o : Order} (h : o ∈ s.orders) (hp : o.p ≠ p) : o ∈ (s.dropTag p t).orders :=
  List.mem_map.2 ⟨o, h, if_pos (by simpa using hp)⟩

theorem State.invalTag_of_hasTag (h : (s.pe p).hasTag t = true) : s.invalTag p t = (s.dropTag p t).upPart p (fun x => { x with
    invGen := x.invGen + 1, invTags := x.invTags.filter (fun y => y.tag != t) ++ [{ tag := t, gen := x.invGen + 1 }],
    invStart := if x.invTags.isEmpty then s.clk.count else x.invStart }) := if_neg (by simp [h])

end

/-- A transfer, a tile, a merge row or an output of the partition goes under a translation that `y` drops (R305, R312, R315). -/
def State.Old (s : State) (p : Nat) (y : Space) : Prop :=
  (∃ r ∈ s.reads, r.part = p ∧ ∃ x, r.space = some x ∧ x.tag = y.tag ∧ x.gen < y.gen) ∨
  (∃ w ∈ s.writes, w.part = p ∧ ∃ x, w.space = some x ∧ x.tag = y.tag ∧ x.gen < y.gen) ∨
  (∃ b ∈ s.benches, ∃ e ∈ b.wc, e.part = p ∧ ∃ x, e.space = some x ∧ x.tag = y.tag ∧ x.gen < y.gen) ∨
  (∃ o ∈ s.orders, o.p = p ∧ ((∃ k ∈ o.tiles, k.inUse = true ∧ k.onTag y.tag = true ∧ k.gen < y.gen ∧ ∀ f ∈ o.faults, f.info.tile ≠ k.t) ∨
    (∃ k ∈ o.mergeTiles, k.2.onTag y.tag = true ∧ k.2.gen < y.gen) ∨ (∃ x ∈ o.outPa, x.2.1.tag = y.tag ∧ x.2.1.gen < y.gen)))

theorem Space.before_iff (x y : Space) : x.before y = true ↔ x.tag = y.tag ∧ x.gen < y.gen := by simp [Space.before]

theorem Option.any_before_iff (x : Option Space) (y : Space) :
    x.any (fun x => x.before y) = true ↔ ∃ z, x = some z ∧ z.tag = y.tag ∧ z.gen < y.gen := by
  simp [Option.any_eq_true, Space.before_iff]

theorem Order.usesOld_iff (o : Order) (y : Space) : o.usesOld y = true ↔
    (∃ k ∈ o.tiles, k.inUse = true ∧ k.onTag y.tag = true ∧ k.gen < y.gen ∧ ∀ f ∈ o.faults, f.info.tile ≠ k.t) ∨
      (∃ k ∈ o.mergeTiles, k.2.onTag y.tag = true ∧ k.2.gen < y.gen) ∨ (∃ x ∈ o.outPa, x.2.1.tag = y.tag ∧ x.2.1.gen < y.gen) := by
  have htiles : o.tiles.any (fun x => x.inUse && x.under? y && !(o.faults.any (fun f => f.info.tile == x.t))) = true ↔
      ∃ k ∈ o.tiles, k.inUse = true ∧ k.onTag y.tag = true ∧ k.gen < y.gen ∧ ∀ f ∈ o.faults, f.info.tile ≠ k.t := by
    simp [List.any_eq_true, Tile.under?, and_assoc]
  have hmerge : o.mergeTiles.any (fun x => x.2.under? y) = true ↔ ∃ k ∈ o.mergeTiles, k.2.onTag y.tag = true ∧ k.2.gen < y.gen := by
    simp [List.any_eq_true, Tile.under?]
  have hout : o.outPa.any (fun x => x.2.1.before y) = true ↔ ∃ x ∈ o.outPa, x.2.1.tag = y.tag ∧ x.2.1.gen < y.gen := by
    simp [List.any_eq_true, Space.before_iff]
  rw [Order.usesOld, Bool.or_eq_true, Bool.or_eq_true, htiles, hmerge, hout, or_assoc]

theorem State.old_iff (s : State) (p : Nat) (y : Space) :
    s.Old p y ↔ s.movesOld p y = true ∨ (s.liveOf p).any (fun o => o.usesOld y) = true := by
  have hreads : s.reads.any (fun r => r.part == p && r.space.any (fun x => x.before y)) = true ↔
      ∃ r ∈ s.reads, r.part = p ∧ ∃ x, r.space = some x ∧ x.tag = y.tag ∧ x.gen < y.gen := by
    simp only [List.any_eq_true, Bool.and_eq_true, beq_iff_eq, Option.any_before_iff]
  have hwrites : s.writes.any (fun r => r.part == p && r.space.any (fun x => x.before y)) = true ↔
      ∃ r ∈ s.writes, r.part = p ∧ ∃ x, r.space = some x ∧ x.tag = y.tag ∧ x.gen < y.gen := by
    simp only [List.any_eq_true, Bool.and_eq_true, beq_iff_eq, Option.any_before_iff]
  have hwc : s.benches.any (fun b => b.wc.any (fun e => e.part == p && e.space.any (fun x => x.before y))) = true ↔
      ∃ b ∈ s.benches, ∃ e ∈ b.wc, e.part = p ∧ ∃ x, e.space = some x ∧ x.tag = y.tag ∧ x.gen < y.gen := by
    simp only [List.any_eq_true, Bool.and_eq_true, beq_iff_eq, Option.any_before_iff]
  have horders : (s.liveOf p).any (fun o => o.usesOld y) = true ↔ ∃ o ∈ s.orders, o.p = p ∧ o.usesOld y = true := by
    simp only [State.liveOf, List.any_eq_true, List.mem_filter, beq_iff_eq, and_assoc]
  rw [State.movesOld, Bool.or_eq_true, Bool.or_eq_true, hreads, hwrites, hwc, horders]
  simp only [State.Old, Order.usesOld_iff, or_assoc]

theorem State.invalReady_iff (s : State) (p : Nat) :
    s.invalReady p = true ↔ (s.part p).invTags ≠ [] ∧ ∀ y ∈ (s.part p).invTags, ¬s.Old p y := by
  unfold State.invalReady
  simp only [Bool.and_eq_true, Bool.not_eq_true', List.isEmpty_eq_false_iff, List.all_eq_true, State.old_iff, not_or,
    Bool.not_eq_true]

end Sys2Proof.Machine

/-- Settles O40. -/
theorem translationsOfATagAreDropped : Obligations.TranslationsOfATagAreDropped := by
  intro s p tag hopen
  refine ⟨fun hno => ⟨next_congr ((State.inWindow_of_open hopen _).trans (if_pos (by simp [hno]))),
    fun v => next_congr ((State.inWindow_of_open hopen _).trans (if_pos (by simp [hno])))⟩, fun hhas hp => ⟨?_, fun v => ?_⟩, ?_⟩
  · have hexec : exec (.partInvalTag p tag) s = .next (s.invalTag p tag) := next_congr (State.inWindow_of_open hopen _)
    rw [State.invalTag_of_hasTag hhas] at hexec
    have hpart : ((s.dropTag p tag).upPart p (fun x => { x with
        invGen := x.invGen + 1, invTags := x.invTags.filter (fun y => y.tag != tag) ++ [{ tag := tag, gen := x.invGen + 1 }],
        invStart := if x.invTags.isEmpty then s.clk.count else x.invStart })).part p = { s.part p with
        invGen := (s.part p).invGen + 1, invTags := (s.part p).invTags.filter (fun y => y.tag != tag) ++ [{ tag := tag, gen := (s.part p).invGen + 1 }],
        invStart := if (s.part p).invTags.isEmpty then s.clk.count else (s.part p).invStart } := State.part_upPart_same (s.dropTag p tag) p _ hp
    refine ⟨_, hexec, fun x hx => State.not_mem_ranges_dropTag hx, fun x hx => State.not_mem_dirs_dropTag hx,
      fun x hx hne => State.mem_ranges_dropTag hx hne, fun x hx hne => State.mem_dirs_dropTag hx hne,
      fun w hw hpart htag => State.walks_dropTag hw hpart htag, fun o ho hop => State.orders_dropTag ho hop,
      fun o ho hop => State.mem_orders_dropTag ho hop, ?_, ?_, fun hempty => ?_, rfl, rfl,
      fun q hq => State.part_upPart_other (s.dropTag p tag) p q _ hq.symm⟩
    · rw [hpart]
    · rw [hpart]
    · rw [hpart, hempty]
      rfl
  · let u := s.setRoot p tag ((s.root p tag).1 / 2 ^ 32 * 2 ^ 32 + v.toNat % 2 ^ 32 / 4096 * 4096) (v.toNat.testBit 0)
    have hroot : u.part p = { s.part p with roots := ((s.part p).roots.filter (fun r => r.1 != tag)) ++
        [(tag, (s.root p tag).1 / 2 ^ 32 * 2 ^ 32 + v.toNat % 2 ^ 32 / 4096 * 4096, v.toNat.testBit 0)] } := State.part_upPart_same s p _ hp
    have huopen : u.windowOpen p = true := by
      unfold State.windowOpen at hopen ⊢
      rw [hroot]
      exact hopen
    have hset : s.setRootLo p tag v.toNat = u.invalTag p tag := by
      unfold State.setRootLo
      rw [if_neg (by simp [hhas]), fld_31_12]
    refine next_congr ((State.inWindow_of_open hopen _).trans (hset.trans ?_))
    exact (State.inWindow_of_open huopen (fun s => s.invalTag p tag)).symm
  · refine ⟨fun hne hnone => next_congr ?_, fun h => next_congr (if_pos ?_)⟩
    · have hready : s.invalReady p = true := (s.invalReady_iff p).2 ⟨hne, hnone⟩
      exact if_neg (by simp [hready])
    · rw [Bool.not_eq_true']
      refine Bool.eq_false_iff.2 fun hready => ?_
      obtain ⟨hne, hnone⟩ := (s.invalReady_iff p).1 hready
      rcases h with h | ⟨y, hy, hold⟩
      · exact hne h
      · exact hnone y hy hold

namespace Sys2Proof.Machine

section
variable {s : State} {p id i : Nat} {f : PFault} {o : Order} {x : OFault}

/-- The fault is not pending any more. -/
def State.faultTaken (s : State) (p id : Nat) : State := s.upPart p (fun x => { x with faults := x.faults.filter (fun g => g.id != id) })

theorem State.takeFault_none (h : ∀ f ∈ (s.part p).faults, f.id ≠ id) : s.takeFault p id = (s.upPart p (fun x => { x with badCmd := true }), none) := by
  have hnone : (s.part p).faults.find? (fun f => f.id == id) = none := List.find?_eq_none.2 (by simpa using h)
  unfold State.takeFault
  rw [hnone]

theorem State.takeFault_some (h : (s.part p).faults.find? (fun f => f.id == id) = some f) : s.takeFault p id = (s.faultTaken p id, f.order) := by
  unfold State.takeFault
  rw [h]
  rfl

/-- Nothing stands on the fault's order any more. -/
theorem State.faultAbort_gone (h : (s.part p).faults.find? (fun f => f.id == id) = some f) (hi : f.order = some i)
    (hgone : ∀ o, (s.faultTaken p id).order? i = some o → ∀ x ∈ o.faults, x.id ≠ some id) : s.faultAbort p id = s.faultTaken p id := by
  have hnone : ((s.faultTaken p id).order? i).bind (fun o => o.faults.find? (fun x => x.id == some id)) = none := by
    cases ho : (s.faultTaken p id).order? i with
    | none => rfl
    | some o => exact List.find?_eq_none.2 (by simpa using hgone o ho)
  unfold State.faultAbort
  rw [State.takeFault_some h, hi]
  simp only [hnone]

theorem State.faultResume_gone (h : (s.part p).faults.find? (fun f => f.id == id) = some f) (hi : f.order = some i)
    (hgone : ∀ o, (s.faultTaken p id).order? i = some o → ∀ x ∈ o.faults, x.id ≠ some id) : s.faultResume p id = s.faultTaken p id := by
  unfold State.faultResume
  rw [State.takeFault_some h, hi]
  cases ho : (s.faultTaken p id).order? i with
  | none => simp only [ho]
  | some o =>
    have hnone : o.faults.find? (fun x => x.id == some id) = none := List.find?_eq_none.2 (by simpa using hgone o ho)
    simp only [ho, hnone]

/-- The page of a resumed fault is forgotten, and what its stream had fetched is discarded (R150, R308). -/
def State.replayed (s : State) (i : Nat) (o : Order) (x : OFault) : State :=
  let v := ((s.dropPage (eaTag x.info.page) (eaVa x.info.page / 4096)).upOrder i (fun o => (o.endFault x.info).forgetPage x.info.page)).discardFrom i x.info.tile
  if o.phase = .stage2 then v.quitReads (.desc i) else v

theorem State.discardFrom_ranges (s : State) (i t : Nat) : (s.discardFrom i t).ranges = s.ranges := by
  unfold State.discardFrom
  split <;> rfl

theorem State.order?_discardFrom (s : State) (i t : Nat) : (s.discardFrom i t).order? i = (s.order? i).map (fun o => o.discardFrom t) := by
  unfold State.discardFrom
  cases h : s.order? i with
  | none => exact h
  | some o =>
    refine (order?_upOrder_self s i (fun o => o.discardFrom t) (fun _ hx => hx)).trans ?_
    rw [h]

theorem State.ranges_replayed (s : State) (i : Nat) (o : Order) (x : OFault) :
    (s.replayed i o x).ranges = s.ranges.filter (fun r => !r.2.covers (eaTag x.info.page) (eaVa x.info.page / 4096)) := by
  have hv := State.discardFrom_ranges ((s.dropPage (eaTag x.info.page) (eaVa x.info.page / 4096)).upOrder i
    (fun o => (o.endFault x.info).forgetPage x.info.page)) i x.info.tile
  unfold State.replayed
  dsimp only
  split
  · exact hv
  · exact hv

theorem State.order?_replayed (ho : s.order? i = some o) :
    (s.replayed i o x).order? i = some (((o.endFault x.info).forgetPage x.info.page).discardFrom x.info.tile) := by
  have hfound : ((s.dropPage (eaTag x.info.page) (eaVa x.info.page / 4096)).upOrder i (fun o => (o.endFault x.info).forgetPage x.info.page)).order? i =
      some ((o.endFault x.info).forgetPage x.info.page) := by
    rw [order?_upOrder_self _ i (fun o => (o.endFault x.info).forgetPage x.info.page) (fun _ hx => hx)]
    show (s.order? i).map _ = _
    rw [ho]
    rfl
  have hv := State.order?_discardFrom ((s.dropPage (eaTag x.info.page) (eaVa x.info.page / 4096)).upOrder i
    (fun o => (o.endFault x.info).forgetPage x.info.page)) i x.info.tile
  rw [hfound] at hv
  unfold State.replayed
  dsimp only
  split
  · exact hv
  · exact hv

/-- A resumed order that a halt of its own parked asks for a slot again, once no fault stands on it. -/
theorem State.faultResume_standing (h : (s.part p).faults.find? (fun f => f.id == id) = some f) (hi : f.order = some i)
    (ho : (s.faultTaken p id).order? i = some o) (hx : o.faults.find? (fun x => x.id == some id) = some x) :
    s.faultResume p id = match ((s.faultTaken p id).replayed i o x).ctx? o.p o.session with
      | some c => if c.state == .parked && c.leave = 1 && c.preemptOrder == some i && !(((s.faultTaken p id).replayed i o x).order? i).any Order.faulty
          then ((s.faultTaken p id).replayed i o x).askSlot o.p ⟨o.session, some i, false, none⟩ else (s.faultTaken p id).replayed i o x
      | none => (s.faultTaken p id).replayed i o x := by
  have hphase : (o.phase == .stage2) = decide (o.phase = .stage2) := rfl
  unfold State.faultResume
  rw [State.takeFault_some h, hi]
  simp only [ho, hx, hphase, decide_eq_true_eq]
  rfl

theorem State.faultAbort_standing (h : (s.part p).faults.find? (fun f => f.id == id) = some f) (hi : f.order = some i)
    (ho : (s.faultTaken p id).order? i = some o) (hx : o.faults.find? (fun x => x.id == some id) = some x) :
    s.faultAbort p id = ((((s.faultTaken p id).upOrder i (fun o =>
        let o1 := o.endFault x.info
        if x.info.access = 3 then { o1 with streams := o1.streams.map (fun (y : Stream) => if o.streamNo y.field = x.info.stream then { y with ended := true } else y) } else o1)).endOrder i 0x12 id).settle i) := by
  unfold State.faultAbort
  rw [State.takeFault_some h, hi]
  simp only [ho, Option.bind_some, hx]

end

end Sys2Proof.Machine

/-- Settles O41. -/
theorem faultsAreAnswered : Obligations.FaultsAreAnswered := by
  intro s p id hopen
  have habort {t : State} (h : s.faultAbort p id = t) : exec (.faultAbort p id) s = .next (pump t) :=
    next_pump_congr ((State.inWindow_of_open hopen _).trans h)
  have hresume {t : State} (h : s.faultResume p id = t) : exec (.faultResume p id) s = .next t :=
    next_congr ((State.inWindow_of_open hopen _).trans h)
  refine ⟨fun hnone => ⟨hresume ?_, habort ?_⟩, fun f hf => ?_⟩
  · rw [State.faultResume, State.takeFault_none hnone]
  · rw [State.faultAbort, State.takeFault_none hnone]
  · refine ⟨fun hi => ⟨habort ?_, hresume ?_⟩, fun i hi hgone => ⟨habort (State.faultAbort_gone hf hi hgone), hresume (State.faultResume_gone hf hi hgone)⟩,
      fun i o x hi ho hx => ⟨fun hacc => habort ?_, fun hacc => habort ?_, _, _, rfl, rfl, ?_⟩⟩
    · rw [State.faultAbort, State.takeFault_some hf, hi]
      rfl
    · rw [State.faultResume, State.takeFault_some hf, hi]
      rfl
    · rw [State.faultAbort_standing hf hi ho hx]
      simp only [if_neg hacc]
      rfl
    · rw [State.faultAbort_standing hf hi ho hx]
      simp only [if_pos hacc]
      rfl
    · show (∀ r ∈ ((s.faultTaken p id).replayed i o x).ranges, _) ∧ _
      refine ⟨fun r hr => ?_, fun y hy => ?_, fun hnot => hresume ?_, fun c y hc hy hparked hleave hpre hnone => hresume ?_⟩
      · rw [State.ranges_replayed] at hr
        simpa using (List.mem_filter.1 hr).2
      · cases (State.order?_replayed ho).symm.trans hy
        refine ⟨fun z hz => ?_, fun r hr => ?_⟩
        · obtain ⟨hmem, hne⟩ := List.mem_filter.1 hz
          exact ⟨by simpa using hne, hmem⟩
        · simpa using (List.mem_filter.1 hr).2
      · rw [State.faultResume_standing hf hi ho hx]
        split
        · next c hc =>
          refine if_neg fun hcond => ?_
          have hy : ((s.faultTaken p id).replayed i o x).order? i = _ := State.order?_replayed ho
          rw [hy] at hcond
          simp only [Bool.and_eq_true, beq_iff_eq, decide_eq_true_eq, Bool.not_eq_true', Option.any_some, Order.faulty,
            Bool.not_eq_false', List.isEmpty_iff] at hcond
          obtain ⟨⟨⟨hparked, hleave⟩, hpre⟩, hnone⟩ := hcond
          exact hnot c _ hc hy ⟨hparked, hleave, hpre, hnone⟩
        · rfl
      · rw [State.faultResume_standing hf hi ho hx]
        have hc' : ((s.faultTaken p id).replayed i o x).ctx? o.p o.session = some c := hc
        have hy' : ((s.faultTaken p id).replayed i o x).order? i = some y := hy
        rw [hc', hy']
        exact if_pos (by simp [hparked, hleave, hpre, Order.faulty, hnone])
end

section
/-! SUPPORT. Messages of the host: credit (R361), and what each of them does (R272, R357 to R360). -/

namespace Sys2Proof.Machine

section
variable {s : State} {f m : Nat} {x : InMsg} {act : State → State}

theorem State.credited_out (h : (s.modl f m).state ≠ .inService) : s.credited f m x act = s := if_pos h

theorem State.credited_beyond (h : (s.modl f m).state = .inService) (hcredit : (s.modl f m).avail.getD x.chan 0 < x.credits) :
    s.credited f m x act = s.protocolError f m := by
  unfold State.credited
  rw [if_neg (by simp [h]), if_pos hcredit]

theorem State.credited_with (h : (s.modl f m).state = .inService) (hcredit : x.credits ≤ (s.modl f m).avail.getD x.chan 0) :
    s.credited f m x act = act (s.usedBuffer f m x.chan x.credits) := by
  unfold State.credited
  rw [if_neg (by simp [h]), if_neg (Nat.not_lt.2 hcredit)]

/-- With the credits that the message takes known. -/
theorem State.credited_with_credits {n : Nat} (h : (s.modl f m).state = .inService) (hn : x.credits = n)
    (hcredit : n ≤ (s.modl f m).avail.getD x.chan 0) : s.credited f m x act = act (s.usedBuffer f m x.chan n) := by
  subst hn
  exact State.credited_with h hcredit

end

theorem find?_eq_some_congr {α : Type} {p q : α → Bool} {l : List α} (h : ∀ x, p x = q x) : l.find? p = l.find? q := by
  rw [funext h]

/-- What each message with room in one flit takes, and DATA with its line. -/
theorem InMsg.credits_table (x y z : Nat) (value : Word) (line : Line) :
    (InMsg.regRd x y z).credits = 1 ∧ (InMsg.regWr x y z value).credits = 1 ∧ (InMsg.data x y z line).credits = 5 ∧ (InMsg.wack x y).credits = 1 ∧
      (InMsg.throttle x y).credits = 1 ∧ (InMsg.snp x y).credits = 1 ∧ (InMsg.ndata x y z).credits = 1 ∧ (InMsg.nwack x y).credits = 1 := by
  simp [InMsg.credits, InMsg.words, wordCredits, ceilDiv]

/-! Each command that is a message receives it. -/

section
variable (s : State) (f m : Nat)

theorem exec_dataMsg (tag index status : Nat) (line : Line) :
    exec (.dataMsg f m tag index status line) s = .next (pump (s.receive f m (.data tag index status line))) := rfl
theorem exec_wack (tag status : Nat) : exec (.wack f m tag status) s = .next (pump (s.receive f m (.wack tag status))) := rfl
theorem exec_throttle (v addr : Nat) : exec (.throttle f m v addr) s = .next (pump (s.receive f m (.throttle v addr))) := rfl
theorem exec_regRd (p off tag : Nat) : exec (.regRd f m p off tag) s = .next (pump (s.receive f m (.regRd p off tag))) := rfl
theorem exec_regWr (p off seq : Nat) (v : Word) :
    exec (.regWr f m p off seq v) s = .next (pump (s.receive f m (.regWr p off seq v))) := rfl
theorem exec_snp (line tag : Nat) : exec (.snp f m line tag) s = .next (pump (s.receive f m (.snp line tag))) := rfl
theorem exec_ndata (tag status value : Nat) :
    exec (.ndata f m tag status value) s = .next (pump (s.receive f m (.ndata tag status value))) := rfl
theorem exec_nwack (tag status : Nat) : exec (.nwack f m tag status) s = .next (pump (s.receive f m (.nwack tag status))) := rfl

end

/-! ### Credits and throttles -/

section
variable {s : State} {f m : Nat} {a b c d : Nat}

theorem State.creditIn_beyond (h : ∃ i, i < 4 ∧ (s.modl f m).spent.getD i false = true ∧
    (s.modl f m).advertised.getD i 0 < (s.modl f m).credits.getD i 0 + [a, b, c, d].getD i 0) :
    s.creditIn f m [a, b, c, d] = s.protocolError f m := by
  obtain ⟨i, hi, hspent, hover⟩ := h
  refine if_pos (List.any_eq_true.2 ⟨i, List.mem_range.2 hi, ?_⟩)
  rw [hspent, Bool.true_and]
  exact decide_eq_true hover

theorem State.creditIn_within (h : ∀ i, i < 4 → (s.modl f m).spent.getD i false = true →
    (s.modl f m).credits.getD i 0 + [a, b, c, d].getD i 0 ≤ (s.modl f m).advertised.getD i 0) :
    s.creditIn f m [a, b, c, d] = s.upMod f m (fun x => { x with
      credits := (List.range 4).map (fun i => (s.modl f m).credits.getD i 0 + [a, b, c, d].getD i 0)
      advertised := (List.range 4).map (fun i => if x.spent.getD i false then x.advertised.getD i 0
        else (s.modl f m).credits.getD i 0 + [a, b, c, d].getD i 0) }) := by
  refine if_neg fun hany => ?_
  obtain ⟨i, hi, hover⟩ := List.any_eq_true.1 hany
  rw [Bool.and_eq_true, decide_eq_true_eq] at hover
  exact Nat.not_lt.2 (h i (List.mem_range.1 hi) hover.1) hover.2

end

/-! ### Answers -/

section
variable {s : State} {f m tag : Nat}

/-- DATA that answers nothing outstanding, or with a status that is reserved. -/
theorem State.dataIn_stray {index status : Nat} {line : Line} (h : ∀ r, s.reads.find? (fun r => r.face == f && r.modl == some m && r.tag == tag) = some r →
    index ∉ r.left ∨ 2 < status) : s.dataIn f m tag index status line = s.protocolError f m := by
  unfold State.dataIn
  split
  case h_1 => rfl
  case h_2 r hr => exact if_pos (by rcases h r hr with h | h <;> simp [h])

/-- The state once the line of DATA is taken off its read, before it is handed over. -/
def State.lineTaken (s : State) (f m tag index status : Nat) (r : ReadReq) : State :=
  let s1 := (s.decodeError f status).countPoison ((r.wants.filter (fun w => w.2 == index)).map Prod.fst) (status != 0)
  let s2 := if (r.left.erase index).isEmpty then { s1 with reads := s1.reads.filter (fun x => x.id != r.id) }
    else s1.setRead r.id (fun x => { x with left := r.left.erase index })
  s2.answered f m (fun y => match y with | .rd _ _ t => t == tag | _ => false)

theorem State.dataIn_answers {index status : Nat} {line : Line} {r : ReadReq}
    (hr : s.reads.find? (fun r => r.face == f && r.modl == some m && r.tag == tag) = some r) (hindex : index ∈ r.left) (hstatus : status ≤ 2) :
    s.dataIn f m tag index status line = pump (((r.wants.filter (fun w => w.2 == index)).map Prod.fst).foldl
      (fun x c => x.handOver r c (r.line + index) line (status != 0)) (s.lineTaken f m tag index status r)).grantWalks.settleEnded := by
  unfold State.dataIn
  rw [hr]
  dsimp only
  rw [if_neg (by simp [hindex, hstatus])]
  rfl

theorem State.decodeError_rest (s : State) (f status : Nat) : s.decodeError f status = { s with faces := (s.decodeError f status).faces } := by
  unfold State.decodeError
  split <;> rfl

theorem State.countPoison_rest (s : State) (cs : List Consumer) (bad : Bool) : s.countPoison cs bad = { s with ints := (s.countPoison cs bad).ints } := by
  unfold State.countPoison
  dsimp only
  split <;> rfl

theorem State.lineTaken_rest (s : State) (f m tag index status : Nat) (r : ReadReq) : s.lineTaken f m tag index status r =
    { s with reads := if r.left.erase index = [] then s.reads.filter (fun x => x.id != r.id)
               else s.reads.map (fun x => if x.id = r.id then { x with left := r.left.erase index } else x),
             ints := (s.lineTaken f m tag index status r).ints, faces := (s.lineTaken f m tag index status r).faces } := by
  unfold State.lineTaken
  rw [State.countPoison_rest, s.decodeError_rest]
  simp only [List.isEmpty_iff]
  split <;> rfl

/-- WACK that answers nothing outstanding, or with a status that is reserved. -/
theorem State.wackIn_stray {status : Nat} (h : ∀ w, s.writes.find? (fun w => w.face == f && w.modl == some m && w.tag == tag) = some w →
    status ≠ 0 ∧ status ≠ 2) : s.wackIn f m tag status = s.protocolError f m := by
  unfold State.wackIn
  split
  case h_1 => rfl
  case h_2 w hw => exact if_pos (by simp [h w hw])

/-- The state once the write of WACK is off, before those it was made for are told. -/
def State.writeTaken (s : State) (f m tag status : Nat) (w : WriteReq) : State :=
  let s1 := s.decodeError f status
  let s2 := { s1 with writes := s1.writes.filter (fun x => x.id != w.id), benches := s1.benches.map (fun (b : Bench) => b.acked w.id (s1.nextOn w)) }
  (s2.upFace f (fun x => { x with oldWrites := x.oldWrites.erase w.id })).answered f m
    (fun y => match y with | .wr _ t _ _ _ => t == tag | _ => false)

theorem State.wackIn_answers {status : Nat} {w : WriteReq}
    (hw : s.writes.find? (fun w => w.face == f && w.modl == some m && w.tag == tag) = some w) (hstatus : status = 0 ∨ status = 2) :
    s.wackIn f m tag status = (pump (if status = 2 then ((s.writeTaken f m tag status w).writeLost w).settleEnded
      else w.owners.foldl (fun x y => x.ackFor w y) (s.writeTaken f m tag status w))).pumpNarrow := by
  unfold State.wackIn
  rw [hw]
  dsimp only
  rw [if_neg (by rcases hstatus with h | h <;> simp [h])]
  rfl

theorem State.writeTaken_rest (s : State) (f m tag status : Nat) (w : WriteReq) : s.writeTaken f m tag status w =
    { s with writes := s.writes.filter (fun x => x.id != w.id), benches := s.benches.map (fun (b : Bench) => b.acked w.id (s.nextOn w)),
             faces := (s.writeTaken f m tag status w).faces } := by
  unfold State.writeTaken
  rw [s.decodeError_rest]
  rfl

/-- The state once the narrow access of an answer is off. -/
def State.narrowTaken (s : State) (f m : Nat) (n : NarrowReq) (p : Msg → Bool) : State := { s with narrows := s.narrows.erase n }.answered f m p

theorem State.ndataIn_stray {status value : Nat}
    (h : ∀ n, s.narrows.find? (fun n => n.face == f && n.modl == some m && n.tag == tag && n.write.isNone) = some n → 2 < status) :
    s.ndataIn f m tag status value = s.protocolError f m := by
  unfold State.ndataIn
  split
  case h_1 => rfl
  case h_2 n hn => exact if_pos (h n hn)

theorem State.ndataIn_answers {status value : Nat} {n : NarrowReq}
    (hn : s.narrows.find? (fun n => n.face == f && n.modl == some m && n.tag == tag && n.write.isNone) = some n) (hstatus : status ≤ 2) :
    ∃ p, s.ndataIn f m tag status value = if n.stale then s.narrowTaken f m n p else (s.narrowTaken f m n p).peekData status value := by
  refine ⟨fun y => match y with | .nrd t _ => t == tag | _ => false, ?_⟩
  unfold State.ndataIn
  rw [hn]
  dsimp only
  rw [if_neg (Nat.not_lt.2 hstatus)]
  rfl

theorem State.nwackIn_stray {status : Nat}
    (h : ∀ n, s.narrows.find? (fun n => n.face == f && n.modl == some m && n.tag == tag && n.write.isSome) = some n → status ≠ 0 ∧ status ≠ 2) :
    s.nwackIn f m tag status = s.protocolError f m := by
  unfold State.nwackIn
  split
  case h_1 => rfl
  case h_2 n hn => exact if_pos (by simp [h n hn])

theorem State.nwackIn_answers {status : Nat} {n : NarrowReq}
    (hn : s.narrows.find? (fun n => n.face == f && n.modl == some m && n.tag == tag && n.write.isSome) = some n) (hstatus : status = 0 ∨ status = 2) :
    ∃ p, s.nwackIn f m tag status = (pump (if n.stale then s.narrowTaken f m n p else if status ≠ 0 then (s.narrowTaken f m n p).failRun 5
      else ((s.narrowTaken f m n p).upMon (fun x => { x with running := false, runGot := [], runLeft := 0 })).sayOk)).pumpNarrow := by
  refine ⟨fun y => match y with | .nwr t _ _ => t == tag | _ => false, ?_⟩
  unfold State.nwackIn
  rw [hn]
  dsimp only
  rw [if_neg (by rcases hstatus with h | h <;> simp [h])]
  rfl

end

end Sys2Proof.Machine

open Sys2Proof Sys2Proof.Machine

/-- Settles O33, by the three cases of a credited message and the table of what each takes. -/
theorem messagesTakeCredit : Obligations.MessagesTakeCredit := by
  intro s f m x y z w value line msgs
  have hmsgs {P : Instr × Nat × Nat → Prop} (h : ∀ (c : Instr) (i : InMsg) (n : Nat), exec c s = .next (pump (s.receive f m i)) → i.credits = n → P (c, i.chan, n)) :
      ∀ c ∈ msgs, P c := by
    obtain ⟨hrd, hwr, hdata, hwack, hthrottle, hsnp, hndata, hnwack⟩ := InMsg.credits_table x y z value line
    refine List.forall_mem_cons.2 ⟨h _ _ _ (exec_regRd s f m x y z) hrd, List.forall_mem_cons.2 ⟨h _ _ _ (exec_regWr s f m x y z value) hwr,
      List.forall_mem_cons.2 ⟨h _ _ _ (exec_dataMsg s f m x y z line) hdata, List.forall_mem_cons.2 ⟨h _ _ _ (exec_wack s f m x y) hwack,
      List.forall_mem_cons.2 ⟨h _ _ _ (exec_throttle s f m x y) hthrottle, List.forall_mem_cons.2 ⟨h _ _ _ (exec_snp s f m x y) hsnp,
      List.forall_mem_cons.2 ⟨h _ _ _ (exec_ndata s f m x y z) hndata, List.forall_mem_cons.2 ⟨h _ _ _ (exec_nwack s f m x y) hnwack, by simp⟩⟩⟩⟩⟩⟩⟩⟩
  refine ⟨fun hout => ⟨hmsgs fun c i n hc hn => ?_, ?_⟩, fun hin => hmsgs fun c i n hc hn hcredit => ?_, fun hin hcredit line tag => ?_,
    fun hin hcredit v addr => ?_, fun hin a b c d => ?_⟩
  · exact hc.trans (next_pump_congr (State.credited_out hout))
  · exact next_pump_congr (State.credited_out hout)
  · exact hc.trans (next_pump_congr (State.credited_beyond hin (by rwa [hn])))
  · exact next_pump_congr (State.credited_with_credits (x := .snp line tag) hin (by simp [InMsg.credits, InMsg.words, wordCredits, ceilDiv]) hcredit)
  · intro u
    have hexec {t : State} (h : u.throttle addr v = t) : exec (.throttle f m v addr) s = .next (pump t) :=
      next_pump_congr ((State.credited_with_credits (x := .throttle v addr) hin (by simp [InMsg.credits, InMsg.words, wordCredits, ceilDiv]) hcredit).trans h)
    refine ⟨fun hno => hexec ?_, fun e hcommitted he => hexec ?_⟩
    · have hnone : (if u.cfg.committed then stackIx u.stacks addr else none) = none := by
        split
        · next hc =>
          have hc' : s.cfg.committed = true := hc
          exact hno.resolve_left (by simp [hc'])
        · rfl
      unfold State.throttle
      rw [hnone]
      simp only [satAdd_one]
    · have hsome : (if u.cfg.committed then stackIx u.stacks addr else none) = some e := (if_pos hcommitted).trans he
      unfold State.throttle
      rw [hsome]
  · intro u got
    have hexec {t : State} (h : u.creditIn f m [a, b, c, d] = t) : exec (.credit f m a b c d) s = .next (pump t) :=
      next_pump_congr ((State.credited_with_credits (x := .credit a b c d) hin (by simp [InMsg.credits]) (Nat.zero_le _)).trans h)
    exact ⟨fun h => hexec (State.creditIn_beyond h), fun h => hexec (State.creditIn_within h)⟩

/-- Settles O34, by the request that each answer finds, taken off before those it was made for are told. -/
theorem answersFindTheirRequests : Obligations.AnswersFindTheirRequests := by
  intro s f m tag hin
  refine ⟨fun hcredit index status line => ?_, fun hcredit status => ?_, fun hcredit status value => ?_⟩
  · intro u mine
    have hexec {t : State} (h : u.dataIn f m tag index status line = t) : exec (.dataMsg f m tag index status line) s = .next (pump t) :=
      next_pump_congr ((State.credited_with_credits (x := .data tag index status line) hin (by simp [InMsg.credits, InMsg.words, wordCredits, ceilDiv]) hcredit).trans h)
    refine ⟨fun hnone => hexec (State.dataIn_stray fun r hr => ?_), fun r hr => ⟨fun hbad => hexec (State.dataIn_stray fun x hx => ?_),
      fun hindex hstatus => ⟨u.lineTaken f m tag index status r, hexec (State.dataIn_answers hr hindex hstatus), ?_, ?_⟩⟩⟩
    · exact absurd (hnone.symm.trans hr) (by simp)
    · cases hr.symm.trans hx
      exact hbad
    · rw [u.lineTaken_rest]
      rfl
    · rw [u.lineTaken_rest]
      rfl
  · intro u mine
    have hexec {t : State} (h : u.wackIn f m tag status = t) : exec (.wack f m tag status) s = .next (pump t) :=
      next_pump_congr ((State.credited_with_credits (x := .wack tag status) hin (by simp [InMsg.credits, InMsg.words, wordCredits, ceilDiv]) hcredit).trans h)
    refine ⟨fun hnone => hexec (State.wackIn_stray fun w hw => ?_), fun w hw => ⟨fun h0 h2 => hexec (State.wackIn_stray fun _ _ => ⟨h0, h2⟩),
      fun hstatus => ⟨u.writeTaken f m tag status w, hexec (State.wackIn_answers hw hstatus), ?_, ?_, ?_⟩⟩⟩
    · exact absurd (hnone.symm.trans hw) (by simp)
    · rw [u.writeTaken_rest]
      rfl
    · rw [u.writeTaken_rest]
      rfl
    · rw [u.writeTaken_rest]
      rfl
  · intro u mine
    have hndata {t : State} (h : u.ndataIn f m tag status value = t) : exec (.ndata f m tag status value) s = .next (pump t) :=
      next_pump_congr ((State.credited_with_credits (x := .ndata tag status value) hin (by simp [InMsg.credits, InMsg.words, wordCredits, ceilDiv]) hcredit).trans h)
    have hnwack {t : State} (h : u.nwackIn f m tag status = t) : exec (.nwack f m tag status) s = .next (pump t) :=
      next_pump_congr ((State.credited_with_credits (x := .nwack tag status) hin (by simp [InMsg.credits, InMsg.words, wordCredits, ceilDiv]) hcredit).trans h)
    have hread : s.narrows.find? (mine false) = u.narrows.find? (fun n => n.face == f && n.modl == some m && n.tag == tag && n.write.isNone) := by
      refine find?_eq_some_congr fun n => ?_
      show (_ && (n.write.isSome == false)) = _
      cases n.write <;> rfl
    have hwrite : s.narrows.find? (mine true) = u.narrows.find? (fun n => n.face == f && n.modl == some m && n.tag == tag && n.write.isSome) := by
      refine find?_eq_some_congr fun n => ?_
      show (_ && (n.write.isSome == true)) = _
      cases n.write <;> rfl
    rw [hread, hwrite]
    refine ⟨fun hnone => hndata (State.ndataIn_stray fun n hn => absurd (hnone.symm.trans hn) (by simp)),
      fun hnone => hnwack (State.nwackIn_stray fun n hn => absurd (hnone.symm.trans hn) (by simp)),
      fun n _ hbad => hndata (State.ndataIn_stray fun _ _ => hbad), fun n _ h0 h2 => hnwack (State.nwackIn_stray fun _ _ => ⟨h0, h2⟩),
      fun n hn hstatus => ?_, fun n hn hstatus => ?_⟩
    · obtain ⟨p, hp⟩ := State.ndataIn_answers (value := value) hn hstatus
      exact ⟨u.narrowTaken f m n p, rfl, rfl, hndata hp⟩
    · obtain ⟨p, hp⟩ := State.nwackIn_answers hn hstatus
      refine ⟨u.narrowTaken f m n p, rfl, rfl, hnwack (hp.trans ?_)⟩
      rfl

/-- Settles O35, by the three cases of a write's number. -/
theorem registerMessagesAreOrdered : Obligations.RegisterMessagesAreOrdered := by
  intro s f m p off
  refine ⟨fun hin hcredit => ?_, fun hhi => next_congr (if_pos hhi), fun h hhi hsome hadmits => next_congr ?_, fun hhi => next_congr (if_neg (by simp [hhi]))⟩
  · intro u next
    have hwr {seq : Nat} {value : Word} {t : State} (h : u.regWrIn f m p off seq value = t) : exec (.regWr f m p off seq value) s = .next (pump t) :=
      next_pump_congr ((State.credited_with_credits (x := .regWr p off seq value) hin (by simp [InMsg.credits, InMsg.words, wordCredits, ceilDiv]) hcredit).trans h)
    refine ⟨fun tag => next_pump_congr (State.credited_with_credits (x := .regRd p off tag) hin (by simp [InMsg.credits, InMsg.words, wordCredits, ceilDiv]) hcredit), fun value => hwr (if_pos rfl), fun seq value hne hold => hwr ?_,
      fun seq value hne hnew => hwr ?_⟩
    · exact (if_neg hne).trans (if_pos hold)
    · exact (if_neg hne).trans (if_neg (Nat.not_le.2 hnew))
  · obtain ⟨v, hv⟩ := Option.isSome_iff_exists.1 hsome
    unfold State.loRead State.regRead
    rw [if_pos (by simp [hhi]), hv]
    dsimp only
    rw [if_neg (by simp [hadmits]), hhi]
end

section
/-! SUPPORT. Transactions of the configuration, their switch, and migrations (R62 to R67, R279 to R290). -/

namespace Sys2Proof.Machine

/-! ### Commands of a transaction -/

section
variable {s : State} {p : Nat}

theorem State.txnBegin_of_closed (h : s.windowOpen p = false) : s.txnBegin p = s := if_pos (by simp [h])
theorem State.txnStage_of_closed (h : s.windowOpen p = false) : s.txnStage p = s := if_pos (by simp [h])
theorem State.txnCommit_of_closed (h : s.windowOpen p = false) : s.txnCommit p = s := if_pos (by simp [h])
theorem State.txnRollback_of_closed (h : s.windowOpen p = false) : s.txnRollback p = s := if_pos (by simp [h])

/-- A partition that owns no transaction. -/
theorem State.txnStage_of_none (hopen : s.windowOpen p = true) (h : s.cfg.txn.state = .idle ∨ s.cfg.txn.owner ≠ p) :
    s.txnStage p = s.txnRefuse p 0x10 := (if_neg (by simp [hopen])).trans (if_pos (by simpa using h))

theorem State.txnCommit_of_none (hopen : s.windowOpen p = true) (h : s.cfg.txn.state = .idle ∨ s.cfg.txn.owner ≠ p) :
    s.txnCommit p = s.txnRefuse p 0x10 := (if_neg (by simp [hopen])).trans (if_pos (by simpa using h))

theorem State.txnRollback_of_none (hopen : s.windowOpen p = true) (h : s.cfg.txn.state = .idle ∨ s.cfg.txn.owner ≠ p) :
    s.txnRollback p = s.txnRefuse p 0x10 := (if_neg (by simp [hopen])).trans (if_pos (by simpa using h))

/-! Its owner, while the transaction is not OPEN. -/

section
variable (hopen : s.windowOpen p = true) (hidle : s.cfg.txn.state ≠ .idle) (hown : s.cfg.txn.owner = p)
include hopen hidle hown

theorem State.txnStage_of_owner : s.txnStage p = if s.cfg.txn.state ≠ .opened then s.txnRefuse p 0x0F else
    (s.upTxn (fun t => { t with state := .staging, addr := (s.part p).stageAddr, length := (s.part p).stageLen, failed := false })).askStage :=
  (if_neg (by simp [hopen])).trans (if_neg (by simp [hidle, hown]))

theorem State.txnCommit_of_owner : s.txnCommit p = if s.cfg.txn.state ≠ .opened then s.txnRefuse p 0x0F else
    s.upTxn (fun t => { t with state := .validating, failed := false }) :=
  (if_neg (by simp [hopen])).trans (if_neg (by simp [hidle, hown]))

theorem State.txnRollback_of_owner : s.txnRollback p = if s.cfg.txn.state ≠ .opened then s.txnRefuse p 0x0F else s.txnEnd.txnDone p 4 0 0xFFF :=
  (if_neg (by simp [hopen])).trans (if_neg (by simp [hidle, hown]))

end

/-- BEGIN in an open window, by its conditions in their order. -/
theorem State.txnBegin_of_open (hopen : s.windowOpen p = true) : s.txnBegin p =
    if s.cfg.txn.state != .idle then s.txnRefuse p 0x0F else if !s.cfg.regionValid then s.txnRefuse p 0x13
    else if s.clk.onFastRc then s.txnRefuse p 0x14 else if s.kettle.beginHold then s.txnRefuse p 0x15
    else (s.upCfg (fun c => { c with regionLocked := true, txn := { state := .opened, owner := p } })).txnRefuse p 0 := if_neg (by simp [hopen])

/-! ### STAGE_DONE -/

/-- The end of a STAGE: the transaction is OPEN again, and its reason is posted. -/
def State.stageEnd (s : State) (owner reason sect : Nat) : State :=
  ((s.upTxn (fun t => { t with state := .opened, failed := false })).quitReads .stage).txnDone owner 2 reason sect

theorem State.stageDone_idle (h : s.cfg.txn.state ≠ .staging ∨ ((s.face 0).up = false ∧ s.cfg.txn.failed = false)) : s.stageDone = s :=
  if_pos (by simpa using h)

theorem State.stageDone_failed (hstate : s.cfg.txn.state = .staging) (h : s.cfg.txn.failed = true) : s.stageDone = s.stageEnd s.cfg.txn.owner 0x11 0xFFF := by
  unfold State.stageDone
  dsimp only
  rw [if_neg (by simp [hstate, h]), if_pos h]
  rfl

/-- The outcome of a STAGE whose image is read as `got`. -/
def State.stageOutcome (s : State) : Option (Nat × Bool) → State
  | none => s.askStage
  | some (_, true) => s.stageEnd s.cfg.txn.owner 0x11 0xFFF
  | some (v, false) =>
    match Image.check ⟨v, s.cfg.txn.length⟩ s.fuses s.cfg.txn.owner with
    | (0, _) => (s.upTxn (fun t => t.take ⟨v, s.cfg.txn.length⟩ s.variant)).stageEnd s.cfg.txn.owner 0 0xFFF
    | (r, k) => s.stageEnd s.cfg.txn.owner r k

section
variable (hstate : s.cfg.txn.state = .staging) (hup : (s.face 0).up = true) (hok : s.cfg.txn.failed = false)
include hstate hup hok

theorem State.stageDone_of_long (h : 2 ^ 26 < s.cfg.txn.length) : s.stageDone = s.stageEnd s.cfg.txn.owner 0x01 0xFFF := by
  unfold State.stageDone
  dsimp only
  rw [if_neg (by simp [hstate, hup]), if_neg (by simp [hok]), if_pos h]
  rfl

theorem State.stageDone_of_read (h : s.cfg.txn.length ≤ 2 ^ 26) :
    s.stageDone = s.stageOutcome (s.getBytes .stage s.cfg.txn.addr s.cfg.txn.length) := by
  unfold State.stageDone
  dsimp only
  rw [if_neg (by simp [hstate, hup]), if_neg (by simp [hok]), if_neg (Nat.not_lt.2 h)]
  rfl

end

theorem State.stageOutcome_bad {v r k : Nat} (h : Image.check ⟨v, s.cfg.txn.length⟩ s.fuses s.cfg.txn.owner = (r, k)) (hr : r ≠ 0) :
    s.stageOutcome (some (v, false)) = s.stageEnd s.cfg.txn.owner r k := by
  obtain ⟨n, rfl⟩ := Nat.exists_eq_succ_of_ne_zero hr
  unfold State.stageOutcome
  dsimp only
  rw [h]
  rfl

theorem State.stageOutcome_good {v k : Nat} (h : Image.check ⟨v, s.cfg.txn.length⟩ s.fuses s.cfg.txn.owner = (0, k)) :
    s.stageOutcome (some (v, false)) = (s.upTxn (fun t => t.take ⟨v, s.cfg.txn.length⟩ s.variant)).stageEnd s.cfg.txn.owner 0 0xFFF := by
  unfold State.stageOutcome
  dsimp only
  rw [h]
  rfl

end

/-! ### The switch -/

theorem State.dropCached_cfg (s : State) (p : Nat) (c : CLine → Bool) (x : SLine → Bool) : (s.dropCached p c x).cfg = s.cfg := by
  unfold State.dropCached
  rw [State.foldl_upBench_rest]

theorem State.foldl_cfg {α : Type} (l : List α) (g : State → α → State) (h : ∀ s a, (g s a).cfg = s.cfg) (s : State) : (l.foldl g s).cfg = s.cfg := by
  induction l generalizing s with
  | nil => rfl
  | cons a l ih => exact (ih _).trans (h s a)

theorem State.switchDrop_cfg (s : State) : s.switchDrop.cfg = s.cfg := by
  unfold State.switchDrop
  dsimp only
  refine (State.foldl_cfg _ _ ?_ _).trans (State.foldl_cfg _ _ (fun s p => s.dropCached_cfg p _ _) s)
  exact fun _ _ => rfl

/-- The switch makes the result of the transaction live, under the next epoch. -/
theorem State.switchOver_cfg (s : State) : s.switchOver.cfg.live = s.cfg.txn.result s.cfg.live ∧ s.switchOver.cfg.epoch = s.cfg.epoch + 1 := by
  have hsame : Same s.switchDrop.install s.switchOver := afterInstall_same _ _ _ (Same.foldl (Same.refl _) (fun s e h => slowed_same _ _ _ h))
  refine ⟨hsame.live.trans ?_, hsame.epoch.trans ?_⟩
  · exact congrArg (fun c : Cfg => c.txn.result c.live) s.switchDrop_cfg
  · exact congrArg (fun c : Cfg => c.epoch + 1) s.switchDrop_cfg

/-- A line that the switch drops still waits for its write. -/
def State.switchHeld (s : State) : Bool :=
  (List.range 8).any (fun p => s.cachedPending p (s.switchLine (s.cfg.txn.result s.cfg.live) p) (s.switchSLine (s.cfg.txn.result s.cfg.live) p))

section
variable {s : State}

theorem State.advanceSwitch_other (h : s.cfg.txn.state ≠ .switching ∨ s.cfg.txn.switched = true) : s.advanceSwitch = s := if_pos (by simpa using h)

section
variable (hstate : s.cfg.txn.state = .switching) (hsw : s.cfg.txn.switched = false)
include hstate hsw

theorem State.advanceSwitch_waits (h : s.cfg.oldest ≠ s.cfg.epoch ∨ s.switchHeld = true) : s.advanceSwitch = s := by
  refine (if_neg (by simp [hstate, hsw])).trans (if_pos ?_)
  rw [Bool.or_eq_true, decide_eq_true_eq]
  exact h

theorem State.advanceSwitch_passes (hepoch : s.cfg.oldest = s.cfg.epoch) (h : s.switchHeld = false) : s.advanceSwitch = s.switchOver := by
  refine (if_neg (by simp [hstate, hsw])).trans (if_neg ?_)
  rw [Bool.or_eq_true, decide_eq_true_eq]
  rintro (h' | h')
  · exact h' hepoch
  · exact Bool.false_ne_true (h.symm.trans h')

end

theorem State.validationDone_idle (h : s.cfg.txn.state ≠ .validating ∨ ((s.face 0).up = false ∧ s.cfg.txn.failed = false)) : s.validationDone = s :=
  if_pos (by simpa using h)

/-- The outcome of a validation with its reason and the failing section. -/
def State.validated (s : State) (r : Nat) (key : Option Nat) : State :=
  if r = 0 then (s.upTxn (fun t => { t with state := .switching, switched := false })).advanceSwitch
  else if s.cfg.txn.owner = 0xFE then s.txnEnd.abandonMig
  else s.txnEnd.txnDone s.cfg.txn.owner 3 r (match key with | some k => (s.cfg.txn.index.findIdx? (· == k)).getD 0xFFF | none => 0xFFF)

section
variable (hstate : s.cfg.txn.state = .validating)
include hstate

theorem State.validationDone_region (hup : (s.face 0).up = true) (hbad : s.cfg.regionBad = true) : s.validationDone = s.readRegion :=
  (if_neg (by simp [hstate, hup])).trans (if_pos hbad)

theorem State.validationDone_outcome (hwait : (s.face 0).up = true ∨ s.cfg.txn.failed = true) (hregion : s.cfg.regionBad = false) :
    s.validationDone = s.validated (if s.cfg.txn.failed then (0x11, none) else s.validate (s.cfg.txn.result s.cfg.live)).1
      (if s.cfg.txn.failed then (0x11, none) else s.validate (s.cfg.txn.result s.cfg.live)).2 := by
  refine (if_neg ?_).trans ((if_neg (by simp [hregion])).trans rfl)
  rcases hwait with h | h <;> simp [hstate, h]

theorem State.validationDone_failed (hregion : s.cfg.regionBad = false) (h : s.cfg.txn.failed = true) : s.validationDone = s.validated 0x11 none := by
  rw [State.validationDone_outcome hstate (.inr h) hregion, if_pos h]

theorem State.validationDone_checked (hup : (s.face 0).up = true) (hregion : s.cfg.regionBad = false) (h : s.cfg.txn.failed = false) :
    s.validationDone = s.validated (s.validate (s.cfg.txn.result s.cfg.live)).1 (s.validate (s.cfg.txn.result s.cfg.live)).2 := by
  rw [State.validationDone_outcome hstate (.inl hup) hregion, if_neg (by simp [h])]

end

theorem State.validated_refused {r : Nat} {key : Option Nat} (hr : r ≠ 0) (howner : s.cfg.txn.owner ≠ 0xFE) : s.validated r key =
    s.txnEnd.txnDone s.cfg.txn.owner 3 r (match key with | some k => (s.cfg.txn.index.findIdx? (· == k)).getD 0xFFF | none => 0xFFF) :=
  (if_neg hr).trans (if_neg howner)

theorem State.validated_migration {r : Nat} {key : Option Nat} (hr : r ≠ 0) (howner : s.cfg.txn.owner = 0xFE) :
    s.validated r key = s.txnEnd.abandonMig := (if_neg hr).trans (if_pos howner)

theorem State.switchDone_done (hstate : s.cfg.txn.state = .switching) (hsw : s.cfg.txn.switched = true) (h : s.cfg.oldest = s.cfg.epoch) :
    s.switchDone = if s.cfg.txn.owner = 0xFE then s.txnEnd else s.txnEnd.txnDone s.cfg.txn.owner 3 0 0xFFF := by
  unfold State.switchDone
  rw [State.advanceSwitch_other (.inr hsw)]
  dsimp only
  rw [if_pos (by simp [hstate, hsw, h])]

theorem State.switchDone_other (hstate : s.cfg.txn.state ≠ .switching) : s.switchDone = s := by
  unfold State.switchDone
  rw [State.advanceSwitch_other (.inl hstate)]
  dsimp only
  rw [if_neg (by simp [hstate])]

end

/-! ### Migrations -/

section
variable {s : State}

theorem State.migCopy_other (h : s.mig.phase ≠ 1) : s.migCopy = s := if_pos h

/-- With every copy acknowledged nothing is copied any more. -/
theorem State.migCopy_acked {b : Binding} (hphase : s.mig.phase = 1) (hb : bindingOf s.cfg.live s.mig.p s.mig.bind = some b) (hrows : s.mig.rows ≠ [])
    (hacked : ∀ r ∈ s.mig.rows, r.acked = true) : s.migCopy = s.upMig (fun g => { g with phase := 2 }) := by
  have hbatch : s.mig.rows.filter (fun r => !r.acked) = [] := List.filter_eq_nil_iff.2 fun r hr => by simp [hacked r hr]
  unfold State.migCopy
  rw [if_neg (by simp [hphase]), hb]
  simp only [hbatch, List.take_nil, List.foldl_nil]
  rw [if_neg (by simpa using hrows), if_pos (List.all_eq_true.2 hacked)]

theorem State.migRelease_other (h : s.mig.phase ≠ 3) : s.migRelease = s := if_pos h

theorem State.migRelease_early (hphase : s.mig.phase = 3) (hkept : s.mig.abandoned = false) (h : s.cfg.oldest < s.mig.epoch) : s.migRelease = s :=
  (if_neg (by simp [hphase])).trans (if_pos (by simp [hkept, h]))

theorem State.migRelease_last {b : Binding} (hphase : s.mig.phase = 3) (hb : bindingOf s.cfg.live s.mig.p s.mig.bind = some b) (hrows : s.mig.rows = [])
    (h : s.mig.abandoned = false → s.mig.epoch ≤ s.cfg.oldest) :
    s.migRelease = if s.mig.abandoned then { s with mig := {} } else
      State.event { s with mig := {} } s.mig.p 0x000E (s.mig.map * 65536 + s.mig.shard) s.mig.epoch := by
  have hlate : ¬ ((!s.mig.abandoned && decide (s.cfg.oldest < s.mig.epoch)) = true) := by
    rw [Bool.and_eq_true, Bool.not_eq_true', decide_eq_true_eq]
    exact fun hn => absurd (h hn.1) (Nat.not_le.2 hn.2)
  unfold State.migRelease
  rw [if_neg (by simp [hphase]), if_neg hlate, hb]
  simp only [hrows, List.take_nil, List.foldl_nil]
  rw [if_neg (by simp)]

theorem State.migrateSwitch_other (h : s.mig.phase ≠ 2 ∨ s.cfg.txn.state ≠ .idle ∨ s.cfg.committed = false) : s.migrateSwitch = s :=
  if_pos (by simpa [or_assoc] using h)

theorem State.migrateSwitch_due (hphase : s.mig.phase = 2) (hidle : s.cfg.txn.state = .idle) (hcommitted : s.cfg.committed = true) :
    s.migrateSwitch = match shardMapOf s.cfg.live s.mig.p s.mig.map with
      | none => s.abandonMig
      | some m => s.upTxn (fun _ => { state := .validating, owner := 0xFE, staged := [⟨5, s.mig.p, s.mig.map, .shardMap (m.redirected s.mig.rows)⟩] }) := by
  refine (if_neg (by simp [hphase, hidle, hcommitted])).trans ?_
  rfl

theorem fld_31_9_or_one (v : Nat) : fld (v ||| 1) 31 9 * 512 = v % 2 ^ 32 / 512 * 512 := by
  have h : (v ||| 1) >>> 9 = v >>> 9 := by
    rw [Nat.shiftRight_or_distrib]
    exact Nat.or_zero _
  rw [fld, h, ← fld, fld_eq]
  omega

theorem State.migAccept_eq (s : State) (p map shard : Nat) : s.migAccept p map shard = s.upPart p (fun x =>
    if (map, shard) ∈ x.mig.proposals then { x with mig := { x.mig with proposals := x.mig.proposals.erase (map, shard), accepts := x.mig.accepts ++ [(map, shard, false)] } }
    else { x with mig := { x.mig with acceptIgnored := true } }) := by
  simp only [State.migAccept, List.contains_iff_mem]

end

end Sys2Proof.Machine

open Sys2Proof Sys2Proof.Machine

/-- Settles O45, by the conditions of each command in their order. -/
theorem transactionsOpenAndEnd : Obligations.TransactionsOpenAndEnd := by
  intro s p
  refine ⟨fun hclosed => ⟨?_, ?_⟩, fun hopen => ?_, fun h => next_pump_congr (if_pos h), fun h => next_pump_congr (if_neg h)⟩
  · exact List.forall_mem_cons.2 ⟨next_congr (State.txnBegin_of_closed hclosed), List.forall_mem_singleton.2 (next_congr (State.txnCommit_of_closed hclosed))⟩
  · exact List.forall_mem_cons.2 ⟨next_pump_congr (State.txnStage_of_closed hclosed),
      List.forall_mem_singleton.2 (next_pump_congr (State.txnRollback_of_closed hclosed))⟩
  intro refuse
  have hbegin := State.txnBegin_of_open hopen
  refine ⟨fun h => next_congr ?_, fun hidle hregion => next_congr ?_, fun hidle hregion hrc => next_congr ?_, fun hidle hregion hrc hhold => next_congr ?_,
    fun hidle hregion hrc hhold => next_congr ?_, fun h => ⟨next_congr (State.txnCommit_of_none hopen h), ?_⟩, fun hidle hown hstate => ⟨next_congr ?_, ?_⟩,
    fun hstate hown => ?_⟩
  · rw [hbegin, if_pos (by simpa using h)]
    rfl
  · rw [hbegin, if_neg (by simp [hidle]), if_pos (by simp [hregion])]
    rfl
  · rw [hbegin, if_neg (by simp [hidle]), if_neg (by simp [hregion]), if_pos hrc]
    rfl
  · rw [hbegin, if_neg (by simp [hidle]), if_neg (by simp [hregion]), if_neg (by simp [hrc]), if_pos hhold]
    rfl
  · rw [hbegin, if_neg (by simp [hidle]), if_neg (by simp [hregion]), if_neg (by simp [hrc]), if_neg (by simp [hhold])]
    rfl
  · exact List.forall_mem_cons.2 ⟨next_pump_congr (State.txnStage_of_none hopen h),
      List.forall_mem_singleton.2 (next_pump_congr (State.txnRollback_of_none hopen h))⟩
  · exact (State.txnCommit_of_owner hopen hidle hown).trans (if_pos hstate)
  · exact List.forall_mem_cons.2 ⟨next_pump_congr ((State.txnStage_of_owner hopen hidle hown).trans (if_pos hstate)),
      List.forall_mem_singleton.2 (next_pump_congr ((State.txnRollback_of_owner hopen hidle hown).trans (if_pos hstate)))⟩
  · have hidle : s.cfg.txn.state ≠ .idle := by simp [hstate]
    exact ⟨next_pump_congr ((State.txnStage_of_owner hopen hidle hown).trans (if_neg (not_not.2 hstate))),
      next_congr ((State.txnCommit_of_owner hopen hidle hown).trans (if_neg (not_not.2 hstate))),
      next_pump_congr ((State.txnRollback_of_owner hopen hidle hown).trans (if_neg (not_not.2 hstate)))⟩

/-- Settles O46, by what the image is read as. -/
theorem imagesAreStagedWhole : Obligations.ImagesAreStagedWhole := by
  intro s t finish
  have hread {got : Option (Nat × Bool)} {u : State} (hstate : s.cfg.txn.state = .staging) (hup : (s.face 0).up = true) (hok : s.cfg.txn.failed = false)
      (hlen : s.cfg.txn.length ≤ 2 ^ 26) (hgot : s.getBytes .stage t.addr t.length = got) (hu : s.stageOutcome got = u) :
      exec .stageDone s = .next (pump u) :=
    next_pump_congr ((State.stageDone_of_read hstate hup hok hlen).trans ((congrArg s.stageOutcome hgot).trans hu))
  exact ⟨fun h => next_pump_congr (State.stageDone_idle h), fun hstate h => next_pump_congr (State.stageDone_failed hstate h),
    fun hstate hup hok h => next_pump_congr (State.stageDone_of_long hstate hup hok h), fun hstate hup hok hlen =>
    ⟨fun h => hread hstate hup hok hlen h rfl, fun v h => hread hstate hup hok hlen h rfl,
      fun v r k h hcheck hr => hread hstate hup hok hlen h (State.stageOutcome_bad hcheck hr),
      fun v k h hcheck => hread hstate hup hok hlen h (State.stageOutcome_good hcheck)⟩⟩

/-- Settles O47: the outcome of a validation, and the switch where nothing holds it. -/
theorem switchesInstallTheStagedSections : Obligations.SwitchesInstallTheStagedSections := by
  intro s t new still
  refine ⟨fun h => next_pump_congr (State.validationDone_idle h), fun hstate hup h => next_pump_congr (State.validationDone_region hstate hup h),
    fun hstate hregion h howner => next_pump_congr ?_, fun hstate hup hregion h howner r key hv hr => next_pump_congr ?_,
    fun hstate hup hregion h howner hr => next_pump_congr ?_, fun hstate hup hregion h hv => ?_, fun hstate hsw htile hold hstill => ?_,
    fun h => next_pump_congr (State.advanceSwitch_other (s := s.retire) h), fun hstate hsw h => ⟨fun howner => next_pump_congr ?_, fun howner => next_pump_congr ?_⟩,
    fun hstate => next_pump_congr (congrArg _ (State.switchDone_other hstate))⟩
  · exact (State.validationDone_failed hstate hregion h).trans (State.validated_refused (by decide) howner)
  · rw [State.validationDone_checked hstate hup hregion h, hv]
    exact State.validated_refused hr howner
  · exact (State.validationDone_checked hstate hup hregion h).trans (State.validated_migration hr howner)
  · let w := s.upTxn (fun t => { t with state := .switching, switched := false })
    have hdone : s.validationDone = w.advanceSwitch := (State.validationDone_checked hstate hup hregion h).trans (if_pos hv)
    refine ⟨fun hepoch hstill => ⟨w.switchOver, next_pump_congr (hdone.trans (State.advanceSwitch_passes rfl rfl hepoch hstill)), rfl, w.switchOver_cfg.1,
      w.switchOver_cfg.2⟩, fun hwait => next_pump_congr (hdone.trans (State.advanceSwitch_waits rfl rfl hwait))⟩
  · have hepoch : s.retire.cfg.oldest = s.retire.cfg.epoch := by
      show max s.cfg.oldest s.oldestTile = s.cfg.epoch
      rw [htile]
      exact max_eq_right hold
    exact ⟨s.retire.switchOver, next_pump_congr (State.advanceSwitch_passes hstate hsw hepoch hstill), s.retire.switchOver_cfg.1, s.retire.switchOver_cfg.2⟩
  · exact congrArg State.resetsDue ((State.switchDone_done hstate hsw h).trans (if_neg howner))
  · exact congrArg State.resetsDue ((State.switchDone_done hstate hsw h).trans (if_pos howner))

/-- Settles O44, by the phase of the migration. -/
theorem migrationsCopySwitchAndRelease : Obligations.MigrationsCopySwitchAndRelease := by
  intro s
  refine ⟨fun h => next_pump_congr (State.migCopy_other h), fun b hphase hb hrows hacked => next_pump_congr (State.migCopy_acked hphase hb hrows hacked),
    fun h => next_congr (State.migrateSwitch_other h), fun hphase hidle hcommitted => ⟨fun m hm => next_congr ?_, fun hm => next_congr ?_⟩,
    fun h => next_pump_congr (State.migRelease_other h), fun hphase hkept h => next_pump_congr (State.migRelease_early hphase hkept h),
    fun b hphase hb hrows => ⟨fun hkept hlate => next_pump_congr ?_, fun hgone => next_pump_congr ?_⟩, fun p map shard hopen => next_congr ?_,
    fun p v hopen => ⟨fun hphase hp => next_pump_congr ?_, fun h => ⟨_, rfl, next_pump_congr ?_⟩⟩⟩
  · rw [State.migrateSwitch_due hphase hidle hcommitted, hm]
  · rw [State.migrateSwitch_due hphase hidle hcommitted, hm]
  · rw [State.migRelease_last hphase hb hrows (fun _ => hlate), if_neg (by simp [hkept])]
  · rw [State.migRelease_last hphase hb hrows (fun hkept => absurd (hkept.symm.trans hgone) (by decide)), if_pos hgone]
  · exact (State.inWindow_of_open hopen _).trans (s.migAccept_eq p map shard)
  · exact (State.inWindow_of_open hopen _).trans (if_pos (by simp [hphase, hp]))
  · refine (State.inWindow_of_open hopen _).trans ((if_neg ?_).trans ?_)
    · rcases h with h | h <;> simp [h]
    · dsimp only
      rw [if_pos (testBit_zero_or_one _), fld_31_9_or_one]
end

section
/-! SUPPORT. The decisions of migrations (R278 to R281, R338). -/

namespace Sys2Proof.Machine

/-! ### The rows of a decision -/

section
variable {s : State} {p bind shard : Nat} {m : ShardMap} {k : Policy}

theorem State.of_mem_chosenRows {r : Nat} (h : r ∈ s.chosenRows p bind shard m k) : (m.redirect? r).isNone = true ∧
    ∃ y ∈ s.sampleRead, y.row = r ∧ y.p = p ∧ y.bind = bind ∧ 2 ≤ y.count ∧ r / m.shardRows = shard := by
  obtain ⟨y, hy, rfl⟩ := List.mem_map.1 (List.mem_of_mem_take h)
  obtain ⟨hread, hsel⟩ := List.mem_filter.1 ((mem_sortBy _).1 hy)
  simp only [Bool.and_eq_true, beq_iff_eq, decide_eq_true_eq] at hsel
  obtain ⟨⟨⟨⟨hp, hbind⟩, hshard⟩, hcount⟩, hredirect⟩ := hsel
  exact ⟨hredirect, y, hread, rfl, hp, hbind, hcount, hshard⟩

theorem State.length_chosenRows_le : (s.chosenRows p bind shard m k).length ≤ min k.rowsMax (1024 - m.redirects.length) := List.length_take_le _ _

end

/-! ### The decision -/

/-- An accepted proposal of the shard waits for its decision. -/
def State.accepted (s : State) (p map shard : Nat) : Bool := (s.part p).mig.accepts.any (fun a => a == (map, shard, true))

/-- The shard has been hot for the hold time. -/
def State.hotDue (s : State) (p map shard : Nat) : Bool :=
  s.filters.any (fun x => x.p == p && x.map == map && x.shard == shard && x.hot && x.hotMs ≥ (policyOf s.cfg.live).holdMs)

theorem State.accepted_iff {s : State} {p map shard : Nat} : s.accepted p map shard = true ↔ (map, shard, true) ∈ (s.part p).mig.accepts := by
  simp [State.accepted]

theorem State.hotDue_iff {s : State} {p map shard : Nat} : s.hotDue p map shard = true ↔
    ∃ x ∈ s.filters, x.p = p ∧ x.map = map ∧ x.shard = shard ∧ x.hot = true ∧ (policyOf s.cfg.live).holdMs ≤ x.hotMs := by
  simp [State.hotDue, and_assoc]

/-- The acceptance or the hold time is spent. -/
def State.decisionSpent (s : State) (p map shard : Nat) : State :=
  if s.accepted p map shard then s.upPart p (fun x => { x with mig := { x.mig with accepts := x.mig.accepts.erase (map, shard, true) } })
  else { s with filters := s.filters.map (fun (x : Filter) => if x.p = p ∧ x.map = map ∧ x.shard = shard then { x with hotMs := 0 } else x) }

theorem State.decisionSpent_rest (s : State) (p map shard : Nat) : (s.decisionSpent p map shard).cfg = s.cfg ∧
    (s.decisionSpent p map shard).sampleRead = s.sampleRead ∧ (s.decisionSpent p map shard).mig = s.mig := by
  unfold State.decisionSpent
  split <;> exact ⟨rfl, rfl, rfl⟩

theorem State.decisionSpent_paused (s : State) (p map shard : Nat) : ((s.decisionSpent p map shard).part p).paused = (s.part p).paused := by
  unfold State.decisionSpent
  split
  · next h =>
    have hp : p < s.parts.length := by
      by_contra hlen
      have hpart : s.part p = {} := by
        unfold State.part
        rw [List.getD_eq_getElem?_getD, List.getElem?_eq_none (Nat.not_lt.1 hlen)]
        rfl
      rw [State.accepted_iff, hpart] at h
      exact absurd h List.not_mem_nil
    rw [State.part_upPart_same _ _ _ hp]
  · rfl

/-- MIGRATE_PROPOSAL: posted, and the proposal held. -/
def State.propose (s : State) (p map shard n : Nat) : State :=
  (s.upPart p (fun y => { y with mig := { y.mig with
    proposals := if y.mig.proposals.contains (map, shard) then y.mig.proposals else y.mig.proposals ++ [(map, shard)] } })).event p 0x000D (map * 65536 + shard) n

/-- The slots of pool entry `e` that a migration takes, none for a replica. -/
def State.poolTaken (s : State) (p n : Nat) : Option Nat → State
  | some e => s.upPart p (fun y => { y with mig := { y.mig with used := (y.mig.used + n) % 2 ^ 32, pool := y.mig.pool.modify e (fun q => { q with next := q.next + n }) } })
  | none => s

/-- A migration of rows to places starts. -/
def State.migBegin (s : State) (p map shard bind : Nat) (m : ShardMap) (b : Binding) (x : Shard) (rows : List Nat) (places : List (Nat × Nat)) (ent : Option Nat) : State :=
  State.migCopy { (s.poolTaken p rows.length ent).fresh with mig :=
    { phase := 1, p := p, map := map, shard := shard, bind := bind, replica := ent.isNone, id := (s.poolTaken p rows.length ent).nextId,
      rows := (rows.zip places).map (fun y => { row := y.1, old := eaAdd x.primary (y.1 % m.shardRows * b.stride), target := y.2.1, stack := y.2.2 }) } }

/-- What a decision does with its rows: `go` starts a migration where they have targets. -/
def State.decided (s : State) (go : Bool) (p map shard bind : Nat) (m : ShardMap) (b : Binding) (x : Shard) (rows : List Nat) : State :=
  if rows.isEmpty || (s.part p).paused.any (fun y => y.1 == bind) || s.mig.phase ≠ 0 then s else
  if go && (s.targets p b m x rows).isSome then
    match s.targets p b m x rows with
    | none => s
    | some (places, ent) => s.migBegin p map shard bind m b x rows places ent
  else s.propose p map shard (if (s.targets p b m x rows).isSome then rows.length else 0)

/-- The decision of a shard whose acceptance or hold time is spent; none where the configuration does not name the shard. -/
def State.decideShard (s : State) (go : Bool) (k : Policy) (p map shard : Nat) : State :=
  match shardMapOf s.cfg.live p map, soleBinding s.cfg.live p map with
  | some m, some bind =>
    match bindingOf s.cfg.live p bind, m.shards[shard]? with
    | some b, some x => s.decided go p map shard bind m b x (s.chosenRows p bind shard m k)
    | _, _ => s
  | _, _ => s

section
variable {s : State} {p map shard : Nat}

/-- No decision: nothing due, the partition in reset, or a drain that bars the start. -/
theorem State.migDecision_barred (h : (s.accepted p map shard = false ∧ s.hotDue p map shard = false) ∨ s.resetting p = true ∨
    (s.draining = true ∧ (s.accepted p map shard = true ∨ (policyOf s.cfg.live).auto.testBit p = true))) : s.migDecision p map shard = s := by
  refine if_pos ?_
  show ((!s.accepted p map shard && !s.hotDue p map shard) || s.resetting p || (s.draining && (s.accepted p map shard || _))) = true
  simpa [or_assoc] using h

theorem State.migDecision_due {bind : Nat} {m : ShardMap} {b : Binding} {x : Shard} (hdue : s.accepted p map shard = true ∨ s.hotDue p map shard = true)
    (hreset : s.resetting p = false) (hbar : ¬ (s.draining = true ∧ (s.accepted p map shard = true ∨ (policyOf s.cfg.live).auto.testBit p = true)))
    (hm : shardMapOf s.cfg.live p map = some m) (hbind : soleBinding s.cfg.live p map = some bind) (hb : bindingOf s.cfg.live p bind = some b)
    (hx : m.shards[shard]? = some x) : s.migDecision p map shard =
      (s.decisionSpent p map shard).decided (s.accepted p map shard || (policyOf s.cfg.live).auto.testBit p) p map shard bind m b x
        ((s.decisionSpent p map shard).chosenRows p bind shard m (policyOf s.cfg.live)) := by
  have hcond : ¬ (((!s.accepted p map shard && !s.hotDue p map shard) || s.resetting p ||
      (s.draining && (s.accepted p map shard || (policyOf s.cfg.live).auto.testBit p))) = true) := by
    rw [hreset, Bool.or_false, Bool.or_eq_true, Bool.and_eq_true, Bool.and_eq_true, Bool.or_eq_true, Bool.not_eq_true', Bool.not_eq_true']
    rintro (⟨ha, hd⟩ | h)
    · rcases hdue with h | h
      · exact Bool.false_ne_true (ha.symm.trans h)
      · exact Bool.false_ne_true (hd.symm.trans h)
    · exact hbar h
  have hcfg := (s.decisionSpent_rest p map shard).1
  rw [← hcfg] at hm hbind hb
  refine ((if_neg hcond).trans (b := (s.decisionSpent p map shard).decideShard (s.accepted p map shard || (policyOf s.cfg.live).auto.testBit p)
    (policyOf s.cfg.live) p map shard) rfl).trans ?_
  unfold State.decideShard
  rw [hm, hbind]
  dsimp only
  rw [hb, hx]

end

section
variable {s : State} {go : Bool} {p map shard bind : Nat} {m : ShardMap} {b : Binding} {x : Shard} {rows : List Nat}

theorem State.decided_nothing (h : rows = [] ∨ (∃ y ∈ (s.part p).paused, y.1 = bind) ∨ s.mig.phase ≠ 0) : s.decided go p map shard bind m b x rows = s :=
  if_pos (by simpa [or_assoc] using h)

section
variable (hrows : rows ≠ []) (hpaused : ∀ y ∈ (s.part p).paused, y.1 ≠ bind) (hphase : s.mig.phase = 0)
include hrows hpaused hphase

theorem State.decided_rows : s.decided go p map shard bind m b x rows = if go && (s.targets p b m x rows).isSome then
      match s.targets p b m x rows with
      | none => s
      | some (places, ent) => s.migBegin p map shard bind m b x rows places ent
    else s.propose p map shard (if (s.targets p b m x rows).isSome then rows.length else 0) := by
  refine if_neg ?_
  simpa [hrows, hphase] using ⟨fun h => hpaused (bind, false) h rfl, fun h => hpaused (bind, true) h rfl⟩

theorem State.decided_no_target (h : s.targets p b m x rows = none) : s.decided go p map shard bind m b x rows = s.propose p map shard 0 := by
  rw [State.decided_rows hrows hpaused hphase, h]
  simp

theorem State.decided_propose (hgo : go = false) (h : (s.targets p b m x rows).isSome) :
    s.decided go p map shard bind m b x rows = s.propose p map shard rows.length := by
  rw [State.decided_rows hrows hpaused hphase, if_neg (by simp [hgo]), if_pos h]

theorem State.decided_start {places : List (Nat × Nat)} {ent : Option Nat} (hgo : go = true) (h : s.targets p b m x rows = some (places, ent)) :
    s.decided go p map shard bind m b x rows = s.migBegin p map shard bind m b x rows places ent := by
  rw [State.decided_rows hrows hpaused hphase, h, hgo]
  rfl

end

end

end Sys2Proof.Machine

open Sys2Proof Sys2Proof.Machine

/-- Settles O43: what the acceptance or the hold time spent leaves decides over the rows it chooses. -/
theorem migrationsAreDecided : Obligations.MigrationsAreDecided := by
  intro s p map shard k accepted due barred
  have hacc : accepted ↔ s.accepted p map shard = true := State.accepted_iff.symm
  have hhot : due ↔ s.hotDue p map shard = true := State.hotDue_iff.symm
  have hno : ¬accepted ↔ s.accepted p map shard = false := by rw [hacc, Bool.not_eq_true]
  refine ⟨fun h => next_pump_congr (State.migDecision_barred ?_), fun h hreset hbar m bind b x hm hbind hb hx => ?_⟩
  · refine h.imp (fun h => ⟨hno.1 h.1, ?_⟩) (fun h => h.imp id fun h => ⟨h.1, h.2.imp hacc.1 id⟩)
    rw [← Bool.not_eq_true, ← hhot]
    exact h.2
  have hexec {t : State} (ht : _ = t) : exec (.migrateDecision p map shard) s = .next (pump t) :=
    next_pump_congr ((State.migDecision_due (h.imp hacc.1 hhot.1) hreset (fun hn => hbar ⟨hn.1, hn.2.imp hacc.2 id⟩) hm hbind hb hx).trans ht)
  obtain ⟨-, hread, hmig⟩ := s.decisionSpent_rest p map shard
  have hpaused := s.decisionSpent_paused p map shard
  refine ⟨s.decisionSpent p map shard, fun h => if_pos (hacc.1 h), fun h => ?_, ?_⟩
  · exact if_neg (by simp [hno.1 h])
  intro rows
  refine ⟨State.length_chosenRows_le.trans (min_le_left _ _), State.length_chosenRows_le.trans (min_le_right _ _), fun r hr => ?_,
    fun h => hexec (State.decided_nothing ?_), fun hrows hp hphase => ?_⟩
  · rw [← hread]
    exact State.of_mem_chosenRows hr
  · rw [hpaused, hmig]
    exact h
  rw [← hpaused] at hp
  rw [← hmig] at hphase
  refine ⟨fun h => ?_, fun ha hauto h => ?_, fun hgo places ent h => ?_⟩
  · exact hexec (State.decided_no_target hrows hp hphase h)
  · exact hexec (State.decided_propose hrows hp hphase (by rw [hno.1 ha, hauto]; rfl) h)
  · refine ⟨(s.decisionSpent p map shard).poolTaken p rows.length ent, fun he => ?_, fun e he => ?_, hexec (State.decided_start hrows hp hphase ?_ h)⟩
    · rw [he]
      rfl
    · rw [he]
      rfl
    · rw [Bool.or_eq_true]
      exact hgo.imp hacc.1 id
end

section
/-! SUPPORT. What an event leaves of the partitions: all but produced rings, misses and counters (R102, R121, R130, R318). -/

namespace Sys2Proof.Machine

/-- A partition without what queueing an event and writing records move. -/
def Part.core (x : Part) : Part := { x with cq := [], fq := {}, eq := {}, misses := 0, ctrs := [] }

/-- The partitions without what queueing an event moves. -/
def State.partCores (s : State) : List Part := s.parts.map Part.core

theorem State.length_parts_of_cores {s t : State} (h : t.partCores = s.partCores) : t.parts.length = s.parts.length := by
  simpa [State.partCores] using congrArg List.length h

theorem State.cores_upPart (s : State) (p : Nat) {g : Part → Part} (h : ∀ x, (g x).core = x.core) : (s.upPart p g).partCores = s.partCores :=
  modify_map_length _ _ _ _ h

theorem Part.core_upPq (x : Part) (r : Nat) (f : Pq → Pq) : (x.upPq r f).core = x.core := by
  unfold Part.upPq
  split
  · rfl
  · split <;> rfl

theorem State.cores_upPq (s : State) (p r : Nat) (f : Pq → Pq) : (s.upPq p r f).partCores = s.partCores := s.cores_upPart p fun x => x.core_upPq r f

theorem State.cores_countPart (s : State) (p i n : Nat) : (s.countPart p i n).partCores = s.partCores := s.cores_upPart p fun _ => rfl

/-! ### Translation -/

theorem State.parts_lookRange (s : State) (p tag page : Nat) : (s.lookRange p tag page).2.parts = s.parts := by
  unfold State.lookRange
  dsimp only
  split <;> rfl

theorem State.parts_walkStart (s : State) (p tag va : Nat) : (s.walkStart p tag va).1.parts = s.parts := by
  unfold State.walkStart
  dsimp only
  split <;> rfl

theorem State.parts_ask (s : State) (c : Consumer) (p : Nat) (bench : Option Nat) (face : Nat) (ls : List Nat) (space : Option Space) (age : Nat) :
    (s.ask c p bench face ls space age).parts = s.parts := by
  unfold State.ask
  dsimp only
  generalize runsOf _ = l
  induction l using List.reverseRecOn with
  | nil => rfl
  | append_singleton l a ih =>
    rw [List.foldl_append]
    exact ih

theorem State.parts_beginWalk {s t : State} {w : Walk} (h : s.beginWalk w = some t) : t.parts = s.parts := by
  unfold State.beginWalk State.askWalk at h
  dsimp only at h
  split at h
  · cases h
  · rw [← Option.some.inj h, State.parts_ask]
    exact s.parts_walkStart _ _ _

theorem State.cores_startWalk (s : State) (p addr : Nat) (write : Bool) (why : WalkFor) : (s.startWalk p addr write why).1.partCores = s.partCores := by
  have hmiss (t : State) : (t.upPart p (fun x => { x with misses := satAdd x.misses 1 0xFFFFFFFF })).partCores = t.partCores := t.cores_upPart p fun _ => rfl
  unfold State.startWalk
  dsimp only
  split
  · rfl
  split
  · exact hmiss _
  split
  · next h => exact (congrArg (List.map Part.core) (State.parts_beginWalk h)).trans (hmiss _)
  · exact hmiss _

theorem State.cores_xlate (s : State) (p addr : Nat) (write : Bool) (why : WalkFor) : (s.xlate p addr write why).1.partCores = s.partCores := by
  unfold State.xlate
  dsimp only
  split
  · rfl
  split <;> rename_i s1 h <;>
    have hlook : s1.partCores = s.partCores := by
      have hparts := s.parts_lookRange p (eaTag addr) (eaVa addr / 4096)
      rw [h] at hparts
      exact congrArg (List.map Part.core) hparts
  · split <;> exact hlook
  · split
    · split
      · exact hlook
      · exact (State.cores_startWalk _ _ _ _ _).trans hlook
    · exact (State.cores_startWalk _ _ _ _ _).trans hlook

/-! ### Records and events -/

theorem State.cores_scaleWritten (s : State) (p : Nat) (u : Option ScaleUpd) : (s.scaleWritten p u).partCores = s.partCores := by
  cases u <;> rfl

theorem State.cores_pumpOne (s : State) (p r : Nat) : (s.pumpOne p r).1.partCores = s.partCores := by
  unfold State.pumpOne
  dsimp only
  split
  · rfl
  split
  · rfl
  have h := s.cores_xlate p (eaAdd (s.pq p r).base (32 * (s.pq p r).tail)) true (.ring p r)
  split <;> rename_i e <;> rw [e] at h
  · exact h
  · exact h
  · exact (State.cores_scaleWritten _ _ _).trans ((State.cores_upPq _ _ _ _).trans h)

theorem State.cores_failEvents (s : State) (p cause : Nat) : (s.failEvents p cause).partCores = s.partCores :=
  (State.cores_countPart _ _ _ _).trans (State.cores_upPq _ _ _ _)

theorem State.cores_pumpEvents (s : State) (p n : Nat) : (s.pumpEvents p n).partCores = s.partCores := by
  induction n generalizing s with
  | zero => rfl
  | succ n ih =>
    unfold State.pumpEvents
    split
    · rfl
    have h := s.cores_pumpOne p 33
    split <;> rename_i e <;> rw [e] at h
    · split
      · exact (ih _).trans h
      · exact h
    · exact (State.cores_failEvents _ _ _).trans h

theorem State.cores_queueEvent (s : State) (p bytes : Nat) (now : Bool) : (s.queueEvent p bytes now).partCores = s.partCores := by
  unfold State.queueEvent
  dsimp only
  split
  · exact (State.cores_pumpEvents _ _ _).trans (State.cores_upPq _ _ _ _)
  · exact (State.cores_countPart _ _ _ _).trans (State.cores_upPq _ _ _ _)

theorem State.cores_event (s : State) (p code a0 a1 : Nat) : (s.event p code a0 a1).partCores = s.partCores := State.cores_queueEvent _ _ _ _

end Sys2Proof.Machine
end

section
/-! SUPPORT. Partition resets (R67, R94, R95): which orders a stop leaves, and what the last of a partition takes with it. -/

namespace Sys2Proof.Machine

/-! ### The orders that a state has, by their numbers -/

/-- The numbers of the orders that are live. -/
def State.ids (s : State) : List Nat := s.orders.map Order.id

theorem State.order?_isSome_iff {s : State} {i : Nat} : (s.order? i).isSome ↔ i ∈ s.ids := by
  simp [State.order?, State.ids]

theorem State.order?_eq_none_iff {s : State} {i : Nat} : s.order? i = none ↔ i ∉ s.ids := by
  rw [← State.order?_isSome_iff, Bool.not_eq_true, Option.isSome_eq_false_iff, Option.isNone_iff_eq_none]

/-- The numbers of the live orders and of the partitions: what no write moves. -/
def State.outline (s : State) : List Nat × Nat := (s.ids, s.parts.length)

theorem State.outline_iff {s : State} {l : List Nat} {n : Nat} : s.outline = (l, n) ↔ s.ids = l ∧ s.parts.length = n := Prod.mk_inj

theorem State.outline_eq {s t : State} (ho : t.orders = s.orders) (hp : t.parts.length = s.parts.length) : t.outline = s.outline :=
  Prod.ext (congrArg (List.map Order.id) ho) hp

theorem State.outline_foldl {α : Type} {g : State → α → State} (h : ∀ s a, (g s a).outline = s.outline) (l : List α) (s : State) :
    (l.foldl g s).outline = s.outline := by
  induction l generalizing s with
  | nil => rfl
  | cons a l ih => exact (ih _).trans (h s a)

theorem State.outline_upPart (s : State) (p : Nat) (g : Part → Part) : (s.upPart p g).outline = s.outline := State.outline_eq rfl (List.length_modify _ _ _)

theorem State.outline_upOrder (s : State) (o : Nat) {f : Order → Order} (h : ∀ x, (f x).id = x.id) : (s.upOrder o f).outline = s.outline := by
  refine Prod.ext ?_ rfl
  show (s.orders.map _).map Order.id = s.orders.map Order.id
  rw [List.map_map]
  refine List.map_congr_left fun x _ => ?_
  show (if x.id = o then f x else x).id = x.id
  split
  · exact h x
  · rfl

theorem State.outline_endOrder (s : State) (o status detail : Nat) : (s.endOrder o status detail).outline = s.outline := by
  unfold State.endOrder
  split
  · rfl
  · split
    · rfl
    · exact s.outline_upOrder o fun _ => rfl

theorem State.outline_event (s : State) (p code a0 a1 : Nat) : (s.event p code a0 a1).outline = s.outline :=
  State.outline_eq (event_posts s p code a0 a1).orders (State.length_parts_of_cores (s.cores_event p code a0 a1))

/-! ### A write leaves the orders as they are, but for the status of those whose line is lost -/

theorem State.outline_foldl_upBench (l : List Nat) (g : Bench → Bench) (s : State) : (l.foldl (fun s b => s.upBench b g) s).outline = s.outline := by
  rw [State.foldl_upBench_rest]
  rfl

theorem State.outline_passReads (s : State) (p line : Nat) (w : Passed) : (s.passReads p line w).outline = s.outline := rfl

theorem State.outline_postLine (s : State) (own : WriteFor) (p face line : Nat) (mask : BitVec 128) (bytes : Line) (poison : Bool)
    (intr : Option (Nat × Bool)) (space : Option Space) (also : List WriteFor) (bench : Option Nat) :
    (s.postLine own p face line mask bytes poison intr space also bench).outline = s.outline := rfl

theorem State.outline_sendLine (s : State) (owns : List WriteFor) (p : Nat) (via : Via) (line : Nat) (mask : BitVec 128) (bytes : Line) (poison : Bool) :
    (s.sendLine owns p via line mask bytes poison).outline = s.outline := by
  unfold State.sendLine
  dsimp only
  split
  · refine (State.outline_foldl (fun s b => ?_) _ _).trans ?_
    · split
      · rfl
      · split <;> rfl
    · rw [State.outline_passReads, State.outline_postLine]
  · rw [State.outline_postLine]

theorem State.outline_lineLost (s : State) (p line : Nat) (bytes : Line) (more : List WriteFor) (at_ : Nat) :
    (s.lineLost p line bytes more at_).outline = s.outline := by
  unfold State.lineLost
  dsimp only
  refine (State.outline_foldl (fun s w => ?_) _ _).trans ?_
  · cases w with
    | rowOf => exact State.outline_endOrder ..
    | _ => rfl
  refine (State.outline_foldl (fun s x => ?_) _ _).trans ?_
  · exact State.outline_event _ _ _ _ _
  · exact (State.outline_upPart _ p _).trans ((State.outline_sendLine ..).trans (State.outline_foldl_upBench _ _ s))

theorem State.outline_issueLine (s : State) (owns : List WriteFor) (p : Nat) (via : Via) (line : Nat) (mask : BitVec 128) (bytes : Line) (poison : Bool) :
    (s.issueLine owns p via line mask bytes poison).outline = s.outline := by
  unfold State.issueLine
  split
  · exact State.outline_lineLost ..
  · exact State.outline_sendLine ..

theorem State.outline_flushEntry (s : State) (b : Nat) (e : WcEnt) : (s.flushEntry b e).outline = s.outline := (State.outline_issueLine ..).trans rfl

theorem State.outline_flushOrder (s : State) (o : Nat) : (s.flushOrder o).outline = s.outline :=
  State.outline_foldl (fun s b => State.outline_foldl (fun s e => s.outline_flushEntry b e) _ s) _ s

theorem State.outline_untrackDone (s : State) (p o bind row : Nat) : (s.untrackDone p o bind row).outline = s.outline := by
  unfold State.untrackDone
  split
  · rfl
  · exact s.outline_upPart p _

/-! ### Orders that stop -/

theorem State.outline_removeOrder (s : State) (o : Order) : (s.removeOrder o).outline = (s.ids.filter (fun i => i != o.id), s.parts.length) := by
  refine Prod.ext ?_ rfl
  show (s.orders.filter (fun x => x.id != o.id)).map Order.id = (s.orders.map Order.id).filter _
  rw [List.filter_map]
  rfl

theorem State.outline_stopOrder (s : State) (o : Order) : (s.stopOrder o).outline = (s.ids.filter (fun i => i != o.id), s.parts.length) := by
  refine (State.outline_foldl (fun s _ => s.outline_untrackDone _ _ _ _) _ _).trans ((State.outline_removeOrder _ o).trans ?_)
  obtain ⟨hids, hlen⟩ := State.outline_iff.1 (s.outline_flushOrder o.id)
  rw [hids, hlen]

theorem State.mem_ids_foldl_stopOrder {l : List Order} {s : State} {i : Nat} :
    i ∈ (l.foldl (fun s o => s.stopOrder o) s).ids ↔ i ∈ s.ids ∧ ∀ o ∈ l, i ≠ o.id := by
  induction l generalizing s with
  | nil => simp
  | cons o l ih =>
    rw [List.foldl_cons, ih, (State.outline_iff.1 (s.outline_stopOrder o)).1, List.mem_filter, List.forall_mem_cons, bne_iff_ne, and_assoc]

theorem State.mem_ids_stopOrders {s : State} {p i : Nat} : i ∈ (s.stopOrders p).ids ↔ i ∈ s.ids ∧ ∀ o ∈ s.orders, o.p = p → o.underWay = false → i ≠ o.id := by
  refine State.mem_ids_foldl_stopOrder.trans (and_congr Iff.rfl ?_)
  simp only [State.liveOf, List.mem_filter, beq_iff_eq, Bool.not_eq_true', and_imp]

theorem State.length_parts_foldl_stopOrder {l : List Order} {s : State} : (l.foldl (fun s o => s.stopOrder o) s).parts.length = s.parts.length := by
  induction l generalizing s with
  | nil => rfl
  | cons o l ih => rw [List.foldl_cons, ih, (State.outline_iff.1 (s.outline_stopOrder o)).2]

theorem State.length_parts_stopOrders (s : State) (p : Nat) : (s.stopOrders p).parts.length = s.parts.length := State.length_parts_foldl_stopOrder

/-! ### PART_RESET -/

theorem State.resetTxn_rest (s : State) (p : Nat) : s.resetTxn p = { s with reads := (s.resetTxn p).reads, held := (s.resetTxn p).held, cfg := (s.resetTxn p).cfg } := by
  unfold State.resetTxn
  split <;> rfl

theorem State.resetTxn_idle {s : State} {p : Nat} (howner : s.cfg.txn.owner = p) (h : s.cfg.txn.state ≠ .switching) : (s.resetTxn p).cfg.txn.state = .idle := by
  unfold State.resetTxn
  split
  · rfl
  · next hn => simpa [howner, h] using hn

theorem State.dropKettleTxn_rest (s : State) : s.dropKettleTxn = { s with cfg := s.dropKettleTxn.cfg } := by
  unfold State.dropKettleTxn
  split <;> rfl

theorem State.dropKettleTxn_idle {s : State} (h : s.cfg.txn.state = .idle) : s.dropKettleTxn.cfg.txn.state = .idle := by
  unfold State.dropKettleTxn
  split
  · rfl
  · exact h

theorem State.dropMig_rest (s : State) (p : Nat) :
    s.dropMig p = { s with reads := (s.dropMig p).reads, held := (s.dropMig p).held, cfg := (s.dropMig p).cfg, mig := (s.dropMig p).mig } := by
  unfold State.dropMig
  split
  · rw [State.dropKettleTxn_rest]
    rfl
  · rfl

theorem State.dropMig_idle {s : State} {p : Nat} (h : s.cfg.txn.state = .idle) : (s.dropMig p).cfg.txn.state = .idle := by
  unfold State.dropMig
  split
  · exact State.dropKettleTxn_idle (s := s.quitMig) h
  · exact h

theorem State.dropMig_phase {s : State} {p : Nat} (h : s.mig.p = p) : (s.dropMig p).mig.phase = 0 := by
  unfold State.dropMig
  split
  · rfl
  · next hn => simpa [h] using hn

/-- The state at a partition reset before its combined writes are sent: its registers, its transaction, its migration and what it waits for. -/
def State.resetStopped (s : State) (p : Nat) : State :=
  let s1 := (((s.resetTxn p).dropMig p).quitPart p).clearWindow p
  s1.upPart p (fun x => { txnEpoch := x.txnEpoch, busy := true, chest := x.chest, roots := x.roots, tracks := x.tracks.filter (fun t => s1.orders.any (fun o => o.id == t.order)) })

theorem State.beginPartReset_eq (s : State) (p : Nat) : s.beginPartReset p =
    (((s.resetStopped p).partBenches p).foldl State.flushWc (s.resetStopped p)).stopOrders p := rfl

theorem State.resetStopped_cfg (s : State) (p : Nat) : (s.resetStopped p).cfg = ((s.resetTxn p).dropMig p).cfg := by
  simp only [State.resetStopped, State.upPart_cfg, State.clearWindow, State.quitPart, State.quitWhere_cfg]

theorem State.resetStopped_mig (s : State) (p : Nat) : (s.resetStopped p).mig = ((s.resetTxn p).dropMig p).mig := by
  simp only [State.resetStopped, State.upPart_mig, State.clearWindow, State.quitPart, State.quitWhere_mig]

theorem State.resetStopped_rest (s : State) (p : Nat) : s.resetStopped p = { s with
    parts := (s.resetStopped p).parts, reads := (s.resetStopped p).reads, held := (s.resetStopped p).held, cfg := (s.resetStopped p).cfg,
    mig := (s.resetStopped p).mig, filters := (s.resetStopped p).filters, latches := (s.resetStopped p).latches } := by
  unfold State.resetStopped
  dsimp only
  rw [State.dropMig_rest, s.resetTxn_rest]
  rfl

theorem State.resetStopped_parts (s : State) (p : Nat) : ∃ tracks : Part → List Track, (s.resetStopped p).parts = (s.upPart p (fun x =>
    { txnEpoch := x.txnEpoch, busy := true, chest := x.chest, roots := x.roots, tracks := tracks x })).parts := by
  unfold State.resetStopped
  dsimp only
  rw [State.dropMig_rest, s.resetTxn_rest]
  exact ⟨_, rfl⟩

theorem State.part_resetStopped_same {s : State} {p : Nat} (hp : p < s.parts.length) : (s.resetStopped p).part p =
    { txnEpoch := (s.part p).txnEpoch, busy := true, chest := (s.part p).chest, roots := (s.part p).roots, tracks := ((s.resetStopped p).part p).tracks } := by
  obtain ⟨tracks, htracks⟩ := s.resetStopped_parts p
  have hpart : (s.resetStopped p).part p = _ := (congrArg (fun l : List Part => l.getD p {}) htracks).trans (s.part_upPart_same p _ hp)
  rw [hpart]

theorem State.part_resetStopped_other {s : State} {p q : Nat} (hq : q ≠ p) : (s.resetStopped p).part q = s.part q := by
  obtain ⟨tracks, htracks⟩ := s.resetStopped_parts p
  exact (congrArg (fun l : List Part => l.getD q {}) htracks).trans (s.part_upPart_other p q _ hq.symm)

theorem resetStopped_same (s : State) (p : Nat) : Same s (s.resetStopped p) :=
  upPart_same _ _ _ (clearWindow_same _ _ (quitPart_same _ _ (dropMig_same _ _ (resetTxn_same _ _ (Same.refl s)))))

/-! ### PART_RESET_DONE -/

theorem State.bench_clearPart {s : State} {p b : Nat} (hb : b ∈ s.partBenches p) : (s.clearPart p).bench b = { (s.bench b).emptied with array := none } := by
  unfold State.clearPart State.bench
  dsimp only [State.upPart]
  rw [List.getD_eq_getElem?_getD, List.getD_eq_getElem?_getD, List.getElem?_map, List.getElem?_zipIdx]
  show ((s.benches[b]?.map (fun a => (a, 0 + b))).map _).getD ({} : Bench) = _
  cases s.benches[b]? with
  | none => rfl
  | some y => exact if_pos (by simpa using hb)

section
variable {s : State} {p : Nat}

theorem State.partReset_refused (h : s.windowOpen p = false ∨ s.rstDie.isSome) : s.partReset p = s := if_pos (by simpa using h)

section
variable (hopen : s.windowOpen p = true) (hdie : s.rstDie = none)
include hopen hdie

theorem State.partReset_switching (howner : s.cfg.txn.owner = p) (hstate : s.cfg.txn.state = .switching) :
    s.partReset p = s.upPart p (fun x => { x with busy := true, done := false, resetDue := true }) :=
  (if_neg (by simp [hopen, hdie])).trans (if_pos (by simp [howner, hstate]))

theorem State.partReset_begins (h : ¬(s.cfg.txn.owner = p ∧ s.cfg.txn.state = .switching)) : s.partReset p = s.beginPartReset p :=
  (if_neg (by simp [hopen, hdie])).trans (if_neg (by simpa using h))

end

theorem State.partResetDone_idle (h : s.resetting p = false) : s.partResetDone p = s := if_pos (by simp [h])

theorem State.liveOf_isEmpty : (s.liveOf p).isEmpty = true ↔ ∀ o ∈ s.orders, o.p ≠ p := by simp [State.liveOf]

section
variable (h : s.resetting p = true)
include h

theorem State.partResetDone_live (hlive : ∃ o ∈ (s.stopOrders p).orders, o.p = p) : s.partResetDone p = s.stopOrders p := by
  refine (if_neg (by simp [h])).trans (if_pos ?_)
  rw [Bool.not_eq_true', ← Bool.not_eq_true, State.liveOf_isEmpty]
  exact fun hall => hlive.elim fun o ho => hall o ho.1 ho.2

theorem State.partResetDone_over (hnone : ∀ o ∈ (s.stopOrders p).orders, o.p ≠ p) : s.partResetDone p =
    if ((s.stopOrders p).dropPartTranslations p).inFlight p then (s.stopOrders p).dropPartTranslations p
    else ((s.stopOrders p).dropPartTranslations p).clearPart p :=
  (if_neg (by simp [h])).trans (if_neg (by simp [State.liveOf_isEmpty.2 hnone]))

end

end

/-- What the last of a partition leaves alone. -/
theorem State.clearPart_rest (s : State) (p : Nat) : (s.clearPart p).orders = s.orders ∧ (s.clearPart p).cfg = s.cfg ∧
    (s.clearPart p).ctxs = s.ctxs.filter (fun c => c.p != p) ∧ (s.clearPart p).writes = s.writes := ⟨rfl, rfl, rfl, rfl⟩

theorem State.clearPart_parts (s : State) (p : Nat) :
    (s.clearPart p).parts = (s.upPart p (fun x => { txnEpoch := x.txnEpoch, done := true })).parts := rfl

theorem State.clearPart_translations {s : State} {p : Nat} : (∀ x ∈ (s.clearPart p).ranges, x.2.part ≠ p) ∧ (∀ x ∈ (s.clearPart p).dirs, x.2.part ≠ p) ∧
    (∀ w ∈ (s.clearPart p).walks, w.part ≠ p) :=
  ⟨fun _ hx => by simpa using (List.mem_filter.1 hx).2, fun _ hx => by simpa using (List.mem_filter.1 hx).2, fun _ hw => by simpa using (List.mem_filter.1 hw).2⟩

theorem State.clearPart_reads {s : State} {p : Nat} {r : ReadReq} (h : r ∈ (s.clearPart p).reads) : ∃ x ∈ s.reads, x.part = r.part := by
  obtain ⟨x, hx, rfl⟩ := List.mem_map.1 h
  exact ⟨x, List.mem_of_mem_filter hx, rfl⟩

theorem State.dropPartTranslations_rest (s : State) (p : Nat) : (s.dropPartTranslations p).parts = s.parts ∧ (s.dropPartTranslations p).orders = s.orders ∧
    (s.dropPartTranslations p).cfg = s.cfg ∧ (s.dropPartTranslations p).ctxs = s.ctxs := ⟨rfl, rfl, rfl, rfl⟩

end Sys2Proof.Machine

open Sys2Proof Sys2Proof.Machine

/-- Settles O38: a stop keeps the numbers of the orders that have a tile under way, and no transfer of the partition is left when it is cleared. -/
theorem partitionResetClears : Obligations.PartitionResetClears := by
  intro s p
  refine ⟨fun h => next_pump_congr (State.partReset_refused h),
    fun hopen hdie howner hstate => next_pump_congr (State.partReset_switching hopen hdie howner hstate), fun hopen hdie hn => ?_,
    fun h => next_pump_congr (congrArg _ (State.partResetDone_idle h)), fun h => ?_⟩
  · have hpart := State.partReset_begins hopen hdie hn
    have hsame := resetStopped_same s p
    refine ⟨s.resetStopped p, _, _, next_pump_congr (hpart.trans (s.beginPartReset_eq p)), rfl, rfl, s.resetStopped_rest p, State.part_resetStopped_same,
      fun q hq => State.part_resetStopped_other hq, fun howner => ?_, fun c hc => ?_, fun hp => ?_, fun x hx hxp hwork => ?_, fun i hi hnot => ?_⟩
    · rw [State.resetStopped_cfg]
      exact State.dropMig_idle (State.resetTxn_idle howner fun hstate => hn ⟨howner, hstate⟩)
    · subst hc
      exact ⟨hsame.live, hsame.epoch⟩
    · rw [State.resetStopped_mig]
      refine State.dropMig_phase ?_
      rw [s.resetTxn_rest]
      exact hp
    · rw [State.order?_eq_none_iff, State.mem_ids_stopOrders]
      exact fun hmem => hmem.2 x hx hxp hwork rfl
    · rw [State.order?_isSome_iff, State.mem_ids_stopOrders]
      exact ⟨State.order?_isSome_iff.1 hi, fun o ho hop hwork heq => hnot o ho hop hwork heq.symm⟩
  · intro u v
    have hdone {t : State} (ht : s.partResetDone p = t) : exec (.partResetDone p) s = .next (pump t.grantWalks) := next_pump_congr (congrArg _ ht)
    obtain ⟨hparts, horders, hcfg, hctxs⟩ := u.dropPartTranslations_rest p
    refine ⟨fun hlive => hdone (State.partResetDone_live h hlive), fun hnone hfly => hdone ((State.partResetDone_over h hnone).trans (if_pos hfly)),
      fun hnone hfly => ?_⟩
    obtain ⟨torders, tcfg, tctxs, twrites⟩ := v.clearPart_rest p
    obtain ⟨hranges, hdirs, hwalks⟩ := State.clearPart_translations (s := v) (p := p)
    obtain ⟨hreads, hwrites⟩ := Bool.or_eq_false_iff.1 hfly
    refine ⟨v.clearPart p, hdone ((State.partResetDone_over h hnone).trans (if_neg (ne_true_of_eq_false hfly))), fun hp => ?_, fun q hq => ?_,
      tctxs.trans (congrArg _ hctxs), torders.trans horders, hranges, hdirs, hwalks, fun b hb => ?_, fun r hr => ?_, fun w hw => ?_, tcfg.trans hcfg⟩
    · have hlen : p < v.parts.length := by
        rw [hparts, s.length_parts_stopOrders p]
        exact hp
      have hpart : (v.clearPart p).part p = _ := (congrArg (fun l : List Part => l.getD p {}) (v.clearPart_parts p)).trans (v.part_upPart_same p _ hlen)
      rw [hpart]
    · exact (congrArg (fun l : List Part => l.getD q {}) (v.clearPart_parts p)).trans (v.part_upPart_other p q _ hq.symm)
    · rw [State.bench_clearPart (show b ∈ v.partBenches p from hb)]
      exact ⟨rfl, rfl, rfl, rfl⟩
    · obtain ⟨x, hx, hpart⟩ := State.clearPart_reads hr
      rw [← hpart]
      simpa using List.any_eq_false.1 hreads x hx
    · rw [twrites] at hw
      simpa using List.any_eq_false.1 hwrites w hw
end

section
/-! SUPPORT. Sessions warm, steep, leave and are parked (R78 to R93); the control orders at their action (R70, R88, R89, R119 to R121, R133, R317). -/

namespace Sys2Proof.Machine

/-! ### The least of a list -/

/-- The first of the least, found from the front, is of the list and least. -/
theorem foldl_least {α : Type} {k : α → Nat} (l : List α) (c : α) :
    l.foldl (fun m y => if k y < k m then y else m) c ∈ c :: l ∧ ∀ d ∈ c :: l, k (l.foldl (fun m y => if k y < k m then y else m) c) ≤ k d := by
  induction l generalizing c with
  | nil => simp
  | cons a l ih =>
    rw [List.foldl_cons]
    obtain ⟨hmem, hle⟩ := ih (if k a < k c then a else c)
    have hhead := hle _ List.mem_cons_self
    refine ⟨?_, fun d hd => ?_⟩
    · rcases List.mem_cons.1 hmem with h | h
      · rw [h]
        split <;> simp
      · simp [h]
    · rcases List.mem_cons.1 hd with rfl | hd
      · refine hhead.trans ?_
        split <;> omega
      · rcases List.mem_cons.1 hd with rfl | hd
        · refine hhead.trans ?_
          split <;> omega
        · exact hle d (List.mem_cons_of_mem _ hd)

/-! ### Steeping -/

section
variable {s : State} {p n : Nat} {c : Ctx} (hc : s.ctx? p n = some c)
include hc

theorem State.sessionSteeping_stays (h : c.state ≠ .warming ∨ s.benchReady c.home = false ∨ s.resetting p = true ∨ (c.contextIn = false ∧ s.cupFor p = false)) :
    s.sessionSteeping p n = s := by
  unfold State.sessionSteeping
  rw [hc]
  refine if_pos ?_
  rcases h with h | h | h | h <;> simp [h]

theorem State.sessionSteeping_moves (hstate : c.state = .warming) (hready : s.benchReady c.home = true) (hreset : s.resetting p = false)
    (h : c.contextIn = true ∨ s.cupFor p = true) :
    s.sessionSteeping p n = ((if c.contextIn then s else { s with cupTurn := p }).upCtx p n (fun c => { c with contextIn := true })).maybeSteep p n := by
  unfold State.sessionSteeping
  rw [hc]
  refine if_neg ?_
  rcases h with h | h <;> simp [hstate, hready, hreset, h]

theorem State.maybeSteep_stays (h : c.contextIn = false ∨ s.stage3Done c = false) : s.maybeSteep p n = s := by
  unfold State.maybeSteep
  rw [hc]
  refine if_pos ?_
  rcases h with h | h <;> simp [h]

theorem State.maybeSteep_steeps (hstate : c.state = .warming) (hin : c.contextIn = true) (hdone : s.stage3Done c = true) (hdrain : s.draining = false) :
    s.maybeSteep p n = s.fresh.upCtx p n (fun c => { c with state := .steeping, lastChange := s.clk.count, steepSince := s.nextId }) := by
  unfold State.maybeSteep
  rw [hc]
  refine (if_neg (by simp [hstate, hin, hdone])).trans (if_neg ?_)
  rw [Bool.and_eq_true]
  exact fun h => Bool.false_ne_true (hdrain.symm.trans h.1)

theorem State.hintIdle_hinted (hhint : c.hinted = true) (hstate : c.state = .steeping) (hidle : s.sessionOrders p n = []) (hreset : s.resetting p = false) :
    s.hintIdle p n = (s.upCtx p n (fun c => { c with hinted := false })).serve p := by
  unfold State.hintIdle
  rw [hc]
  exact if_pos (by simp [hhint, hstate, hidle, hreset])

theorem State.hintIdle_stays (h : c.hinted = false ∨ c.state ≠ .steeping ∨ s.sessionOrders p n ≠ [] ∨ s.resetting p = true) : s.hintIdle p n = s := by
  unfold State.hintIdle
  rw [hc]
  refine if_neg ?_
  rcases h with h | h | h | h <;> simp [h]

end

theorem State.cupFor_iff {s : State} {p : Nat} : s.cupFor p = true ↔
    ∀ c ∈ s.ctxs, s.moveReady c = true → (p + 8 - s.cupTurn - 1) % 8 ≤ (c.p + 8 - s.cupTurn - 1) % 8 := by
  simp only [State.cupFor, Bool.not_eq_true', List.any_eq_false, Bool.and_eq_true, decide_eq_true_eq]
  exact forall₂_congr fun c _ => ⟨fun h hm => Nat.not_lt.1 fun hl => h ⟨hl, hm⟩, fun h hm => Nat.not_lt.2 (h hm.2) hm.1⟩

/-! ### The slice -/

/-- The contexts that an expired slice may take. -/
def State.preemptible (s : State) (p : Nat) : List Ctx :=
  s.ctxs.filter (fun c => c.p == p && c.state == .steeping && !(s.sessionOrders p c.session).any (fun o => o.op == 0x04 || o.op == 0x05))

theorem State.mem_preemptible {s : State} {p : Nat} {c : Ctx} : c ∈ s.preemptible p ↔
    c ∈ s.ctxs ∧ c.p = p ∧ c.state = .steeping ∧ ∀ o ∈ s.orders, o.p = p → o.session = c.session → o.op ≠ 0x04 ∧ o.op ≠ 0x05 := by
  simp only [State.preemptible, State.sessionOrders, List.mem_filter, Bool.and_eq_true, beq_iff_eq, Bool.not_eq_true', List.any_eq_false, Bool.or_eq_true,
    not_or, and_imp, and_assoc]

theorem State.sliceExpire_stays {s : State} {p : Nat} (h : (s.part p).waits = [] ∨ (s.part p).slice = 0 ∨ s.freeSlot p = true ∨ s.resetting p = true) :
    s.sliceExpire p = s := by
  refine if_pos ?_
  rcases h with h | h | h | h <;> simp [h]

theorem State.sliceExpire_expires {s : State} {p : Nat} (hwaits : (s.part p).waits ≠ []) (hslice : (s.part p).slice ≠ 0) (hfree : s.freeSlot p = false)
    (hreset : s.resetting p = false) : s.sliceExpire p = match s.preemptible p with
      | [] => s
      | c :: rest => s.leaveSlot p (rest.foldl (fun m y => if y.steepSince < m.steepSince then y else m) c).session 1 :=
  (if_neg (by simp [hwaits, hslice, hfree, hreset])).trans rfl

/-! ### SESSION_PARKED -/

section
variable {s : State} {p n : Nat} {c : Ctx} (hc : s.ctx? p n = some c)
include hc

theorem State.sessionParked_stays (h : c.state ≠ .leaving ∨ s.resetting p = true ∨
    ∃ o ∈ s.sessionOrders p n, o.phase = .ending ∨ (o.stopping = true ∧ o.status = none)) : s.sessionParked p n = s := by
  unfold State.sessionParked
  rw [hc]
  refine if_pos ?_
  rcases h with h | h | ⟨o, ho, h⟩
  · simp [h]
  · simp [h]
  · have hany : (s.sessionOrders p n).any (fun o => o.phase == .ending || (o.stopping && o.status.isNone)) = true := by
      refine List.any_eq_true.2 ⟨o, ho, ?_⟩
      rcases h with h | h <;> simp [h]
    rw [hany, Bool.or_true]

/-- A leaving session without an order that runs or is halted. -/
theorem State.sessionParked_empty (hstate : c.state = .leaving) (hreset : s.resetting p = false)
    (horders : ∀ o ∈ s.sessionOrders p n, o.phase ≠ .ending ∧ (o.stopping = false ∨ o.status.isSome = true)) (hrun : s.runningOf p n = none)
    (hsave : s.savePending p n = false) (hpre : c.preemptOrder = none) : s.sessionParked p n =
      if s.cupFor p then ((({ s with cupTurn := p }.rewindOthers p n s.nextId).dropSlot p n).releaseIf p n).serve p else s := by
  have hnone : (s.sessionOrders p n).any (fun o => o.phase == .ending || (o.stopping && o.status.isNone)) = false := by
    refine List.any_eq_false.2 fun o ho => ?_
    obtain ⟨hend, hstop⟩ := horders o ho
    rw [Option.isSome_iff_ne_none] at hstop
    rcases hstop with hstop | hstop <;> simp [hend, hstop]
  unfold State.sessionParked
  rw [hc]
  dsimp only
  rw [if_neg (by simp [hstate, hreset, hnone]), hrun]
  dsimp only
  rw [hc, hsave, Option.bind_some, hpre]
  by_cases hcup : s.cupFor p = true
  · rw [if_neg (by simp [hcup]), if_pos hcup]
    rfl
  · rw [if_pos (by simp [hcup]), if_neg hcup]

/-- A leaving session that gives its slot up. -/
theorem State.ctx?_dropSlot (hstate : c.state = .leaving) : (s.dropSlot p n).ctx? p n = some { c with
    state := .parked, home := 0xFF, tiles := [], cleared := [], contextIn := false, wakeOrder := none, hinted := false, lastChange := s.clk.count, ctrs := bump c.ctrs 10 1 } := by
  have hcount : (s.countSess p n 11 1).ctx? p n = some { c with ctrs := bump c.ctrs 10 1 } :=
    (ctx?_upCtx_self s p n (fun c => { c with ctrs := bump c.ctrs 10 1 }) fun _ => ⟨rfl, rfl⟩).trans (congrArg _ hc)
  unfold State.dropSlot
  rw [if_pos (by simp [hc, hstate])]
  exact (ctx?_upCtx_self (s.countSess p n 11 1) p n (fun c => { c with
    state := .parked, home := 0xFF, tiles := [], cleared := [], contextIn := false, wakeOrder := none, hinted := false, lastChange := s.clk.count })
    fun _ => ⟨rfl, rfl⟩).trans (congrArg _ hcount)

end

/-! ### WAKE -/

section
variable {s : State} {o : Order}

/-- A WAKE at its action. -/
theorem State.wake_ready (ho : s.order? o.id = some o) (hname : o.name = some .wake) (hready : s.controlReady o = true) :
    s.wake o.id = match s.ctx? o.p o.session with
      | none => if (o.f 24 1).testBit 0 then
          (if (s.part o.p).waits.any (fun w => w.wake == some o.id) then s else if s.freeSlot o.p then s.wakeNow o
            else if s.canWake o.p then (s.upPart o.p (fun x => { x with waits := x.waits ++ [⟨o.session, none, false, some o.id⟩] })).serve o.p
            else s.endOrder o.id 0x21 7)
        else s.endOrder o.id 0x3F 4
      | some c => match c.state with
        | .warming | .steeping => s.act o.id
        | .leaving => s
        | .parked => if (s.part o.p).waits.any (fun w => w.wake == some o.id) then s else if s.freeSlot o.p then s.wakeNow o
            else if s.canWake o.p then (s.upPart o.p (fun x => { x with waits := x.waits ++ [⟨o.session, none, false, some o.id⟩] })).serve o.p
            else s.endOrder o.id 0x21 7 := by
  unfold State.wake
  rw [ho]
  refine (if_neg (by simp [hname, hready])).trans ?_
  rfl

/-- A WAKE of a parked session, or one that creates its session, with no wait of its own. -/
theorem State.wake_takes (ho : s.order? o.id = some o) (hname : o.name = some .wake) (hready : s.controlReady o = true)
    (hsess : (∃ c, s.ctx? o.p o.session = some c ∧ c.state = .parked) ∨ (s.ctx? o.p o.session = none ∧ (o.f 24 1).testBit 0 = true))
    (hwait : ∀ w ∈ (s.part o.p).waits, w.wake ≠ some o.id) : s.wake o.id = if s.freeSlot o.p then s.wakeNow o
      else if s.canWake o.p then (s.upPart o.p (fun x => { x with waits := x.waits ++ [⟨o.session, none, false, some o.id⟩] })).serve o.p
      else s.endOrder o.id 0x21 7 := by
  have hnowait : ¬ ((s.part o.p).waits.any (fun w => w.wake == some o.id) = true) := by simpa using hwait
  rw [State.wake_ready ho hname hready]
  rcases hsess with ⟨c, hc, hstate⟩ | ⟨hc, hcreate⟩
  · rw [hc]
    dsimp only
    rw [hstate]
    exact if_neg hnowait
  · rw [hc]
    exact (if_pos hcreate).trans (if_neg hnowait)

theorem State.wakeNow_wakes {c : Ctx} (hc : s.ctx? o.p o.session = some c) : s.wakeNow o = (s.startWarm o.p o.session none false).act o.id := by
  have hcreate : ((o.f 24 1).testBit 0 && (s.ctx? o.p o.session).isNone) = false := by simp [hc]
  unfold State.wakeNow
  dsimp only
  rw [hcreate]
  rfl

/-- The context that a WAKE makes in Cupboard slot `ix`. -/
def Order.newCtx (o : Order) (ix : Nat) (at_ : BitVec 64) : Ctx :=
  { p := o.p, session := o.session, index := ix, tag := o.f 25 1, saveBase := o.f 32 8, saveLen := o.f 28 4, keyBind := o.f 40 2, valBind := o.f 42 2, fetched := 1, lastChange := at_ }

theorem State.wakeNow_creates {ix : Nat} (hc : s.ctx? o.p o.session = none) (hcreate : (o.f 24 1).testBit 0 = true)
    (hroom : (s.ctxs.filter (fun c => c.p == o.p)).length < (quotaOf s.cfg.live o.p).1)
    (hix : freeTag (s.ctxs.map Ctx.index ++ s.repairs.filterMap (fun e => match e with | .withdrawn k => some k | _ => none)) 16384 0 = some ix) :
    s.wakeNow o = (State.startWarm { s with ctxs := s.ctxs ++ [o.newCtx ix s.clk.count] } o.p o.session none false).act o.id := by
  have hcreate : ((o.f 24 1).testBit 0 && (s.ctx? o.p o.session).isNone) = true := by simp [hc, hcreate]
  unfold State.wakeNow
  dsimp only
  rw [hcreate, if_neg (by decide), if_neg (by simpa using hroom)]
  generalize hgot : freeTag _ 16384 0 = got
  cases hgot.symm.trans hix
  rfl

/-- Warming changes the context found, and counts it. -/
theorem State.ctx?_startWarm {p n : Nat} {c : Ctx} (hc : s.ctx? p n = some c) (w : Option Nat) (hint : Bool) : (s.startWarm p n w hint).ctx? p n =
    some { c with state := .warming, home := s.chooseHome p, lastChange := s.clk.count, wakeOrder := w, contextIn := false,
                  hinted := hint && (s.sessionOrders p n).isEmpty, ctrs := bump c.ctrs 9 1 } := by
  let warm (c : Ctx) : Ctx := { c with
    state := .warming, home := s.chooseHome p, lastChange := s.clk.count, wakeOrder := w, contextIn := false, hinted := hint && (s.sessionOrders p n).isEmpty }
  have hwarm : (s.upCtx p n warm).ctx? p n = some (warm c) := (ctx?_upCtx_self s p n warm fun _ => ⟨rfl, rfl⟩).trans (congrArg _ hc)
  have hresumed {t : State} (ht : t.ctxs = (s.upCtx p n warm).ctxs) : ((t.countPart p 16 1).countSess p n 10 1).ctx? p n = some { warm c with ctrs := bump c.ctrs 9 1 } := by
    have hfound : (t.countPart p 16 1).ctx? p n = some (warm c) := (congrArg (fun l : List Ctx => l.find? _) ht).trans hwarm
    exact (ctx?_upCtx_self (t.countPart p 16 1) p n (fun c => { c with ctrs := bump c.ctrs 9 1 }) fun _ => ⟨rfl, rfl⟩).trans (congrArg _ hfound)
  unfold State.startWarm
  dsimp only
  refine hresumed ?_
  split <;> rfl

/-! ### PARK -/

/-- A PARK at its action that does not release. -/
theorem State.park_ready (ho : s.order? o.id = some o) (hname : o.name = some .park) (hready : s.controlReady o = true) (hrel : (o.f 25 1).testBit 0 = false) :
    (s.ctx? o.p o.session = none → s.parkOrder o.id = s.act o.id) ∧
    (∀ c, s.ctx? o.p o.session = some c → c.state = .parked → o.f 24 1 = 1 → s.parkOrder o.id = (s.act o.id).releaseIf o.p o.session) ∧
    (∀ c, s.ctx? o.p o.session = some c → c.state = .steeping → o.f 24 1 = 0 → s.parkOrder o.id =
      if s.parkWaits o then s.upOrder o.id (fun o => { o with phase := .running })
      else (s.upOrder o.id (fun o => { o with phase := .running })).leaveSlot o.p o.session 0) ∧
    (∀ c, s.ctx? o.p o.session = some c → c.state = .steeping → o.f 24 1 = 1 → s.parkOrder o.id =
      if s.glueLive o.p o.session then s.upOrder o.id (fun o => { o with phase := .running })
      else (s.upOrder o.id (fun o => { o with phase := .running })).leaveSlot o.p o.session 0) := by
  have hcond : ¬ ((o.name != some .park || !s.controlReady o) = true) := by simp [hname, hready]
  unfold State.parkOrder
  rw [ho]
  dsimp only
  rw [if_neg hcond]
  refine ⟨fun hc => ?_, fun c hc hstate hmode => ?_, fun c hc hstate hmode => ?_, fun c hc hstate hmode => ?_⟩
  · rw [hc]
  · rw [hc]
    simp only [hrel, hstate, hmode, Bool.false_and, Bool.false_eq_true, if_false, Nat.one_ne_zero, decide_false, OfNat.one_ne_ofNat]
  · rw [hc]
    simp only [hrel, hstate, hmode, Bool.false_and, Bool.false_eq_true, if_false, if_true]
  · rw [hc]
    simp only [hrel, hstate, hmode, Bool.false_and, Bool.false_eq_true, if_false, if_true, Nat.one_ne_zero]

end

/-! ### FENCE, TABLE_PAUSE, TABLE_RESUME, READ_STATS -/

section
variable {s : State} {o : Order} (ho : s.order? o.id = some o) (hready : s.controlReady o = true)
include ho hready

theorem State.fence_ready (hname : o.name = some .fence) : s.fence o.id =
    if o.waitFor.any (fun i => (s.order? i).isSome) then s.upOrder o.id (fun o => { o with phase := .running }) else s.act o.id := by
  unfold State.fence
  rw [ho]
  exact if_neg (by simp [hname, hready])

theorem State.tableResume_ready (hname : o.name = some .resume) : s.tableResume o.id =
    (s.upPart o.p (fun x => { x with paused := x.paused.filter (fun y => y.1 != o.bindNo) })).act o.id := by
  unfold State.tableResume
  rw [ho]
  exact if_neg (by simp [hname, hready])

omit ho hready in
theorem State.pauseBinding_mig (s : State) (p n : Nat) : (s.pauseBinding p n).mig = s.mig := by
  unfold State.pauseBinding
  split <;> rfl

theorem State.tablePause_ready (hname : o.name = some .pause) (hmig : ¬(s.mig.phase ≠ 0 ∧ s.mig.p = o.p ∧ s.mig.bind = o.bindNo)) : s.tablePause o.id =
    if !((s.upOrder o.id (fun o => { o with phase := .running })).pauseBinding o.p o.bindNo).bindingIdle o.p o.bindNo
    then (s.upOrder o.id (fun o => { o with phase := .running })).pauseBinding o.p o.bindNo
    else ((s.upOrder o.id (fun o => { o with phase := .running })).pauseBinding o.p o.bindNo).act o.id := by
  have hnone : (decide (s.mig.phase ≠ 0) && decide (s.mig.p = o.p) && decide (s.mig.bind = o.bindNo)) = false := by
    rw [Bool.eq_false_iff, Ne, Bool.and_eq_true, Bool.and_eq_true, decide_eq_true_eq, decide_eq_true_eq, decide_eq_true_eq, and_assoc]
    exact hmig
  unfold State.tablePause
  rw [ho]
  dsimp only
  rw [if_neg (by simp [hname, hready]), State.pauseBinding_mig, State.upOrder_mig, hnone]
  simp only [Bool.false_eq_true, if_false, Bool.or_false]

theorem State.readStats_ready (hname : o.name = some .stats) (hpinned : o.pinned = true) (hfaults : o.faults = []) : s.readStats o.id =
    match s.statsRecord o with
    | none => s.endOrder o.id 0x3F 4
    | some v =>
      match s.needPages o.id { t := 0xFFFFFFFF, bench := s.lowBench o.p } [{ ea := o.f 32 8, len := o.statsSize, write := true, kind := 4 }] with
      | (s1, t, .ok) => ((s1.writeStraight none o.p s1.cfg.epoch (.order o.id) (t.pieces (o.f 32 8) o.statsSize) v (s1.spaceAt o.p (o.f 32 8))).clearStats o).act o.id
      | (s1, _, _) => s1.upOrder o.id (fun o => { o with phase := .running }) := by
  unfold State.readStats
  rw [ho]
  refine (if_neg ?_).trans rfl
  simp [hname, hready, hpinned, Order.faulty, hfaults]

end

/-! ### ADVISE -/

/-- A range of a partition and tag that lies in pages `base` to `stop`. -/
def Range.inSpan (r : Range) (p tag base stop : Nat) : Bool := r.part == p && r.tag == tag && base ≤ r.page && r.page + r.len ≤ stop

/-- The lines of a span become the next victims of their sets. -/
def Bench.victims (x : Bench) (inSpan : Nat → Bool) : Bench :=
  { x with
    cold := x.cold ++ ((x.chest.filter (fun c => inSpan c.line && !x.cold.contains c.line)).map CLine.line)
    saucer := (x.saucer.filter (fun c => inSpan c.line)) ++ (x.saucer.filter (fun c => !inSpan c.line)) }

/-- A line lies in a range that touches the span. -/
def State.lineInSpan (s : State) (p tag base stop l : Nat) : Bool :=
  ((s.ranges.filter (fun x => x.2.part == p && x.2.tag == tag && x.2.page < stop && base < x.2.page + x.2.len)).map Prod.snd).any
    (fun r => r.phys * 32 ≤ l && l < (r.phys + r.len) * 32)

def State.spanVictims (s : State) (p tag base stop : Nat) : State :=
  (s.partBenches p).foldl (fun t b => t.upBench b (fun x => x.victims (s.lineInSpan p tag base stop))) s

theorem State.spanVictims_rest (s : State) (p tag base stop : Nat) :
    s.spanVictims p tag base stop = { s with benches := (s.spanVictims p tag base stop).benches } := State.foldl_upBench_rest _ _ s

/-- What an ADVISE of the kind does with its span: 1 drops its ranges, 3 makes them ordinary, others walk. -/
def State.adviseSpan (s : State) (o : Order) (tag base stop : Nat) : Nat → State
  | 1 => { s.spanVictims o.p tag base stop with ranges := (s.spanVictims o.p tag base stop).ranges.filter (fun x => !x.2.inSpan o.p tag base stop) }.upOrder
      o.id (fun o => { o with acted := true })
  | 3 => { s.spanVictims o.p tag base stop with ranges := (s.spanVictims o.p tag base stop).ranges.map (fun (x : Nat × Range) =>
      if x.2.inSpan o.p tag base stop then (x.1, { x.2 with hot := false }) else x) }.upOrder o.id (fun o => { o with acted := true })
  | k =>
    let r := s.adviseStep o.id o.p (k == 2) tag (max base o.watermark) stop (s.rangeShareOf o.p / 2) 8192
    let s2 := r.1.upOrder o.id (fun o => { o with acted := r.2.1, watermark := r.2.2 })
    if r.2.1 then s2.clearSkips o.p (some o.id) else s2

theorem State.advise_ready {s : State} {o : Order} (ho : s.order? o.id = some o) (hname : o.name = some .advise) (hstatus : o.status = none) (hphase : o.phase = .running)
    (hacted : o.acted = false) :
    s.advise o.id = s.adviseSpan o (eaTag (o.f 24 8)) (eaVa (o.f 24 8) / 4096) (eaVa (o.f 24 8) / 4096 + o.f 32 8 / 4096) (o.f 40 1) := by
  unfold State.advise
  rw [ho]
  dsimp only
  rw [if_neg (by simp [hname, hstatus, hphase, hacted])]
  rfl

theorem State.adviseSpan_walks {s : State} {o : Order} {tag base stop k : Nat} (h1 : k ≠ 1) (h3 : k ≠ 3) {u : State} {done : Bool} {page : Nat}
    (h : s.adviseStep o.id o.p (k == 2) tag (max base o.watermark) stop (s.rangeShareOf o.p / 2) 8192 = (u, done, page)) : s.adviseSpan o tag base stop k =
      if done then (u.upOrder o.id (fun o => { o with acted := done, watermark := page })).clearSkips o.p (some o.id)
      else u.upOrder o.id (fun o => { o with acted := done, watermark := page }) := by
  unfold State.adviseSpan
  split
  · exact absurd rfl h1
  · exact absurd rfl h3
  · rw [h]

end Sys2Proof.Machine

open Sys2Proof Sys2Proof.Machine

/-- Settles O55, by the state of the session, the turn of its partition and the least of those that may be taken. -/
theorem sessionsWarmSteepAndLeave : Obligations.SessionsWarmSteepAndLeave := by
  intro s p n
  refine ⟨fun c hc hstate hready hreset => ?_,
    fun c hc h => next_congr (State.sessionSteeping_stays hc ?_), State.cupFor_iff,
    fun c hc hstate hin hdone hdrain => State.maybeSteep_steeps hc hstate hin hdone hdrain, fun c hc h => State.maybeSteep_stays hc h,
    fun h => next_congr (State.sliceExpire_stays h), fun hwaits hslice hfree hreset => ?_,
    fun c hc hstate hreset horders hrun hsave hpre => ⟨fun hcup => next_pump_congr ?_, fun hcup => next_pump_congr ?_⟩,
    fun c hc h => next_pump_congr (State.sessionParked_stays hc (.inr (.inr h))), fun c hc hstate => State.ctx?_dropSlot hc hstate,
    fun c hc h => next_pump_congr (State.sessionParked_stays hc (h.imp id .inl)), fun c hc hhint hstate hidle hreset => next_congr (State.hintIdle_hinted hc hhint hstate hidle hreset),
    fun c hc h => next_congr (State.hintIdle_stays hc h)⟩
  · refine ⟨fun hin => next_congr ?_, fun hin hcup => next_congr ?_, fun hin hcup => next_congr (State.sessionSteeping_stays hc (.inr (.inr (.inr ⟨hin, hcup⟩))))⟩
    · rw [State.sessionSteeping_moves hc hstate hready hreset (.inl hin), if_pos hin]
    · rw [State.sessionSteeping_moves hc hstate hready hreset (.inr hcup), if_neg (by simp [hin])]
  · exact h.imp id fun h => h.imp id .inl
  · intro open_
    have hopen (c : Ctx) : open_ c ↔ c ∈ s.preemptible p := State.mem_preemptible.symm
    have hexpires := State.sliceExpire_expires hwaits hslice hfree hreset
    cases hlist : s.preemptible p with
    | nil =>
      rw [hlist] at hexpires
      refine ⟨fun c hc => absurd ((hopen c).1 hc) (by simp [hlist]), fun _ => next_congr hexpires⟩
    | cons c rest =>
      rw [hlist] at hexpires
      obtain ⟨hmem, hleast⟩ := foldl_least (k := Ctx.steepSince) rest c
      rw [← hlist] at hmem hleast
      exact ⟨fun _ _ => ⟨_, (hopen _).2 hmem, fun d hd => hleast d ((hopen d).1 hd), next_congr hexpires⟩,
        fun hnone => absurd ((hopen c).2 (by simp [hlist])) (hnone c)⟩
  · rw [State.sessionParked_empty hc hstate hreset horders hrun hsave hpre, if_pos hcup]
  · rw [State.sessionParked_empty hc hstate hreset horders hrun hsave hpre, if_neg (by simp [hcup])]

/-- Settles O50, by the session that each order finds. -/
theorem sessionOrdersAct : Obligations.SessionOrdersAct := by
  intro s o ho
  refine ⟨fun hname hready => ?_, fun n w h c hc => ⟨_, State.ctx?_startWarm hc w h, rfl⟩, fun hname hready hrel => ?_, fun hname hstatus hphase hacted => ?_⟩
  · intro create
    have hwake := State.wake_ready ho hname hready
    refine ⟨fun c hc hstate => next_congr ?_, fun c hc hstate => next_congr ?_, fun hc hcreate => next_congr ?_, fun hsess hwait => ?_⟩
    · rw [hwake, hc]
      rcases hstate with h | h <;> simp only [h]
    · rw [hwake, hc]
      simp only [hstate]
    · rw [hwake, hc]
      exact if_neg (ne_true_of_eq_false hcreate)
    · have htake := State.wake_takes ho hname hready hsess hwait
      refine ⟨fun hfree hcan => next_congr ?_, fun hfree hcan => next_congr ?_, fun hfree c hc => next_congr ?_,
        fun hfree hc hroom ix hix => ⟨o.newCtx ix s.clk.count, rfl, rfl, rfl, rfl, rfl, rfl, rfl, rfl, rfl, rfl, rfl, next_congr ?_⟩⟩
      · rw [htake, if_neg (by simp [hfree]), if_pos hcan]
      · rw [htake, if_neg (by simp [hfree]), if_neg (by simp [hcan])]
      · rw [htake, if_pos hfree, State.wakeNow_wakes hc]
      · have hcreate : (o.f 24 1).testBit 0 = true := by
          rcases hsess with ⟨c, hc', -⟩ | ⟨-, h⟩
          · exact absurd (hc.symm.trans hc') (by simp)
          · exact h
        rw [htake, if_pos hfree]
        exact State.wakeNow_creates hc hcreate hroom hix
  · intro waits
    obtain ⟨hgone, hparked, hmode0, hmode1⟩ := State.park_ready ho hname hready hrel
    exact ⟨fun hc => next_pump_congr (hgone hc), fun c hc hstate hmode => next_pump_congr (hparked c hc hstate hmode),
      fun c hc hstate hmode => ⟨fun h => next_pump_congr ((hmode0 c hc hstate hmode).trans (if_pos h)),
        fun h => next_pump_congr ((hmode0 c hc hstate hmode).trans (if_neg (by simp [h])))⟩,
      fun c hc hstate hmode => ⟨fun h => next_pump_congr ((hmode1 c hc hstate hmode).trans (if_pos h)),
        fun h => next_pump_congr ((hmode1 c hc hstate hmode).trans (if_neg (by simp [h])))⟩⟩
  · intro base stop within
    have hadvise := State.advise_ready ho hname hstatus hphase hacted
    have hrest := s.spanVictims_rest o.p (eaTag (o.f 24 8)) base stop
    refine ⟨fun hk => ?_, fun hk => ?_, fun h1 h3 u done page h => ⟨_, rfl, next_pump_congr (hadvise.trans (State.adviseSpan_walks h1 h3 h))⟩⟩
    · rw [hk] at hadvise
      refine ⟨_, next_pump_congr hadvise, fun x => ?_, ?_, ?_⟩
      · refine List.mem_filter.trans (and_congr ?_ ?_)
        · rw [show eaVa (o.f 24 8) / 4096 = base from rfl, show base + o.f 32 8 / 4096 = stop from rfl, hrest]
        · simp only [Range.inSpan, Bool.not_eq_true', Bool.and_eq_false_iff, beq_eq_false_iff_ne, decide_eq_false_iff_not, within]
          simp only [not_and_or, base, stop, or_assoc]
      · rw [State.adviseSpan, hrest]
        rfl
      · rw [State.adviseSpan, hrest]
        rfl
    · rw [hk] at hadvise
      refine ⟨_, next_pump_congr hadvise, ?_, ?_, ?_⟩
      · rw [State.adviseSpan, hrest]
        rfl
      · rw [State.adviseSpan, hrest]
        rfl
      · rw [State.adviseSpan, hrest]
        rfl

/-- Settles O49, by the lemma about each order at its action. -/
theorem fencesPausesAndCountersAct : Obligations.FencesPausesAndCountersAct := by
  intro s o ho hready
  refine ⟨fun hname => ⟨fun hnone => next_congr ?_, fun hany => next_congr ?_⟩, fun hname => next_congr (State.tableResume_ready ho hready hname),
    fun hname hmig => ⟨_, rfl, fun hidle => next_congr ?_, fun hidle => next_congr ?_⟩, fun u p n => ⟨fun h => if_pos h, fun h => if_neg (by simp [h])⟩,
    fun hname hpinned hfaults => ⟨fun hrec => next_pump_congr ?_, fun v u t hrec hpages => next_pump_congr ?_⟩⟩
  · rw [State.fence_ready ho hready hname, if_neg]
    simpa using hnone
  · rw [State.fence_ready ho hready hname, if_pos]
    simpa using hany
  · rw [State.tablePause_ready ho hready hname hmig, if_pos (by simp [hidle])]
  · rw [State.tablePause_ready ho hready hname hmig, if_neg (by simp [hidle])]
  · rw [State.readStats_ready ho hready hname hpinned hfaults, hrec]
  · rw [State.readStats_ready ho hready hname hpinned hfaults, hrec]
    dsimp only
    rw [hpages]
end

section
/-! SUPPORT. Completion: when an order completes, and its record (R18, R99, R126 to R128, R140, R274). -/

namespace Sys2Proof.Machine

/-! ### ORDER_COMPLETE -/

section
variable {s : State} {o : Order} (ho : s.order? o.id = some o)
include ho

/-- Not finished, behind a live order of its session, or of a partition whose reset acts. -/
theorem State.orderComplete_waits (h : (o.status = none ∧ s.finished o = false) ∨ s.resetting o.p = true ∨ ∃ i ∈ o.after, (s.order? i).isSome) :
    s.orderComplete o.id = s := by
  unfold State.orderComplete
  rw [ho]
  refine if_pos ?_
  rcases h with ⟨hstatus, hfin⟩ | h | ⟨i, hi, h⟩
  · simp [hstatus, hfin]
  · simp [h]
  · rw [Bool.or_eq_true]
    exact .inr (List.any_eq_true.2 ⟨i, hi, h⟩)

section
variable (hdone : o.status.isSome ∨ s.finished o = true) (hreset : s.resetting o.p = false) (hafter : ∀ i ∈ o.after, s.order? i = none)
include hdone hreset hafter

theorem State.orderComplete_due : s.orderComplete o.id =
    if (s.flushOrder o.id).owesWrites o then s.flushOrder o.id
    else match ((s.flushOrder o.id).endStreams o).order? o.id with
      | none => (s.flushOrder o.id).endStreams o
      | some o2 => if o2.streams.any (fun x => !x.ended) || ((s.flushOrder o.id).endStreams o).owesWrites o2 then (s.flushOrder o.id).endStreams o
          else ((s.flushOrder o.id).endStreams o).complete o.id := by
  have hcond : ((o.status.isNone && !s.finished o) || s.resetting o.p || o.after.any (fun i => (s.order? i).isSome)) = false := by
    rw [hreset, Bool.or_false, Bool.or_eq_false_iff, Bool.and_eq_false_iff]
    refine ⟨hdone.imp (fun h => by simpa [Option.isSome_iff_ne_none] using h) (fun h => by simp [h]), List.any_eq_false.2 fun i hi => ?_⟩
    simp [hafter i hi]
  unfold State.orderComplete
  rw [ho]
  exact (if_neg (ne_true_of_eq_false hcond)).trans rfl

theorem State.orderComplete_owes (h : (s.flushOrder o.id).owesWrites o = true) : s.orderComplete o.id = s.flushOrder o.id := by
  rw [State.orderComplete_due ho hdone hreset hafter, if_pos h]

theorem State.orderComplete_ended {v : Order} (h : (s.flushOrder o.id).owesWrites o = false) (hv : ((s.flushOrder o.id).endStreams o).order? o.id = some v) :
    s.orderComplete o.id = if v.streams.any (fun x => !x.ended) || ((s.flushOrder o.id).endStreams o).owesWrites v then (s.flushOrder o.id).endStreams o
      else ((s.flushOrder o.id).endStreams o).complete o.id := by
  rw [State.orderComplete_due ho hdone hreset hafter, if_neg (ne_true_of_eq_false h), hv]

end

end

/-! ### The record of a completion -/

/-- The 24 bytes of a completion from its fields (R126). -/
def completionBytes (st op flags q session slot user count detail : Nat) : Nat :=
  recordOf [(0, 1, st), (1, 1, op), (2, 1, flags), (3, 1, q), (4, 2, session), (6, 2, slot), (8, 8, user), (16, 4, count), (20, 4, detail)]

theorem completionBytes_eq (st op flags q session slot user count detail : Nat) : completionBytes st op flags q session slot user count detail =
    st % 2 ^ 8 + 2 ^ 8 * (op % 2 ^ 8) + 2 ^ 16 * (flags % 2 ^ 8) + 2 ^ 24 * (q % 2 ^ 8) + 2 ^ 32 * (session % 2 ^ 16) + 2 ^ 48 * (slot % 2 ^ 16) +
      2 ^ 64 * (user % 2 ^ 64) + 2 ^ 128 * (count % 2 ^ 32) + 2 ^ 160 * (detail % 2 ^ 32) := by
  simp only [completionBytes, recordOf, List.foldl, Nat.shiftLeft_eq, Nat.zero_add, Nat.mul_zero, Nat.pow_zero, Nat.mul_one, Nat.reduceMul]
  omega

theorem completionBytes_fields {st op flags q session slot user count detail r : Nat} (hflags : flags < 2 ^ 8)
    (hr : r = completionBytes st op flags q session slot user count detail) :
    r < 2 ^ 192 ∧ r % 2 ^ 8 = st % 2 ^ 8 ∧ r / 2 ^ 8 % 2 ^ 8 = op % 2 ^ 8 ∧ r / 2 ^ 16 % 2 ^ 8 = flags ∧ r / 2 ^ 24 % 2 ^ 8 = q % 2 ^ 8 ∧
      r / 2 ^ 32 % 2 ^ 16 = session % 2 ^ 16 ∧ r / 2 ^ 48 % 2 ^ 16 = slot % 2 ^ 16 ∧ r / 2 ^ 64 % 2 ^ 64 = user % 2 ^ 64 ∧
      r / 2 ^ 128 % 2 ^ 32 = count % 2 ^ 32 ∧ r / 2 ^ 160 % 2 ^ 32 = detail % 2 ^ 32 := by
  rw [completionBytes_eq] at hr
  have hst := Nat.mod_lt st (Nat.two_pow_pos 8)
  have hop := Nat.mod_lt op (Nat.two_pow_pos 8)
  have hq := Nat.mod_lt q (Nat.two_pow_pos 8)
  have hsession := Nat.mod_lt session (Nat.two_pow_pos 16)
  have hslot := Nat.mod_lt slot (Nat.two_pow_pos 16)
  have huser := Nat.mod_lt user (Nat.two_pow_pos 64)
  have hcount := Nat.mod_lt count (Nat.two_pow_pos 32)
  have hdetail := Nat.mod_lt detail (Nat.two_pow_pos 32)
  rw [Nat.mod_eq_of_lt hflags] at hr
  generalize st % 2 ^ 8 = st at *
  generalize op % 2 ^ 8 = op at *
  generalize q % 2 ^ 8 = q at *
  generalize session % 2 ^ 16 = session at *
  generalize slot % 2 ^ 16 = slot at *
  generalize user % 2 ^ 64 = user at *
  generalize count % 2 ^ 32 = count at *
  generalize detail % 2 ^ 32 = detail at *
  refine ⟨?_, ?_, ?_, ?_, ?_, ?_, ?_, ?_, ?_, ?_⟩ <;> omega

/-- Status and detail of an order that completes (R126 to R128). -/
def State.outcome (s : State) (o : Order) : Nat × Nat :=
  match o.status with
  | some x => x
  | none => (if o.flagged || !o.plausHits.isEmpty then 0x01 else 0x00, s.okDetail o)

/-- The flags of a completion with a status. -/
def Order.doneFlags (o : Order) (st : Nat) : Nat :=
  2 * b2n (st ≤ 0x12 && o.flagged) + 4 * b2n (st ≤ 0x12 && !o.plausHits.isEmpty) + 8 * b2n (o.defaults ≠ 0)

theorem Order.doneFlags_lt (o : Order) (st : Nat) : o.doneFlags st < 2 ^ 8 := by
  have hle (b : Bool) : b2n b ≤ 1 := by cases b <;> decide
  have h1 := hle (st ≤ 0x12 && o.flagged)
  have h2 := hle (st ≤ 0x12 && !o.plausHits.isEmpty)
  have h3 := hle (o.defaults ≠ 0)
  unfold Order.doneFlags
  omega

/-- What a completion puts into the partition's registers and output log before it is counted (R121, R260, R321). -/
def State.loggedDone (s : State) (o : Order) (st : Nat) : State :=
  (s.holdOrphans o).upPart o.p (fun y =>
    { y with spillLast := if o.op = 0x04 then (o.spills.foldl (fun a x => a + x.2.2) 0) % 2 ^ 32 else y.spillLast
             outLog := if (0x20 ≤ st && st ≤ 0x23) || st = 0x3F then y.outLog else (o.logEntries.reverse ++ y.outLog).take 256 })

/-- The scale that a completion carries: of an order that ends well. -/
def State.scaleDone (s : State) (o : Order) : State × Option ScaleUpd := if o.status.isNone then s.finishScale o else (s, none)

/-- The completion queued and the order freed. -/
def State.recordDone (s : State) (o : Order) (st bytes : Nat) (scale : Option ScaleUpd) : State :=
  ((s.countPart o.p (statusIx st + 1) 1).freeOrder o).queueRecord o.p (16 + o.cq) bytes o.irqNow scale

/-- What a completion does after the checks of its tiles. -/
def State.completed (s : State) (o : Order) (st detail : Nat) (scale : Option ScaleUpd) : State :=
  let x := (s.loggedDone o st).recordDone o st (completionBytes st o.op (o.doneFlags st) o.q o.session o.slot o.user o.countField detail) scale
  (if o.name == some .pause && st = 0 then x.pauseDone o.p o.bindNo else x).sessionDone o st

theorem State.complete_of_order {s : State} {i : Nat} {o : Order} (h : (s.checkTiles i).order? i = some o) : s.complete i =
    ((s.checkTiles i).scaleDone o).1.completed o ((s.checkTiles i).outcome o).1 ((s.checkTiles i).outcome o).2 ((s.checkTiles i).scaleDone o).2 := by
  unfold State.complete
  dsimp only
  rw [h]
  rfl

theorem foldl_add_eq_sum {α : Type} (f : α → Nat) (l : List α) (n : Nat) : l.foldl (fun a x => a + f x) n = n + (l.map f).sum := by
  induction l generalizing n with
  | nil => rfl
  | cons x l ih => rw [List.foldl_cons, ih, List.map_cons, List.sum_cons, Nat.add_assoc]

/-! ### What count and detail are of each kind of order -/

theorem Order.countField_of_count {o : Order} : ∀ n ∈ [OpName.copy, .prefetch, .accLoad, .accStore], o.name = some n → o.countField = o.count := by
  intro n hn hname
  unfold Order.countField
  rw [hname]
  fin_cases hn <;> rfl

theorem Order.countField_of_none {o : Order} :
    ∀ n ∈ [OpName.advise, .park, .wake, .fence, .stats, .pause, .resume], o.name = some n → o.countField = 0 := by
  intro n hn hname
  unfold Order.countField
  rw [hname]
  fin_cases hn <;> rfl

theorem State.okDetail_of_none {s : State} {o : Order} :
    ∀ n ∈ [OpName.copy, .prefetch, .accLoad, .accStore, .advise, .park, .wake, .fence, .stats, .pause, .resume], o.name = some n → s.okDetail o = 0 := by
  intro n hn hname
  unfold State.okDetail
  rw [hname]
  fin_cases hn <;> rfl

end Sys2Proof.Machine

open Sys2Proof Sys2Proof.Machine

/-- Settles O56: `State.complete_of_order` for the completion, and `completionBytes_fields` for its record. -/
theorem ordersCompleteInSessionOrder : Obligations.OrdersCompleteInSessionOrder := by
  intro s o ho gives
  have hgives {t : State} (h : s.orderComplete o.id = t) : gives t := next_pump_congr (congrArg _ h)
  refine ⟨fun hstatus hfin => hgives (State.orderComplete_waits ho (.inl ⟨hstatus, hfin⟩)), fun h => hgives (State.orderComplete_waits ho (.inr h)),
    fun hdone hreset hafter => ⟨fun howes => hgives (State.orderComplete_owes ho hdone hreset hafter howes), fun howes u v hu hv => ?_⟩, fun e => rfl,
    fun v u hu hv => ?_, ⟨fun h => ?_, fun h => ?_, fun h => ?_, fun h => ?_, fun h => ?_, fun n hn h => ?_, fun n hn h => ?_⟩,
    fun p c pa wr rec rest u hc hon hfree hdie hheld hbytes hpage => ?_⟩
  · subst hu
    have hended := State.orderComplete_ended ho hdone hreset hafter howes hv
    refine ⟨fun h => hgives (hended.trans (if_pos ?_)), fun hstreams hwrites => hgives (hended.trans (if_neg ?_))⟩
    · rw [Bool.or_eq_true, List.any_eq_true]
      exact h.imp (fun ⟨x, hx, h⟩ => ⟨x, hx, by simp [h]⟩) id
    · rw [Bool.or_eq_true, List.any_eq_true]
      rintro (⟨x, hx, h⟩ | h)
      · simp [hstreams x hx] at h
      · exact Bool.false_ne_true (hwrites.symm.trans h)
  · subst hu
    exact ⟨_, _, _, _, _, _, rfl, rfl, State.complete_of_order hv, completionBytes_fields (v.doneFlags_lt _) rfl⟩
  · simp only [Order.countField, State.okDetail, h, and_self]
  · simp only [Order.countField, State.okDetail, h, and_self]
  · simp only [Order.countField, State.okDetail, h, and_self]
  · simp only [Order.countField, State.okDetail, h, foldl_add_eq_sum, Nat.zero_add, and_self]
  · refine ⟨by simp only [Order.countField, h], fun c hc => ?_⟩
    simp only [State.okDetail, h, hc, Option.map_some, Option.getD_some]
  · exact ⟨Order.countField_of_count n hn h, State.okDetail_of_none n (by fin_cases hn <;> decide) h⟩
  · exact ⟨Order.countField_of_none n hn h, State.okDetail_of_none n (by fin_cases hn <;> decide) h⟩
  · obtain ⟨v, hv⟩ := State.pumpOne_writes hon hfree (.inl hdie) hheld hpage
    exact ⟨v, _, State.writtenBytes_eq (by omega) hbytes, hv⟩
end

section
/-! SUPPORT. Tiles are delivered and consumed; faults are recorded, and their streams quiesce (R129, R142 to R150). -/

namespace Sys2Proof.Machine

theorem State.upOrder_upOrder (s : State) (i : Nat) {f g : Order → Order} (hf : ∀ x, (f x).id = x.id) :
    (s.upOrder i f).upOrder i g = s.upOrder i (fun x => g (f x)) := by
  unfold State.upOrder
  dsimp only
  rw [List.map_map]
  congr 1
  refine List.map_congr_left fun x _ => ?_
  show (if (if x.id = i then f x else x).id = i then g (if x.id = i then f x else x) else (if x.id = i then f x else x)) = _
  by_cases hx : x.id = i
  · rw [if_pos hx, if_pos ((hf x).trans hx), if_pos hx]
  · rw [if_neg hx, if_neg hx, if_neg hx]

/-! ### TILE_DELIVER -/

/-- An order whose tile is kept as it stands, twice as TILE_DELIVER does it. -/
theorem State.setTile_setTile (s : State) (i : Nat) (t u : Tile) : (s.setTile i t).setTile i u = s.upOrder i (fun z => (z.setTile t).setTile u) :=
  s.upOrder_upOrder i fun _ => rfl

theorem State.order?_setTile_setTile {s : State} {i : Nat} {x : Order} (hx : s.order? i = some x) (t u : Tile) :
    (s.upOrder i (fun z => (z.setTile t).setTile u)).order? i = some ((x.setTile t).setTile u) :=
  (order?_upOrder_self s i (fun z => (z.setTile t).setTile u) fun _ h => h).trans (congrArg _ hx)

section
variable {s s1 : State} {o x : Order} {t first len pos : Nat} {tile : Tile}

/-- A tile whose elements are held, within the distance of pages: it goes on to be delivered. -/
theorem State.tileDeliver_held (ho : s.order? o.id = some o) (hphase : o.phase = .running) (hstatus : o.status = none)
    (hs1 : (if o.bagsKnown then s else s.readBags o.id t 16) = s1) (hx : s1.order? o.id = some x) (hxstatus : x.status = none) (hbags : x.needsBags t = false)
    (hspan : x.tileSpan t = some (first, len, pos)) (hmay : (s1.powerUp (s1.tileBench x t pos)).mayPrepare x t (s1.tileBench x t pos) = true)
    (hnear : (s1.powerUp (s1.tileBench x t pos)).openBefore x t ≤ x.pagesAhead ∨ (s1.powerUp (s1.tileBench x t pos)).preloads x t = true)
    (htile : x.tile? t = some tile) (helems : tile.elems ≠ []) : s.tileDeliver o.id t =
      ((s1.powerUp (s1.tileBench x t pos)).upOrder o.id (fun z => (z.setTile tile).setTile tile)).deliver o.id ((x.setTile tile).setTile tile) tile first len := by
  have hfar (n : Nat) (hn : x.pagesAhead ≤ n) :
      ¬ ((decide ((s1.powerUp (s1.tileBench x t pos)).openBefore x t > n) && !(s1.powerUp (s1.tileBench x t pos)).preloads x t) = true) := by
    rw [Bool.and_eq_true, decide_eq_true_eq, Bool.not_eq_true']
    rintro ⟨hlt, hpre⟩
    rcases hnear with h | h
    · omega
    · exact Bool.false_ne_true (hpre.symm.trans h)
  have hgo : ¬ ((!(s1.powerUp (s1.tileBench x t pos)).mayPrepare x t (s1.tileBench x t pos) ||
      (decide ((s1.powerUp (s1.tileBench x t pos)).openBefore x t > max x.indexAhead x.pagesAhead) && !(s1.powerUp (s1.tileBench x t pos)).preloads x t)) = true) := by
    rw [hmay, Bool.not_true, Bool.false_or]
    exact hfar _ (le_max_right _ _)
  have hfound := State.order?_setTile_setTile (s := s1.powerUp (s1.tileBench x t pos)) hx tile tile
  unfold State.tileDeliver
  rw [ho]
  refine (if_neg (by simp [hphase, hstatus])).trans ?_
  dsimp only
  rw [hs1, hx]
  refine (if_neg (by simp [hxstatus, hbags])).trans ?_
  rw [hspan]
  refine (if_neg hgo).trans ?_
  rw [htile]
  dsimp only
  rw [if_neg (by simpa using helems)]
  dsimp only
  rw [if_neg (hfar _ le_rfl), State.setTile_setTile, hfound]

end

section
variable {u : State} {i : Nat} {y : Order} {tile : Tile} {first len : Nat}

theorem State.deliver_waits {v : State} {t1 : Tile}
    (h : u.needPages i tile (u.tileAccesses y tile.t first len tile.elems (u.tileSlots y first len tile.elems)) = (v, t1, .wait)) :
    u.deliver i y tile first len = v.setTile i t1 := by
  unfold State.deliver
  dsimp only
  rw [h]

/-- The tile is delivered under the present epoch, with its outputs' pages kept, and its rows are issued. -/
def State.delivered (w : State) (i : Nat) (y : Order) (t : Nat) (b : Nat) (t2 : Tile) (first len : Nat) (slots : List RowAt) : State :=
  let outs := (w.tileOuts y t first len).map (fun x => (x.1, (⟨eaTag x.2.1, (w.part y.p).invGen, 0⟩ : Space), t2.pieces x.2.1 x.2.2))
  ((w.upOrder i (fun o =>
    ({ o.goLive with
       offset := if y.offset.isSome then y.offset else some (w.takeOffset y)
       outPa := o.outPa.filter (fun (x : Nat × Space × List (Nat × Nat)) => !outs.any (fun y => y.1 == x.1)) ++ outs }.takeShare b).setTile
      { t2 with delivered := true, epoch := w.cfg.epoch, gen := (w.part y.p).invGen, slots := slots,
                left := if y.keyed && !t2.consumed then (y.jig.map Jig.blocks).getD 1 else t2.left })).chestBoundary y.p b).issueRows i t

theorem State.deliver_delivers {v w : State} {t1 t2 : Tile}
    (hpages : u.needPages i tile (u.tileAccesses y tile.t first len tile.elems (u.tileSlots y first len tile.elems)) = (v, t1, .ok))
    (hmay : v.mayDeliver y tile.t tile.bench = true) (hshare : v.shareFree y tile.bench = true)
    (hneeds : v.tileNeeds y t1 (State.sourceLines y t1 first len) (v.sourceSpace y t1 first len) = (w, t2, .ok)) :
    u.deliver i y tile first len = w.delivered i y tile.t tile.bench t2 first len (u.tileSlots y first len tile.elems) := by
  unfold State.deliver
  dsimp only
  rw [hpages]
  dsimp only
  rw [if_neg (by simp [hmay, hshare]), hneeds]
  rfl

end

/-! ### TILE_CONSUMED -/

section
variable {s : State} {o : Order} (ho : s.order? o.id = some o)
include ho

theorem State.tileConsumed_stays {t : Nat} {tile : Tile} (htile : o.tile? t = some tile)
    (h : tile.worked = false ∨ tile.consumed = true ∨ s.tileIssued o tile = false) : s.tileConsumed o.id t = s := by
  unfold State.tileConsumed
  rw [ho]
  dsimp only
  rw [htile]
  refine if_pos ?_
  rcases h with h | h | h <;> simp [h]

omit ho in
/-- The lookups of a consumed tile counted (R146). -/
def State.lookupsCounted (s : State) (o : Order) (tile : Tile) : State :=
  if o.hasDrive || o.name == some .gather then (s.countBind o.p o.rowBindNo 2 tile.elems.length).countSess o.p o.session 4 tile.elems.length else s

omit ho in
/-- The tile is consumed: its window closed, the watermark advanced, and the boundary passed. -/
def State.consumedTile (s : State) (o : Order) (t : Nat) (tile : Tile) : State :=
  (((((s.lookupsCounted o tile).upOrder o.id (fun o => o.setTile { tile with consumed := true })).closeWindow o.id tile.bench (s.windowOf o t)).upOrder o.id
    (fun o => o.advance 65)).chestBoundary o.p tile.bench).passBoundary o tile.bench

omit ho in
/-- What follows a boundary that an order passed: checks that are due, rows of tiles now within the distance, and a stop. -/
def State.boundaryPassed (v : State) (i : Nat) : Option Order → State
  | none => v
  | some x => (((x.tiles.filter (fun y => y.delivered && !y.issued && !y.worked)).foldl (fun s y => s.issueRows i y.t)
      (((x.ptiles.filter (fun y => !y.checked && x.tileWhole y.t)).map PTile.t).foldl (fun s y => s.checkTile i y) v)).stopNow i).settle i

theorem State.tileConsumed_consumes {t : Nat} {tile : Tile} (htile : o.tile? t = some tile) (hworked : tile.worked = true) (hopen : tile.consumed = false)
    (hissued : s.tileIssued o tile = true) {x : Order} (hx : (s.consumedTile o t tile).order? o.id = some x) :
    s.tileConsumed o.id t = (s.consumedTile o t tile).boundaryPassed o.id (some x) := by
  unfold State.tileConsumed
  rw [ho]
  dsimp only
  rw [htile]
  refine ((if_neg (by simp [hworked, hopen, hissued])).trans (b := (s.consumedTile o t tile).boundaryPassed o.id ((s.consumedTile o t tile).order? o.id)) rfl).trans ?_
  rw [hx]

/-! ### FAULT_RECORD_WRITE and STREAM_QUIESCE -/

theorem State.faultRecord_numbers {f : OFault} {id : Nat} (hreset : s.resetting o.p = false)
    (hf : o.faults.find? (fun x => x.id.isNone && (o.status.isNone || x.info.access == 3)) = some f)
    (hid : freeTag ((s.part o.p).faults.map PFault.id) 1024 0 = some id) : s.faultRecord o.id =
      (((((s.upPart o.p (fun y =>
          { y with faults := y.faults ++ [{ id := id, order := some o.id, stream := f.info.stream, tag := eaTag f.info.addr, va := eaVa f.info.addr }] })).upOrder o.id
        (fun o => o.numberFault f id)).discardFrom o.id f.info.tile).countPart o.p 14 1).countSess o.p o.session 9 1).queueRecord o.p 32
          (faultBytes o f.info id) false := by
  unfold State.faultRecord
  rw [ho]
  dsimp only
  rw [if_neg (by simp [hreset]), hf]
  dsimp only
  rw [hid]

theorem State.faultRecord_stays (h : ∀ x ∈ o.faults, x.id.isSome = true ∨ (o.status.isSome = true ∧ x.info.access ≠ 3)) : s.faultRecord o.id = s := by
  have hnone : o.faults.find? (fun x => x.id.isNone && (o.status.isNone || x.info.access == 3)) = none := by
    refine List.find?_eq_none.2 fun x hx => ?_
    rcases h x hx with h | ⟨h, haccess⟩
    · simp [Option.isSome_iff_ne_none.1 h]
    · simp [Option.isSome_iff_ne_none.1 h, haccess]
  unfold State.faultRecord
  rw [ho]
  dsimp only
  rw [hnone, ite_self]

section
variable (hphase : o.phase = .running ∨ o.phase = .stage3) (hstatus : o.status = none) (hreset : s.resetting o.p = false)
include hphase hstatus hreset

omit hphase hstatus hreset in
theorem State.streamQuiesce_in_use (h : ∃ t ∈ o.tiles, t.inUse = true) : s.streamQuiesce o.id = s := by
  unfold State.streamQuiesce
  rw [ho]
  refine if_pos ?_
  rw [Bool.or_eq_true]
  exact .inr (List.any_eq_true.2 h)

theorem State.streamQuiesce_quiet (h : ∀ t ∈ o.tiles, t.inUse = false) : s.streamQuiesce o.id =
    (o.streams.filter (fun x => o.quiescedAt x && !x.faulted)).foldl (fun s x =>
      match s.backStream o.id x (o.descBytes x (1 + 2 * b2n x.live + 8)) with
      | (s1, true) => s1.upOrder o.id (fun o => o.setStream x.field (fun y => { y with faulted := true, written := true }))
      | (s1, false) => s1) s := by
  have hnone : o.tiles.any Tile.inUse = false := List.any_eq_false.2 fun t ht => by simp [h t ht]
  unfold State.streamQuiesce
  rw [ho]
  refine (if_neg ?_).trans rfl
  rcases hphase with h | h <;> simp [h, hstatus, hreset, hnone]

end

/-- A stream whose write-back page is held is written back at once. -/
theorem State.backStream_held {x : Stream} {pg value : Nat} (hback : x.back = some pg) (hx : o.stream? x.field = some x) : s.backStream o.id x value =
    (s.postBytes (.desc o.id) o.p (some (s.issueBench o)) (pg * 4096 + eaAdd x.addr 44 % 4096) 20 value (s.spaceAt o.p x.addr), true) := by
  have hpage : s.backPage o.id x.field = (s, some pg) := by
    unfold State.backPage
    rw [ho]
    dsimp only
    rw [hx]
    exact (if_pos (by simp [hback])).trans (by rw [hback])
  unfold State.backStream
  rw [hpage, ho]
  dsimp only
  rw [State.writeBack, ho]
  rfl

end

end Sys2Proof.Machine

open Sys2Proof Sys2Proof.Machine

/-- Settles O54, by the lemmas about delivery, consumption, records and quiescence. -/
theorem tilesAreDeliveredAndConsumed : Obligations.TilesAreDeliveredAndConsumed := by
  intro s o ho
  refine ⟨fun t first len pos tile x hphase hstatus => ?_, fun t tile htile h => next_pump_congr (State.tileConsumed_stays ho htile h),
    fun t tile htile hworked hopen hissued => ⟨_, _, rfl, rfl, fun x hx => next_pump_congr (State.tileConsumed_consumes ho htile hworked hopen hissued hx)⟩,
    fun f id hreset hf hid => next_pump_congr (State.faultRecord_numbers ho hreset hf hid), fun h => next_pump_congr (State.faultRecord_stays ho h),
    fun hphase hstatus hreset => ⟨fun h => next_pump_congr (State.streamQuiesce_in_use ho h), fun x u h hone hback => next_pump_congr ?_,
      fun x pg hback hx => State.backStream_held ho hback hx⟩⟩
  · intro s1 hx hid hxstatus hbags hspan b s0 near hmay hnear htile helems
    refine ⟨_, _, rfl, rfl, ?_⟩
    intro slots
    have hdeliver := State.tileDeliver_held ho hphase hstatus rfl hx hxstatus hbags hspan hmay hnear htile helems
    exact ⟨fun v t1 h => next_pump_congr (hdeliver.trans (State.deliver_waits h)), fun v t1 w t2 hpages hmay hshare hneeds =>
      ⟨_, _, _, _, rfl, rfl, rfl, rfl, next_pump_congr (hdeliver.trans (State.deliver_delivers hpages hmay hshare hneeds))⟩⟩
  · rw [State.streamQuiesce_quiet ho hphase hstatus hreset h, hone, List.foldl_cons, List.foldl_nil, hback]
end

section
/-! SUPPORT. Register writes by their offsets (R9, R11, R74, R75, R95, R440). -/

namespace Sys2Proof.Machine

/-! ### Who writes -/

section
variable {s : State} {f p off : Nat} {v : Word}

theorem State.regWrite_unassigned (h : regAt s off = none) : s.regWrite f p off v = s := by
  unfold State.regWrite
  rw [h]

/-- A write of a register that the space has, by where it lies. -/
theorem State.regWrite_assigned (h : (regAt s off).isSome) : s.regWrite f p off v =
    if !s.admits f p off && !s.mayReset f p off then s.foreign f p off
    else match regWindow off with
      | none => if p ≠ 0 then s.event p 0x0002 off v.toNat else s.globalWrite off v.toNat
      | some (w, o) => if o = 0x14 then s.clearDone w v.toNat else if (s.part w).busy then s else s.windowWrite w o v.toNat := by
  obtain ⟨x, hx⟩ := Option.isSome_iff_exists.1 h
  unfold State.regWrite
  rw [hx] <;> rfl

theorem State.regWrite_foreign (h : (regAt s off).isSome) (hadm : s.admits f p off = false) (hreset : s.mayReset f p off = false) :
    s.regWrite f p off v = s.foreign f p off := by
  rw [State.regWrite_assigned h, if_pos (by simp [hadm, hreset])]

section
variable (h : (regAt s off).isSome) (hadm : s.admits f p off = true)
include h hadm

theorem State.regWrite_global (hoff : regWindow off = none) : s.regWrite f p off v = if p ≠ 0 then s.event p 0x0002 off v.toNat else s.globalWrite off v.toNat := by
  rw [State.regWrite_assigned h, if_neg (by simp [hadm]), hoff]

theorem State.regWrite_window {w o : Nat} (hoff : regWindow off = some (w, o)) : s.regWrite f p off v =
    if o = 0x14 then s.clearDone w v.toNat else if (s.part w).busy then s else s.windowWrite w o v.toNat := by
  rw [State.regWrite_assigned h, if_neg (by simp [hadm]), hoff]

end

end

theorem regWindow_window {p o : Nat} (hp : p < 8) (ho : o < 0x10000) : regWindow (0x10000 + 0x10000 * p + o) = some (p, o) := by
  unfold regWindow
  rw [if_neg (by simp; omega)]
  have hq : (0x10000 + 0x10000 * p + o - 0x10000) / 0x10000 = p := by omega
  have hr : (0x10000 + 0x10000 * p + o) % 0x10000 = o := by omega
  rw [hq, hr]

theorem regWindow_global {off : Nat} (h : off < 0x10000) : regWindow off = none := if_pos (by simp [h])

theorem State.busy_of_open {s : State} {p : Nat} (h : s.windowOpen p = true) : (s.part p).busy = false := by
  simpa using (Bool.and_eq_true_iff.1 h).2

/-- A write of a register of an open window. -/
theorem State.regWrite_open {s : State} {f p o : Nat} {v : Word} (hp : p < 8) (hopen : s.windowOpen p = true) (ho : o < 0x10000) (hdone : o ≠ 0x14)
    (h : (regAt s (0x10000 + 0x10000 * p + o)).isSome) (hadm : s.admits f p (0x10000 + 0x10000 * p + o) = true) :
    s.regWrite f p (0x10000 + 0x10000 * p + o) v = s.windowWrite p o v.toNat := by
  rw [State.regWrite_window h hadm (regWindow_window hp ho), if_neg hdone, if_neg (by simp [State.busy_of_open hopen])]

/-! ### The registers of a window -/

section
variable {s : State} {p v : Nat}

theorem State.windowWrite_doorbell {q : Nat} (hq : q < 16) : s.windowWrite p (0x8000 + 8 * q) v = s.partDb p q v := by
  have hdiv : (0x8000 + 8 * q - 0x8000) / 8 = q := by omega
  unfold State.windowWrite
  rw [if_pos (by simp; omega), if_pos (by omega), hdiv]

theorem State.windowWrite_rootLo {tag : Nat} (htag : tag < 256) : s.windowWrite p (0x1000 + 8 * tag) v = s.setRootLo p tag v := by
  have hdiv : (0x1000 + 8 * tag - 0x1000) / 8 = tag := by omega
  unfold State.windowWrite
  rw [if_neg (by simp; omega), if_pos (by simp; omega), if_pos (by omega), hdiv]

theorem State.windowWrite_sqBaseLo {q : Nat} (hq : q < 16) : s.windowWrite p (0x400 + 0x20 * q) v = s.baseLo p q v := by
  have hdiv : (0x400 + 0x20 * q - 0x400) / 0x20 = q := by omega
  have hmod : (0x400 + 0x20 * q) % 0x20 = 0 := by omega
  unfold State.windowWrite
  rw [if_neg (by simp; omega), if_neg (by simp; omega), if_pos (by simp; omega), hdiv, hmod]
  exact (if_pos hq).symm

theorem State.windowWrite_cqBaseLo {q : Nat} (hq : q < 16) : s.windowWrite p (0x600 + 0x20 * q) v = s.baseLo p (16 + q) v := by
  have hdiv : 16 + (0x600 + 0x20 * q - 0x600) / 0x20 = 16 + q := by omega
  have hmod : (0x600 + 0x20 * q) % 0x20 = 0 := by omega
  unfold State.windowWrite
  rw [if_neg (by simp; omega), if_neg (by simp; omega), if_neg (by simp), if_pos (by simp; omega), hdiv, hmod]
  exact (if_neg (by omega)).symm

theorem State.windowWrite_cqHead {q : Nat} (hq : q < 16) : s.windowWrite p (0x610 + 0x20 * q) v = s.pqHead p (16 + q) (fld v 15 0) := by
  have hdiv : 16 + (0x610 + 0x20 * q - 0x600) / 0x20 = 16 + q := by omega
  have hmod : (0x610 + 0x20 * q) % 0x20 = 0x10 := by omega
  unfold State.windowWrite
  rw [if_neg (by simp; omega), if_neg (by simp; omega), if_neg (by simp; omega), if_pos (by simp; omega), hdiv, hmod]
  rfl

/-! One equation per register with an offset of its own. -/

theorem State.windowWrite_slice : s.windowWrite p 0x0C v = s.upPart p (fun x => { x with slice := fld v 15 0 }) := rfl
theorem State.windowWrite_reset : s.windowWrite p 0x10 v = if v.testBit 0 then s.partReset p else s := rfl
theorem State.windowWrite_chest : s.windowWrite p 0x20 v = s.chestCtrl p v := rfl
theorem State.windowWrite_pool : s.windowWrite p 0x50 v = s.migPoolLo p v := rfl
theorem State.windowWrite_accept : s.windowWrite p 0x58 v = s.migAcceptWord p v := rfl
theorem State.windowWrite_inval : s.windowWrite p 0x70 v = s.invalTag p (fld v 7 0) := rfl
theorem State.windowWrite_fault : s.windowWrite p 0x78 v = s.faultCmd p v := rfl
theorem State.windowWrite_scratch : s.windowWrite p 0xF0 v = s.upPart p (fun x => { x with scratch := BitVec.ofNat 32 v }) := rfl
theorem State.windowWrite_txn : s.windowWrite p 0x200 v = s.txnCommand p (fld v 3 0) := rfl
theorem State.windowWrite_stageLo : s.windowWrite p 0x208 v =
    s.upPart p (fun x => { x with stageAddr := x.stageAddr / 2 ^ 32 * 2 ^ 32 + fld v 31 6 * 64 }) := rfl
theorem State.windowWrite_stageHi : s.windowWrite p 0x20C v =
    s.upPart p (fun x => { x with stageAddr := x.stageAddr % 2 ^ 32 + fld v 15 0 * 2 ^ 32 }) := rfl
theorem State.windowWrite_stageLen : s.windowWrite p 0x210 v = s.upPart p (fun x => { x with stageLen := fld v 26 0 }) := rfl

theorem State.chestCtrl_invalidate (h : v.testBit 1 = true) : s.chestCtrl p v = s.chestInvalidate p := if_pos h
theorem State.chestCtrl_enable (h1 : v.testBit 1 = false) (h0 : v.testBit 0 = true) : s.chestCtrl p v = s.chestEnable p :=
  (if_neg (ne_true_of_eq_false h1)).trans (if_pos h0)
theorem State.chestCtrl_disable (h1 : v.testBit 1 = false) (h0 : v.testBit 0 = false) : s.chestCtrl p v = s.chestDisable p :=
  (if_neg (ne_true_of_eq_false h1)).trans (if_neg (ne_true_of_eq_false h0))

/-- The commands of PART_FAULT_CMD. -/
theorem State.faultCmd_none (h : fld v 31 30 = 0 ∨ fld v 31 30 = 3) : s.faultCmd p v = s := by
  unfold State.faultCmd
  rcases h with h | h <;> rw [h] <;> rfl

theorem State.faultCmd_resume (h : fld v 31 30 = 1) : s.faultCmd p v = s.faultResume p (fld v 9 0) := by
  unfold State.faultCmd
  rw [h]
  rfl

theorem State.faultCmd_abort (h : fld v 31 30 = 2) : s.faultCmd p v = s.faultAbort p (fld v 9 0) := by
  unfold State.faultCmd
  rw [h]
  rfl

theorem State.txnCommand_none {k : Nat} (h : k = 0 ∨ 4 < k) : s.txnCommand p k = s := by
  unfold State.txnCommand
  split
  · omega
  · omega
  · omega
  · omega
  · rfl

end

/-- A value with bit 0 set already has it. -/
theorem or_one_of_testBit {v : Nat} (h : v.testBit 0 = true) : v ||| 1 = v := by
  refine Nat.eq_of_testBit_eq fun i => ?_
  rw [Nat.testBit_or]
  cases i with
  | zero => rw [h, Bool.true_or]
  | succ i => simp [Nat.testBit_succ]

/-! ### Global registers -/

section
variable {s : State} {v : Nat}

theorem State.globalWrite_face {g : Nat} (hg : g < 4) : s.globalWrite (0x3004 + 0x400 * g) v = s.retrain g (fld v 5 0) := by
  have hdiv : (0x3004 + 0x400 * g - 0x3000) / 0x400 = g := by omega
  unfold State.globalWrite
  rw [if_pos (by simp; omega), if_pos (by omega), hdiv]

theorem State.globalWrite_peak {e : Nat} (he : e < 16) : s.globalWrite (0x600C + 16 * e) v = s.setPeak e v := by
  have hdiv : (0x600C + 16 * e - 0x6000) / 16 = e := by omega
  unfold State.globalWrite
  rw [if_neg (by simp; omega), if_pos (by simp; omega), if_pos (by omega), hdiv]

theorem State.globalWrite_regionLo : s.globalWrite 0x1000 v = s.upCfg (fun c => if c.regionLocked then c else
    { c with regionBase := c.regionBase / 2 ^ 32 * 2 ^ 32 + fld v 31 21 * 2 ^ 21, regionValid := v.testBit 0 }) := rfl
theorem State.globalWrite_regionHi : s.globalWrite 0x1004 v = s.upCfg (fun c => if c.regionLocked then c else
    { c with regionBase := c.regionBase % 2 ^ 32 + fld v 15 0 * 2 ^ 32 }) := rfl
theorem State.globalWrite_rstCtrl : s.globalWrite 0x2100 v =
    if fld v 31 24 ≠ 0x5A then s else if v.testBit 0 then s.dieResetRequest else s.benchReset (fld v 15 8) := rfl
theorem State.globalWrite_cap : s.globalWrite 0x400C v =
    s.upKettle (fun k => if 100 ≤ fld v 31 16 && fld v 31 16 ≤ k.capReset then { k with cap := fld v 31 16 } else k) := rfl
theorem State.globalWrite_throttle : s.globalWrite 0x4010 v =
    s.upKettle (fun k => if 85 ≤ fld v 7 0 && fld v 7 0 ≤ 100 then { k with throttleC := fld v 7 0 } else k) := rfl
theorem State.globalWrite_drain : s.globalWrite 0x4104 v = s.svcDrain v := rfl
theorem State.globalWrite_rate : s.globalWrite 0x4204 v = s.setRate (fld v 2 0) := rfl

/-- SVC_DRAIN with one of its bits set, or none. -/
theorem State.svcDrain_ack (h1 : v.testBit 1 = true) (h3 : v.testBit 3 = false) (h4 : v.testBit 4 = false) : s.svcDrain v = s.ackDrain := by
  simp only [State.svcDrain, h1, h3, h4, Bool.false_eq_true, if_false, if_true]
theorem State.svcDrain_cancel (h1 : v.testBit 1 = false) (h3 : v.testBit 3 = true) (h4 : v.testBit 4 = false) : s.svcDrain v = s.cancelDrain := by
  simp only [State.svcDrain, h1, h3, h4, Bool.false_eq_true, if_false, if_true]
theorem State.svcDrain_clear (h1 : v.testBit 1 = false) (h3 : v.testBit 3 = false) (h4 : v.testBit 4 = true) :
    s.svcDrain v = s.upDrain (fun d => { d with refused := false }) := by
  simp only [State.svcDrain, h1, h3, h4, Bool.false_eq_true, if_false, if_true]
theorem State.svcDrain_none (h1 : v.testBit 1 = false) (h3 : v.testBit 3 = false) (h4 : v.testBit 4 = false) : s.svcDrain v = s := by
  simp only [State.svcDrain, h1, h3, h4, Bool.false_eq_true, if_false]

/-- A change that the lock of the region bars leaves the state as it is. -/
theorem State.upCfg_locked (g : Cfg → Cfg) : s.upCfg (fun c => if c.regionLocked then c else g c) = if s.cfg.regionLocked then s else s.upCfg g := by
  by_cases h : s.cfg.regionLocked = true
  · rw [if_pos h]
    show { s with cfg := if s.cfg.regionLocked then s.cfg else g s.cfg } = s
    rw [if_pos h]
  · rw [if_neg h]
    show { s with cfg := if s.cfg.regionLocked then s.cfg else g s.cfg } = s.upCfg g
    rw [if_neg h]
    rfl

/-- A value outside its bounds leaves the state as it is. -/
theorem State.upKettle_within (lo hi : Kettle → Nat) (c : Nat) (g : Kettle → Kettle) : s.upKettle (fun k => if lo k ≤ c && c ≤ hi k then g k else k) =
    if lo s.kettle ≤ c ∧ c ≤ hi s.kettle then s.upKettle g else s := by
  by_cases h : lo s.kettle ≤ c ∧ c ≤ hi s.kettle
  · rw [if_pos h]
    show { s with kettle := if lo s.kettle ≤ c && c ≤ hi s.kettle then g s.kettle else s.kettle } = s.upKettle g
    rw [if_pos (by simpa using h)]
    rfl
  · rw [if_neg h]
    show { s with kettle := if lo s.kettle ≤ c && c ≤ hi s.kettle then g s.kettle else s.kettle } = s
    rw [if_neg (by simpa using h)]

end

/-! The fields of a 32-bit value (R9). -/

section
variable (v : Word)

theorem fld_31_24_word : fld v.toNat 31 24 = v.toNat / 2 ^ 24 := by
  have hv := v.isLt
  rw [fld_eq]
  omega

theorem fld_31_21_word : fld v.toNat 31 21 * 2 ^ 21 = v.toNat / 2 ^ 21 * 2 ^ 21 := by
  have hv := v.isLt
  rw [fld_eq]
  omega

theorem fld_31_6_word : fld v.toNat 31 6 * 64 = v.toNat / 64 * 64 := by
  have hv := v.isLt
  rw [fld_eq]
  omega

end

theorem fld_low (v n : Nat) : fld v n 0 = v % 2 ^ (n + 1) := by simp [fld_eq]

/-- The clauses of O42 about an open window. -/
theorem windowWrites_are_commands (s : State) (f p : Nat) (v : Word) :
    (let n := v.toNat
     let w (o : Nat) : Nat := 0x10000 + 0x10000 * p + o
     let ok (o : Nat) : Prop := (regAt s (w o)).isSome ∧ s.admits f p (w o) = true
     let sets (o : Nat) (g : Part → Part) : Prop := ok o → exec (.registerWrite f p (w o) v) s = .next (pump (s.upPart p g))
     let sameAs (o : Nat) (c : Instr) : Prop := ok o → exec (.registerWrite f p (w o) v) s = exec c s
     let does (o : Nat) (c : Instr) : Prop := ok o → ∃ t, exec c s = .next t ∧ exec (.registerWrite f p (w o) v) s = .next (pump t)
     let none_ (o : Nat) : Prop := ok o → exec (.registerWrite f p (w o) v) s = .next (pump s)
     p < 8 → s.windowOpen p = true →
      (∀ q, q < 16 → sameAs (0x8000 + 8 * q) (.partDb p q v)) ∧
      (∀ tag, tag < 256 → does (0x1000 + 8 * tag) (.partTagRootLo p tag v)) ∧
      sets 0xF0 (fun x => { x with scratch := v }) ∧ sets 0x0C (fun x => { x with slice := n % 2 ^ 16 }) ∧
      sets 0x208 (fun x => { x with stageAddr := x.stageAddr / 2 ^ 32 * 2 ^ 32 + n / 64 * 64 }) ∧
      sets 0x20C (fun x => { x with stageAddr := x.stageAddr % 2 ^ 32 + n % 2 ^ 16 * 2 ^ 32 }) ∧
      sets 0x210 (fun x => { x with stageLen := n % 2 ^ 27 }) ∧
      sets 0x74 (fun x => { x with badTag := x.badTag && !n.testBit 2 }) ∧ sets 0x7C (fun x => { x with badCmd := x.badCmd && !n.testBit 0 }) ∧
      sets 0x24 (fun x => { x with chest := { x.chest with refused := x.chest.refused && !n.testBit 3 } }) ∧
      sets 0x5C (fun x => { x with mig := { x.mig with acceptIgnored := x.mig.acceptIgnored && !n.testBit 4, poolError := x.mig.poolError && !n.testBit 3 } }) ∧
      (n.testBit 0 = true → sameAs 0x10 (.partReset p)) ∧ (n.testBit 0 = false → none_ 0x10) ∧
      (n.testBit 1 = true → does 0x20 (.chestInvalidate p)) ∧ (n.testBit 1 = false → n.testBit 0 = true → does 0x20 (.chestEnable p)) ∧
      (n.testBit 1 = false → n.testBit 0 = false → does 0x20 (.chestDisable p)) ∧
      (n.testBit 0 = true → sameAs 0x50 (.migPoolEnable p v)) ∧
      (n.testBit 31 = true → does 0x58 (.partMigAccept p (fld n 23 16) (fld n 11 0))) ∧ (n.testBit 31 = false → none_ 0x58) ∧
      does 0x70 (.partInvalTag p (n % 256)) ∧ (fld n 31 30 = 1 → does 0x78 (.faultResume p (n % 1024))) ∧
      (fld n 31 30 = 2 → sameAs 0x78 (.faultAbort p (n % 1024))) ∧ (fld n 31 30 = 0 ∨ fld n 31 30 = 3 → none_ 0x78) ∧
      (n % 16 = 1 → does 0x200 (.txnBegin p)) ∧ (n % 16 = 2 → sameAs 0x200 (.stage p)) ∧ (n % 16 = 3 → does 0x200 (.commit p)) ∧
      (n % 16 = 4 → sameAs 0x200 (.rollback p)) ∧ (n % 16 = 0 ∨ 4 < n % 16 → none_ 0x200) ∧
      (∀ q, q < 16 → n.testBit 0 = true → sameAs (0x400 + 0x20 * q) (.ringEnable p q v)) ∧
      (∀ q, q < 16 → n.testBit 0 = true → sameAs (0x600 + 0x20 * q) (.ringEnable p (16 + q) v)) ∧
      (∀ q, q < 16 → sameAs (0x610 + 0x20 * q) (.partCqHead p (16 + q) (n % 2 ^ 16)))) := by
  intro n w ok sets sameAs does none_ hp hopen
  have hwrite {o : Nat} {t : State} (ho : o < 0x10000) (hdone : o ≠ 0x14) (ht : s.windowWrite p o n = t) (hok : ok o) :
      exec (.registerWrite f p (w o) v) s = .next (pump t) :=
    next_pump_congr ((State.regWrite_open hp hopen ho hdone hok.1 hok.2).trans ht)
  have hin (g : State → State) : s.inWindow p g = g s := State.inWindow_of_open hopen g
  have hsame {o : Nat} {c : Instr} {g : State → State} (hc : exec c s = .next (pump (s.inWindow p g))) (ho : o < 0x10000) (hdone : o ≠ 0x14)
      (ht : s.windowWrite p o n = g s) : sameAs o c := fun hok => (hwrite ho hdone ht hok).trans ((next_pump_congr (hin g)).symm.trans hc.symm)
  have hdoes {o : Nat} {c : Instr} {g : State → State} (hc : exec c s = .next (s.inWindow p g)) (ho : o < 0x10000) (hdone : o ≠ 0x14)
      (ht : s.windowWrite p o n = g s) : does o c := fun hok => ⟨g s, hc.trans (next_congr (hin g)), hwrite ho hdone ht hok⟩
  refine ⟨fun q hq => hsame rfl (by omega) (by omega) (State.windowWrite_doorbell hq), fun tag ht => hdoes rfl (by omega) (by omega) (State.windowWrite_rootLo ht),
    hwrite (by decide) (by decide) ?_, hwrite (by decide) (by decide) ?_, hwrite (by decide) (by decide) ?_, hwrite (by decide) (by decide) ?_,
    hwrite (by decide) (by decide) ?_, hwrite (by decide) (by decide) rfl, hwrite (by decide) (by decide) rfl, hwrite (by decide) (by decide) rfl,
    hwrite (by decide) (by decide) rfl, fun hb => ?_, fun hb => ?_, fun hb => ?_, fun h1 h0 => ?_, fun h1 h0 => ?_, fun hb => ?_, fun hb => ?_, fun hb => ?_, ?_,
    fun hb => ?_, fun hb => ?_, fun hb => ?_, fun hb => ?_, fun hb => ?_, fun hb => ?_, fun hb => ?_, fun hb => ?_, fun q hq hb => ?_, fun q hq hb => ?_, fun q hq => ?_⟩
  · rw [State.windowWrite_scratch, BitVec.ofNat_toNat, BitVec.setWidth_eq]
  · rw [State.windowWrite_slice, fld_low]
  · rw [State.windowWrite_stageLo, fld_31_6_word]
  · rw [State.windowWrite_stageHi, fld_low]
  · rw [State.windowWrite_stageLen, fld_low]
  · exact fun hok => hwrite (by decide) (by decide) (State.windowWrite_reset.trans (if_pos hb)) hok
  · exact hwrite (by decide) (by decide) (State.windowWrite_reset.trans (if_neg (ne_true_of_eq_false hb)))
  · exact hdoes rfl (by decide) (by decide) (State.windowWrite_chest.trans (State.chestCtrl_invalidate hb))
  · exact hdoes rfl (by decide) (by decide) (State.windowWrite_chest.trans (State.chestCtrl_enable h1 h0))
  · exact hdoes rfl (by decide) (by decide) (State.windowWrite_chest.trans (State.chestCtrl_disable h1 h0))
  · refine hsame rfl (by decide) (by decide) (State.windowWrite_pool.trans ?_)
    rw [or_one_of_testBit hb]
  · exact hdoes rfl (by decide) (by decide) (State.windowWrite_accept.trans (if_pos hb))
  · exact hwrite (by decide) (by decide) (State.windowWrite_accept.trans (if_neg (ne_true_of_eq_false hb)))
  · refine hdoes rfl (by decide) (by decide) (State.windowWrite_inval.trans ?_)
    rw [fld_low]
    rfl
  · refine hdoes rfl (by decide) (by decide) (State.windowWrite_fault.trans ((State.faultCmd_resume hb).trans ?_))
    rw [fld_low]
    rfl
  · refine hsame rfl (by decide) (by decide) (State.windowWrite_fault.trans ((State.faultCmd_abort hb).trans ?_))
    rw [fld_low]
    rfl
  · exact hwrite (by decide) (by decide) (State.windowWrite_fault.trans (State.faultCmd_none hb))
  · refine fun hok => ⟨s.txnBegin p, rfl, hwrite (by decide) (by decide) (State.windowWrite_txn.trans ?_) hok⟩
    rw [fld_low, show n % 2 ^ (3 + 1) = 1 from hb]
    rfl
  · refine fun hok => hwrite (t := s.txnStage p) (by decide) (by decide) (State.windowWrite_txn.trans ?_) hok
    rw [fld_low, show n % 2 ^ (3 + 1) = 2 from hb]
    rfl
  · refine fun hok => ⟨s.txnCommit p, rfl, hwrite (by decide) (by decide) (State.windowWrite_txn.trans ?_) hok⟩
    rw [fld_low, show n % 2 ^ (3 + 1) = 3 from hb]
    rfl
  · refine fun hok => hwrite (t := s.txnRollback p) (by decide) (by decide) (State.windowWrite_txn.trans ?_) hok
    rw [fld_low, show n % 2 ^ (3 + 1) = 4 from hb]
    rfl
  · refine hwrite (by decide) (by decide) (State.windowWrite_txn.trans (State.txnCommand_none ?_))
    rw [fld_low]
    exact hb
  · refine hsame rfl (by omega) (by omega) ((State.windowWrite_sqBaseLo hq).trans ?_)
    rw [or_one_of_testBit hb]
  · refine hsame rfl (by omega) (by omega) ((State.windowWrite_cqBaseLo hq).trans ?_)
    rw [or_one_of_testBit hb]
  · refine hsame rfl (by omega) (by omega) ((State.windowWrite_cqHead hq).trans ?_)
    rw [fld_low]

/-- The clauses of O42 about global registers. -/
theorem globalWrites_are_commands (s : State) (f : Nat) (v : Word) :
    (let n := v.toNat
     let wr (off : Nat) : Host.Outcome State Fault Refusal := exec (.registerWrite f 0 off v) s
     let ok (off : Nat) : Prop := (regAt s off).isSome ∧ s.admits f 0 off = true
     (ok 0x1000 → wr 0x1000 = .next (pump (if s.cfg.regionLocked then s else s.upCfg (fun c =>
        { c with regionBase := c.regionBase / 2 ^ 32 * 2 ^ 32 + n / 2 ^ 21 * 2 ^ 21, regionValid := n.testBit 0 })))) ∧
      (ok 0x1004 → wr 0x1004 = .next (pump (if s.cfg.regionLocked then s else s.upCfg (fun c => { c with regionBase := c.regionBase % 2 ^ 32 + n % 2 ^ 16 * 2 ^ 32 })))) ∧
      (ok 0x2000 → wr 0x2000 = .next (pump (s.upClk (fun c => { c with xaLost := c.xaLost && !n.testBit 10, xbLost := c.xbLost && !n.testBit 13 })))) ∧
      (ok 0x2100 → (n / 2 ^ 24 ≠ 0x5A → wr 0x2100 = .next (pump s)) ∧ (n / 2 ^ 24 = 0x5A → n.testBit 0 = true → wr 0x2100 = exec .dieResetRequest s) ∧
        (n / 2 ^ 24 = 0x5A → n.testBit 0 = false → wr 0x2100 = exec (.benchReset (n / 2 ^ 8 % 2 ^ 8)) s)) ∧
      (∀ g, g < 4 → ok (0x3004 + 0x400 * g) → wr (0x3004 + 0x400 * g) = exec (.retrain g (n % 64)) s) ∧
      (ok 0x400C → wr 0x400C = .next (pump (if 100 ≤ n / 2 ^ 16 ∧ n / 2 ^ 16 ≤ s.kettle.capReset then s.upKettle (fun k => { k with cap := n / 2 ^ 16 }) else s))) ∧
      (ok 0x4010 → wr 0x4010 = .next (pump (if 85 ≤ n % 256 ∧ n % 256 ≤ 100 then s.upKettle (fun k => { k with throttleC := n % 256 }) else s))) ∧
      (ok 0x4104 → (n.testBit 1 = true → n.testBit 3 = false → n.testBit 4 = false → ∃ t, exec .svcDrainAck s = .next t ∧ wr 0x4104 = .next (pump t)) ∧
        (n.testBit 1 = false → n.testBit 3 = true → n.testBit 4 = false → ∃ t, exec .svcDrainCancel s = .next t ∧ wr 0x4104 = .next (pump t)) ∧
        (n.testBit 1 = false → n.testBit 3 = false → n.testBit 4 = true → wr 0x4104 = .next (pump (s.upDrain (fun d => { d with refused := false })))) ∧
        (n.testBit 1 = false → n.testBit 3 = false → n.testBit 4 = false → wr 0x4104 = .next (pump s))) ∧
      (ok 0x4200 → ∃ t, exec (.monUnlock v) s = .next t ∧ wr 0x4200 = .next (pump t)) ∧
      (ok 0x4204 → ∃ t, exec (.monUart (n % 8)) s = .next t ∧ wr 0x4204 = .next (pump t)) ∧
      (∀ e, e < 16 → ok (0x600C + 16 * e) → wr (0x600C + 16 * e) = .next (pump (if n % 2 ^ 16 = 0 ∨ s.stacks.length ≤ e then s
        else s.upWindow e (fun w => { w with peak := n % 2 ^ 16 }))))) := by
  intro n wr ok
  have hwrite {off : Nat} {t : State} (hoff : off < 0x10000) (ht : s.globalWrite off n = t) (hok : ok off) : wr off = .next (pump t) :=
    next_pump_congr ((State.regWrite_global hok.1 hok.2 (regWindow_global hoff)).trans ((if_neg (by simp)).trans ht))
  refine ⟨hwrite (by decide) ?_, hwrite (by decide) ?_, hwrite (by decide) rfl, fun hok => ⟨fun hb => ?_, fun hb h0 => ?_, fun hb h0 => ?_⟩, fun g hg hok => ?_,
    hwrite (by decide) ?_, hwrite (by decide) ?_, fun hok => ⟨fun h1 h3 h4 => ⟨_, rfl, ?_⟩, fun h1 h3 h4 => ⟨_, rfl, ?_⟩, fun h1 h3 h4 => ?_, fun h1 h3 h4 => ?_⟩,
    fun hok => ⟨_, rfl, hwrite (by decide) rfl hok⟩, fun hok => ⟨_, rfl, hwrite (by decide) ?_ hok⟩, fun e he hok => ?_⟩
  · rw [State.globalWrite_regionLo, fld_31_21_word]
    exact State.upCfg_locked _
  · rw [State.globalWrite_regionHi, fld_low]
    exact State.upCfg_locked _
  · refine hwrite (by decide) (State.globalWrite_rstCtrl.trans (if_pos ?_)) hok
    rw [fld_31_24_word]
    exact hb
  · refine hwrite (t := s.dieResetRequest) (by decide) (State.globalWrite_rstCtrl.trans ((if_neg ?_).trans (if_pos h0))) hok
    rw [fld_31_24_word]
    exact not_not.2 hb
  · refine hwrite (t := s.benchReset (n / 2 ^ 8 % 2 ^ 8)) (by decide) (State.globalWrite_rstCtrl.trans ((if_neg ?_).trans ((if_neg (ne_true_of_eq_false h0)).trans ?_))) hok
    · rw [fld_31_24_word]
      exact not_not.2 hb
    · rw [fld_eq]
  · refine hwrite (t := s.retrain g (n % 64)) (by omega) ((State.globalWrite_face hg).trans ?_) hok
    rw [fld_low]
    rfl
  · rw [State.globalWrite_cap, fld_31_16]
    exact State.upKettle_within (fun _ => 100) (fun k => k.capReset) (n / 2 ^ 16) (fun k => { k with cap := n / 2 ^ 16 })
  · rw [State.globalWrite_throttle, fld_low]
    exact State.upKettle_within (fun _ => 85) (fun _ => 100) (n % 256) (fun k => { k with throttleC := n % 256 })
  · exact hwrite (by decide) (State.globalWrite_drain.trans (State.svcDrain_ack h1 h3 h4)) hok
  · exact hwrite (by decide) (State.globalWrite_drain.trans (State.svcDrain_cancel h1 h3 h4)) hok
  · exact hwrite (by decide) (State.globalWrite_drain.trans (State.svcDrain_clear h1 h3 h4)) hok
  · exact hwrite (by decide) (State.globalWrite_drain.trans (State.svcDrain_none h1 h3 h4)) hok
  · rw [State.globalWrite_rate, fld_low]
    rfl
  · refine hwrite (by omega) ((State.globalWrite_peak he).trans ?_) hok
    unfold State.setPeak
    simp only [fld_low, Bool.or_eq_true, decide_eq_true_eq, ge_iff_le, Nat.reduceAdd]

end Sys2Proof.Machine

open Sys2Proof Sys2Proof.Machine

/-- Settles O42: every clause is the equation of `State.windowWrite` or `State.globalWrite` at its offset. -/
theorem registerWritesAreTheirCommands : Obligations.RegisterWritesAreTheirCommands := by
  intro s f p v
  refine ⟨fun off => exec_same _ s (by simp), fun off h => next_pump_congr (State.regWrite_unassigned h), fun off h hadm hoff hp => next_pump_congr ?_,
    fun off o h hadm hoff hbusy ho => next_pump_congr ?_, fun off h hadm hoff => next_pump_congr ?_,
    fun off h hadm hreset => ⟨_, rfl, next_pump_congr ?_⟩, ?_, ?_⟩
  · rw [State.regWrite_global h hadm hoff, if_pos hp]
  · rw [State.regWrite_window h hadm hoff, if_neg ho, if_pos hbusy]
  · rw [State.regWrite_window h hadm hoff, if_pos rfl]
    rfl
  · rw [State.regWrite_foreign h hadm hreset, State.foreign]
    simp only [satAdd_one]
  · exact windowWrites_are_commands s f p v
  · exact globalWrites_are_commands s f v
end

section
/-! SUPPORT. Which failing check decides, the outcomes of stage 2, and the fetch of an entry; O48. -/

namespace Sys2Proof.Machine

/-! ### The failing check that decides -/

/-- The failing check `x` goes before every other of the list, or has the lowest detail among its like (R123). -/
def Lowest (l : List (Nat × Nat)) (x : Nat × Nat) : Prop := x ∈ l ∧ ∀ y ∈ l, x.1 < y.1 ∨ (x.1 = y.1 ∧ x.2 ≤ y.2)

theorem firstFail_concat (l : List (Nat × Nat)) (x : Nat × Nat) : firstFail (l ++ [x]) =
    match firstFail l with
    | none => some x
    | some y => if x.1 < y.1 || (x.1 == y.1 && x.2 < y.2) then some x else some y := by
  unfold firstFail
  rw [List.foldl_append] <;> rfl

theorem lowest_firstFail {l : List (Nat × Nat)} : (firstFail l = none ∧ l = []) ∨ ∃ x, firstFail l = some x ∧ Lowest l x := by
  induction l using List.reverseRecOn with
  | nil => exact .inl ⟨rfl, rfl⟩
  | append_singleton l x ih =>
    refine .inr ?_
    rw [firstFail_concat]
    obtain ⟨hnone, rfl⟩ | ⟨y, hy, hmem, hle⟩ := ih
    · rw [hnone]
      exact ⟨x, rfl, by simp, by simp⟩
    · rw [hy]
      by_cases hlt : x.1 < y.1 ∨ (x.1 = y.1 ∧ x.2 < y.2)
      · refine ⟨x, by simp [hlt], by simp, fun z hz => ?_⟩
        obtain hz | rfl := List.mem_append.1 hz |>.imp_right List.mem_singleton.1
        · have := hle z hz
          omega
        · exact .inr ⟨rfl, le_rfl⟩
      · refine ⟨y, by simp [hlt], List.mem_append_left _ hmem, fun z hz => ?_⟩
        obtain hz | rfl := List.mem_append.1 hz |>.imp_right List.mem_singleton.1
        · exact hle z hz
        · omega

theorem firstFail_of_lowest {l : List (Nat × Nat)} {x : Nat × Nat} (h : Lowest l x) : firstFail l = some x := by
  obtain ⟨hmem, hle⟩ := h
  obtain ⟨-, rfl⟩ | ⟨y, hy, hymem, hyle⟩ := lowest_firstFail (l := l)
  · cases hmem
  · have h1 := hle y hymem
    have h2 := hyle x hmem
    rw [hy, Prod.ext (by omega : y.1 = x.1) (by omega : y.2 = x.2)]

/-! ### The outcomes of stage 2 -/

section
variable {s u : State} {o w : Order} {n : OpName} {f : Nat × Nat} {vs : List (Nat × Nat × Nat)}

theorem firstFail_nil : firstFail [] = none := rfl

theorem withRecords_name (s : State) (l : List Sec) (o : Order) (n : OpName) : (s.withRecords l o n).name = o.name := rfl
theorem withRecords_p (s : State) (l : List Sec) (o : Order) (n : OpName) : (s.withRecords l o n).p = o.p := rfl
theorem withRecords_session (s : State) (l : List Sec) (o : Order) (n : OpName) : (s.withRecords l o n).session = o.session := rfl

theorem State.stage2_of_unknown (ho : s.order? o.id = some o) (hopen : (o.phase != .stage2 || o.status.isSome || o.faulty || s.fenceHeld o) = false)
    (hname : o.name = none) : s.stage2 o.id = s.endOrder o.id 0x3F 0 := by
  have hfail : firstFail ((s.ownFails o).filter (fun x => x.1 ≤ 3)) = some (1, 0) := by
    refine firstFail_of_lowest ?_
    unfold State.ownFails failIf Lowest
    rw [hname]
    cases s.draining <;> simp
  simp only [State.stage2, ho, hopen, hname, hfail, Bool.false_eq_true, if_false]
  rfl

variable (ho : s.order? o.id = some o) (hopen : (o.phase != .stage2 || o.status.isSome || o.faulty || s.fenceHeld o) = false)
  (hname : o.name = some n) (hw : w = s.withRecords o.book o n)
include ho hopen hname hw

theorem State.stage2_of_ownFail (hfail : firstFail ((s.ownFails w).filter (fun x => x.1 ≤ 3)) = some f) :
    s.stage2 o.id = s.endOrder o.id (failStatus f.1) f.2 := by
  simp only [State.stage2, ho, hopen, hname, ← hw, hfail, Bool.false_eq_true, if_false]

variable (hown : (s.ownFails w).filter (fun x => x.1 ≤ 3) = [])
include hown

theorem State.stage2_of_noDescs (hr : s.readDescs o.id (w.descs.filter (fun d => (s.pe o.p).hasTag (eaTag d.2))) = (u, none)) : s.stage2 o.id = u := by
  subst hw
  simp only [State.stage2, ho, hopen, hname, hown, firstFail_nil, withRecords_name, withRecords_p, hr, Bool.false_eq_true, if_false]

variable {xs : List (Stream × Nat)} (hr : s.readDescs o.id (w.descs.filter (fun d => (s.pe o.p).hasTag (eaTag d.2))) = (u, some vs))
  (hxs : vs.map (fun d => (readDesc d.1 d.2.1 d.2.2, d.2.2)) = xs)
include hr hxs

theorem State.stage2_of_descFail
    (hfail : firstFail (s.ownFails w ++ xs.flatMap (fun x => descFails (s.pe o.p) n x.1 x.2) ++ countFails w n (xs.map Prod.fst)) = some f) :
    s.stage2 o.id = u.endOrder o.id (failStatus f.1) f.2 := by
  subst hw
  simp only [State.stage2, ho, hopen, hname, hown, firstFail_nil, withRecords_name, withRecords_p, hr, hxs, hfail, Bool.false_eq_true, if_false]

variable (hfits : firstFail (s.ownFails w ++ xs.flatMap (fun x => descFails (s.pe o.p) n x.1 x.2) ++ countFails w n (xs.map Prod.fst)) = none)
include hfits

theorem State.stage2_of_rearm {off a bits : Nat} (harmed : u.rearm o.p [] w.descs = some (off, a, bits)) :
    s.stage2 o.id = (u.orderEvent w 0x0005 a bits).endOrder o.id 0x23 off := by
  subst hw
  simp only [State.stage2, ho, hopen, hname, hown, firstFail_nil, withRecords_name, withRecords_p, hr, hxs, hfits, harmed, Bool.false_eq_true, if_false]

theorem State.stage2_of_unarmed (harmed : u.rearm o.p [] w.descs = none) : s.stage2 o.id =
    if (u.ctx? o.p o.session).any Ctx.poisoned && !(n = .park && (w.f 25 1).testBit 0) then u.endOrder o.id 0x10 0
    else u.pass w (xs.map Prod.fst) := by
  subst hw
  simp only [State.stage2, ho, hopen, hname, hown, firstFail_nil, withRecords_name, withRecords_p, withRecords_session, hr, hxs, hfits, harmed, Bool.false_eq_true, if_false]

end

/-! ### The check for rearmed descriptors -/

theorem State.rearm_skip {s : State} {p : Nat} {seen : List Nat} {l r : List (Nat × Nat)} (hfree : ∀ x ∈ l, s.armedAt p x.2 = none)
    (hnodup : (l.map Prod.snd).Nodup) (hnew : ∀ x ∈ l, x.2 ∉ seen) :
    s.rearm p seen (l ++ r) = s.rearm p ((l.map Prod.snd).reverse ++ seen) r := by
  induction l generalizing seen with
  | nil => rfl
  | cons x l ih =>
    obtain ⟨hfirst, hrest⟩ := List.nodup_cons.1 hnodup
    have hx : s.armedAt p x.2 = none := hfree x (by simp)
    have hseen : seen.contains x.2 = false := by simpa using hnew x (by simp)
    have hstep : s.rearm p seen (x :: l ++ r) = s.rearm p (x.2 :: seen) (l ++ r) := by
      simp only [List.cons_append, State.rearm, hx, hseen, Bool.false_eq_true, if_false]
    rw [hstep, ih (fun y hy => hfree y (by simp [hy])) hrest]
    · simp
    · intro y hy hmem
      obtain heq | hmem := List.mem_cons.1 hmem
      · exact hfirst (List.mem_map.2 ⟨y, hy, heq⟩)
      · exact hnew y (by simp [hy]) hmem

theorem State.rearm_none {s : State} {p : Nat} {l : List (Nat × Nat)} (hfree : ∀ x ∈ l, s.armedAt p x.2 = none) (hnodup : (l.map Prod.snd).Nodup) :
    s.rearm p [] l = none := by
  have h := State.rearm_skip (r := []) hfree hnodup (seen := []) (by simp)
  rwa [List.append_nil] at h

theorem State.rearm_first {s : State} {p f a b : Nat} {l r : List (Nat × Nat)} (hfree : ∀ x ∈ l, s.armedAt p x.2 = none) (hnodup : (l.map Prod.snd).Nodup)
    (harmed : s.armedAt p a = some b ∨ (s.armedAt p a = none ∧ a ∈ l.map Prod.snd ∧ b = 1)) : s.rearm p [] (l ++ (f, a) :: r) = some (f, a, b) := by
  rw [State.rearm_skip hfree hnodup (by simp)]
  obtain h | ⟨h, hmem, rfl⟩ := harmed
  · simp only [State.rearm, h]
  · have hc : ((l.map Prod.snd).reverse ++ []).contains a = true := by simpa using hmem
    simp only [State.rearm, h, hc, if_true]

/-! ### The own fields of an order with a known opcode -/

section
variable {s : State} {w : Order} {n : OpName} (hname : w.name = some n)
include hname

theorem State.ownFails_of_name : s.ownFails w = s.headerFails w n ++ s.bodyFails w n ++ failIf s.draining 2 0 ++ unitFails s.variant n := by
  simp only [State.ownFails, hname]

theorem mem_unitFails {v : Variant} {x : Nat × Nat} (h : x ∈ unitFails v n) : x.1 = 3 := by
  unfold unitFails failIf at h
  split at h <;> simp at h <;> simp [h]

theorem State.ownFails_lowest_own {k : Nat} (h : Lowest (s.headerFails w n ++ s.bodyFails w n) (1, k)) :
    firstFail ((s.ownFails w).filter (fun x => x.1 ≤ 3)) = some (1, k) := by
  obtain ⟨hmem, hle⟩ := h
  rw [State.ownFails_of_name hname]
  refine firstFail_of_lowest ⟨by simp at hmem ⊢; tauto, fun y hy => ?_⟩
  obtain hy | hy := List.mem_append.1 (List.mem_filter.1 hy).1
  · obtain hy | hy := List.mem_append.1 hy
    · exact hle y hy
    · unfold failIf at hy
      split at hy <;> simp at hy
      exact .inl (by simp [hy])
  · have h3 := mem_unitFails hname hy
    exact .inl (by simp [h3])

variable (hfits : ∀ x ∈ s.headerFails w n ++ s.bodyFails w n, 3 < x.1)
include hfits

theorem State.ownFails_filter_of_fits : (s.ownFails w).filter (fun x => x.1 ≤ 3) = failIf s.draining 2 0 ++ unitFails s.variant n := by
  rw [State.ownFails_of_name hname, List.append_assoc, List.filter_append, List.filter_eq_nil_iff.2 (fun x hx => by simpa using hfits x hx), List.nil_append]
  refine List.filter_eq_self.2 fun x hx => ?_
  obtain hx | hx := List.mem_append.1 hx
  · unfold failIf at hx
    split at hx <;> simp at hx
    simp [hx]
  · simp [mem_unitFails hname hx]

theorem State.ownFails_draining (hdrain : s.draining = true) : firstFail ((s.ownFails w).filter (fun x => x.1 ≤ 3)) = some (2, 0) := by
  rw [State.ownFails_filter_of_fits hname hfits, hdrain]
  refine firstFail_of_lowest ⟨by simp [failIf], fun y hy => ?_⟩
  obtain hy | hy := List.mem_append.1 hy
  · simp [failIf] at hy
    simp [hy]
  · exact .inl (by rw [mem_unitFails hname hy]; decide)

theorem State.ownFails_unit (hdrain : s.draining = false) {x : Nat × Nat} (hunit : unitFails s.variant n = [x]) :
    firstFail ((s.ownFails w).filter (fun x => x.1 ≤ 3)) = some x := by
  rw [State.ownFails_filter_of_fits hname hfits, hdrain, hunit]
  rfl

theorem State.ownFails_passed (hdrain : s.draining = false) (hunit : unitFails s.variant n = []) :
    (s.ownFails w).filter (fun x => x.1 ≤ 3) = [] := by
  rw [State.ownFails_filter_of_fits hname hfits, hdrain, hunit]
  rfl

end

/-! ### Fetching an entry -/

section
variable {s u : State} {p q : Nat} (hnone : (s.liveOf p).find? (fun o => o.q == q && o.phase == .stage2) = none)
include hnone

theorem State.orderFetch_of_ineligible (hel : s.eligible p q = false) : s.orderFetch p q = s := by
  simp only [State.orderFetch, hnone, hel, Bool.false_eq_true, if_false]

theorem State.orderFetch_of_eligible (hel : s.eligible p q = true) : s.orderFetch p q = s.fetchEntry p q := by
  simp only [State.orderFetch, hnone, hel, if_true]

end

section
variable {s u : State} {p q pa : Nat} {wr : Bool} {h : Held}
  (hx : s.xlate p (eaAdd (s.sq p q).base (128 * (s.sq p q).head)) false (.ring p q) = (u, .ok pa wr))
include hx

theorem State.fetchEntry_of_missing (hheld : u.heldLine (.ring p q) (pa / 128) = none) : s.fetchEntry p q =
    u.ask (.ring p q) p none (u.hostFace p) [pa / 128] (u.spaceAt p (s.sq p q).base) := by
  simp only [State.fetchEntry, hx, hheld]

theorem State.fetchEntry_of_poisoned (hheld : u.heldLine (.ring p q) (pa / 128) = some h) (hpois : h.poisoned = true) :
    s.fetchEntry p q = (u.quitReads (.ring p q)).ringError p q 2 := by
  simp only [State.fetchEntry, hx, hheld, hpois, if_true]

theorem State.fetchEntry_of_turn (hheld : u.heldLine (.ring p q) (pa / 128) = some h) (hpois : h.poisoned = false) (hturn : u.nextRing p = some q) :
    s.fetchEntry p q = u.takeOrder p q h.bytes := by
  simp only [State.fetchEntry, hx, hheld, hpois, hturn, Bool.false_eq_true, if_false, if_true]

end

/-- The order that an entry read from a ring becomes, before its session counts it (R32, R64, R100). -/
def State.takenOrder (s : State) (p q : Nat) (bytes : Line) : Order :=
  let x := s.sq p q
  let o0 : Order := { id := s.nextId, p := p, q := q, slot := x.head, cq := x.cq, bytes := bytes, epoch := s.cfg.epoch,
                      book := s.cfg.live.filter (fun y => y.owner == p) }
  let o := match o0.name with | some n => s.withRecords o0.book o0 n | none => o0
  let before := ((s.liveOf p).filter (fun a => o.moves && o.session ≠ 0xFFFF && a.moves && a.session == o.session)).map Order.id
  { o with after := before, waitFor := s.waitList o }

/-- The state in which an entry read from a ring begins its stage 2. -/
def State.entryTaken (s : State) (p q : Nat) (bytes : Line) : State :=
  let o := s.takenOrder p q bytes
  let s1 := (s.fresh.quitReads (.ring p q)).upPart p (fun y => { (y.upSq q (fun z => { z with head := (z.head + 1) % z.size })) with turn := (q + 1) % 16 })
  { s1 with orders := s1.orders ++ [o] }.upCtx p o.session (fun c => { c with fetched := (c.fetched + 1) % 2 ^ 64, hinted := false })

theorem State.takeOrder_eq (s : State) (p q : Nat) (bytes : Line) : s.takeOrder p q bytes = (s.entryTaken p q bytes).stage2 s.nextId := by
  have hid : (s.takenOrder p q bytes).id = s.nextId := by
    unfold State.takenOrder
    dsimp only
    split <;> rfl
  rw [← hid]
  rfl

theorem State.takenOrder_fields (s : State) (p q : Nat) (bytes : Line) : ∃ o, o = s.takenOrder p q bytes ∧ o.id = s.nextId ∧ o.p = p ∧ o.q = q ∧
    o.slot = (s.sq p q).head ∧ o.cq = (s.sq p q).cq ∧ o.bytes = bytes ∧ o.epoch = s.cfg.epoch ∧
    o.book = s.cfg.live.filter (fun y => y.owner == p) ∧ o.phase = .stage2 ∧ o.status = none := by
  refine ⟨_, rfl, ?_⟩
  unfold State.takenOrder
  dsimp only
  split <;> exact ⟨rfl, rfl, rfl, rfl, rfl, rfl, rfl, rfl, rfl, rfl⟩

theorem State.entryTaken_orders (s : State) (p q : Nat) (bytes : Line) : (s.entryTaken p q bytes).orders = s.orders ++ [s.takenOrder p q bytes] := rfl
theorem State.entryTaken_nextId (s : State) (p q : Nat) (bytes : Line) : (s.entryTaken p q bytes).nextId = s.nextId + 1 := rfl

theorem State.entryTaken_part {s : State} {p : Nat} (hp : p < s.parts.length) (q : Nat) (bytes : Line) : (s.entryTaken p q bytes).part p =
    { ((s.part p).upSq q (fun z => { z with head := (z.head + 1) % z.size })) with turn := (q + 1) % 16 } := by
  have h := State.part_upPart_same (s.fresh.quitReads (.ring p q)) p
    (fun y => { (y.upSq q (fun z => { z with head := (z.head + 1) % z.size })) with turn := (q + 1) % 16 }) hp
  exact h

theorem State.entryTaken_sq {s : State} {p q : Nat} (hp : p < s.parts.length) (hq : q < (s.part p).sq.length) (bytes : Line) :
    (s.entryTaken p q bytes).sq p q = { s.sq p q with head := ((s.sq p q).head + 1) % 2 ^ (s.sq p q).log2 } := by
  unfold State.sq
  rw [State.entryTaken_part hp]
  exact getD_modify_same _ _ _ _ hq

/-! ### Leaving the wait of a ring head -/

section
variable {s : State} {o : Order} (ho : s.order? o.id = some o) (hstatus : o.status = none) (hwait : o.phase = .waiting)
include ho hstatus hwait

theorem State.orderProceed_of_held (hheld : s.fenceHeld o = true ∨ s.waitsOnPause o = true) : s.orderProceed o.id = s := by
  have h : (s.fenceHeld o || s.waitsOnPause o) = true := by simpa using hheld
  simp only [State.orderProceed, ho, hstatus, hwait, h, Option.isSome_none, Bool.false_eq_true, if_false, if_true]

theorem State.orderProceed_of_pinned (hfence : s.fenceHeld o = false) (hpin : o.pinned = true) : s.orderProceed o.id =
    if o.moves then s.enter o.id
    else if o.op = 0x0A ∨ o.name = some .pause then s
    else s.upOrder o.id (fun o => { o with phase := .running }) := by
  have hpause : s.waitsOnPause o = false := by simp [State.waitsOnPause, hpin]
  have hagain : s.pinAgain o = (s, true) := by simp only [State.pinAgain, hpin, if_true]
  simp only [State.orderProceed, ho, hstatus, hwait, hfence, hpause, hagain, Option.isSome_none, Bool.false_eq_true, if_false, Bool.or_self, Bool.or_eq_true,
    decide_eq_true_eq]

end

theorem State.enter_without_session {s : State} {o : Order} (ho : s.order? o.id = some o) (hsession : o.session = 0xFFFF) :
    s.enter o.id = (s.upOrder o.id (fun o => { o with phase := .stage3 })).stage3 o.id := by
  simp only [State.enter, ho, hsession, if_true]

theorem order?_endOrder {s : State} {o : Order} (ho : s.order? o.id = some o) (hstatus : o.status = none) (st k : Nat) :
    (s.endOrder o.id st k).order? o.id = some { o with status := some (st, k), phase := .ending, waitFor := [], outPa := [] } := by
  rw [State.endOrder_of_undecided ho hstatus]
  have h := order?_upOrder_self s o.id (fun x => x.decided st k) (fun _ h => h)
  rw [ho] at h
  exact h

theorem unitFails_l4 {n : OpName} (h : n ∈ [OpName.recall, .score, .accLoad, .accStore]) : unitFails .l4 n = [(3, 1)] := by
  fin_cases h <;> rfl

theorem unitFails_s8 {n : OpName} (h : n ∈ [OpName.scatter, .append]) : unitFails .s8 n = [(3, 2)] := by
  fin_cases h <;> rfl

section
variable {s u : State} {o w : Order} {n : OpName} (ho : s.order? o.id = some o)
  (hopen : (o.phase != .stage2 || o.status.isSome || o.faulty || s.fenceHeld o) = false) (hname : o.name = some n) (hw : w = s.withRecords o.book o n)
include ho hopen hname hw

theorem State.stage2_of_lowest {k : Nat} (h : Lowest (s.headerFails w n ++ s.bodyFails w n) (1, k)) : s.stage2 o.id = s.endOrder o.id 0x3F k := by
  have hwname : w.name = some n := by rw [hw]; exact hname
  exact State.stage2_of_ownFail (f := (1, k)) ho hopen hname hw (State.ownFails_lowest_own hwname h)

variable (hfits : ∀ x ∈ s.headerFails w n ++ s.bodyFails w n, 3 < x.1)
include hfits

theorem State.stage2_of_drain (hdrain : s.draining = true) : s.stage2 o.id = s.endOrder o.id 0x22 0 := by
  have hwname : w.name = some n := by rw [hw]; exact hname
  exact State.stage2_of_ownFail (f := (2, 0)) ho hopen hname hw (State.ownFails_draining hwname hfits hdrain)

theorem State.stage2_of_unit (hdrain : s.draining = false) {k : Nat} (hunit : unitFails s.variant n = [(3, k)]) :
    s.stage2 o.id = s.endOrder o.id 0x20 k := by
  have hwname : w.name = some n := by rw [hw]; exact hname
  exact State.stage2_of_ownFail (f := (3, k)) ho hopen hname hw (State.ownFails_unit hwname hfits hdrain hunit)

end

/-- What stage 2 comes to once the descriptors are read (R123, R135 to R141). -/
theorem State.stage2_of_descriptors {s u : State} {o w : Order} {n : OpName} {vs : List (Nat × Nat × Nat)} {xs : List (Stream × Nat)}
    {fails : List (Nat × Nat)} (ho : s.order? o.id = some o)
    (hopen : (o.phase != .stage2 || o.status.isSome || o.faulty || s.fenceHeld o) = false) (hname : o.name = some n)
    (hw : w = s.withRecords o.book o n) (hfits : ∀ x ∈ s.headerFails w n ++ s.bodyFails w n, 3 < x.1) (hdrain : s.draining = false)
    (hunit : unitFails s.variant n = []) (hr : s.readDescs o.id (w.descs.filter (fun d => (s.pe o.p).hasTag (eaTag d.2))) = (u, some vs))
    (hxs : vs.map (fun d => (readDesc d.1 d.2.1 d.2.2, d.2.2)) = xs)
    (hfails : s.headerFails w n ++ s.bodyFails w n ++ xs.flatMap (fun x => descFails (s.pe o.p) n x.1 x.2) ++ countFails w n (xs.map Prod.fst) = fails) :
    (∀ c k, Lowest fails (c, k) → (c = 1 ∨ c = 4 → s.stage2 o.id = u.endOrder o.id 0x3F k) ∧ (c = 5 → s.stage2 o.id = u.endOrder o.id 0x21 k)) ∧
    (∀ l f a r b, fails = [] → w.descs = l ++ (f, a) :: r → (∀ x ∈ l, u.armedAt o.p x.2 = none) → (l.map Prod.snd).Nodup →
      u.armedAt o.p a = some b ∨ (u.armedAt o.p a = none ∧ a ∈ l.map Prod.snd ∧ b = 1) →
      s.stage2 o.id = (u.orderEvent w 0x0005 a b).endOrder o.id 0x23 f) ∧
    (fails = [] → (∀ x ∈ w.descs, u.armedAt o.p x.2 = none) → (w.descs.map Prod.snd).Nodup →
      (u.ctx? o.p o.session).any Ctx.poisoned = false → s.stage2 o.id = u.pass w (xs.map Prod.fst)) ∧
    (fails = [] → (∀ x ∈ w.descs, u.armedAt o.p x.2 = none) → (w.descs.map Prod.snd).Nodup →
      (u.ctx? o.p o.session).any Ctx.poisoned = true → n ≠ .park → s.stage2 o.id = u.endOrder o.id 0x10 0) := by
  have hwname : w.name = some n := by rw [hw]; exact hname
  have hown : (s.ownFails w).filter (fun x => x.1 ≤ 3) = [] := State.ownFails_passed hwname hfits hdrain hunit
  have hall : s.ownFails w ++ xs.flatMap (fun x => descFails (s.pe o.p) n x.1 x.2) ++ countFails w n (xs.map Prod.fst) = fails := by
    rw [← hfails, State.ownFails_of_name hwname, hdrain, hunit]
    simp [failIf]
  have hfail {c k : Nat} (h : Lowest fails (c, k)) : s.stage2 o.id = u.endOrder o.id (failStatus c) k :=
    State.stage2_of_descFail (f := (c, k)) ho hopen hname hw hown hr hxs (hall ▸ firstFail_of_lowest h)
  have hfit (h : fails = []) : firstFail (s.ownFails w ++ xs.flatMap (fun x => descFails (s.pe o.p) n x.1 x.2) ++ countFails w n (xs.map Prod.fst)) = none := by
    rw [hall, h]
    rfl
  refine ⟨fun c k hlow => ⟨fun hc => ?_, fun hc => ?_⟩, fun l f a r b hnil hl hfree hnodup harmed => ?_, fun hnil hfree hnodup hpois => ?_,
    fun hnil hfree hnodup hpois hpark => ?_⟩
  · rw [hfail hlow]
    obtain rfl | rfl := hc <;> rfl
  · rw [hfail hlow, hc]
    rfl
  · refine State.stage2_of_rearm ho hopen hname hw hown hr hxs (hfit hnil) ?_
    rw [hl]
    exact State.rearm_first hfree hnodup harmed
  · rw [State.stage2_of_unarmed ho hopen hname hw hown hr hxs (hfit hnil) (State.rearm_none hfree hnodup), hpois]
    rfl
  · rw [State.stage2_of_unarmed ho hopen hname hw hown hr hxs (hfit hnil) (State.rearm_none hfree hnodup), hpois, decide_eq_false hpark]
    rfl

theorem mem_failIf {c : Bool} {k d : Nat} (h : c = true) : (k, d) ∈ failIf c k d := by simp [failIf, h]

end Sys2Proof.Machine

open Sys2Proof Sys2Proof.Machine

/-- Settles O48: an entry read in its ring's turn begins stage 2 under the next number, and stage 2 ends with the failing check of the
lowest number and detail, in the order of R123, then with the first descriptor that a stream holds. -/
theorem ordersAreFetchedInTurn : Obligations.OrdersAreFetchedInTurn := by
  unfold Obligations.OrdersAreFetchedInTurn
  intro s p q
  have hfetch : exec (.orderFetch p q) s = .next (pump (s.orderFetch p q)) := rfl
  have hproceed (i : Nat) : exec (.orderProceed i) s = .next (pump (s.orderProceed i)) := rfl
  have hfound {o : Order} (h : (s.liveOf p).find? (fun o => o.q == q && o.phase == .stage2) = some o) : s.orderFetch p q = s.stage2 o.id := by
    simp only [State.orderFetch, h]
  have hopen {o : Order} (h : (s.liveOf p).find? (fun o => o.q == q && o.phase == .stage2) = some o) (hstatus : o.status = none)
      (hfaulty : o.faulty = false) (hfence : s.fenceHeld o = false) : (o.phase != .stage2 || o.status.isSome || o.faulty || s.fenceHeld o) = false := by
    have hphase := List.find?_some h
    simp at hphase
    simp [hphase, hstatus, hfaulty, hfence]
  refine ⟨fun o h => ?_, fun hnone => ⟨fun hel => ?_, fun hel u x y hx => ?_, fun hel u pa wr hx => ⟨fun hheld => ?_, fun h hheld hpois => ?_,
    fun h hheld hpois hturn => ?_⟩⟩, fun o ho hstatus => ⟨fun hwait hheld => ?_, fun hwait hfence hpin hmoves => ⟨fun hop hname => ?_, fun hact => ?_⟩,
    fun hwait hfence hpin hmoves hsession => ?_⟩, fun o n ho hf hstatus hfaulty hfence => ⟨fun hname => ?_, ?_⟩,
    fun o st k ho hstatus => order?_endOrder ho hstatus st k, fun o n c e j => ⟨fun h => ?_, fun h => ?_, fun h => ?_, fun h1 h2 => ?_, fun h => ?_,
    fun hj => ⟨fun h => ?_, fun h => ?_⟩⟩⟩
  · rw [hfetch, hfound h]
  · rw [hfetch, State.orderFetch_of_ineligible hnone hel]
  · rw [hfetch, State.orderFetch_of_eligible hnone hel]
    simp only [State.fetchEntry, hx]
  · rw [hfetch, State.orderFetch_of_eligible hnone hel, State.fetchEntry_of_missing hx hheld]
  · rw [hfetch, State.orderFetch_of_eligible hnone hel, State.fetchEntry_of_poisoned hx hheld hpois]
  · rw [hfetch, State.orderFetch_of_eligible hnone hel, State.fetchEntry_of_turn hx hheld hpois hturn, State.takeOrder_eq]
    obtain ⟨o, rfl, hid, hop, hoq, hslot, hcq, hbytes, hepoch, hbook, hphase, hst⟩ := State.takenOrder_fields u p q h.bytes
    refine ⟨_, _, rfl, u.entryTaken_orders p q h.bytes, hid, hop, hoq, hslot, hcq, hbytes, hepoch, hbook, hphase, hst,
      u.entryTaken_nextId p q h.bytes, fun hp => ⟨?_, fun hq => State.entryTaken_sq hp hq h.bytes⟩⟩
    rw [State.entryTaken_part hp]
  · rw [hproceed, State.orderProceed_of_held ho hstatus hwait hheld]
  · rw [hproceed, State.orderProceed_of_pinned ho hstatus hwait hfence hpin, if_neg (ne_true_of_eq_false hmoves), if_neg (not_or.2 ⟨hop, hname⟩)]
  · rw [hproceed, State.orderProceed_of_pinned ho hstatus hwait hfence hpin, if_neg (ne_true_of_eq_false hmoves), if_pos hact]
  · rw [hproceed, State.orderProceed_of_pinned ho hstatus hwait hfence hpin, if_pos hmoves, State.enter_without_session ho hsession]
  · rw [hfetch, hfound hf, State.stage2_of_unknown ho (hopen hf hstatus hfaulty hfence) hname]
  · intro hname w own fits lowest descs
    have hstage {r : State} (h : s.stage2 o.id = r) : exec (.orderFetch p q) s = .next (pump r) := by rw [hfetch, hfound hf, h]
    have hop := hopen hf hstatus hfaulty hfence
    refine ⟨fun k h => hstage (State.stage2_of_lowest ho hop hname rfl h), fun hfits h => hstage (State.stage2_of_drain ho hop hname rfl hfits h),
      fun hfits hdrain hv hn => hstage ?_, fun hfits hdrain hv hn => hstage ?_, fun hfits hdrain hunit => ?_⟩
    · exact State.stage2_of_unit ho hop hname rfl hfits hdrain (hv ▸ unitFails_l4 hn)
    · exact State.stage2_of_unit ho hop hname rfl hfits hdrain (hv ▸ unitFails_s8 hn)
    refine ⟨fun u hr => hstage (State.stage2_of_noDescs ho hop hname rfl (State.ownFails_passed hname hfits hdrain hunit) hr), fun u vs hr => ?_⟩
    obtain ⟨hlow, harmed, hpass, hpois⟩ := State.stage2_of_descriptors ho hop hname rfl hfits hdrain hunit hr rfl rfl
    exact ⟨fun c k h => ⟨fun hc => hstage ((hlow c k h).1 hc), fun hc => hstage ((hlow c k h).2 hc)⟩,
      fun l f a r b h1 h2 h3 h4 h5 => hstage (harmed l f a r b h1 h2 h3 h4 h5),
      fun h1 h2 h3 => ⟨fun h => hstage (hpass h1 h2 h3 h), fun h hn => hstage (hpois h1 h2 h3 h hn)⟩⟩
  · have hmem := mem_failIf (k := 1) (d := 1) (decide_eq_true h)
    simp only [State.headerFails, List.mem_append, hmem, true_or]
  · have hmem := mem_failIf (k := 1) (d := 12) (decide_eq_true h)
    simp only [State.headerFails, List.mem_append, hmem, true_or, or_true]
  · simp [gatherFails, failIf, h]
  · simp [gatherFails, failIf, h1, h2]
  · simp [strainerFails, failIf, h]
  · simp [strainerFails, failIf, hj, h]
  · simp [recallFails, failIf, hj, h]
end

section
/-! SUPPORT. What a flit that arrives does, what is sent in turn, and what an acknowledgement frees; O32. -/

namespace Sys2Proof.Machine

section
variable {s : State} {f m : Nat} (hin : (s.modl f m).state = .inService)
include hin

/-- A module in service stands in its bank. -/
theorem State.bounds_of_inService : f < s.faces.length ∧ m < (s.face f).mods.length :=
  s.modl_bounds f m (by intro e; rw [e] at hin; cases hin)

theorem State.modl_upMod_inService (g : Modl → Modl) : (s.upMod f m g).modl f m = g (s.modl f m) :=
  State.modl_upMod_same _ _ _ _ (State.bounds_of_inService hin).1 (State.bounds_of_inService hin).2

theorem State.modl_upMod_upMod_inService (g h : Modl → Modl) : ((s.upMod f m g).upMod f m h).modl f m = h (g (s.modl f m)) := by
  obtain ⟨hf, hm⟩ := State.bounds_of_inService hin
  have hlen : f < (s.upMod f m g).faces.length := by simpa [State.upMod, State.upFace] using hf
  rw [State.modl_upMod_same _ _ _ _ hlen, State.modl_upMod_same _ _ _ _ hf hm]
  unfold State.upMod
  rw [State.face_upFace_same _ _ _ hf]
  simpa using hm

/-! ### Receiving (R351 to R354) -/

theorem State.flitIn_of_inService {v : Nat} (hgood : crc32c (v % 2 ^ (8 * 252)) 252 = leAt v 252 4) :
    s.flitIn f m v = (s.goodFlit f m v).sendFlit f m := by
  unfold State.flitIn
  rw [if_neg (not_not.2 hin), if_neg (not_not.2 hgood)]

theorem State.flitIn_of_badCrc {v : Nat} (hbad : crc32c (v % 2 ^ (8 * 252)) 252 ≠ leAt v 252 4) :
    s.flitIn f m v = (s.discardFlit f m true).sendFlit f m := by
  unfold State.flitIn
  rw [if_neg (not_not.2 hin), if_pos hbad]

theorem State.takeMsgs_wire {x : InMsg} {rest : List Nat} (n : Nat) (hfits : x.fits = true) (hwords : (s.modl f m).rxWords = x.wire ++ rest) :
    s.takeMsgs f m (n + 1) = State.takeMsgs ((s.upMod f m (fun y => { y with rxWords := rest })).receive f m x) f m n := by
  have hread : parseMsg (x.wire ++ rest) = .got x rest := hostMessagesReadBack x rest hfits
  simp only [State.takeMsgs, hin, hwords, hread, ne_eq, not_true_eq_false, if_false]

end

section
variable {s : State} {f m v : Nat}

theorem State.goodFlit_reserved (h : fld v 31 24 ≠ 0 ∨ 2 ≤ fld v 23 22) : s.goodFlit f m v = s.protocolError f m := by
  unfold State.goodFlit
  exact if_pos (by simpa using h)

variable (hres : fld v 31 24 = 0) (hkind : fld v 23 22 < 2)
include hres hkind

theorem State.goodFlit_left (hout : ((s.ackNak f m (fld v 19 10) (v.testBit 20)).modl f m).state ≠ .inService) :
    s.goodFlit f m v = s.ackNak f m (fld v 19 10) (v.testBit 20) := by
  unfold State.goodFlit
  exact (if_neg (by simp [hres]; omega)).trans (if_pos hout)

theorem State.goodFlit_judged (hin : ((s.ackNak f m (fld v 19 10) (v.testBit 20)).modl f m).state = .inService) {j : FlitRx} {a : State}
    (ha : s.ackNak f m (fld v 19 10) (v.testBit 20) = a) (hj : judgeFlit (a.modl f m) v = j) : s.goodFlit f m v =
    match (generalizing := false) j with
    | .bad => a.discardFlit f m false
    | .null => a
    | .accept =>
      let u := a.upMod f m (fun y => { y with rxSeq := fld v 9 0, rxNak := false, rxWords := y.rxWords ++ wordsOf (v >>> 32) 62 })
      u.takeMsgs f m ((u.modl f m).rxWords.length + 1) := by
  subst ha hj
  unfold State.goodFlit
  exact (if_neg (by simp [hres]; omega)).trans ((if_neg (not_not.2 hin)).trans rfl)

end

section
variable {x : Modl} {v : Nat} (hgood : crc32c (v % 2 ^ (8 * 252)) 252 = leAt v 252 4)
include hgood

theorem judgeFlit_null (hkind : fld v 23 22 = 1) : judgeFlit x v = .null := by
  unfold judgeFlit
  rw [if_neg (not_not.2 hgood), if_pos hkind]

theorem judgeFlit_normal (hkind : fld v 23 22 = 0) : judgeFlit x v = if fld v 9 0 = (x.rxSeq + 1) % 1024 then .accept else .bad := by
  unfold judgeFlit
  rw [if_neg (not_not.2 hgood), if_neg (by omega)]

end

/-! ### Sending (R352, R353, R361) -/

section
variable {s : State} {f m : Nat} (hin : (s.modl f m).state = .inService)
include hin

theorem State.sendFlit_again {k : Nat × List Nat} {ks : List (Nat × List Nat)} (hagain : (s.modl f m).txAgain = k :: ks) : s.sendFlit f m =
    (s.upMod f m (fun y => { y with txAgain := ks, txLast := wordsOf (flitBits (flitHeader k.1 y.rxSeq y.rxNak true 0) k.2) 64 })).upFace f
      (fun y => { y with replays := satAdd y.replays 1 0xFFFFFFFF }) := by
  simp only [State.sendFlit, hin, hagain, ne_eq, not_true_eq_false, if_false]

theorem State.sendFlit_again_modl {k : Nat × List Nat} {ks : List (Nat × List Nat)} (hagain : (s.modl f m).txAgain = k :: ks) :
    (s.sendFlit f m).modl f m = { s.modl f m with
      txAgain := ks, txLast := wordsOf (flitBits (flitHeader k.1 (s.modl f m).rxSeq (s.modl f m).rxNak true 0) k.2) 64 } := by
  rw [State.sendFlit_again hin hagain]
  exact (State.modl_upFace _ _ _ (by intro x; rfl) _ _).trans (State.modl_upMod_inService hin _)

theorem State.sendFlit_again_replays {k : Nat × List Nat} {ks : List (Nat × List Nat)} (hagain : (s.modl f m).txAgain = k :: ks) :
    ((s.sendFlit f m).face f).replays = min 0xFFFFFFFF ((s.face f).replays + 1) := by
  obtain ⟨hf, -⟩ := State.bounds_of_inService hin
  rw [State.sendFlit_again hin hagain, State.face_upFace_same]
  · unfold State.upMod
    rw [State.face_upFace_same _ _ _ hf]
    exact satAdd_one _ _
  · simpa [State.upMod, State.upFace] using hf

/-- Something is ready to be sent: words that wait, buffers owed, or a message whose channel has the credits. -/
def Modl.ready (x : Modl) : Bool := !x.txWords.isEmpty || x.owed.any (· != 0) || (nextMsg x.txMsgs x.credits).isSome

theorem State.sendFlit_null (hagain : (s.modl f m).txAgain = []) (hidle : (s.modl f m).ready = false ∨ 256 ≤ (s.modl f m).txKept.length) :
    s.sendFlit f m = s.upMod f m (fun y =>
      { y with txLast := wordsOf (flitBits (flitHeader y.txSeq y.rxSeq y.rxNak false 1) (List.replicate 62 0)) 64 }) := by
  unfold Modl.ready at hidle
  unfold State.sendFlit
  rw [if_neg (not_not.2 hin), hagain]
  refine (if_pos ?_).trans rfl
  simpa using hidle

/-- A normal flit takes the next number and is kept; what it leaves to send is the packing's. -/
theorem State.sendFlit_normal (hagain : (s.modl f m).txAgain = []) (hready : (s.modl f m).ready = true) (hroom : (s.modl f m).txKept.length < 256) :
    ∃ payload : List Nat, payload.length = 62 ∧
      ((s.sendFlit f m).modl f m).txSeq = ((s.modl f m).txSeq + 1) % 1024 ∧
      ((s.sendFlit f m).modl f m).txKept = (s.modl f m).txKept ++ [(((s.modl f m).txSeq + 1) % 1024, payload)] ∧
      ((s.sendFlit f m).modl f m).txLast =
        wordsOf (flitBits (flitHeader (((s.modl f m).txSeq + 1) % 1024) (s.modl f m).rxSeq (s.modl f m).rxNak false 0) payload) 64 := by
  obtain ⟨payload, g, hlen, hsend, hseq, hkept, hlast⟩ : ∃ (payload : List Nat) (g : Modl → Modl), payload.length = 62 ∧ s.sendFlit f m = s.upMod f m g ∧
      (∀ y, (g y).txSeq = ((s.modl f m).txSeq + 1) % 1024) ∧ (∀ y, (g y).txKept = y.txKept ++ [(((s.modl f m).txSeq + 1) % 1024, payload)]) ∧
      (∀ y, (g y).txLast = wordsOf (flitBits (flitHeader (((s.modl f m).txSeq + 1) % 1024) y.rxSeq y.rxNak false 0) payload) 64) := by
    unfold Modl.ready at hready
    unfold State.sendFlit
    rw [if_neg (not_not.2 hin), hagain]
    exact ⟨_, _, by simp, if_neg (by simpa [hready] using hroom), fun _ => rfl, fun _ => rfl, fun _ => rfl⟩
  rw [hsend, State.modl_upMod_inService hin]
  exact ⟨payload, hlen, hseq _, hkept _, hlast _⟩

end

/-! ### Acknowledgements (R353) -/

theorem ackKept_of_split {α : Type} {before after : List (Nat × α)} {k : Nat × α} {ack : Nat} (hk : k.1 = ack) (hbefore : ∀ z ∈ before, z.1 ≠ ack)
    (hafter : ∀ z ∈ after, z.1 ≠ ack) : ackKept (before ++ k :: after) ack = after := by
  have hdrop : (before ++ k :: after).dropWhile (fun k => k.1 != ack) = k :: after := by
    rw [List.dropWhile_append_of_pos (by simpa using hbefore), List.dropWhile_cons_of_neg (by simp [hk])]
  have hrest : (k :: after).dropWhile (fun k => k.1 == ack) = after := by
    rw [List.dropWhile_cons_of_pos (by simp [hk])]
    cases after with
    | nil => rfl
    | cons z zs => exact List.dropWhile_cons_of_neg (by simpa using hafter z (by simp))
  unfold ackKept
  rw [if_pos (by simp [hk]), hdrop, hrest]

section
variable {s : State} {f m ack : Nat} (hin : (s.modl f m).state = .inService)
include hin

/-- The module once the flits up to a number are acknowledged. -/
def Modl.freed (x : Modl) (ack : Nat) : Modl :=
  { x with txKept := ackKept x.txKept ack, txCtl := ackCtl x.txCtl (ackKept x.txKept ack), txAgain := x.txAgain.filter (ackKept x.txKept ack).contains }

theorem State.ackNak_ack_modl : (s.ackNak f m ack false).modl f m = { (s.modl f m).freed ack with nakRun := 0 } :=
  State.modl_upMod_upMod_inService hin (fun x => x.freed ack) (fun x => { x with nakRun := 0 })

/-- The number of naks in a row with one acknowledgement, with that of this flit. -/
def Modl.nakCount (x : Modl) (ack : Nat) : Nat := if x.nakRun ≠ 0 ∧ x.nakAck = ack then x.nakRun + 1 else 1

theorem State.ackNak_nak : s.ackNak f m ack true =
    if 8 ≤ (s.modl f m).nakCount ack then (s.upMod f m (fun x => x.freed ack)).leave f m .training true
    else (s.upMod f m (fun x => x.freed ack)).upMod f m (fun x => { x with nakAck := ack, nakRun := (s.modl f m).nakCount ack, txAgain := x.txKept }) := by
  have hcount : (s.modl f m).nakCount ack = ((s.upMod f m (fun x => x.freed ack)).modl f m).nakCount ack := by
    rw [State.modl_upMod_inService hin]
    rfl
  rw [hcount]
  unfold State.ackNak Modl.nakCount
  simp only [Bool.not_true, Bool.false_eq_true, if_false, Bool.and_eq_true, decide_eq_true_eq, ne_eq]
  rfl

theorem State.ackNak_nak_modl (hrun : (s.modl f m).nakRun = 0 ∨ (s.modl f m).nakAck ≠ ack ∨ (s.modl f m).nakRun < 7) :
    (s.ackNak f m ack true).modl f m = { (s.modl f m).freed ack with
      nakAck := ack, nakRun := (s.modl f m).nakCount ack, txAgain := ackKept (s.modl f m).txKept ack } := by
  have hfew : ¬ 8 ≤ (s.modl f m).nakCount ack := by
    unfold Modl.nakCount
    split <;> omega
  rw [State.ackNak_nak hin, if_neg hfew, State.modl_upMod_upMod_inService hin]
  rfl

theorem State.ackNak_eighth (hrun : 7 ≤ (s.modl f m).nakRun) (hack : (s.modl f m).nakAck = ack) :
    ((s.ackNak f m ack true).modl f m).state = .training := by
  have hmany : 8 ≤ (s.modl f m).nakCount ack := by
    unfold Modl.nakCount
    rw [if_pos ⟨by omega, hack⟩]
    omega
  rw [State.ackNak_nak hin, if_pos hmany]
  have hfreed : ((s.upMod f m (fun x => x.freed ack)).modl f m).state = .inService := by
    rw [State.modl_upMod_inService hin]
    exact hin
  exact congrArg Prod.fst (leave_modl _ f m .training true hfreed)

end

end Sys2Proof.Machine

open Sys2Proof Sys2Proof.Machine

/-- Settles O32: a flit is discarded, refused, or acted on as its acknowledgement and its number say; one flit goes in turn, kept where
it is a normal one; and an acknowledgement frees the kept flits up to its number. -/
theorem flitsCarryMessages : Obligations.FlitsCarryMessages := by
  unfold Obligations.FlitsCarryMessages
  intro s f m
  have hexec (b : BitVec 2048) : exec (.flit f m b) s = .next (pump (s.flitIn f m b.toNat)) := rfl
  refine ⟨fun b hout => ?_, fun b hin => ?_, fun x rest n hfits hin hwords => State.takeMsgs_wire hin n hfits hwords, fun hin => ?_,
    fun hin ack nak before after k => ?_⟩
  · rw [hexec]
    unfold State.flitIn
    rw [if_pos hout]
  · intro v good a
    have hflit (hg : good) {t : State} (ht : s.goodFlit f m v = t) : exec (.flit f m b) s = .next (pump (t.sendFlit f m)) := by
      rw [hexec, State.flitIn_of_inService hin hg, ht]
    refine ⟨fun hbad => ?_, fun hg hres => hflit hg (State.goodFlit_reserved hres), fun hg hres hkind hout => hflit hg (State.goodFlit_left hres hkind hout),
      fun hg hres hkind hin2 => hflit hg ?_, fun hg hres hkind hin2 => ⟨fun hseq => hflit hg ?_, fun hseq => hflit hg ?_⟩⟩
    · rw [hexec, State.flitIn_of_badCrc hin hbad]
    · exact State.goodFlit_judged hres (by omega) hin2 rfl (judgeFlit_null hg hkind)
    · exact State.goodFlit_judged hres (by omega) hin2 rfl ((judgeFlit_normal hg hkind).trans (if_neg hseq))
    · exact State.goodFlit_judged hres (by omega) hin2 rfl ((judgeFlit_normal hg hkind).trans (if_pos hseq))
  · intro x y ready
    have hready : ready ↔ x.ready = true := by simp [ready, Modl.ready, or_assoc]
    refine ⟨fun k ks hagain => ?_, fun hagain hidle => ?_, fun hagain hr hroom => ?_⟩
    · rw [show y = _ from State.sendFlit_again_modl hin hagain]
      exact ⟨rfl, rfl, rfl, rfl, rfl, State.sendFlit_again_replays hin hagain⟩
    · have hidle' : x.ready = false ∨ 256 ≤ x.txKept.length := hidle.imp_left (fun h => by simpa [hready] using h)
      simp only [y, State.sendFlit_null hin hagain hidle']
      exact State.modl_upMod_inService hin _
    · obtain ⟨payload, hlen, hseq, hkept, hlast⟩ := State.sendFlit_normal hin hagain (hready.1 hr) hroom
      exact ⟨payload, hlen, hseq, hkept.trans (by rw [← hseq]), hlast.trans (by rw [← hseq])⟩
  · intro x y hkept hk hbefore hafter
    have hfreed : ackKept x.txKept ack = after := by rw [hkept]; exact ackKept_of_split hk hbefore hafter
    refine ⟨fun hn => ?_, fun hn hrun => ?_, fun hn hrun hack => ?_⟩
    · subst hn
      rw [show y = _ from State.ackNak_ack_modl hin]
      exact ⟨hfreed, rfl⟩
    · subst hn
      rw [show y = _ from State.ackNak_nak_modl hin hrun]
      exact ⟨hfreed, hfreed, rfl, rfl⟩
    · subst hn
      exact State.ackNak_eighth hin hrun hack
end

section
/-! SUPPORT. How a module leaves service and comes back, and what the loss of its face ends; O31. -/

namespace Sys2Proof.Machine

/-! ### Widths of modules, and faces that are up -/

theorem Modl.slots_congr {x y : Modl} (h : x.width = y.width) : x.slots = y.slots := by
  obtain ⟨hstate, hlanes, -⟩ := Prod.ext_iff.1 h |>.imp_right Prod.ext_iff.1
  unfold Modl.slots
  rw [show x.state = y.state from hstate, show x.lanes = y.lanes from hlanes]

theorem Modl.state_congr {x y : Modl} (h : x.width = y.width) : x.state = y.state := congrArg Prod.fst h

theorem State.face_up_iff (s : State) (f : Nat) : (s.face f).up = true ↔ ∃ n, (s.modl f n).slots ≠ 0 := by
  unfold Face.up State.modl
  simp only [List.any_eq_true, bne_iff_ne]
  constructor
  · rintro ⟨x, hx, hslots⟩
    obtain ⟨n, hn, rfl⟩ := List.getElem_of_mem hx
    exact ⟨n, by simpa [List.getD_eq_getElem?_getD, hn] using hslots⟩
  · rintro ⟨n, hslots⟩
    have hn : n < (s.face f).mods.length := by
      by_contra hn
      rw [List.getD_eq_getElem?_getD, List.getElem?_eq_none (by omega)] at hslots
      exact hslots rfl
    refine ⟨(s.face f).mods[n], List.getElem_mem hn, ?_⟩
    simpa [List.getD_eq_getElem?_getD, hn] using hslots

theorem State.face_down_iff (s : State) (f : Nat) : (s.face f).up = false ↔ ∀ n, (s.modl f n).slots = 0 := by
  rw [← Bool.not_eq_true, State.face_up_iff]
  push Not
  rfl

/-- Every module but one has the width that it had. -/
def State.OtherWidths (s : State) (f m : Nat) (t : State) : Prop := ∀ g n, g ≠ f ∨ n ≠ m → (t.modl g n).width = (s.modl g n).width

theorem State.OtherWidths.trans {s t u : State} {f m : Nat} (h : s.OtherWidths f m t) (k : t.Widths u) : s.OtherWidths f m u :=
  fun g n hne => (k.modl g n).trans (h g n hne)

theorem State.upMod_otherWidths (s : State) (f m : Nat) (g : Modl → Modl) : s.OtherWidths f m (s.upMod f m g) := fun i n hne => by
  rw [State.modl_upMod_other _ _ _ _ _ _ (hne.imp Ne.symm Ne.symm)]

/-- Where the module itself takes no slot, before and after, a face is up as it was. -/
theorem State.OtherWidths.face_up {s t : State} {f m : Nat} (h : s.OtherWidths f m t) (hs : (s.modl f m).slots = 0) (ht : (t.modl f m).slots = 0) :
    (t.face f).up = (s.face f).up := by
  have hslots (n : Nat) : (t.modl f n).slots = (s.modl f n).slots := by
    by_cases hn : n = m
    · rw [hn, hs, ht]
    · exact Modl.slots_congr (h f n (.inr hn))
  rw [Bool.eq_iff_iff, State.face_up_iff, State.face_up_iff]
  simp only [hslots]

/-! ### Leaving service (R346, R363, R364) -/

/-- SLOWED for every window whose level differs from that of an earlier state (R275). -/
def State.relevel (s t : State) : State := (List.range 16).foldl (fun (y : State) e => y.slowed e (((List.range 16).map s.level).getD e 0)) t

theorem State.relevel_widths (s t : State) : t.Widths (s.relevel t) := State.Widths.foldl (.refl _) (fun t e => slowed_widths t e _)

theorem State.relevel_kettle (s t : State) : (s.relevel t).kettle = t.kettle := by
  have h (l : List Nat) (t : State) : (l.foldl (fun (y : State) e => y.slowed e (((List.range 16).map s.level).getD e 0)) t).kettle = t.kettle := by
    induction l generalizing t with
    | nil => rfl
    | cons e l ih => rw [List.foldl_cons, ih, slowed_kettle]
  exact h _ _

section
variable {s : State} {f m : Nat}

theorem State.leave_of_inService (h : (s.modl f m).state = .inService) (next : ModState) (retrain : Bool) : s.leave f m next retrain =
    s.relevel (((s.unseat f m (fun y => y.out next retrain)).reseat f
      ((s.modl f m).txCtl.map Prod.snd ++ (s.modl f m).txMsgs.filter Msg.isControl)).postDown f) := by
  unfold State.leave
  exact (if_neg (not_not.2 h)).trans rfl

theorem State.leave_of_out (h : (s.modl f m).state ≠ .inService) (next : ModState) : s.leave f m next true =
    s.upMod f m (fun y => { y with state := next, retrains := satAdd y.retrains 1 255 }) := by
  unfold State.leave
  exact (if_pos h).trans rfl

theorem State.retrainMod_leaves (hp : s.modPresent f m = true) (h : (s.modl f m).state = .inService ∨ ((s.modl f m).state = .down ∧ (s.modl f m).trained = true)) :
    s.retrainMod f m = s.leave f m .training true := by
  unfold State.retrainMod
  exact if_pos (by simpa [hp] using h)

theorem State.retrainMod_stays (h : s.modPresent f m = false ∨ (s.modl f m).state = .training ∨ (s.modl f m).state = .held ∨
    ((s.modl f m).state = .down ∧ (s.modl f m).trained = false)) : s.retrainMod f m = s := by
  unfold State.retrainMod
  refine if_neg ?_
  obtain h | h | h | ⟨h, ht⟩ := h
  · simp [h]
  · simp [h]
  · simp [h]
  · simp [h, ht]

theorem State.retrain_one (h : m < 6) : s.retrain f (2 ^ m) = s.retrainMod f m := by
  have hone (l : List Nat) (hl : l.Nodup) : l.filter (fun i => (2 ^ m).testBit i && s.modPresent f i) =
      if m ∈ l ∧ s.modPresent f m = true then [m] else [] := by
    induction l with
    | nil => simp
    | cons i l ih =>
      obtain ⟨hi, hl⟩ := List.nodup_cons.1 hl
      rw [List.filter_cons, ih hl, Nat.testBit_two_pow]
      by_cases him : m = i
      · subst him
        cases s.modPresent f m <;> simp [hi]
      · simp [him]
  unfold State.retrain
  rw [hone _ List.nodup_range]
  cases hp : s.modPresent f m with
  | true => rw [if_pos ⟨by simpa using h, rfl⟩]; rfl
  | false =>
    rw [if_neg (by simp), State.retrainMod_stays (.inl hp)]
    rfl

theorem State.retrain_zero : s.retrain f 0 = s := by
  unfold State.retrain
  simp

/-! What waits again once a module has left its seat. -/

theorem State.unseat_reads (g : Modl → Modl) : (s.unseat f m g).reads = s.reads.map (fun (r : ReadReq) =>
    if ((s.reads.filter (fun r => r.face == f && r.modl == some m)).map ReadReq.id).contains r.id
    then { r with modl := none, wants := r.wants.filter (fun w => r.left.contains w.2), left := List.range r.lines } else r) := by
  unfold State.unseat State.newTable
  split <;> rfl

theorem State.unseat_writes (g : Modl → Modl) : (s.unseat f m g).writes = s.writes.map (fun (w : WriteReq) =>
    if ((s.writes.filter (fun w => w.face == f && w.modl == some m)).map WriteReq.id).contains w.id then { w with modl := none } else w) := by
  unfold State.unseat State.newTable
  split <;> rfl

theorem State.unseat_read_free (g : Modl → Modl) : ∀ y ∈ (s.unseat f m g).reads, y.face = f → y.modl ≠ some m := by
  rw [State.unseat_reads]
  intro y hy hface hmodl
  obtain ⟨x, hx, rfl⟩ := List.mem_map.1 hy
  split at hmodl
  · cases hmodl
  · next hno =>
    rw [if_neg hno] at hface
    exact hno (by simpa using ⟨x, ⟨hx, hface, hmodl⟩, rfl⟩)

theorem State.unseat_write_free (g : Modl → Modl) : ∀ y ∈ (s.unseat f m g).writes, y.face = f → y.modl ≠ some m := by
  rw [State.unseat_writes]
  intro y hy hface hmodl
  obtain ⟨x, hx, rfl⟩ := List.mem_map.1 hy
  split at hmodl
  · cases hmodl
  · next hno =>
    rw [if_neg hno] at hface
    exact hno (by simpa using ⟨x, ⟨hx, hface, hmodl⟩, rfl⟩)

theorem State.unseat_read_waits (g : Modl → Modl) {y : ReadReq} (hy : y ∈ s.reads) (hface : y.face = f) (hmodl : y.modl = some m) :
    { y with modl := none, wants := y.wants.filter (fun w => y.left.contains w.2), left := List.range y.lines } ∈ (s.unseat f m g).reads := by
  rw [State.unseat_reads]
  exact List.mem_map.2 ⟨y, hy, if_pos (by simpa using ⟨y, ⟨hy, hface, hmodl⟩, rfl⟩)⟩

theorem State.unseat_write_waits (g : Modl → Modl) {y : WriteReq} (hy : y ∈ s.writes) (hface : y.face = f) (hmodl : y.modl = some m) :
    { y with modl := none } ∈ (s.unseat f m g).writes := by
  rw [State.unseat_writes]
  exact List.mem_map.2 ⟨y, hy, if_pos (by simpa using ⟨y, ⟨hy, hface, hmodl⟩, rfl⟩)⟩

theorem State.unseat_narrow_waits (g : Modl → Modl) {y : NarrowReq} (hy : y ∈ s.narrows) (hface : y.face = f) (hmodl : y.modl = some m) :
    { y with modl := none, old := false } ∈ (s.unseat f m g).narrows := by
  unfold State.unseat State.reissue
  refine List.mem_map.2 ?_
  unfold State.newTable
  split
  · exact ⟨y, hy, if_pos ⟨hface, hmodl⟩⟩
  · refine ⟨_, List.mem_map.2 ⟨y, hy, rfl⟩, ?_⟩
    split <;> exact if_pos ⟨hface, hmodl⟩

/-! What stands of the modules and the face once what was left is sent again. -/

theorem State.unseat_otherWidths (g : Modl → Modl) : s.OtherWidths f m (s.unseat f m g) := (s.upMod_otherWidths f m g).trans (unseat_widths _ _ _ _)

theorem State.postDown_stays (h : (∃ n, (s.modl f n).slots ≠ 0) ∨ (s.face f).downPosted = true) : s.postDown f = s := by
  unfold State.postDown
  refine if_neg ?_
  rw [← State.face_up_iff] at h
  obtain h | h := h <;> simp [h]

theorem State.postDown_posts (hdown : ∀ n, (s.modl f n).slots = 0) (hposted : (s.face f).downPosted = false) : s.postDown f =
    (s.upFace f (fun y => { y with downPosted := true, lost := false })).dieEvent (s.partsBehind f) 0x0010 f 0 := by
  unfold State.postDown
  rw [← State.face_down_iff] at hdown
  exact if_pos (by simp [hdown, hposted])

theorem dieEvent_klog (s : State) (ps : List Nat) (code a0 a1 : Nat) :
    (s.dieEvent ps code a0 a1).kettle.log.head? = some ⟨s.wear.seconds, code, a0, a1⟩ := by
  have h : (s.eventAll ps code a0 a1).wear = s.wear := (eventAll_posts s ps code a0 a1).wear
  unfold State.dieEvent State.klog
  rw [h]
  rfl

end

/-- The state in which a module in service has left its seat for training. -/
def State.gone (s : State) (f m : Nat) : State := s.unseat f m (fun y => y.out .training true)

/-- The state in which what it left is sent again. -/
def State.emptied (s : State) (f m : Nat) : State :=
  (s.gone f m).reseat f ((s.modl f m).txCtl.map Prod.snd ++ (s.modl f m).txMsgs.filter Msg.isControl)

section
variable {s : State} {f m : Nat}

theorem State.emptied_widths : (s.gone f m).Widths (s.emptied f m) := reseat_widths _ _ _

theorem State.emptied_otherWidths : s.OtherWidths f m (s.emptied f m) := (State.unseat_otherWidths _).trans State.emptied_widths

theorem State.emptied_slots_other {n : Nat} (hn : n ≠ m) : ((s.emptied f m).modl f n).slots = (s.modl f n).slots :=
  Modl.slots_congr (State.emptied_otherWidths f n (.inr hn))

theorem State.emptied_downPosted : ((s.emptied f m).face f).downPosted = (s.face f).downPosted := by
  rw [State.emptied_widths.downPosted]
  unfold State.gone
  rw [(unseat_widths _ _ _ _).downPosted]
  by_cases hf : f < s.faces.length
  · unfold State.upMod
    rw [State.face_upFace_same _ _ _ hf]
  · unfold State.upMod State.upFace State.face
    rw [List.modify_eq_self (Nat.le_of_not_lt hf)]

variable (hin : (s.modl f m).state = .inService)
include hin

theorem State.gone_modl : ((s.gone f m).modl f m).width = (.training, (s.modl f m).lanes, (s.modl f m).half, (s.modl f m).repaired,
    min 255 ((s.modl f m).retrains + 1), (s.modl f m).trained, 0) := by
  unfold State.gone
  rw [(unseat_widths _ _ _ _).modl, State.modl_upMod_inService hin, ← satAdd_one]
  rfl

theorem State.emptied_state : ((s.emptied f m).modl f m).state = .training :=
  congrArg Prod.fst ((State.emptied_widths.modl f m).trans (State.gone_modl hin))

theorem State.emptied_bounds : f < (s.emptied f m).faces.length :=
  ((s.emptied f m).modl_bounds f m (by intro e; have h := State.emptied_state hin; rw [e] at h; cases h)).1

theorem State.emptied_slots : ((s.emptied f m).modl f m).slots = 0 := by
  unfold Modl.slots
  exact if_neg (by simp [State.emptied_state hin])

theorem State.retrainMod_of_inService (hp : s.modPresent f m = true) : s.retrainMod f m = s.relevel ((s.emptied f m).postDown f) :=
  (State.retrainMod_leaves hp (.inl hin)).trans (State.leave_of_inService hin _ _)

/-- With another module in service, or FACE_DOWN posted before, nothing is posted. -/
theorem State.retrainMod_keeps_face (hp : s.modPresent f m = true) (h : (∃ n, n ≠ m ∧ (s.modl f n).slots ≠ 0) ∨ (s.face f).downPosted = true) :
    s.retrainMod f m = s.relevel (s.emptied f m) := by
  rw [State.retrainMod_of_inService hin hp, State.postDown_stays]
  refine h.imp (fun ⟨n, hn, hslots⟩ => ⟨n, ?_⟩) (State.emptied_downPosted.trans)
  rwa [State.emptied_slots_other hn]

/-- The face of a module that was its last in service is down, and says so. -/
def State.fallen (s : State) (f m : Nat) : State :=
  ((s.emptied f m).upFace f (fun y => { y with downPosted := true, lost := false })).dieEvent ((s.emptied f m).partsBehind f) 0x0010 f 0

theorem State.retrainMod_drops_face (hp : s.modPresent f m = true) (hlast : ∀ n, n ≠ m → (s.modl f n).slots = 0) (hposted : (s.face f).downPosted = false) :
    s.retrainMod f m = s.relevel (s.fallen f m) := by
  rw [State.retrainMod_of_inService hin hp, State.postDown_posts (fun n => ?_) (State.emptied_downPosted.trans hposted)]
  · rfl
  by_cases hn : n = m
  · rw [hn, State.emptied_slots hin]
  · rw [State.emptied_slots_other hn, hlast n hn]

omit hin in
theorem State.fallen_modl (g n : Nat) : ((s.fallen f m).modl g n).width = ((s.emptied f m).modl g n).width := by
  unfold State.fallen
  rw [(dieEvent_widths _ _ _ _ _).modl, State.modl_upFace _ _ _ (by intro x; rfl)]

omit hin in
theorem State.fallen_downPosted (hf : f < (s.emptied f m).faces.length) : ((s.fallen f m).face f).downPosted = true := by
  unfold State.fallen
  rw [(dieEvent_widths _ _ _ _ _).downPosted, State.face_upFace_same _ _ _ hf]

theorem State.fallen_up (hlast : ∀ n, n ≠ m → (s.modl f n).slots = 0) : ((s.fallen f m).face f).up = false := by
  rw [State.face_down_iff]
  intro n
  rw [Modl.slots_congr (State.fallen_modl f n)]
  by_cases hn : n = m
  · rw [hn, State.emptied_slots hin]
  · rw [State.emptied_slots_other hn, hlast n hn]

end

/-! ### Training (R345 to R350, R364) -/

section
variable {s : State} {f m own far half lanes : Nat} {repaired : Nat × Nat} {fast : Bool}

theorem State.trained_idle (h : (s.modl f m).state = .down ∨ (s.modl f m).state = .inService) : s.trained f m own far repaired fast = s := by
  unfold State.trained
  refine if_pos ?_
  obtain h | h := h <;> simp [h]

variable (htrain : (s.modl f m).state = .training ∨ (s.modl f m).state = .held)
include htrain

theorem State.bounds_of_training : f < s.faces.length ∧ m < (s.face f).mods.length :=
  s.modl_bounds f m (by intro e; rw [e] at htrain; obtain h | h := htrain <;> cases h)

theorem State.modl_upMod_training (g : Modl → Modl) : (s.upMod f m g).modl f m = g (s.modl f m) :=
  State.modl_upMod_same _ _ _ _ (State.bounds_of_training htrain).1 (State.bounds_of_training htrain).2

theorem State.training_slots : (s.modl f m).slots = 0 := by
  unfold Modl.slots
  refine if_neg ?_
  obtain h | h := htrain <;> simp [h]

theorem State.trained_narrower (hown : own = 0) (hfar : far = 1 ∨ far = 2) : s.trained f m own far repaired fast =
    s.upMod f m (fun y => { y with state := .training, limit := far, repaired := repaired, retrains := satAdd y.retrains 1 255 }) := by
  unfold State.trained
  rw [if_neg (by obtain h | h := htrain <;> simp [h]), if_pos (by simpa [hown] using hfar)]

theorem State.trained_wider (hfar : far = 0) (hown : own = 1 ∨ own = 2) : s.trained f m own far repaired fast =
    s.upMod f m (fun y => { y with state := .held, repaired := repaired }) := by
  unfold State.trained
  rw [if_neg (by obtain h | h := htrain <;> simp [h]), if_neg (by simp [hfar]), if_pos (by simpa [hfar] using hown)]

/-- LANES_DEGRADED where the module comes to other lanes than before and its face is up (R348). -/
def State.degraded (s u : State) (f m lanes : Nat) : State :=
  if lanes ≠ (if (s.modl f m).trained then (s.modl f m).lanes else 64) && (u.face f).up then u.dieEvent (u.degradedTo f) 0x000F (f * 256 + m) lanes else u

/-- What follows the seating of a module: a face that comes up sends what waits, and its rings and write-backs go on (R364). -/
def State.seated (s v : State) (f : Nat) : State := if !(s.face f).up && (v.face f).up then (v.faceUp f).pumpBehind f else pump v

theorem State.trained_seats (hnarrow : ¬ (own = 0 ∧ (far = 1 ∨ far = 2))) (hwide : ¬ (far = 0 ∧ (own = 1 ∨ own = 2)))
    (hhalf : half = if own = far then own else 3) (hlanes : lanes = halfLanes half) : s.trained f m own far repaired fast =
    s.relevel (s.seated (s.degraded (s.seat f m half lanes repaired fast) f m lanes) f) := by
  subst hhalf hlanes
  unfold State.trained
  rw [if_neg (by obtain h | h := htrain <;> simp [h]), if_neg (by simpa using hnarrow), if_neg (by simpa using hwide)]
  unfold State.withLevels State.relevel State.degraded State.seated
  rfl

theorem State.seat_modl_width : ((s.seat f m half lanes repaired fast).modl f m).width =
    (if lanes = 0 then .down else .inService, lanes, half, repaired, (s.modl f m).retrains, true, 0) := by
  rw [(seat_widths _ _ _ _ _ _ _).modl, State.modl_upFace _ _ _ (by intro x; rfl), State.modl_upMod_training htrain]
  exact Modl.seat_width _ _ _ _

theorem State.seat_fast : ((s.seat f m half lanes repaired fast).face f).fast = if (s.face f).up then (s.face f).fast else fast := by
  obtain ⟨hf, -⟩ := State.bounds_of_training htrain
  rw [(seat_widths _ _ _ _ _ _ _).fast, State.face_upFace_same]
  · unfold State.upMod
    rw [State.face_upFace_same _ _ _ hf]
  · simpa [State.upMod, State.upFace] using hf

theorem State.seat_downPosted : ((s.seat f m half lanes repaired fast).face f).downPosted = (s.face f).downPosted := by
  obtain ⟨hf, -⟩ := State.bounds_of_training htrain
  rw [(seat_widths _ _ _ _ _ _ _).downPosted, State.face_upFace_same]
  · unfold State.upMod
    rw [State.face_upFace_same _ _ _ hf]
  · simpa [State.upMod, State.upFace] using hf

omit htrain in
/-- A module that has trained stands in its bank. -/
theorem State.bounds_of_width {w : ModState × Nat × Nat × (Nat × Nat) × Nat × Bool × Nat} (h : (s.modl f m).width = w) (hw : w.2.2.2.2.2.1 = true) :
    f < s.faces.length := by
  refine (s.modl_bounds f m fun e => ?_).1
  subst h
  rw [e] at hw
  cases hw

omit htrain in
theorem State.seat_otherWidths : s.OtherWidths f m (s.seat f m half lanes repaired fast) := fun g n hne => by
  rw [(seat_widths _ _ _ _ _ _ _).modl, State.modl_upFace _ _ _ (by intro x; rfl), State.modl_upMod_other _ _ _ _ _ _ (hne.imp Ne.symm Ne.symm)]

omit htrain in
theorem State.degraded_widths (s u : State) : u.Widths (s.degraded u f m lanes) := by
  unfold State.degraded
  generalize (if (s.modl f m).trained = true then (s.modl f m).lanes else 64) = before
  split
  · exact dieEvent_widths _ _ _ _ _
  · exact .refl _

end

/-- What follows a training at the face: its write-backs go on where it came up (R142, R364). -/
theorem State.trainingDone_eq {s : State} {f m failIn failOut far : Nat} {fast : Bool} (hp : s.modPresent f m = true) {t : State}
    (ht : s.trained f m (ownHalf failIn failOut (s.modl f m).limit) far
      (max (halfSpares failIn 0) (halfSpares failOut 0), max (halfSpares failIn 1) (halfSpares failOut 1)) (fast && (f = 0 || s.clk.runFace.testBit f)) = t) :
    s.trainingDone f m failIn failOut far fast =
      if (s.face f).up = false ∧ (t.gauge.face f).up = true then (List.range 8).foldl State.pumpOrphans t.gauge else t.gauge := by
  subst ht
  unfold State.trainingDone
  rw [if_neg (by simp [hp])]
  simp only [Bool.and_eq_true, Bool.not_eq_true']

theorem State.trainingDone_still {s : State} {f m failIn failOut far : Nat} {fast : Bool} (hp : s.modPresent f m = true) {t : State}
    (ht : s.trained f m (ownHalf failIn failOut (s.modl f m).limit) far
      (max (halfSpares failIn 0) (halfSpares failOut 0), max (halfSpares failIn 1) (halfSpares failOut 1)) (fast && (f = 0 || s.clk.runFace.testBit f)) = t)
    (hup : (t.face f).up = (s.face f).up) : s.trainingDone f m failIn failOut far fast = t.gauge := by
  rw [State.trainingDone_eq hp ht, (gauge_widths t).up, hup]
  exact if_neg (by simp)

/-! ### A face that comes up (R364) -/

section
variable {v : State} {f : Nat} (hf : f < v.faces.length)
include hf

theorem State.faceUp_shape : ((v.faceUp f).face f).shape = ((v.face f).mods.map Modl.width, (v.face f).fast, false, false) := by
  rw [faceUp_widths v f f, State.face_upFace_same _ _ _ hf]
  rfl

omit hf in
theorem State.faceUp_modl (g n : Nat) : ((v.faceUp f).modl g n).width = (v.modl g n).width := by
  rw [(faceUp_widths v f).modl, State.modl_upFace _ _ _ (by intro x; rfl)]

theorem State.faceUp_up : ((v.faceUp f).face f).up = (v.face f).up := by
  rw [Face.up_eq, State.faceUp_shape hf, Face.up_eq]
  rfl

theorem State.faceUp_flags : ((v.faceUp f).face f).lost = false ∧ ((v.faceUp f).face f).downPosted = false := by
  have h := State.faceUp_shape hf
  unfold Face.shape at h
  simp only [Prod.mk.injEq] at h
  exact h.2.2

end

/-! ### The loss of a face (R364) -/

section
variable {s : State} {f i j : Nat}

/-- An order of the number waits, and none of it is decided. -/
def State.Awaits (s : State) (i : Nat) : Prop := (∃ o ∈ s.orders, o.id = i) ∧ ∀ o ∈ s.orders, o.id = i → o.status = none

/-- An order of the number ends with FACE_LOST. -/
def State.LostWith (s : State) (f i : Nat) : Prop := ∃ o ∈ s.orders, o.id = i ∧ o.status = some (0x32, f) ∧ o.phase = .ending

theorem State.endOrder_mem_of_ne {o : Order} {status detail : Nat} (ho : o ∈ s.orders) (hne : o.id ≠ i) : o ∈ (s.endOrder i status detail).orders := by
  obtain h | h := s.endOrder_cases i status detail <;> rw [h]
  · exact ho
  · exact List.mem_map.2 ⟨o, ho, if_neg hne⟩

theorem State.LostWith.endOrder (h : s.LostWith f i) : (s.endOrder j 0x32 f).LostWith f i := by
  obtain ⟨o, ho, hid, hstatus, hphase⟩ := h
  obtain h | h := s.endOrder_cases j 0x32 f <;> rw [h]
  · exact ⟨o, ho, hid, hstatus, hphase⟩
  · refine ⟨_, List.mem_map.2 ⟨o, ho, rfl⟩, ?_⟩
    split
    · exact ⟨hid, rfl, rfl⟩
    · exact ⟨hid, hstatus, hphase⟩

theorem State.Awaits.endOrder_ne (h : s.Awaits i) (hne : i ≠ j) : (s.endOrder j 0x32 f).Awaits i := by
  obtain ⟨⟨o, ho, hid⟩, hnone⟩ := h
  exact ⟨⟨o, State.endOrder_mem_of_ne ho (hid ▸ hne), hid⟩,
    fun y hy hyid => hnone y (State.mem_orders_endOrder_ne hy (hyid ▸ hne)) hyid⟩

theorem State.Awaits.endOrder_self (h : s.Awaits i) : (s.endOrder i 0x32 f).LostWith f i := by
  obtain ⟨⟨o, ho, hid⟩, hnone⟩ := h
  obtain ⟨x, hx⟩ : ∃ x, s.order? i = some x :=
    Option.isSome_iff_exists.1 (List.find?_isSome.2 ⟨o, ho, by simpa using hid⟩)
  obtain ⟨hxmem, hxid⟩ := order?_mem hx
  rw [State.endOrder_of_undecided hx (hnone x hxmem hxid)]
  exact ⟨_, List.mem_map.2 ⟨o, ho, if_pos hid⟩, hid, rfl, rfl⟩

theorem State.LostWith.foldl {l : List Nat} (h : s.LostWith f i) : (l.foldl (fun s o => s.endOrder o 0x32 f) s).LostWith f i := by
  induction l generalizing s with
  | nil => exact h
  | cons j l ih => exact ih h.endOrder

theorem State.Awaits.foldl {l : List Nat} (h : s.Awaits i) (hi : i ∈ l) : (l.foldl (fun s o => s.endOrder o 0x32 f) s).LostWith f i := by
  induction l generalizing s with
  | nil => cases hi
  | cons j l ih =>
    by_cases hij : i = j
    · subst hij
      rw [List.foldl_cons]
      exact State.LostWith.foldl h.endOrder_self
    · exact ih (h.endOrder_ne hij) ((List.mem_cons.1 hi).resolve_left hij)

theorem State.endOrders_mem_of_not_mem {l : List Nat} {o : Order} (ho : o ∈ s.orders) (hl : o.id ∉ l) :
    o ∈ (l.foldl (fun s o => s.endOrder o 0x32 f) s).orders := by
  induction l generalizing s with
  | nil => exact ho
  | cons j l ih => exact ih (State.endOrder_mem_of_ne ho (fun h => hl (by simp [h]))) (fun h => hl (by simp [h]))

theorem State.endOrders_faces (l : List Nat) : (l.foldl (fun s o => s.endOrder o 0x32 f) s).faces = s.faces := by
  induction l generalizing s with
  | nil => rfl
  | cons j l ih =>
    rw [List.foldl_cons, ih, State.endOrder_rest]

theorem State.txnLost_faces : (s.txnLost f).faces = s.faces := by
  unfold State.txnLost
  dsimp only
  split <;> rfl

end

end Sys2Proof.Machine

open Sys2Proof Sys2Proof.Machine

/-- Settles O31: a module that leaves is put out with its width kept and what it left waiting; one that trains takes the half that both
ends report; and the loss of a face ends, in the order in which they stand, the orders that need it. -/
theorem modulesRetrainAndTrain : Obligations.ModulesRetrainAndTrain := by
  unfold Obligations.ModulesRetrainAndTrain
  intro s f m hsized x others settled
  have hdown : exec (.linkDown f m) s = .next (pump (s.retrainMod f m)) := rfl
  have hretrain (k : Nat) : exec (.retrain f k) s = .next (pump (s.retrain f k)) := rfl
  have hlost : exec (.faceLostTimeout f) s = .next (pump (s.faceLostTimeout f)) := rfl
  refine ⟨fun hp hin => ?_, fun hp hstate htrained => ?_, fun hstays => ?_, fun hm => ?_, ?_, ?_, fun hup => ?_, fun hup hposted => ?_, fun hf hup hposted => ?_⟩
  · refine ⟨s.gone f m, s.emptied f m, State.gone_modl hin, State.unseat_otherWidths _, State.unseat_read_free _, State.unseat_write_free _,
      fun y hy hface hmodl => ⟨_, State.unseat_read_waits _ hy hface hmodl, rfl, rfl, rfl, rfl, rfl, rfl⟩,
      fun y hy hface hmodl => State.unseat_write_waits _ hy hface hmodl, fun y hy hface hmodl => State.unseat_narrow_waits _ hy hface hmodl, rfl,
      State.emptied_widths.modl f m, State.emptied_otherWidths, fun h => ?_, fun hlast hno => ⟨pump (s.relevel (s.fallen f m)), ?_, rfl, ?_⟩⟩
    · rw [hdown, State.retrainMod_keeps_face hin hp h]
      rfl
    · rw [hdown, State.retrainMod_drops_face hin hp hlast hno]
    · have hw : (s.fallen f m).Widths (pump (s.relevel (s.fallen f m))) := (State.relevel_widths _ _).trans (pump_sends _).widths
      refine ⟨(Modl.state_congr ((hw.modl f m).trans (State.fallen_modl f m))).trans (State.emptied_state hin),
        fun g n hne => (hw.modl g n).trans ((State.fallen_modl g n).trans (State.emptied_otherWidths g n hne)),
        (hw.up f).trans (State.fallen_up hin hlast), (hw.downPosted f).trans (State.fallen_downPosted (State.emptied_bounds hin)), ?_⟩
      rw [pump_kettle, State.relevel_kettle]
      exact dieEvent_klog _ _ _ _ _
  · rw [hdown, State.retrainMod_leaves hp (.inr ⟨hstate, htrained⟩), State.leave_of_out (by rw [show (s.modl f m).state = _ from hstate]; decide)]
    simp only [satAdd_one]
  · rw [hdown, State.retrainMod_stays hstays]
  · rw [hretrain, hdown, State.retrain_one hm]
  · rw [hretrain, State.retrain_zero]
  · intro lowerIn upperIn far lowerOut upperOut fast failIn failOut own rep half lanes orphans
    have hdone : exec (.trainingDone f m lowerIn upperIn far lowerOut upperOut fast) s = .next (pump (s.trainingDone f m failIn failOut far fast)) := rfl
    rw [hdone]
    have hgauge (t : State) : t.Widths (pump t.gauge) := (gauge_widths t).trans (pump_sends _).widths
    refine ⟨fun hp => ?_, fun hp hidle => ?_, fun hp htrain => ⟨fun hown hfar => ?_, fun hfar hown => ?_, fun hnarrow hwide => ?_⟩⟩
    · unfold State.trainingDone
      rw [if_pos (by simp [hp])]
    · refine ⟨_, rfl, ?_⟩
      rw [State.trainingDone_still hp (State.trained_idle hidle) rfl, pump_wear]
      exact ⟨gauge_components s, (hgauge s).modl⟩
    · have hslots : ((s.upMod f m (fun y => { y with state := .training, limit := far, repaired := rep, retrains := satAdd y.retrains 1 255 })).modl f m).slots = 0 := by
        rw [State.modl_upMod_training htrain]
        rfl
      refine ⟨_, rfl, ?_⟩
      rw [State.trainingDone_still hp (State.trained_narrower htrain hown hfar)
        ((s.upMod_otherWidths f m _).face_up (State.training_slots htrain) hslots)]
      refine ⟨(s.upMod_otherWidths f m _).trans (hgauge _), ((hgauge _).modl f m).trans ?_⟩
      rw [State.modl_upMod_training htrain, ← satAdd_one]
      rfl
    · have hslots : ((s.upMod f m (fun y => { y with state := .held, repaired := rep })).modl f m).slots = 0 := by
        rw [State.modl_upMod_training htrain]
        rfl
      refine ⟨_, rfl, ?_⟩
      rw [State.trainingDone_still hp (State.trained_wider htrain hfar hown)
        ((s.upMod_otherWidths f m _).face_up (State.training_slots htrain) hslots)]
      refine ⟨(s.upMod_otherWidths f m _).trans (hgauge _), ((hgauge _).modl f m).trans ?_⟩
      rw [State.modl_upMod_training htrain]
      rfl
    · let u := s.seat f m half lanes rep (fast && (decide (f = 0) || s.clk.runFace.testBit f))
      let v := s.degraded u f m lanes
      have hu : s.OtherWidths f m u := State.seat_otherWidths
      have hv : u.Widths v := State.degraded_widths s u
      have hflen : f < v.faces.length := State.bounds_of_width ((hv.modl f m).trans (State.seat_modl_width htrain)) rfl
      have hvposted : (v.face f).downPosted = (s.face f).downPosted := (hv.downPosted f).trans (State.seat_downPosted htrain)
      refine ⟨u, v, s.seated v f, State.seat_modl_width htrain, hu, State.seat_fast htrain, ?_, fun h => ?_, fun hno hup => ?_, ?_⟩
      · simp only [v, State.degraded, Bool.and_eq_true, decide_eq_true_eq]
        rfl
      · unfold State.seated
        refine if_neg ?_
        obtain h | h := h <;> simp [h]
      · obtain ⟨hl, hd⟩ := State.faceUp_flags hflen
        refine ⟨_, v.faceUp f, rfl, ?_, (State.faceUp_modl f m).trans (hv.modl f m), fun g n hne => ((State.faceUp_modl g n).trans (hv.modl g n)).trans (hu g n hne),
          (State.faceUp_up hflen).trans hup, hl, hd, ?_⟩
        · rw [← hvposted]
          rfl
        · unfold State.seated
          exact (if_pos (by simp [hno, hup])).trans rfl
      · rw [State.trainingDone_eq hp (State.trained_seats htrain hnarrow hwide rfl rfl)]
        rfl
  · rw [hlost]
    unfold State.faceLostTimeout
    rw [if_pos hup]
  · rw [hlost]
    unfold State.faceLostTimeout
    rw [if_neg (by simp [hup])]
    unfold State.faceLost
    rw [if_pos (by simp [hposted])]
  · let e := (s.needing f).foldl (fun s o => s.endOrder o 0x32 f) s
    refine ⟨e, _, fun i hi o ho hid hnone => State.Awaits.foldl ⟨⟨o, ho, hid⟩, hnone⟩ hi, fun o ho hno => State.endOrders_mem_of_not_mem ho hno, rfl, ?_, ?_⟩
    · rw [State.face_upFace_same]
      rw [State.txnLost_faces, show ((e.dropLost f ((e.orders.filter (fun o => o.status == some (0x32, f))).map Order.id)).dropBusy f).faces = e.faces from rfl,
        State.endOrders_faces]
      obtain ⟨-, -, -, hfaces⟩ := hsized
      have hlen : s.faces.length = 4 := by simpa using congrArg List.length hfaces
      rwa [hlen]
    · rw [hlost]
      unfold State.faceLostTimeout
      rw [if_neg (by simp [hup])]
      unfold State.faceLost
      rw [if_neg (by simp [hup, hposted])]
end

section
/-! SUPPORT. What a tile of GATHER_POOL, COPY_ROWS or PREFETCH comes to, a bag that lies whole in its tile, its row, and a copied row;
O51. -/

namespace Sys2Proof.Machine

section
variable {s : State} {o : Order} {b : Binding} {t first len pos : Nat} {tile : Tile} {rows : List (RowAt × Nat × Nat × Bool)}

/-! ### The tiles -/

section
variable (ho : s.order? o.id = some o) (hstatus : o.status = none) (hphase : o.phase = .running) (hb : o.binding = some b)
  (htile : o.tile? t = some tile) (hspan : o.tileSpan t = some (first, len, pos)) (hdel : tile.delivered = true) (hwork : tile.worked = false)
include ho hstatus hphase hb htile hspan hdel hwork

/-- The end of a GATHER_POOL command: the rows of bags that no tile holds, the refused bag, and the combined writes (R109, R185). -/
def State.gatherEnd (s : State) (o : Order) (b : Binding) : State :=
  (((match s.order? o.id with
    | some x => if x.status.isNone && x.allWorked && !s.resetting o.p then s.gatherTail o.id b else s
    | none => s).badBagEnd o.id).settle o.id)

theorem State.gatherPool_pools (hname : o.name = some .gather) (hturn : s.benchTurn o t = true) (hroom : s.outRoom tile.bench = true)
    (hrows : s.tileRows o tile b = some rows) (hgot : ∀ r ∈ tile.slots, r.slot ∈ tile.got) :
    s.gatherPool o.id t = ((s.poolBags o.id tile first len b rows).tileWorked o.id t).gatherEnd o b := by
  have hall : tile.slots.all (fun r => tile.got.contains r.slot) = true := by simpa using hgot
  simp only [State.gatherPool, ho, hstatus, hphase, hb, htile, hspan, hdel, hwork, hname, hturn, hroom, hrows, hall, bne_self_eq_false,
    Option.isSome_none, Bool.or_self, Bool.not_true, Bool.false_eq_true, if_false, if_true]
  rfl

theorem State.gatherPool_issues (hname : o.name = some .gather) (hturn : s.benchTurn o t = true) (hroom : s.outRoom tile.bench = true)
    (hmiss : s.tileRows o tile b = none ∨ ∃ r ∈ tile.slots, r.slot ∉ tile.got) : s.gatherPool o.id t = (s.issueRows o.id t).gatherEnd o b := by
  simp only [State.gatherPool, ho, hstatus, hphase, hb, htile, hspan, hdel, hwork, hname, hturn, hroom, bne_self_eq_false,
    Option.isSome_none, Bool.or_self, Bool.not_true, Bool.false_eq_true, if_false]
  cases hrows : s.tileRows o tile b with
  | none => rfl
  | some rows =>
    have hall : tile.slots.all (fun r => tile.got.contains r.slot) = false := by
      simpa [hrows] using hmiss
    simp only [hall, Bool.false_eq_true, if_false]
    rfl

section
variable (hname : o.name = some .copy) (hread : s.mayReadRows o = true) (hturn : s.copyTurn o tile = true)
include hname hread hturn

theorem State.copyRows_issues (hout : o.f 52 1 ≠ 0)
    (hmiss : s.outRoom tile.bench = false ∨ s.tileRows o tile b = none ∨ ∃ r ∈ tile.slots, r.slot ∉ tile.got) : s.copyRows o.id t = s.issueRows o.id t := by
  simp only [State.copyRows, ho, hstatus, hphase, hb, htile, hspan, hdel, hwork, hname, hread, hturn, hout, bne_self_eq_false,
    Option.isSome_none, Bool.or_self, Bool.not_true, Bool.false_eq_true, if_false]
  cases hroom : s.outRoom tile.bench with
  | false => rfl
  | true =>
    cases hrows : s.tileRows o tile b with
    | none => rfl
    | some rows =>
      have hall : tile.slots.all (fun r => tile.got.contains r.slot) = false := by
        simpa [hroom, hrows] using hmiss
      simp only [hall, Bool.false_eq_true, if_false, if_true]

theorem State.copyRows_out (hout : o.f 52 1 ≠ 0) (hroom : s.outRoom tile.bench = true) (hrows : s.tileRows o tile b = some rows)
    (hgot : ∀ r ∈ tile.slots, r.slot ∈ tile.got) : s.copyRows o.id t = s.copyOut o.id t b tile first len rows := by
  have hall : tile.slots.all (fun r => tile.got.contains r.slot) = true := by simpa using hgot
  simp only [State.copyRows, ho, hstatus, hphase, hb, htile, hspan, hdel, hwork, hname, hread, hturn, hout, hroom, hrows, hall, bne_self_eq_false,
    Option.isSome_none, Bool.or_self, Bool.not_true, Bool.false_eq_true, if_false, if_true]

theorem State.copyRows_in (hin : o.f 52 1 = 0) {u : State}
    (hprep : s.prepRows o.id tile b o.bindNo (s.mapFor o.p b o.smap) tile.slots (tile.slots.any (fun r => o.later t r.row)) = (u, .ok)) :
    s.copyRows o.id t = u.copyIn o.id t o b tile first len := by
  simp only [State.copyRows, ho, hstatus, hphase, hb, htile, hspan, hdel, hwork, hname, hread, hturn, hin, hprep, bne_self_eq_false,
    Option.isSome_none, Bool.or_self, Bool.not_true, Bool.false_eq_true, if_false, if_true]

end

/-- One row of a PREFETCH: what it comes to is kept with the tile, and counted (R316). -/
def State.warmRow (s : State) (o : Order) (b : Binding) (tile : Tile) (t r : Nat) : State :=
  match s.prefetchRow o b tile (s.placeRow b (s.mapFor o.p b o.smap) o.jig r) with
  | (y, .wait) => y
  | (y, .done c) => y.upOrder o.id (fun o => match o.tile? t with
    | some z => { o.setTile { z with got := z.got ++ [r] } with count := o.count + b2n c }
    | none => o)

/-- The rows of a tile that the table has, each once. -/
def Tile.rowsIn (tile : Tile) (b : Binding) : List Nat := (tile.elems.filter (· < b.rowCount)).eraseDups

/-- The state in which a PREFETCH has tried each row of a tile that it has not dealt with. -/
def State.warmed (s : State) (o : Order) (b : Binding) (tile : Tile) (t : Nat) : State :=
  ((tile.rowsIn b).filter (fun r => !tile.got.contains r)).foldl (fun x r => x.warmRow o b tile t r) s

section
variable (hname : o.name = some .prefetch) (hread : s.mayReadRows o = true) (hahead : s.openBefore o t ≤ o.rowsAhead) {z : Tile}
  (hz : ((s.warmed o b tile t).order? o.id).bind (fun o => o.tile? t) = some z)
include hname hread hahead hz

omit hspan in
theorem State.prefetchTile_eq : s.prefetchTile o.id t =
    if (tile.rowsIn b).all z.got.contains then
      (((s.warmed o b tile t).countDefaults o.id (tile.elems.length - (tile.elems.filter (· < b.rowCount)).length)).tileWorked o.id t).clearSkips o.p (some o.id)
    else s.warmed o b tile t := by
  have hfar : decide (s.openBefore o t > o.rowsAhead) = false := by simpa using hahead
  have hopen : s.prefetchTile o.id t = match (generalizing := false) ((s.warmed o b tile t).order? o.id).bind (fun o => o.tile? t) with
      | some y =>
        if (tile.rowsIn b).all y.got.contains then
          (((s.warmed o b tile t).countDefaults o.id (tile.elems.length - (tile.elems.filter (· < b.rowCount)).length)).tileWorked o.id t).clearSkips o.p (some o.id)
        else s.warmed o b tile t
      | none => s.warmed o b tile t := by
    unfold State.prefetchTile
    simp only [ho, hstatus, hphase, hb, htile, hdel, hwork, hname, hread, hfar, bne_self_eq_false,
      Option.isSome_none, Bool.or_self, Bool.not_true, Bool.false_eq_true, if_false]
    rfl
  rw [hopen, hz]

omit hspan in
theorem State.prefetchTile_done (hall : ∀ r ∈ tile.rowsIn b, r ∈ z.got) : s.prefetchTile o.id t =
    (((s.warmed o b tile t).countDefaults o.id (tile.elems.length - (tile.elems.filter (· < b.rowCount)).length)).tileWorked o.id t).clearSkips o.p (some o.id) := by
  rw [State.prefetchTile_eq ho hstatus hphase hb htile hdel hwork hname hread hahead hz]
  exact if_pos (List.all_eq_true.2 fun r hr => List.contains_iff_mem.2 (hall r hr))

omit hspan in
theorem State.prefetchTile_left (hleft : ∃ r ∈ tile.rowsIn b, r ∉ z.got) : s.prefetchTile o.id t = s.warmed o b tile t := by
  rw [State.prefetchTile_eq ho hstatus hphase hb htile hdel hwork hname hread hahead hz]
  obtain ⟨r, hr, hno⟩ := hleft
  exact if_neg (fun h => hno (List.contains_iff_mem.1 (List.all_eq_true.1 h r hr)))

end

end

/-! ### A bag that lies whole in its tile -/

/-- A row returned with poison, or whose trailer is poisoned. -/
def rowBad (r : RowAt × Nat × Nat × Bool) : Bool := r.2.2.2 || trPoisoned r.2.2.1

/-- A good row whose mark fails. -/
def rowFails (b : Binding) (r : RowAt × Nat × Nat × Bool) : Bool := !rowBad r && !markGood b r.2.1 r.2.2.1

/-- The first indices of a tile with their weights. -/
def Tile.pairs (tile : Tile) (n : Nat) : List (Nat × F32) := (List.range n).map (fun i => (tile.elems.getD i 0, tile.weights.getD i f32zero))

/-- The rows that a run of indices names. -/
def rowsOf (b : Binding) (rows : List (RowAt × Nat × Nat × Bool)) (ps : List (Nat × F32)) : List (RowAt × Nat × Nat × Bool) :=
  rows.filter (fun r => ps.any (fun p => (b.map p.1).row? == some r.1.row))

section
variable {bag n : Nat} {ps : List (Nat × F32)} {used : List (RowAt × Nat × Nat × Bool)} (ho : s.order? o.id = some o) (hstatus : o.status = none)
  (hparts : o.bagParts first len = [(bag, first, n)]) (hempty : o.emptyBags tile.t first len = []) (hdone : o.outDone = [])
  (hps : tile.pairs n = ps) (hused : rowsOf b rows ps = used)
include ho hstatus hparts hempty hdone hps hused

theorem State.poolBags_fails {r : RowAt × Nat × Nat × Bool} (hfail : used.find? (rowFails b) = some r) :
    s.poolBags o.id tile first len b rows = (s.witnessBad (some o) o.p o.bindNo r.1.slot).endOrder o.id 0x11 bag := by
  subst hps hused
  unfold rowsOf Tile.pairs rowFails rowBad at hfail
  unfold State.poolBags
  simp only [ho, hparts, hempty, hstatus, hdone, hfail, List.filter_nil, List.foldl_cons, List.foldl_nil, List.contains_nil, Option.isSome_none, Bool.or_self,
    Bool.false_eq_true, if_false, Nat.sub_self, Nat.zero_add]

/-- The partial of a bag that lies whole in its tile: one part of its rows, poisoned by a poisoned row (R184). -/
def State.onePartial (s : State) (o : Order) (b : Binding) (n : Nat) (rows used : List (RowAt × Nat × Nat × Bool)) (ps : List (Nat × F32)) : Partial :=
  let c := o.pool b (s.mapFor o.p b o.smap)
  { c.part c.start n (c.rowOps b rows ps) (ps.map Prod.snd) with poisoned := (c.part c.start n (c.rowOps b rows ps) (ps.map Prod.snd)).poisoned || used.any rowBad }

/-- Default rows of a bag: indices outside the table, and rows whose trailer says so (R164). -/
def bagDefaults (b : Binding) (used : List (RowAt × Nat × Nat × Bool)) (ps : List (Nat × F32)) : Nat :=
  (ps.filter (fun p => (b.map p.1).isDefault)).length +
    (ps.filter (fun p => used.any (fun r => trDefault r.2.2.1 && (b.map p.1).row? == some r.1.row))).length

/-- A partial in the place of the one of the same bag, first position and bench (R185). -/
def Order.putPart (x : Order) (e : PartEntry) : Order :=
  { x with parts := (x.parts.filter (fun y => !(y.bag == e.bag && y.first == e.first && y.bench == e.bench))) ++ [e] }

/-- The state in which the partial of a bag stands, with what it counts. -/
def State.pooledOnce (s : State) (o : Order) (b : Binding) (rows used : List (RowAt × Nat × Nat × Bool)) (ps : List (Nat × F32)) (e : PartEntry) : State :=
  let s1 := ((s.countBind o.p o.bindNo 1 ((o.pool b (s.mapFor o.p b o.smap)).rowOps b rows ps).length).upOrder o.id
    (fun x => x.putPart e)).countDefaults o.id (bagDefaults b used ps)
  if used.any rowBad then
    (s1.countBind o.p o.bindNo 11 (used.filter rowBad).length).upInts (fun i => { i with poisonRead := satAdd i.poisonRead (used.filter rowBad).length 0xFFFF })
  else s1

variable (hnone : o.parts = []) (hgood : used.find? (rowFails b) = none) {e : PartEntry}
  (he : (⟨bag, o.partKey bag first, tile.bench, n, s.onePartial o b n rows used ps⟩ : PartEntry) = e)
include hnone hgood he

theorem State.poolBags_step : s.poolBags o.id tile first len b rows =
    match (s.pooledOnce o b rows used ps e).order? o.id with
    | none => s.pooledOnce o b rows used ps e
    | some o3 => match o3.wholeBag (o.pool b (s.mapFor o.p b o.smap)) bag with
      | some p =>
        match (o3.parts.filter (fun y => y.bag == bag && y.bench != (s.pooledOnce o b rows used ps e).bagOwner o3 bag)).find? (fun y => o3.struck.contains (y.bench, bag)) with
        | some y => ((s.pooledOnce o b rows used ps e).witnessDie o3 y.bench).endOrder o.id 0x11 bag
        | none => (s.pooledOnce o b rows used ps e).writeBag o.id b bag p
      | none => s.pooledOnce o b rows used ps e := by
  subst hps hused he
  unfold rowsOf Tile.pairs rowFails rowBad at hgood
  unfold State.poolBags
  simp only [ho, hparts, hempty, hstatus, hdone, hgood, hnone, List.filter_nil, List.foldl_cons, List.foldl_nil, List.contains_nil, Option.isSome_none, Bool.or_self,
    Bool.false_eq_true, if_false, Nat.sub_self, Nat.zero_add, List.find?_nil, Option.map_none, Option.getD_none]
  rfl

end

end

/-! What counting default rows leaves. -/

theorem State.countDefaults_rest (s : State) (i n : Nat) : s.countDefaults i n =
    { s with parts := (s.countDefaults i n).parts, ctxs := (s.countDefaults i n).ctxs, orders := (s.countDefaults i n).orders } := by
  unfold State.countDefaults
  split
  · rfl
  · split <;> rfl

theorem State.order?_countDefaults (s : State) (i n : Nat) :
    (s.countDefaults i n).order? i = (s.order? i).map (fun o => { o with defaults := o.defaults + n }) := by
  unfold State.countDefaults
  split
  · next h =>
    subst h
    cases s.order? i <;> rfl
  · cases ho : s.order? i with
    | none => exact ho
    | some o =>
      refine (order?_upOrder_self _ i (fun o => { o with defaults := o.defaults + n }) (fun _ h => h)).trans ?_
      exact congrArg (Option.map (fun o : Order => { o with defaults := o.defaults + n })) ho

/-- The partials of a bag with one entry that covers it. -/
theorem Order.wholeBag_single {x : Order} {c : Pool} {e : PartEntry} {start : Nat} (hparts : x.parts = [e]) (hbag : x.bagList[e.bag]? = some (start, e.positions)) :
    x.wholeBag c e.bag = some e.val := by
  unfold Order.wholeBag
  rw [hbag, hparts]
  simp only [beq_self_eq_true, List.filter_cons_of_pos, List.filter_nil, List.foldl_cons, List.foldl_nil, Nat.zero_add, ne_eq, not_true_eq_false, if_false]
  cases c.tree <;> rfl

section
variable {s : State} {o : Order} {b : Binding} {rows used : List (RowAt × Nat × Nat × Bool)} {ps : List (Nat × F32)} {e : PartEntry}

theorem State.pooledOnce_writes : (s.pooledOnce o b rows used ps e).writes = s.writes := by
  unfold State.pooledOnce
  dsimp only
  split
  · show (State.countDefaults _ _ _).writes = _
    rw [State.countDefaults_rest]
    rfl
  · rw [State.countDefaults_rest]
    rfl

theorem State.pooledOnce_benches : (s.pooledOnce o b rows used ps e).benches = s.benches := by
  unfold State.pooledOnce
  dsimp only
  split
  · show (State.countDefaults _ _ _).benches = _
    rw [State.countDefaults_rest]
    rfl
  · rw [State.countDefaults_rest]
    rfl

theorem State.order?_pooledOnce (ho : s.order? o.id = some o) (hnone : o.parts = []) : (s.pooledOnce o b rows used ps e).order? o.id =
    some { o with parts := [e], defaults := o.defaults + bagDefaults b used ps } := by
  have hput : o.putPart e = { o with parts := [e] } := by simp [Order.putPart, hnone]
  have hup := order?_upOrder_self (s.countBind o.p o.bindNo 1 ((o.pool b (s.mapFor o.p b o.smap)).rowOps b rows ps).length) o.id
    (fun x => x.putPart e) (fun _ h => h)
  rw [show (State.countBind s _ _ _ _).order? o.id = some o from ho, Option.map_some, hput] at hup
  have hcount := State.order?_countDefaults ((s.countBind o.p o.bindNo 1 ((o.pool b (s.mapFor o.p b o.smap)).rowOps b rows ps).length).upOrder o.id
    (fun x => x.putPart e)) o.id (bagDefaults b used ps)
  rw [hup] at hcount
  unfold State.pooledOnce
  dsimp only
  split
  · exact hcount
  · exact hcount

end

section
variable {s : State} {o : Order} {b : Binding} {t first len bag n : Nat} {tile : Tile} {rows used : List (RowAt × Nat × Nat × Bool)} {ps : List (Nat × F32)}
  {e : PartEntry}

/-- A bag with no row that fails makes one partial, which is written (R184, R185). -/
theorem State.poolBags_writes (ho : s.order? o.id = some o) (hstatus : o.status = none) (hparts : o.bagParts first len = [(bag, first, n)])
    (hempty : o.emptyBags tile.t first len = []) (hdone : o.outDone = []) (hps : tile.pairs n = ps) (hused : rowsOf b rows ps = used)
    (hnone : o.parts = []) (hstruck : o.struck = []) (hlist : o.bagList[bag]? = some (first, n)) (hgood : used.find? (rowFails b) = none)
    (he : (⟨bag, o.partKey bag first, tile.bench, n, s.onePartial o b n rows used ps⟩ : PartEntry) = e) :
    s.poolBags o.id tile first len b rows = (s.pooledOnce o b rows used ps e).writeBag o.id b bag (s.onePartial o b n rows used ps) := by
  rw [State.poolBags_step ho hstatus hparts hempty hdone hps hused hnone hgood he]
  have hwhole : ({ o with parts := [e], defaults := o.defaults + bagDefaults b used ps } : Order).wholeBag (o.pool b (s.mapFor o.p b o.smap)) bag =
      some (s.onePartial o b n rows used ps) := by
    subst he
    exact Order.wholeBag_single (e := ⟨bag, o.partKey bag first, tile.bench, n, _⟩) rfl hlist
  have hclean (l : List PartEntry) (f : PartEntry → Nat × Nat) : l.find? (fun y => o.struck.contains (f y)) = none := by
    rw [hstruck]
    simp
  rw [State.order?_pooledOnce ho hnone]
  dsimp only
  rw [hwhole]
  dsimp only
  rw [hclean]

/-! ### The row of a bag (R180 to R187) -/

theorem State.writeBag_row (ho : s.order? o.id = some o) {p : Partial} (hpois : p.poisoned = false) (hop : o.op = 0x01) (hwhole : o.partialRows = false)
    {es : List OutElem} (hes : (o.pool b (s.mapFor o.p b o.smap)).finish o.outFmt o.outScale p = es) :
    s.writeBag o.id b bag p =
      ((s.writeOut o (s.bagOwner o bag) bag (o.outBytes b) (packCodes (elemBits o.outFmt) (es.map OutElem.code)) b.tableId false).upOrder o.id (fun x =>
        { (x.countOut es).addTile (x.bagTile bag) o.outFmt es with
          bagsOut := x.bagsOut + 1
          outDone := if x.op = 0x02 then bag :: x.outDone else x.outDone
          parts := x.parts.filter (fun y => y.bag != bag) })).checkBehind o.id (o.bagTile bag) Order.tileWhole := by
  have hrecall : (1 == (0x02 : Nat)) = false := rfl
  unfold State.writeBag
  simp only [ho, hpois, hop, hwhole, hes, hrecall, Bool.false_and, Bool.false_eq_true, if_false]

theorem State.writeBag_poisoned (ho : s.order? o.id = some o) {p : Partial} (hpois : p.poisoned = true) :
    ∃ w : State, s.writeBag o.id b bag p = w.endOrder o.id 0x10 bag := by
  unfold State.writeBag
  simp only [ho, hpois, if_true]
  exact ⟨_, rfl⟩

/-! ### A copied row (R115) -/

/-- The bytes of a row go to their place in the destination. -/
def State.copyPut (s : State) (o : Order) (b : Binding) (tile : Tile) (at_ v : Nat) (poison : Bool) : State :=
  (pieceWrites (tile.pieces (o.source false at_) b.rowBytes) v).foldl (fun s y =>
    s.issueLine [.order o.id] o.p (s.viaAt (some tile.bench) tile.epoch y.1 (tile.under (o.f 24 8))) y.1 y.2.1 y.2.2 poison) s

variable (ho : s.order? o.id = some o) (hstatus : o.status = none) {i k : Nat}
include ho hstatus

theorem State.copyOutRow_outside (hrow : (b.map i).row? = none) : s.copyOutRow o.id t b tile first rows (i, k) = s.copyPut o b tile (first + k) 0 false := by
  simp only [State.copyOutRow, ho, hstatus, hrow, Option.isSome_none, Bool.false_eq_true, if_false]
  rfl

variable {r : Nat} {y : RowAt × Nat × Nat × Bool} (hrow : (b.map i).row? = some r) (hfind : rows.find? (fun y => y.1.row == r) = some y)
include hrow hfind

theorem State.copyOutRow_good (hgood : rowBad y = false) (hmark : markGood b y.2.1 y.2.2.1 = true) (hdef : trDefault y.2.2.1 = false) :
    s.copyOutRow o.id t b tile first rows (i, k) = s.copyPut o b tile (first + k) y.2.1 false := by
  unfold rowBad at hgood
  simp only [State.copyOutRow, ho, hstatus, hrow, hfind, hgood, hmark, hdef, Option.isSome_none, Bool.not_true, Bool.false_eq_true, if_false]
  rfl

theorem State.copyOutRow_fails (hgood : rowBad y = false) (hmark : markGood b y.2.1 y.2.2.1 = false) :
    s.copyOutRow o.id t b tile first rows (i, k) = (s.witnessBad (some o) o.p o.bindNo y.1.slot).endOrder o.id 0x11 t := by
  unfold rowBad at hgood
  simp only [State.copyOutRow, ho, hstatus, hrow, hfind, hgood, hmark, Option.isSome_none, Bool.not_false, Bool.false_eq_true, if_false, if_true]

theorem State.copyOutRow_poisoned (hbad : rowBad y = true) : s.copyOutRow o.id t b tile first rows (i, k) =
    (((s.countBind o.p o.bindNo 11 1).upInts (fun i => { i with poisonRead := satAdd i.poisonRead 1 0xFFFF })).copyPut o b tile (first + k) y.2.1 true).endOrder o.id 0x10 t := by
  unfold rowBad at hbad
  simp only [State.copyOutRow, ho, hstatus, hrow, hfind, hbad, Option.isSome_none, Bool.false_eq_true, if_false, if_true]
  rfl

end

end Sys2Proof.Machine

open Sys2Proof Sys2Proof.Machine

/-- Settles O51: the tile is worked once its rows are there and asks for the missing ones before; a bag whole in its tile makes one
partial or ends the order at its first row that fails; and a copied row goes to its place as it was read. -/
theorem rowReadersWorkTheirTiles : Obligations.RowReadersWorkTheirTiles := by
  unfold Obligations.RowReadersWorkTheirTiles
  intro s o b t tile first len pos ho hstatus hphase hb htile hspan hdel hwork
  have hgather : exec (.gatherPool o.id t) s = .next (pump (s.gatherPool o.id t).suspects) := rfl
  have hcopy : exec (.copyRows o.id t) s = .next (pump (s.copyRows o.id t)) := rfl
  have hprefetch : exec (.prefetch o.id t) s = .next (pump (s.prefetchTile o.id t)) := rfl
  refine ⟨fun hname hturn hroom => ?_, fun hname hread hturn => ⟨fun hout hmiss => ?_, fun hout hroom rows hrows hgot => ?_, fun hin u hprep => ?_⟩,
    fun hname hread hahead => ?_, fun bag n rows hparts hempty hdone hnone hstruck hlist => ?_, fun v bag p ho => ?_, fun rows i k => ?_⟩
  · refine ⟨fun rows hrows hgot => ?_, fun hmiss => ?_⟩
    · rw [hgather, State.gatherPool_pools ho hstatus hphase hb htile hspan hdel hwork hname hturn hroom hrows hgot]
      rfl
    · rw [hgather, State.gatherPool_issues ho hstatus hphase hb htile hspan hdel hwork hname hturn hroom hmiss]
      rfl
  · rw [hcopy, State.copyRows_issues ho hstatus hphase hb htile hspan hdel hwork hname hread hturn hout hmiss]
  · refine ⟨_, rfl, ?_⟩
    rw [hcopy, State.copyRows_out ho hstatus hphase hb htile hspan hdel hwork hname hread hturn hout hroom hrows hgot]
    rfl
  · rw [hcopy, State.copyRows_in ho hstatus hphase hb htile hspan hdel hwork hname hread hturn hin hprep]
  · intro rows v hv z hz
    have hwarm : v = s.warmed o b tile t := hv.trans rfl
    subst hwarm
    refine ⟨fun hall => ?_, fun hleft => ?_⟩
    · rw [hprefetch, State.prefetchTile_done ho hstatus hphase hb htile hdel hwork hname hread hahead hz hall]
    · rw [hprefetch, State.prefetchTile_left ho hstatus hphase hb htile hdel hwork hname hread hahead hz hleft]
  · intro ps used bad c
    refine ⟨fun r hfail => State.poolBags_fails ho hstatus hparts hempty hdone rfl rfl hfail, fun hgood => ?_⟩
    refine ⟨s.onePartial o b n rows used ps, s.pooledOnce o b rows used ps _, ?_,
      State.poolBags_writes ho hstatus hparts hempty hdone rfl rfl hnone hstruck hlist hgood rfl, State.pooledOnce_writes, State.pooledOnce_benches,
      _, State.order?_pooledOnce ho hnone, rfl, (Nat.add_assoc _ _ _).symm⟩
    unfold State.onePartial
    dsimp only
    rw [Bool.or_comm]
    rfl
  · intro c es
    refine ⟨fun hpois hop hwhole => ⟨_, State.writeBag_row ho hpois hop hwhole rfl, rfl⟩, fun hpois => State.writeBag_poisoned ho hpois⟩
  · intro put
    refine ⟨fun hrow => State.copyOutRow_outside ho hstatus hrow, fun r y hrow hfind => ⟨fun hp1 hp2 hmark hdef => ?_, fun hp1 hp2 hmark => ?_, fun hbad => ?_⟩⟩
    · exact State.copyOutRow_good ho hstatus hrow hfind (by simp [rowBad, hp1, hp2]) hmark hdef
    · exact State.copyOutRow_fails ho hstatus hrow hfind (by simp [rowBad, hp1, hp2]) hmark
    · exact ⟨_, State.copyOutRow_poisoned ho hstatus hrow hfind (by simpa [rowBad] using hbad), rfl, rfl⟩
end

section
/-! SUPPORT. The steps of the Strainer on a bench, the scoring of a dimension block, and the two orders that move tile records; O52. -/

namespace Sys2Proof.Machine

/-! ### The next step of an order on a bench (R195 to R203) -/

section
variable {s : State} {o : Order} {b : Nat} {j : Jig} {x : Binding}

/-- Everything that a step on a bench needs beside room in the accumulator store. -/
structure State.StepReady (s : State) (o : Order) (b : Nat) (j : Jig) (x : Binding) : Prop where
  jig : o.jig = some j
  aux : o.aux = some x
  undecided : o.status = none
  running : o.phase = .running
  going : o.stopping = false
  unheld : o.stepHeld ((s.nextStep o b).map (fun y => y.2.2)) = false
  phase1 : o.phase2 = false
  mine : b ∈ setBits j.benchMask
  session : s.sessionRuns o = true
  bench : s.benchReady b = true
  reads : s.mayReadRows o = true
  kept : s.resetting o.p = false
  header : s.readHeader o.id b = (s, .ok)
  queries : s.readQueries o.id b = (s, .ok)

/-- An order that begins its work on a bench, with step 0, or goes on there. -/
def Order.begun (b : Nat) (y : Order) : Order :=
  { y with steps := if y.steps.any (fun z => z.1 == b) then y.steps else y.steps ++ [(b, 0)], rooms := if y.rooms.contains b then y.rooms else y.rooms ++ [b] }

theorem State.order?_begun (ho : s.order? o.id = some o) : (s.upOrder o.id (Order.begun b)).order? o.id = some (o.begun b) := by
  rw [order?_upOrder_self s o.id (Order.begun b) (fun _ h => h), ho]
  rfl

theorem State.strain_of_ready (ho : s.order? o.id = some o) (h : s.StepReady o b j x) : s.strain o.id b =
    if s.roomOn o b then (s.upOrder o.id (Order.begun b)).strainTile o.id b (o.begun b) j x else s := by
  have hmine : (setBits j.benchMask).contains b = true := by simpa using h.mine
  have hbegun := State.order?_begun (b := b) ho
  have hok : (Need.ok ≠ Need.ok) = False := by simp
  unfold Order.begun at hbegun ⊢
  cases hroom : s.roomOn o b <;>
    simp only [State.strain, ho, h.jig, h.aux, hmine, h.undecided, h.running, h.going, h.unheld, h.phase1, h.session, h.bench, h.reads, h.kept, h.header,
      h.queries, hroom, hbegun, hok, bne_self_eq_false, Option.isSome_none, Bool.or_self, Bool.not_true, Bool.not_false, Bool.false_eq_true, if_false, if_true]

theorem State.score_strains (ho : s.order? o.id = some o) (hname : o.name = some .score) : s.score o.id b = s.strain o.id b := by
  simp only [State.score, ho, hname, bne_self_eq_false, Bool.false_eq_true, if_false]

theorem State.recall_strains (ho : s.order? o.id = some o) (hname : o.name = some .recall) (hphase : o.phase2 = false) : s.recall o.id b = s.strain o.id b := by
  simp only [State.recall, ho, hname, hphase, bne_self_eq_false, Bool.false_eq_true, if_false]

theorem State.recall_pools (ho : s.order? o.id = some o) (hname : o.name = some .recall) (hphase : o.phase2 = true) :
    s.recall o.id b = ((s.recallPool o.id b).recallDone o.id).settle o.id := by
  simp only [State.recall, ho, hname, hphase, bne_self_eq_false, Bool.false_eq_true, if_false, if_true]

end

/-! ### The step of a tile (R195, R198, R202) -/

section
variable {s : State} {i b k d t : Nat} {v : Order} {j : Jig} {x : Binding}

theorem State.strainTile_ends (h : s.nextStep v b = none) : s.strainTile i b v j x = s.strainFinish i b := by
  simp only [State.strainTile, h]

variable (h : s.nextStep v b = some (k, d, t))
include h

theorem State.strainTile_waits (hfree : s.arrayFree v b = false) : s.strainTile i b v j x = s := by
  simp only [State.strainTile, h, hfree, Bool.not_false, if_true]

variable (hfree : s.arrayFree v b = true) {tile : Tile} {first l pos : Nat} (htile : v.tile? t = some tile) (hspan : v.tileSpan t = some (first, l, pos))
include hfree htile hspan

theorem State.strainTile_loads (hdel : tile.delivered = false) : s.strainTile i b v j x = s.loadArray v j b := by
  simp only [State.strainTile, h, hfree, htile, hspan, hdel, Bool.not_true, Bool.not_false, Bool.false_eq_true, if_false, if_true]

theorem State.strainTile_streams (hdel : tile.delivered = true) : s.strainTile i b v j x =
    ((s.loadArray v j b).dropBadRows v b tile.elems).strainRows i b d t first j x
      (tile.slots.filter (((s.loadArray v j b).dropBadRows v b tile.elems).gathered v b)) tile := by
  simp only [State.strainTile, h, hfree, htile, hspan, hdel, Bool.not_true, Bool.false_eq_true, if_false]

end

section
variable {s : State} {o : Order} {b d t first : Nat} {j : Jig} {x : Binding} {slots : List RowAt} {tile : Tile} {rows : List (RowAt × Nat × Nat × Bool)}
  (ho : s.order? o.id = some o)
include ho

theorem State.strainRows_issues (h : s.tileRows o { tile with slots := slots } x = none ∨ ∃ r ∈ slots, r.slot ∉ tile.got) :
    s.strainRows o.id b d t first j x slots tile = s.issueRows o.id t := by
  simp only [State.strainRows, ho]
  cases hrows : s.tileRows o { tile with slots := slots } x with
  | none => rfl
  | some rows =>
    have hall : slots.all (fun r => tile.got.contains r.slot) = false := by simpa [hrows] using h
    simp only [hall, Bool.not_false, if_true]

theorem State.strainRows_runs (hrows : s.tileRows o { tile with slots := slots } x = some rows) (hgot : ∀ r ∈ slots, r.slot ∈ tile.got)
    (hsaved : o.saved = []) : s.strainRows o.id b d t first j x slots tile =
      s.runStep o.id b (((o.steps.find? (fun y => y.1 == b)).map Prod.snd).getD 0) d tile first j x rows none := by
  have hall : slots.all (fun r => tile.got.contains r.slot) = true := by simpa using hgot
  simp only [State.strainRows, ho, hrows, hall, hsaved, List.find?_nil, Bool.not_true, Bool.false_eq_true, if_false]

/-! ### Scoring a dimension block (R191 to R203, R216) -/

variable {n : Nat} {r : RowAt × Nat × Nat × Bool}

/-- A row that a step cannot score: one with poison, or one whose mark fails. -/
def rowSpoilt (x : Binding) (r : RowAt × Nat × Nat × Bool) : Bool := r.2.2.2 || trPoisoned r.2.2.1 || !markGood x r.2.1 r.2.2.1

theorem State.runStep_poisoned (hbad : rows.find? (rowSpoilt x) = some r) (hpois : rowBad r = true) :
    ∃ u : State, s.runStep o.id b n d tile first j x rows none = u.endOrder o.id 0x10 0 := by
  unfold rowSpoilt at hbad
  unfold rowBad at hpois
  simp only [State.runStep, ho, hbad, hpois, if_true]
  exact ⟨_, rfl⟩

theorem State.runStep_fails (hbad : rows.find? (rowSpoilt x) = some r) (hpois : rowBad r = false) :
    s.runStep o.id b n d tile first j x rows none = (s.witnessBad (some o) o.p o.auxNo r.1.slot).endOrder o.id 0x11 0 := by
  unfold rowSpoilt at hbad
  unfold rowBad at hpois
  simp only [State.runStep, ho, hbad, hpois, Bool.false_eq_true, if_false]

end

/-- The state in which a step has its candidates: a resident set is used, and with the first dimension block the default rows count. -/
def State.stepCounted (s : State) (o : Order) (b d : Nat) (j : Jig) (x : Binding) (tile : Tile) (rows : List (RowAt × Nat × Nat × Bool)) : State :=
  let u := if j.resident then s.useSet o b else s
  if d = 0 then u.countDefaults o.id (((s.candidates o b x tile rows).filter Option.isNone).length +
    (tile.elems.filter (fun i => rows.any (fun r => r.1.row == i && trDefault r.2.2.1))).length) else u

/-- The scores of a dimension block: of every query and candidate. -/
def State.stepBlock (s : State) (o : Order) (b d : Nat) (j : Jig) (x : Binding) (tile : Tile) (rows : List (RowAt × Nat × Nat × Bool)) : List (List Nat) :=
  ((s.stationary o j b).map (queryCodes j)).map (fun q => ((s.candidates o b x tile rows).map (fun y => y.map x.codes)).map (fun y =>
    match y with | some k => blockScore j d k q | none => 0))

/-- The sums so far of a tile on a bench. -/
def Order.sumsOf (o : Order) (b : Nat) (tile : Tile) : Option ScoreTile := o.scoreTiles.find? (fun y => y.bench == b && y.t == tile.t)

/-- A block added to the sums so far. -/
def addBlock (fp : Bool) (old : Option ScoreTile) (block : List (List Nat)) : List (List Nat) :=
  match old with
  | some y => List.zipWith (List.zipWith (addWord fp)) y.vals block
  | none => block

section
variable {s : State} {o : Order} {b n d first : Nat} {j : Jig} {x : Binding} {tile : Tile} {rows : List (RowAt × Nat × Nat × Bool)}
  (ho : s.order? o.id = some o) (hgood : rows.find? (rowSpoilt x) = none) (hstraight : j.transposed = false)
include ho hgood hstraight

theorem State.runStep_struck (hd : d ≠ 0) (hstruck : (o.sumsOf b tile).any ScoreTile.poisoned = true) :
    s.runStep o.id b n d tile first j x rows none = (s.stepCounted o b d j x tile rows).endOrder o.id 0x10 tile.t := by
  unfold rowSpoilt at hgood
  unfold Order.sumsOf at hstruck
  simp only [State.runStep, ho, hgood, hstraight, hd, hstruck, Bool.false_eq_true, if_false, ne_eq, not_false_eq_true, decide_true, Bool.and_self, if_true]
  simp only [State.stepCounted, hd, if_false]

variable (hsels : o.badSels = []) {sum : List (List Nat)}
  (hsum : addBlock j.fpAcc (if d = 0 then none else o.sumsOf b tile) (s.stepBlock o b d j x tile rows) = sum)
  (hsound : d = 0 ∨ (o.sumsOf b tile).any ScoreTile.poisoned = false)
include hsels hsum hsound

theorem State.runStep_keeps (hleft : 1 < tile.left) : s.runStep o.id b n d tile first j x rows none =
    ((s.stepCounted o b d j x tile rows).upOrder o.id (fun y => { y with
      scoreTiles := y.scoreTiles.filter (fun z => !(z.bench == b && z.t == tile.t)) ++ [{ bench := b, t := tile.t, fp := j.fpAcc, vals := sum }] })).leaveStep o.id b n tile := by
  subst hsum
  unfold rowSpoilt at hgood
  unfold Order.sumsOf at hsound
  have hnot : (decide (d ≠ 0) && (o.scoreTiles.find? (fun y => y.bench == b && y.t == tile.t)).any ScoreTile.poisoned) = false := by
    obtain h | h := hsound <;> simp [h]
  have hmany : ¬ tile.left ≤ 1 := by omega
  simp only [State.runStep, ho, hgood, hstraight, hnot, hsels, hmany, List.any_nil, Bool.false_eq_true, if_false]
  rfl

theorem State.runStep_finishes (hleft : tile.left ≤ 1) : s.runStep o.id b n d tile first j x rows none =
    (((s.stepCounted o b d j x tile rows).upOrder o.id (fun y => { y with
      scoreTiles := y.scoreTiles.filter (fun z => !(z.bench == b && z.t == tile.t)), saved := y.saved.filter (fun z => !(z.2.1 == tile.t && z.2.2 == b)) })).finishTile
        o.id b tile first j.fpAcc (s.candidates o b x tile rows) sum).leaveStep o.id b n tile := by
  subst hsum
  unfold rowSpoilt at hgood
  unfold Order.sumsOf at hsound
  have hnot : (decide (d ≠ 0) && (o.scoreTiles.find? (fun y => y.bench == b && y.t == tile.t)).any ScoreTile.poisoned) = false := by
    obtain h | h := hsound <;> simp [h]
  simp only [State.runStep, ho, hgood, hstraight, hnot, hsels, hleft, List.any_nil, Bool.false_eq_true, if_false, if_true]
  rfl

end

/-! ### Tile records (R122, R216) -/

/-- There is room for the tile of the next record. -/
theorem accRoom_fits {rows held used : Nat} (h : rows ≤ held ∨ used + (rows - held) * 1024 ≤ storeBytes) :
    (decide (rows > held) && decide (used + (rows - held) * 1024 > storeBytes)) = false := by
  obtain h | h := h
  · rw [decide_eq_false (by omega)]
    rfl
  · rw [Bool.and_comm, decide_eq_false (by omega)]
    rfl

section
variable {s u : State} {o : Order} {c : Ctx} (ho : s.order? o.id = some o) (hc : s.ctx? o.p o.session = some c) (hsaved : o.saved = [])
include ho hc hsaved

section
variable (hready : s.accReady o .accLoad c = true)
  (hroom : o.accRows ≤ ((c.tiles.find? (fun x => x.slot == o.accSlot o.count)).map AccTile.rows).getD 0 ∨
    s.storeUsed c.home o.id + (o.accRows - ((c.tiles.find? (fun x => x.slot == o.accSlot o.count)).map AccTile.rows).getD 0) * 1024 ≤ storeBytes)
  {v : Nat} {bad : Bool} (hread : s.readArea o.id c.home (o.accAt o.count) (tileBytes o.accRows) 5 = (u, some (v, bad)))
include hready hroom hread

theorem State.accLoad_poisoned (hbad : bad = true ∨ v.testBit 24 = true) : s.accLoad o.id = u.endOrder o.id 0x10 (o.accSlot o.count) := by
  have hfits := accRoom_fits hroom
  have hb : (bad || v.testBit 24) = true := by simpa using hbad
  simp only [State.accLoad, ho, hc, hready, hsaved, hfits, hread, hb, List.isEmpty_nil, Bool.not_true, Bool.false_eq_true, if_false, if_true]

theorem State.accLoad_fails (hgood : bad = false) (hpois : v.testBit 24 = false) (hmark : tileGood v o.accRows o.session = false) :
    s.accLoad o.id = (u.blockBad o (o.accAt o.count)).endOrder o.id 0x11 (o.accSlot o.count) := by
  have hfits := accRoom_fits hroom
  simp only [State.accLoad, ho, hc, hready, hsaved, hfits, hread, hgood, hpois, hmark, List.isEmpty_nil, Bool.or_self, Bool.not_true, Bool.not_false,
    Bool.false_eq_true, if_false, if_true]

/-- The tile that a whole record makes: its words, added to those of the slot with accumulate. -/
def Order.loadedTile (o : Order) (c : Ctx) (v : Nat) : AccTile :=
  { slot := o.accSlot o.count, rows := o.accRows, fp := o.accFp,
    vals := if (o.f 39 1).testBit 0 then List.zipWith (addWord o.accFp) (c.slotOf o.id (o.accSlot o.count) o.accRows o.accFp).vals (tileWords v o.accRows)
      else tileWords v o.accRows,
    poisoned := (o.f 39 1).testBit 0 && (c.slotOf o.id (o.accSlot o.count) o.accRows o.accFp).poisoned }

theorem State.accLoad_whole (hgood : bad = false) (hpois : v.testBit 24 = false) (hmark : tileGood v o.accRows o.session = true) : s.accLoad o.id =
    if (o.f 39 1).testBit 0 = true ∧ (c.slotOf o.id (o.accSlot o.count) o.accRows o.accFp).poisoned = true
    then ((u.setSlot o.p o.session (o.loadedTile c v)).upOrder o.id (fun p => { p with count := o.count + 1, acted := decide (o.count + 1 = p.f 34 2) })).endOrder
      o.id 0x10 (o.accSlot o.count)
    else (u.setSlot o.p o.session (o.loadedTile c v)).upOrder o.id (fun p => { p with count := o.count + 1, acted := decide (o.count + 1 = p.f 34 2) }) := by
  have hfits := accRoom_fits hroom
  simp only [State.accLoad, ho, hc, hready, hsaved, hfits, hread, hgood, hpois, hmark, List.isEmpty_nil, Bool.or_self, Bool.not_true,
    Bool.false_eq_true, if_false, Bool.and_eq_true]
  rfl

end

/-- The state in which the record of a slot is written; the slot is released and cleared with bit 0 of the flags. -/
def State.recordStored (u : State) (o : Order) (c : Ctx) (t1 : Tile) (x : AccTile) : State :=
  let v := u.writeStraight (some c.home) o.p u.cfg.epoch (.order o.id) (t1.pieces (o.accAt o.count) (tileBytes o.accRows))
    (tileRecord (o.accSlot o.count) c.home o.accRows o.session x.poisoned (x.vals.any (wordInf x.fp)) x.vals) (u.spaceAt o.p (o.f 24 8))
  (if (o.f 39 1).testBit 0 then v.upCtx o.p o.session (fun c =>
      { c with tiles := c.tiles.filter (fun y => y.slot != o.accSlot o.count), cleared := o.accSlot o.count :: c.cleared.erase (o.accSlot o.count) }) else v).upOrder o.id
    (fun p => { p with count := o.count + 1, acted := decide (o.count + 1 = p.f 34 2) })

theorem State.accStore_stores (hready : s.accReady o .accStore c = true) {t1 : Tile}
    (hpages : s.needPages o.id { t := 0xFFFFFFFF, bench := c.home } [{ ea := o.accAt o.count, len := tileBytes o.accRows, write := true, kind := 4 }] = (u, t1, .ok))
    {x : AccTile} (hx : c.slotOf o.id (o.accSlot o.count) o.accRows o.accFp = x) :
    s.accStore o.id = if x.poisoned then (u.recordStored o c t1 x).endOrder o.id 0x10 (o.accSlot o.count) else u.recordStored o c t1 x := by
  simp only [State.accStore, ho, hc, hready, hsaved, hpages, hx, List.isEmpty_nil, Bool.not_true, Bool.false_eq_true, if_false]
  rfl

end

end Sys2Proof.Machine

open Sys2Proof Sys2Proof.Machine

/-- Settles O52: a step begins where the accumulator store has room, streams or waits as its tile stands, and scores a dimension block or
ends the order at the first row that it cannot score; a tile record is loaded into its slot, and stored from it. -/
theorem strainerOrdersStep : Obligations.StrainerOrdersStep := by
  unfold Obligations.StrainerOrdersStep
  intro s o ho
  have hscore (b : Nat) : exec (.score o.id b) s = .next (pump (s.score o.id b)) := rfl
  have hrecall (b : Nat) : exec (.recallRows o.id b) s = .next (pump (s.recall o.id b).suspects) := rfl
  have hload : exec (.accLoad o.id) s = .next (pump (s.accLoad o.id)) := rfl
  have hstore : exec (.accStore o.id) s = .next (pump (s.accStore o.id)) := rfl
  refine ⟨fun b j x hjig haux hstatus hrun hgo hheld hph hmine hsess hbench hreads hkept hheader hqueries hname => ?_, fun b hname hph => ?_,
    fun c hc hready hsaved hroom u v bad hread => ?_, fun c hc hready hsaved u t1 hpages => ?_,
    fun b v j x => ⟨State.strainTile_ends, fun k d t h => ⟨State.strainTile_waits h, fun hfree => ⟨fun tile first l pos htile hspan hdel => ?_,
      fun tile first l pos htile hspan hdel => ⟨_, rfl, State.strainTile_streams h hfree htile hspan hdel⟩⟩⟩⟩,
    fun b d t first j x slots tile => ⟨State.strainRows_issues ho, fun rows => State.strainRows_runs ho⟩, fun b n d first tile j x rows => ?_⟩
  · have hready : s.StepReady o b j x := ⟨hjig, haux, hstatus, hrun, hgo, hheld, hph, hmine, hsess, hbench, hreads, hkept, hheader, hqueries⟩
    intro fin
    have hexec : exec (if o.name = some .score then .score o.id b else .recallRows o.id b) s = .next (fin (s.strain o.id b)) := by
      by_cases hs : o.name = some .score
      · rw [if_pos hs, hscore, State.score_strains ho hs]
        exact congrArg Host.Outcome.next (if_pos hs).symm
      · rw [if_neg hs, hrecall, State.recall_strains ho (hname.resolve_left hs) hph]
        exact congrArg Host.Outcome.next (if_neg hs).symm
    refine ⟨_, rfl, fun hroom => ?_, fun hroom => ⟨_, _, State.order?_begun ho, ?_, _, rfl, rfl, rfl⟩⟩
    · rw [hexec, State.strain_of_ready ho hready, hroom]
      rfl
    · rw [hexec, State.strain_of_ready ho hready, hroom]
      rfl
  · rw [hrecall, State.recall_pools ho hname hph]
  · intro slot
    have hfits := hroom _ rfl
    refine ⟨fun hbad => ?_, fun hgood hpois hmark => ?_, fun hgood hpois hmark => ⟨o.loadedTile c v, rfl, rfl, rfl, rfl, _, rfl, ?_⟩⟩
    · rw [hload, State.accLoad_poisoned ho hc hsaved hready hfits hread hbad]
    · rw [hload, State.accLoad_fails ho hc hsaved hready hfits hread hgood hpois hmark]
    · rw [hload, State.accLoad_whole ho hc hsaved hready hfits hread hgood hpois hmark]
      rfl
  · refine ⟨_, u.recordStored o c t1 (c.slotOf o.id (o.accSlot o.count) o.accRows o.accFp), _, rfl, rfl, rfl, ?_⟩
    rw [hstore, State.accStore_stores ho hc hsaved hready hpages rfl]
  · exact State.strainTile_loads h hfree htile hspan hdel
  · intro bad
    refine ⟨fun r hbad hpois => State.runStep_poisoned ho hbad (by simpa [rowBad] using hpois),
      fun r hbad hp1 hp2 => State.runStep_fails ho hbad (by simp [rowBad, hp1, hp2]), fun hgood hstraight hsels => ?_⟩
    intro scored u flagged v block old sum
    have hblock : s.stepBlock o b d j x tile rows = block := List.map_congr_left fun q _ => List.map_map
    refine ⟨fun hd hstruck => State.runStep_struck ho hgood hstraight hd hstruck, fun hd hleft => ?_, fun hd hsound hleft => ?_, fun hd hsound hleft => ⟨_, rfl, ?_⟩⟩
    · exact State.runStep_keeps ho hgood hstraight hsels (by rw [if_pos hd, hblock]; rfl) (.inl hd) hleft
    · exact State.runStep_keeps ho hgood hstraight hsels (by rw [if_neg hd, hblock]; rfl) (.inr hsound) hleft
    · exact State.runStep_finishes ho hgood hstraight hsels (by rw [if_neg hd, hblock]; rfl) (.inr hsound) hleft
end

section
/-! SUPPORT. The lanes of a SCATTER_MERGE, its merge a row at a time, the tiles of an APPEND_ROWS, and write combining; O53. -/

namespace Sys2Proof.Machine

/-! ### Lanes (R244 to R247) -/

section
variable {x : Scat} {j : Jig} {e bench pos row : Nat} {grad : List F32} {bad : Bool}

/-- A resident fragment of the lane of a position on a bench. -/
def Frag.inLane (j : Jig) (bench pos : Nat) (f : Frag) : Bool := f.bench == bench && f.lane == laneOf j pos && f.spilled.isNone

/-- The fragment that a position starts. -/
def Frag.started (j : Jig) (e bench pos row : Nat) (grad : List F32) (bad : Bool) : Frag :=
  { bench := bench, lane := laneOf j pos, row := row, count := 1, acc := List.zipWith fadd (List.replicate e f32zero) grad, lastPos := pos, poisoned := bad }

theorem Scat.add_joins (h : ∃ f ∈ x.frags, f.inLane j bench pos = true ∧ f.row = row) : x.add j e bench pos row grad bad =
    { x with
      joined := x.joined + 1
      frags := x.frags.map (fun f => if f.inLane j bench pos && f.row == row then
        { f with acc := List.zipWith fadd f.acc grad, count := f.count + 1, lastPos := pos, poisoned := f.poisoned || bad } else f) } := by
  obtain ⟨f, hf, hlane, hrow⟩ := h
  unfold Frag.inLane at hlane
  cases hfind : x.frags.find? (fun f => (f.bench == bench && f.lane == laneOf j pos && f.spilled.isNone) && f.row == row) with
  | none =>
    have := List.find?_eq_none.1 hfind f hf
    simp [hlane, hrow] at this
  | some g =>
    unfold Scat.add
    simp only [hfind]
    rfl

theorem Scat.find?_row_none (h : ∀ f ∈ x.frags, f.inLane j bench pos = true → f.row ≠ row) :
    x.frags.find? (fun f => (f.bench == bench && f.lane == laneOf j pos && f.spilled.isNone) && f.row == row) = none := by
  refine List.find?_eq_none.2 fun f hf hboth => ?_
  obtain ⟨hlane, hrow⟩ := Bool.and_eq_true_iff.1 hboth
  exact h f hf hlane (by simpa using hrow)

theorem Scat.add_starts (h : ∀ f ∈ x.frags, f.inLane j bench pos = true → f.row ≠ row)
    (hroom : (x.frags.filter (Frag.inLane j bench pos)).length < laneSlots j e) :
    x.add j e bench pos row grad bad = { x with frags := x.frags ++ [Frag.started j e bench pos row grad bad] } := by
  have hfind := Scat.find?_row_none h
  unfold Frag.inLane at hroom
  unfold Scat.add
  simp only [hfind, hroom, if_true]
  rfl

/-- The least of the last positions of a lane is that of a fragment that comes before every other of it. -/
theorem foldl_min_lastPos {l : List Frag} {m : Nat} {v : Frag} (hv : v ∈ l ∨ m = v.lastPos) (hm : v.lastPos ≤ m) (hle : ∀ f ∈ l, v.lastPos ≤ f.lastPos) :
    l.foldl (fun m f => min m f.lastPos) m = v.lastPos := by
  induction l generalizing m with
  | nil => exact hv.resolve_left (by simp)
  | cons f l ih =>
    have hf := hle f (by simp)
    refine ih (m := min m f.lastPos) ?_ (by omega) (fun g hg => hle g (by simp [hg]))
    obtain hv | hv := hv
    · obtain rfl | hv := List.mem_cons.1 hv
      · exact .inr (by omega)
      · exact .inl hv
    · exact .inr (by omega)

/-- The number of the next record that a lane of a bench spills. -/
def Scat.nextSpill (x : Scat) (j : Jig) (bench pos : Nat) : Nat :=
  ((x.counts.find? (fun c => c.1 == bench && c.2.1 == laneOf j pos)).map (fun c => c.2.2)).getD 0

theorem Scat.add_spills {v : Frag} (h : ∀ f ∈ x.frags, f.inLane j bench pos = true → f.row ≠ row ∧ v.lastPos ≤ f.lastPos ∧ (f.lastPos = v.lastPos → f = v))
    (hv : v ∈ x.frags) (hlane : v.inLane j bench pos = true) (hpos : v.lastPos ≤ pos) (hfull : laneSlots j e ≤ (x.frags.filter (Frag.inLane j bench pos)).length) :
    x.add j e bench pos row grad bad =
      { x with
        frags := x.frags.map (fun f => if f = v then { f with acc := [], spilled := some (x.nextSpill j bench pos) } else f) ++ [Frag.started j e bench pos row grad bad]
        spills := x.spills ++ [(x.nextSpill j bench pos, v)]
        counts := x.counts.filter (fun c => !(c.1 == bench && c.2.1 == laneOf j pos)) ++ [(bench, laneOf j pos, x.nextSpill j bench pos + 1)] } := by
  have hfind := Scat.find?_row_none (fun f hf hl => (h f hf hl).1)
  have hlow : (x.frags.filter (Frag.inLane j bench pos)).foldl (fun m f => min m f.lastPos) pos = v.lastPos :=
    foldl_min_lastPos (.inl (List.mem_filter.2 ⟨hv, hlane⟩)) hpos fun f hf => (h f (List.mem_filter.1 hf).1 (List.mem_filter.1 hf).2).2.1
  have hiff (f : Frag) (hf : f ∈ x.frags) : (f.inLane j bench pos && f.lastPos == v.lastPos) = true ↔ f = v := by
    rw [Bool.and_eq_true, beq_iff_eq]
    exact ⟨fun ⟨hl, hp⟩ => (h f hf hl).2.2 hp, fun he => by rw [he]; exact ⟨hlane, rfl⟩⟩
  have hfirst : x.frags.find? (fun f => f.inLane j bench pos && f.lastPos == v.lastPos) = some v := by
    cases hfirst : x.frags.find? (fun f => f.inLane j bench pos && f.lastPos == v.lastPos) with
    | none => exact absurd ((hiff v hv).2 rfl) (List.find?_eq_none.1 hfirst v hv)
    | some f => exact congrArg some ((hiff f (List.mem_of_find?_eq_some hfirst)).1
      (List.find?_some (p := fun f : Frag => f.inLane j bench pos && f.lastPos == v.lastPos) hfirst))
  have hmap (g : Frag → Frag) : x.frags.map (fun f => if f.inLane j bench pos && f.lastPos == v.lastPos then g f else f) =
      x.frags.map (fun f => if f = v then g f else f) :=
    List.map_congr_left fun f hf => if_congr (hiff f hf) rfl rfl
  have hno : ¬ (x.frags.filter (Frag.inLane j bench pos)).length < laneSlots j e := by omega
  have hmap' := hmap (fun f => { f with acc := [], spilled := some (x.nextSpill j bench pos) })
  rw [← hmap']
  unfold Frag.inLane at hno hlow hfirst ⊢
  unfold Scat.add
  simp only [hfind, hno, if_false, hlow, hfirst]
  rfl

end

/-! The scatter of a tile goes a position at a time. -/

section
variable {s : State} {o : Order} {b : Binding} {j : Jig} {tile : Tile} {first k : Nat}

theorem State.scatter_outside (h : b.rowCount ≤ tile.elems.getD k 0) : s.scatter o b j tile first (k + 1) =
    { s.scatter o b j tile first k with defaults := (s.scatter o b j tile first k).defaults + 1 } := by
  unfold State.scatter
  rw [List.range_succ, List.foldl_append]
  exact if_pos h

theorem State.scatter_inside (h : tile.elems.getD k 0 < b.rowCount) {g : Nat} {bad : Bool}
    (hread : s.pieceBytes (.tile o.id tile.t) (tile.pieces (o.source false (first + k)) (o.gradBytes b)) = some (g, bad)) :
    s.scatter o b j tile first (k + 1) = (s.scatter o b j tile first k).add j b.elems tile.bench (first + k) (tile.elems.getD k 0)
      ((List.range b.elems).map (fun i => elemF32 (o.f 44 1) (elemCode (o.f 44 1) g i))) bad := by
  unfold State.scatter
  rw [List.range_succ, List.foldl_append]
  refine (if_neg (by omega)).trans ?_
  rw [hread]

end

/-! ### The tile of a SCATTER_MERGE or APPEND_ROWS -/

section
variable {s u : State} {o : Order} {b : Binding} {t first len pos : Nat} {tile : Tile} (ho : s.order? o.id = some o) (hstatus : o.status = none)
  (hphase : o.phase = .running) (hb : o.binding = some b) (htile : o.tile? t = some tile) (hspan : o.tileSpan t = some (first, len, pos))
  (hdel : tile.delivered = true) (hwork : tile.worked = false) (hturn : s.benchTurn o t = true)
include ho hstatus hphase hb htile hspan hdel hwork hturn

theorem State.scatterTile_scatters {j : Jig} {t2 : Tile} (hname : o.name = some .scatter) (hjig : o.jig = some j) (hfault : o.faultAt t = false)
    (hpages : s.needPages o.id tile ((s.scatter o b j tile first len).spills.map (fun y =>
      { ea := spillAt j (o.spill.getD ⟨0, 0⟩) b.elems y.2.bench y.2.lane y.1, len := spillBytes b.elems, write := true, kind := 6 })) = (u, t2, .ok)) :
    s.scatterTile o.id t = u.scattered o.id o b j t2 len (s.scatter o b j tile first len) := by
  simp only [State.scatterTile, ho, hstatus, hphase, hb, htile, hspan, hdel, hwork, hturn, hname, hjig, hfault, hpages, bne_self_eq_false,
    Option.isSome_none, Bool.or_self, Bool.not_true, Bool.false_eq_true, if_false]

/-- Enter and read the rows of a tile in each table in turn, as far as they go. -/
def State.prepTables (s : State) (o : Order) (tile : Tile) (tables : List AppendTo) : State × Need :=
  tables.foldl (fun (st : State × Need) x => if st.2 = .stop then st else
    ((st.1.prepRows o.id tile x.bind x.no x.map (tile.slots.filter (fun r => r.aux == x.aux)) false).1,
      if (st.1.prepRows o.id tile x.bind x.no x.map (tile.slots.filter (fun r => r.aux == x.aux)) false).2 = .ok then st.2
      else (st.1.prepRows o.id tile x.bind x.no x.map (tile.slots.filter (fun r => r.aux == x.aux)) false).2)) (s, .ok)

theorem State.appendTile_writes (hname : o.name = some .append) (hread : s.mayReadRows o = true)
    (hprep : s.prepTables o tile (s.appendTables o b) = (u, .ok)) :
    s.appendTile o.id t = u.appendWrite o.id o tile first len (s.appendTables o b) := by
  have hshape : s.appendTile o.id t = if (s.prepTables o tile (s.appendTables o b)).2 = .ok
      then (s.prepTables o tile (s.appendTables o b)).1.appendWrite o.id o tile first len (s.appendTables o b) else (s.prepTables o tile (s.appendTables o b)).1 := by
    simp only [State.appendTile, ho, hstatus, hphase, hb, htile, hspan, hdel, hwork, hturn, hname, hread, bne_self_eq_false,
      Option.isSome_none, Bool.or_self, Bool.not_true, Bool.false_eq_true, if_false]
    rfl
  rw [hshape, hprep]
  rfl

end

/-! ### The merge point (R252, R254) -/

section
variable {s : State} {o : Order} {j : Jig} (ho : s.order? o.id = some o) (hname : o.name = some .scatter) (hstatus : o.status = none)
  (hphase : o.phase = .running) (hjig : o.jig = some j) (hkept : s.resetting o.p = false)
include ho hname hstatus hphase hjig hkept

omit hjig in
theorem State.mergePoint_waits (h : o.watermark < o.tileCount ∨ s.mayReadRows o = false) : s.mergePoint o.id = s := by
  have hwait : (decide (o.watermark < o.tileCount) || !s.mayReadRows o) = true := by simpa using h
  simp only [State.mergePoint, ho, hname, hstatus, hphase, hkept, hwait, bne_self_eq_false, Option.isSome_none, Bool.or_self, Bool.false_eq_true,
    if_false, if_true]

variable (htiles : o.tileCount ≤ o.watermark) (hread : s.mayReadRows o = true) {next : List Nat}
  (hnext : ((setBits j.benchMask).filterMap (fun b => o.rowsLeft.find? (fun r => rowOwner j r == b))).filter (fun r => !o.mergeHeld.any (fun x => x.1 == r)) = next)
include htiles hread hnext

/-- One row of a merge, unless one is applied already or the order has ended. -/
def mergeOne (i : Nat) (st : State × Bool) (r : Nat) : State × Bool :=
  if st.2 then st else
    match st.1.order? i with
    | some o => if o.status.isSome then st else st.1.mergeRow i r
    | none => st

theorem State.mergePoint_merges : s.mergePoint o.id = (next.foldl (mergeOne o.id) (s.upOrder o.id (fun o => { o with merging := true }), false)).1 := by
  have hgo : (decide (o.watermark < o.tileCount) || !s.mayReadRows o) = false := by simp [htiles, hread]
  subst hnext
  simp only [State.mergePoint, ho, hname, hstatus, hphase, hkept, hjig, hgo, bne_self_eq_false, Option.isSome_none, Bool.or_self, Bool.false_eq_true, if_false]
  rfl

omit hname hphase hjig hkept htiles hread hnext in
theorem mergeOne_first (r : Nat) : mergeOne o.id (s.upOrder o.id (fun o => { o with merging := true }), false) r =
    (s.upOrder o.id (fun o => { o with merging := true })).mergeRow o.id r := by
  have h := order?_upOrder_self s o.id (fun o => { o with merging := true }) (fun _ h => h)
  rw [ho, Option.map_some] at h
  simp only [mergeOne, h, hstatus, Option.isSome_none, Bool.false_eq_true, if_false]

end

theorem mergeOne_rest (i : Nat) {st : State × Bool} (h : st.2 = true) (l : List Nat) : l.foldl (mergeOne i) st = st := by
  induction l with
  | nil => rfl
  | cons r l ih => rw [List.foldl_cons, show mergeOne i st r = st from if_pos h, ih]

/-! ### Write combining (R263) -/

section
variable {s : State} {b : Nat} {e : WcEnt}

/-- The write that a combined write becomes. -/
def WcEnt.sent (e : WcEnt) (id b : Nat) : WriteReq :=
  { id := id, own := e.owns.headD (.restore e.part), also := e.owns.tail, face := e.face, line := e.line, mask := e.mask, bytes := e.bytes, part := e.part,
    bench := some b, space := e.space }

theorem State.issueLine_sends {owns : List WriteFor} {p line : Nat} {via : Via} {mask : BitVec 128} {bytes : Line}
    (h : owns.any WriteFor.isRow = false ∨ s.badCopy p line = false) : s.issueLine owns p via line mask bytes false = s.sendLine owns p via line mask bytes false := by
  unfold State.issueLine
  refine if_neg fun hc => ?_
  obtain ⟨hrow, hbad⟩ := Bool.and_eq_true_iff.1 hc
  obtain ⟨w, hw, hrow⟩ := List.any_eq_true.1 (Bool.and_eq_true_iff.1 hrow).2
  obtain h | h := h
  · refine List.any_eq_false.1 h w hw ?_
    cases w with
    | rowOf => rfl
    | _ => cases hrow
  · rw [h] at hbad
    cases hbad

theorem State.flushEntry_plain (h : e.owns.any WriteFor.isRow = false) : s.flushEntry b e =
    { (s.upBench b (fun x => { x with wc := x.wc.erase e })).fresh with writes := s.writes ++ [e.sent s.nextId b] } := by
  unfold State.flushEntry
  dsimp only
  rw [State.issueLine_sends (.inl h)]
  unfold State.sendLine
  dsimp only
  rw [h]
  rfl

/-- What an update keeps of every bench shows after it too. -/
theorem State.bench_upBench_keeps {α : Type} (π : Bench → α) {s : State} {c : Nat} {g : Bench → Bench} (h : ∀ x, π (g x) = π x) (i : Nat) :
    π ((s.upBench c g).bench i) = π (s.bench i) := by
  show π ((s.benches.modify c g).getD i {}) = π (s.benches.getD i {})
  simp only [List.getD_eq_getElem?_getD, List.getElem?_modify]
  cases s.benches[i]? with
  | none => rfl
  | some x => by_cases hc : c = i <;> simp [hc, h]

/-- A combined write leaves its buffer. -/
theorem State.wc_erased (s : State) (b : Nat) (e : WcEnt) : ((s.upBench b (fun x => { x with wc := x.wc.erase e })).bench b).wc = (s.bench b).wc.erase e := by
  by_cases hb : b < s.benches.length
  · rw [State.bench_upBench_same s b _ hb]
  · have hnone : s.bench b = {} := by
      show s.benches.getD b {} = {}
      rw [List.getD_eq_getElem?_getD, List.getElem?_eq_none (by omega)]
      rfl
    have hself : s.upBench b (fun x => { x with wc := x.wc.erase e }) = s := by
      unfold State.upBench
      rw [List.modify_eq_self (Nat.le_of_not_lt hb)]
    rw [hself, hnone]
    rfl

theorem State.badCopy_wc (p line : Nat) : (s.upBench b (fun x => { x with wc := x.wc.erase e })).badCopy p line = s.badCopy p line := by
  have hchest (i : Nat) := State.bench_upBench_keeps Bench.chest (s := s) (c := b) (g := fun x => { x with wc := x.wc.erase e }) (fun _ => rfl) i
  have hsaucer (i : Nat) := State.bench_upBench_keeps Bench.saucer (s := s) (c := b) (g := fun x => { x with wc := x.wc.erase e }) (fun _ => rfl) i
  unfold State.badCopy
  simp only [hchest, hsaucer]
  rfl

/-- A row write that is sent is the last of the writes; the copies that it updates hold no combined write otherwise. -/
theorem State.updateCopies_keeps (l : List Nat) (s : State) (p line id : Nat) (mask : BitVec 128) (bytes : Line) :
    let t := l.foldl (fun s b => if s.serves p b then s.upBench b (fun x => x.update line mask bytes id) else s) s
    t.writes = s.writes ∧ ∀ i, (t.bench i).wc = (s.bench i).wc := by
  induction l generalizing s with
  | nil => exact ⟨rfl, fun _ => rfl⟩
  | cons c l ih =>
    obtain ⟨hwrites, hwc⟩ := ih (if s.serves p c then s.upBench c (fun x => x.update line mask bytes id) else s)
    refine ⟨hwrites.trans ?_, fun i => (hwc i).trans ?_⟩
    · split <;> rfl
    · split
      · exact State.bench_upBench_keeps Bench.wc (g := fun x => x.update line mask bytes id) (fun _ => rfl) i
      · rfl

theorem State.flushEntry_row (hrow : e.owns.any WriteFor.isRow = true) (hbad : s.badCopy e.part e.line = false) :
    (s.flushEntry b e).writes = s.writes ++ [e.sent s.nextId b] ∧ ((s.flushEntry b e).bench b).wc = (s.bench b).wc.erase e := by
  unfold State.flushEntry
  dsimp only
  rw [State.issueLine_sends (.inr (by rw [State.badCopy_wc, hbad]))]
  unfold State.sendLine
  simp only [hrow, Bool.true_or, if_true, Bool.false_eq_true, if_false]
  obtain ⟨hwrites, hwc⟩ := State.updateCopies_keeps
    ((((s.upBench b (fun x => { x with wc := x.wc.erase e })).postLine (e.owns.headD (.restore e.part)) e.part e.face e.line e.mask e.bytes false none e.space e.owns.tail (some b))).partBenches e.part)
    (State.passReads (((s.upBench b (fun x => { x with wc := x.wc.erase e })).postLine (e.owns.headD (.restore e.part)) e.part e.face e.line e.mask e.bytes false none e.space e.owns.tail (some b)))
      e.part e.line ⟨e.line, e.mask, e.bytes, false, s.nextId⟩) e.part e.line s.nextId e.mask e.bytes
  exact ⟨hwrites, (hwc b).trans (s.wc_erased b e)⟩

theorem WcEnt.sent_owners (h : e.owns ≠ []) (id : Nat) : (e.sent id b).owners = e.owns := by
  obtain ⟨w, ws, hw⟩ := List.exists_cons_of_ne_nil h
  unfold WcEnt.sent WriteReq.owners
  rw [hw]
  rfl

end

/-! ### The scatter of a tile stored (R244 to R249) -/

section
variable {s : State} {o : Order}

theorem State.writeStraight_orders (s : State) (b : Option Nat) (p epoch i : Nat) (ps : List (Nat × Nat)) (v : Nat) (space : Option Space) :
    (s.writeStraight b p epoch (.order i) ps v space).orders = s.orders := by
  unfold State.writeStraight
  generalize pieceWrites ps v = l
  induction l generalizing s with
  | nil => rfl
  | cons x l ih =>
    rw [List.foldl_cons, ih, State.issueLine_sends (.inl rfl)]
    rfl

theorem State.spillsWritten_orders (l : List (Nat × Frag)) (s : State) (p epoch i : Nat) (ps : Nat × Frag → List (Nat × Nat)) (v : Nat × Frag → Nat) (space : Option Space) :
    (l.foldl (fun s y => s.writeStraight (some y.2.bench) p epoch (.order i) (ps y) (v y) space) s).orders = s.orders := by
  induction l generalizing s with
  | nil => rfl
  | cons y l ih => rw [List.foldl_cons, ih, State.writeStraight_orders]

theorem State.scattered_eq (ho : s.order? o.id = some o) (b : Binding) (j : Jig) (tile : Tile) (len : Nat) (x : Scat) :
    ∃ u : State, u.order? o.id = some { o with defaults := o.defaults + x.defaults } ∧ s.scattered o.id o b j tile len x =
      (u.upOrder o.id (fun z => { z.setTile { tile with worked := true } with frags := x.frags, spills := x.counts, count := z.count + len })).dropHeld (.tile o.id tile.t) := by
  refine ⟨_, ?_, rfl⟩
  have hspills := State.spillsWritten_orders x.spills s o.p tile.epoch o.id
    (fun y => tile.pieces (spillAt j (o.spill.getD ⟨0, 0⟩) b.elems y.2.bench y.2.lane y.1) (spillBytes b.elems)) (fun y => spillRecord y.2 y.1)
    (tile.under (o.spill.getD ⟨0, 0⟩).base)
  have hcount := State.order?_countDefaults ((x.spills.foldl (fun s y => s.writeStraight (some y.2.bench) o.p tile.epoch (.order o.id)
    (tile.pieces (spillAt j (o.spill.getD ⟨0, 0⟩) b.elems y.2.bench y.2.lane y.1) (spillBytes b.elems)) (spillRecord y.2 y.1)
    (tile.under (o.spill.getD ⟨0, 0⟩).base)) s).countBind o.p o.bindNo 8 x.spills.length) o.id x.defaults
  refine hcount.trans ?_
  unfold State.order? at ho ⊢
  refine (congrArg (fun l : List Order => (l.find? (fun x => x.id == o.id)).map (fun o => { o with defaults := o.defaults + x.defaults })) hspills).trans ?_
  rw [ho]
  rfl

end

/-! ### The merge of a row (R252 to R260) -/

section
variable {s u : State} {o : Order} {b : Binding} {j : Jig} {r : Nat} (ho : s.order? o.id = some o) (hb : o.binding = some b) (hjig : o.jig = some j)
include ho hb hjig

theorem State.mergeRow_unentered (henter : s.mergeEnter o.id o b j r = (u, none)) : s.mergeRow o.id r = (u, false) := by
  simp only [State.mergeRow, ho, hb, hjig, henter]

variable {y : Entered} (henter : s.mergeEnter o.id o b j r = (u, some y)) {x : Entered} (hx : (⟨y.tile, u.rowNow o y.tile b y.row⟩ : Entered) = x)
include henter hx

theorem State.mergeRow_busy (hbusy : u.slotWriting o.id x.row.slot = true ∨ u.rowReadsOn o.p x.row.slot = true) : s.mergeRow o.id r = (u, false) := by
  subst hx
  have hopen : (u.slotWriting o.id (u.rowNow o y.tile b y.row).slot || u.rowReadsOn o.p (u.rowNow o y.tile b y.row).slot) = true := by simpa using hbusy
  simp only [State.mergeRow, ho, hb, hjig, henter, hopen, if_true]

/-- The tile of a row stands with what has been translated for it. -/
def State.keepMerge (s : State) (o : Order) (r : Nat) (t : Tile) : State :=
  s.upOrder o.id (fun z => { z with mergeTiles := z.mergeTiles.map (fun y => if y.1 = r then (r, t) else y) })

theorem State.mergeRow_applies (hw : u.slotWriting o.id x.row.slot = false) (hr : u.rowReadsOn o.p x.row.slot = false) {v w z q : State} {t : Tile}
    (hrow : u.readRow o x.tile b o.bindNo (u.mapFor o.p b o.smap) x.row true = (v, .ok))
    (hspills : v.readSpills o.id o j (o.spill.getD ⟨0, 0⟩) b.elems x (((setBits j.benchMask).map (fun x => o.fragsOf x r)).flatten.filter (fun f => f.spilled.isSome)) = (w, t, .ok))
    (hstate : w.needLines (.upd o.id x.row.slot) o.p { bench := some t.bench, epoch := t.epoch, age := t.born, space := fun _ => t.under b.stateBase }
      (if b.update = 3 then pieceLines (t.pieces (b.stateAt r) 4) else []) = (z, .ok))
    (hmig : z.migReady o.p b r = (q, true)) : s.mergeRow o.id r =
      (((q.keepMerge o r t).mergeApply o.id o b j ⟨t, x.row⟩
        (((setBits j.benchMask).map (fun x => o.fragsOf x r)).map (fun l => l.map (q.readFrag (.upd o.id x.row.slot) t j (o.spill.getD ⟨0, 0⟩) b.elems)))).settle o.id, true) := by
  subst hx
  have hopen : (u.slotWriting o.id (u.rowNow o y.tile b y.row).slot || u.rowReadsOn o.p (u.rowNow o y.tile b y.row).slot) = false := by simp [hw, hr]
  have hok : (Need.ok ≠ Need.ok) = False := by simp
  simp only [State.mergeRow, ho, hb, hjig, henter, hopen, hrow, hspills, hstate, hmig, hok, Bool.false_eq_true, if_false, decide_false, Bool.or_self]
  rfl

end

/-! ### Applying a row (R253 to R260, R265) -/

section
variable {s : State} {o : Order} {b : Binding} {j : Jig} {x : Entered} {lists : List (List Frag)} {payload tr : Nat} {bad : Bool}
  (hdata : s.rowData (.upd o.id x.row.slot) x.tile b x.row = some (payload, tr, bad))
include hdata

theorem State.mergeApply_poisoned (hbad : (bad || trPoisoned tr) = true) : s.mergeApply o.id o b j x lists =
    ((((s.countBind o.p o.bindNo 11 1).upInts (fun i => { i with poisonRead := satAdd i.poisonRead (b2n (!bad)) 0xFFFF })).untrackDone o.p o.id o.bindNo x.row.row).endOrder
      o.id 0x10 x.row.row) := by
  unfold State.mergeApply
  simp only [hdata, Option.getD_some, hbad, if_true]

variable (hgood : (bad || trPoisoned tr) = false)
include hgood

theorem State.mergeApply_fails (hmark : markGood b payload tr = false) : s.mergeApply o.id o b j x lists =
    ((s.witnessBad (some o) o.p o.bindNo x.row.slot).untrackDone o.p o.id o.bindNo x.row.row).endOrder o.id 0x11 x.row.row := by
  unfold State.mergeApply
  simp only [hdata, Option.getD_some, hgood, hmark, Bool.not_false, Bool.false_eq_true, if_false, if_true]

variable (hmark : markGood b payload tr = true)
include hmark

theorem State.mergeApply_badState (hrule : b.update = 3) {v : Nat}
    (hstate : s.pieceBytes (.upd o.id x.row.slot) (x.tile.pieces (b.stateAt x.row.row) 4) = some (v, true)) :
    s.mergeApply o.id o b j x lists = (s.untrackDone o.p o.id o.bindNo x.row.row).endOrder o.id 0x10 x.row.row := by
  unfold State.mergeApply
  simp only [hdata, Option.getD_some, hgood, hmark, hrule, hstate, Bool.not_true, Bool.false_eq_true, if_false, if_true]

variable (hrule : b.update ≠ 3) (hstruck : o.struck = []) {places : List RowAt} {mig : Bool} (htargets : s.rowTargets o.p b x.row tr = (places, mig))
include hrule hstruck htargets

theorem State.mergeApply_badFragment (hfrag : lists.flatten.any Frag.poisoned = true) : s.mergeApply o.id o b j x lists =
    ((s.putRow o.id o.p o.bindNo b (s.mapFor o.p b o.smap) x.tile x.row.row places payload
      (trailerOf (trWitness tr) (trVersion tr) true (trDefault tr) (trMigrating tr)) true []).rowPoisoned o.p o.bindNo x.row.row x.row.slot).endOrder o.id 0x10 x.row.row := by
  have hclean : lists.flatten.find? (fun f => f.bench != x.tile.bench && o.struck.contains (f.bench, x.row.row)) = none := by simp [hstruck]
  unfold State.mergeApply
  simp only [hdata, Option.getD_some, hgood, hmark, hrule, hclean, htargets, hfrag, Bool.not_true, Bool.false_eq_true, if_false, if_true]

/-- The elements of an updated row as they are written. -/
def newElems (b : Binding) (payload : Nat) (lists : List (List Frag)) : List OutElem :=
  (applyRule b ((b.codes payload).map (elemF32 b.fmt)) (mergeGrad b.elems lists) 0).1.map (fun y => outF b.fmt y (finiteNonzero y))

/-- The number of the output tile of a merge that takes the elements of the next row of an owner (R328). -/
def Order.mergeNum (o : Order) (j : Jig) (owner : Nat) : Nat := rankOf j.benchMask owner * 65536 + ((o.merged.filter (fun r => rowOwner j r == owner)).length) / 256

theorem State.mergeApply_updates (hfrag : lists.flatten.any Frag.poisoned = false) {p2 : Nat}
    (hp2 : packCodes (elemBits b.fmt) ((newElems b payload lists).map OutElem.code) = p2) : s.mergeApply o.id o b j x lists =
    ((((s.putRow o.id o.p o.bindNo b (s.mapFor o.p b o.smap) x.tile x.row.row places p2
      (trailerOf (rowWitness p2 b.rowBytes b.tableId) (trVersion tr + 1) false false mig) true []).countBind o.p o.bindNo 7 1).upOrder o.id (fun z =>
        { z.addTile (o.mergeNum j x.tile.bench) b.fmt (newElems b payload lists) with
          merged := z.merged ++ [x.row.row]
          mergeTiles := z.mergeTiles.filter (fun y => y.1 != x.row.row) })).quitUpd o.id (· == x.row.slot)).checkBehind o.id (o.mergeNum j x.tile.bench)
      (fun _ t => t / 65536 == o.mergeNum j x.tile.bench / 65536) := by
  have hclean : lists.flatten.find? (fun f => f.bench != x.tile.bench && o.struck.contains (f.bench, x.row.row)) = none := by simp [hstruck]
  subst hp2
  unfold State.mergeApply
  simp only [hdata, Option.getD_some, hgood, hmark, hrule, hclean, htargets, hfrag, Bool.not_true, Bool.false_eq_true, if_false]
  rfl

end

/-! ### An append (R114, R261) -/

theorem find?_range_getD {p : Nat → Bool} {len k : Nat} (hk : k ≤ len) (hbefore : ∀ i < k, p i = false) (hat : k < len → p k = true) :
    ((List.range len).find? p).getD len = k := by
  obtain rfl | hlt := hk.eq_or_lt
  · rw [List.find?_eq_none.2 (fun i hi => by rw [hbefore i (List.mem_range.1 hi)]; decide)]
    rfl
  · have h : (List.range len).find? p = some k := List.find?_range_eq_some.2 ⟨hat hlt, List.mem_range.2 hlt, fun i hi => by simp [hbefore i hi]⟩
    rw [h]
    rfl

section
variable {s : State} {o : Order} {tile : Tile} {first len k : Nat} {tables : List AppendTo}

/-- The source row of a position of an append, with its poison. -/
def State.appendRow (s : State) (o : Order) (tile : Tile) (first : Nat) (x : AppendTo) (i : Nat) : Option (Nat × Bool) :=
  s.pieceBytes (.tile o.id tile.t) (tile.pieces (o.source x.aux (first + i)) x.bind.rowBytes)

/-- A position of an append that has a row missing or poisoned. -/
def State.appendBad (s : State) (o : Order) (tile : Tile) (first : Nat) (tables : List AppendTo) (i : Nat) : Bool :=
  tables.any (fun x => match s.appendRow o tile first x i with | some (_, p) => p | none => true)

theorem State.appendBad_before (h : ∀ x ∈ tables, ∃ v, s.appendRow o tile first x k = some (v, false)) : s.appendBad o tile first tables k = false := by
  refine List.any_eq_false.2 fun x hx => ?_
  obtain ⟨v, hv⟩ := h x hx
  rw [hv]
  exact Bool.false_ne_true

theorem State.appendBad_at (h : ∃ x ∈ tables, s.appendRow o tile first x k = none ∨ ∃ v, s.appendRow o tile first x k = some (v, true)) :
    s.appendBad o tile first tables k = true := by
  obtain ⟨x, hx, hrow⟩ := h
  refine List.any_eq_true.2 ⟨x, hx, ?_⟩
  obtain hrow | ⟨v, hrow⟩ := hrow <;> rw [hrow]

/-- The first rows of a tile written to each table after the rows that it has. -/
def State.appended (s : State) (o : Order) (tile : Tile) (first k : Nat) (tables : List AppendTo) : State :=
  tables.foldl (fun u x => u.putRows o.id tile x.bind x.no x.map ((((tile.slots.filter (fun r => r.aux == x.aux)).zipIdx).take k).map
    (fun y => (y.1, ((s.appendRow o tile first x y.2).map Prod.fst).getD 0))) true) s

/-- The tile of an append done with. -/
def State.appendClosed (u : State) (o : Order) (tile : Tile) (k : Nat) (tables : List AppendTo) : State :=
  (((u.setTile o.id { tile with worked := true }).upOrder o.id (fun z => { z with count := z.count + k })).dropHeld (.tile o.id tile.t)).quitUpd o.id
    (fun slot => tables.any (fun x => tile.slots.any (fun r => (r.readPlaces x.bind o.jig).any (fun y => y.slot == slot))))

theorem State.appendWrite_upto (hk : k ≤ len) (hbefore : ∀ i < k, ∀ x ∈ tables, ∃ v, s.appendRow o tile first x i = some (v, false))
    (hat : k < len → ∃ x ∈ tables, s.appendRow o tile first x k = none ∨ ∃ v, s.appendRow o tile first x k = some (v, true)) :
    s.appendWrite o.id o tile first len tables =
      (if k < len then ((s.appended o tile first k tables).appendClosed o tile k tables).endOrder o.id 0x10 (first + k)
        else (s.appended o tile first k tables).appendClosed o tile k tables).settle o.id := by
  have hfirst := find?_range_getD hk (fun i hi => State.appendBad_before (hbefore i hi)) (fun hlt => State.appendBad_at (hat hlt))
  have hshape : s.appendWrite o.id o tile first len tables = (fun n =>
      (if n < len then ((s.appended o tile first n tables).appendClosed o tile n tables).endOrder o.id 0x10 (first + n)
        else (s.appended o tile first n tables).appendClosed o tile n tables).settle o.id)
      (((List.range len).find? (s.appendBad o tile first tables)).getD len) := rfl
  rw [hshape, hfirst]

end

/-! ### The update rules (R256) -/

section
variable {b : Binding} {x g : List F32} {a : F32}

theorem applyRule_add (h : b.update = 1) : applyRule b x g a = (List.zipWith fadd x g, a) := by
  unfold applyRule
  rw [h]
  rfl

theorem applyRule_descend (h : b.update = 2) : applyRule b x g a = (List.zipWith (fun v y => ffma (fneg b.learnRate) y v) x g, a) := by
  unfold applyRule
  rw [h]
  rfl

/-- The new state entry of a row under rule 3. -/
def ruleState (b : Binding) (g : List F32) (a : F32) : F32 := fadd a (fdiv (g.foldl (fun s y => ffma y y s) f32zero) (f32ofNat b.elems))

theorem applyRule_adapt (h : b.update = 3) : applyRule b x g a =
    (List.zipWith (fun v y => ffma (fneg (fdiv b.learnRate (fadd (fsqrt (ruleState b g a)) b.epsilon))) y v) x g, ruleState b g a) := by
  unfold applyRule
  rw [h]
  rfl

end

theorem State.wcFlush_first {s : State} {b : Nat} {e : WcEnt} {l : List WcEnt} (h : (s.bench b).wc = e :: l) : s.wcFlush b = s.flushEntry b e := by
  unfold State.wcFlush
  rw [h]
  rfl

theorem State.wcFlush_empty {s : State} {b : Nat} (h : (s.bench b).wc = []) : s.wcFlush b = s := by
  unfold State.wcFlush
  rw [h]
  rfl

end Sys2Proof.Machine

open Sys2Proof Sys2Proof.Machine

/-- Settles O53: a scatter takes its positions into lanes and spills the fragment added to longest ago; a merge point applies the first
row that may go, which ends the order where the row, its state entry or a fragment is bad and is updated by the rule otherwise; an
append writes up to its first bad row; and the oldest combined write of a bench leaves whole. -/
theorem glueUpWorksItsTiles : Obligations.GlueUpWorksItsTiles := by
  unfold Obligations.GlueUpWorksItsTiles
  intro s o ho
  have hscatter (t : Nat) : exec (.scatterMerge o.id t) s = .next (pump (s.scatterTile o.id t)) := rfl
  have happend (t : Nat) : exec (.appendRows o.id t) s = .next (pump (s.appendTile o.id t)) := rfl
  have hmerge : exec (.mergePoint o.id) s = .next (pump (s.mergePoint o.id).suspects) := rfl
  have hflush (b : Nat) : exec (.wcFlush b) s = .next (pump (s.wcFlush b)) := rfl
  refine ⟨fun b t tile first len pos hstatus hphase hb htile hspan hdel hwork hturn => ⟨fun j v t2 hname hjig hfault hpages => ?_, fun u hname hread hprep => ?_⟩,
    fun j hname hstatus hphase hjig hkept => ?_, fun b e l hwc => ?_, fun b hwc => ?_, fun b e _ hplain => State.flushEntry_plain hplain,
    fun b e howns hrow hbad => ?_, fun x j e bench pos row grad bad => ?_, fun b j tile first => ⟨rfl, rfl, rfl, fun k => ?_⟩,
    fun b j tile len x => State.scattered_eq ho b j tile len x, fun b j r u hb hjig => ?_, fun b j x lists payload tr bad hdata => ?_,
    fun b x g a => ⟨applyRule_add, applyRule_descend, fun h => ⟨ruleState b g a, rfl, applyRule_adapt h⟩⟩, fun tile first len tables => ?_⟩
  · rw [hscatter, State.scatterTile_scatters ho hstatus hphase hb htile hspan hdel hwork hturn hname hjig hfault hpages]
  · rw [happend, State.appendTile_writes ho hstatus hphase hb htile hspan hdel hwork hturn hname hread hprep]
  · intro next
    refine ⟨fun hwait => ?_, fun htiles hread hnext => ?_, fun r l htiles hread hnext => ?_⟩
    · rw [hmerge, State.mergePoint_waits ho hname hstatus hphase hkept hwait]
    · rw [hmerge, State.mergePoint_merges ho hname hstatus hphase hjig hkept htiles hread hnext]
      rfl
    · have hfirst := State.mergePoint_merges ho hname hstatus hphase hjig hkept htiles hread hnext
      rw [List.foldl_cons, mergeOne_first ho hstatus] at hfirst
      refine ⟨fun hdone => ?_, fun _ hl => ?_⟩
      · rw [hmerge, hfirst, mergeOne_rest o.id hdone]
      · rw [hmerge, hfirst, hl, List.foldl_nil]
  · rw [hflush, State.wcFlush_first hwc]
  · rw [hflush, State.wcFlush_empty hwc]
  · obtain ⟨hwrites, hleft⟩ := State.flushEntry_row (s := s) (b := b) hrow hbad
    exact ⟨e.sent s.nextId b, WcEnt.sent_owners howns _, rfl, rfl, rfl, rfl, rfl, rfl, rfl, hwrites, hleft⟩
  · intro here fresh
    refine ⟨Scat.add_joins, Scat.add_starts, fun v hlane hv hhere hpos hfull => ⟨x.nextSpill j bench pos, rfl, ?_⟩⟩
    rw [Scat.add_spills hlane hv hhere hpos hfull]
    exact ⟨rfl, rfl, rfl⟩
  · intro x row
    exact ⟨State.scatter_outside, fun hin g bad => State.scatter_inside hin⟩
  · intro sp lists
    refine ⟨State.mergeRow_unentered ho hb hjig, fun y henter => ?_⟩
    intro x keep
    exact ⟨State.mergeRow_busy ho hb hjig henter rfl, fun hw hr v w z q t => State.mergeRow_applies ho hb hjig henter rfl hw hr⟩
  · intro quit good
    have hclean (h : good) : (bad || trPoisoned tr) = false := by rw [h.1, h.2.1]; rfl
    refine ⟨fun hbad => ?_, fun hrow htr hmark => State.mergeApply_fails hdata (by rw [hrow, htr]; rfl) hmark,
      fun h hrule v hstate => State.mergeApply_badState hdata (hclean h) h.2.2 hrule hstate, fun h hrule hstruck places mig htargets => ?_⟩
    · exact ⟨_, State.mergeApply_poisoned hdata (by simpa using hbad), rfl, rfl⟩
    · intro put
      refine ⟨State.mergeApply_badFragment hdata (hclean h) h.2.2 hrule hstruck htargets, fun hfrag => ?_⟩
      exact ⟨newElems b payload lists, o.mergeNum j x.tile.bench, _, rfl, rfl,
        State.mergeApply_updates hdata (hclean h) h.2.2 hrule hstruck htargets hfrag rfl⟩
  · intro c row k hk hbefore hat
    exact ⟨s.appended o tile first k tables, (s.appended o tile first k tables).appendClosed o tile k tables, rfl, rfl, State.appendWrite_upto hk hbefore hat⟩
end
